-- ==== Sys2Proof/Word.lean ====
section
/-! DEFINITION. The words of the Filuf-3 block: bytes, registers and encoded numbers. -/
namespace Sys2Proof

/-- One byte of memory, of a frame or of a record. -/
abbrev Byte := BitVec 8

/-- A string of bytes, lowest address first (R9). -/
abbrev Bytes := List Byte

/-- The bits of a binary32 number (R59), or of a shorter format in the low bits. -/
abbrev F32 := BitVec 32

/-- A 16-bit flag field of R167, and other 16-bit registers. -/
abbrev U16 := BitVec 16

/-- A 32-bit register. -/
abbrev U32 := BitVec 32

/-- A 64-bit register or counter. -/
abbrev U64 := BitVec 64

/-- `2 ^ n` as a natural number, kept on `Nat.pow` so that it evaluates on numerals. -/
def pow2 (n : Nat) : Nat := Nat.pow 2 n

/-- `2 ^ n` as an integer. -/
def ipow2 (n : Nat) : Int := Int.ofNat (pow2 n)

end Sys2Proof
end

