-- ==== Sys2Proof/Syntax.lean ====
section
/-! DEFINITION. The commands that the block takes: one constructor per row of the table of operations and events. An
opcode row names the ticket whose launched figure the engines run; a management row processes the request that
MGT_SEND latched; every other row is an event at a port, a pin, a clock tick or a check of the block. -/
namespace Sys2Proof

/-- The clock-side channel of a memory response: the command port or a Drift channel (R453). -/
inductive MemChan where
  | cmd
  | drf (n : Fin 4)
  deriving DecidableEq, Repr, Inhabited

/-- The sub-channels that the block sends on (R453). -/
inductive OutSub where
  | cmdDbs
  | cmdRq
  | cmdWd
  | actOut
  | drfRq (n : Fin 4)
  | drfWd (n : Fin 4)
  | reelTx (n : Fin 4)
  | mgtRs
  deriving DecidableEq, Repr, Inhabited

/-- The instruments behind the test wrapper (R467). -/
inductive Instrument where
  | temperature (n : Nat)
  | supply (n : Nat)
  | clockMonitor (n : Nat)
  | bist (n : Nat)
  | repairMaps
  | scanChain (n : Nat)
  deriving DecidableEq, Repr, Inhabited

/-- Where the array was in a command: the set in load order, part-sets included, and the batch (R106, R109). -/
structure ArrayWork where
  set : Nat
  batch : Nat
  deriving DecidableEq, Repr, Inhabited

/-- The command whose sums a check of the array concerned, if any, and where the array was in it (R384). -/
structure ArrayUse where
  ticket : Option Nat
  work : ArrayWork
  deriving DecidableEq, Repr, Inhabited

/-- One of a tile's 32 accumulator banks (R105). -/
structure AccBank where
  tile : Nat
  bank : Nat
  deriving DecidableEq, Repr, Inhabited

/-- The unit whose lockstep copies disagreed (R382): a Rime lane, or the rounding stage of a tile. -/
inductive LaneUnit where
  | lane (n : Nat)
  | rounding (tile : Nat)
  deriving DecidableEq, Repr, Inhabited

/-- What the unit was doing (R384): scoring, with the work whose scores it carried, or another use. -/
inductive LaneUse where
  | scoring (work : ArrayWork)
  | other
  deriving DecidableEq, Repr, Inhabited

/-- The Flurry unit that mismatched (R289): that of a slice, or Moraine's. -/
inductive FlurryUnit where
  | slice (n : Nat)
  | moraine
  deriving DecidableEq, Repr, Inhabited

/-- What the scrub found in the word it read (R151, R148). -/
inductive ScrubFound where
  | good
  | corrected (stillFails : Bool)
  | uncorrectable
  deriving DecidableEq, Repr, Inhabited

/-- The internal path on which a byte-parity error was found (R145, R110, R381). -/
inductive ParityPath where
  | staging (set : Nat)
  | loadPath (set : Nat)
  | splitBuffer (tile row : Nat) (work : ArrayWork)
  | other
  deriving DecidableEq, Repr, Inhabited

/-- The engine memory that held an uncorrectable table word (R388). -/
inductive TableMem where
  | rom
  | overlay
  | micro
  deriving DecidableEq, Repr, Inhabited

/-- A frame that failed its CRC: as it first arrived (resend 0) or on its n-th resend (R300, R301), and whether the parity of
its beats was good (R461). -/
structure BadFrame where
  resend : Nat
  parityOk : Bool
  deriving DecidableEq, Repr, Inhabited

/-- One self-test's findings for a tile: the failing physical rows among 0 to 32 (R393). -/
abbrev FailRows := List Nat

/-- What the tests of R470 found. -/
structure TestReport where
  /-- Failing physical rows of each tile, in tile order. -/
  tiles : List FailRows
  /-- Spare words left in each Firn bank with fewer than 16, as (bank, words left). -/
  spares : List (Nat × Nat)
  /-- A test of R470 other than the Vault's failed (R390 cause 0x03). -/
  failed : Bool
  /-- The failed-test map of R446. -/
  vaultMap : BitVec 32
  deriving DecidableEq, Repr, Inhabited

/-- A frame as it arrived on REELn_RX with a good CRC: the 32-byte header and the payload (R298). -/
structure RxFrame where
  port : Fin 4
  bytes : Bytes
  deriving DecidableEq, Repr, Inhabited

/-- The commands of the block, in the table's order. -/
inductive Instr where
  | nop (ticket : Nat)
  | step (ticket : Nat)
  | score (ticket : Nat)
  | settle (ticket : Nat)
  | verify (ticket : Nat)
  | beam (ticket : Nat)
  | loss (ticket : Nat)
  | grad (ticket : Nat)
  | reduce (ticket : Nat)
  | func (ticket : Nat)
  | fill (ticket : Nat)
  | loadw (ticket : Nat)
  | evictw (ticket : Nat)
  | save (ticket : Nat)
  | restore (ticket : Nat)
  | waitcount (ticket : Nat)
  | fence (ticket : Nat)
  | digest (ticket : Nat)
  | dict (ticket : Nat)
  | halt (ticket : Nat)
  | doorbell (beat : BitVec 64) (parityOk : Bool)
  | commandCompletion (ticket : Nat)
  | checkpointSigned
  | pavaneCountLoad (pav : BitVec 64)
  | pavaneAdvance (pav : BitVec 64)
  | pavaneSlip (pav : BitVec 64)
  | dictionaryAccessRelease
  | frameBoundaryPreemption
  | suspendedFigureResume
  | cellResidueError (tile row col : Nat) (use : ArrayUse)
  | registerParityError (tile row col : Nat) (use : ArrayUse)
  | accumulatorResidueError (bank : AccBank) (use : ArrayUse)
  | accumulatorUncorrectable (bank : AccBank) (use : ArrayUse)
  | laneMismatch (slice : Nat) (unit : LaneUnit) (use : LaneUse) (ticket : Option Nat)
  | moraineMismatch (ticket : Option Nat)
  | flurryMismatch (unit : FlurryUnit) (ticket : Option Nat)
  | sleetParityError (slice : Nat)
  | firnUncorrectableWeight (region set bank : Nat) (ticket : Option Nat)
  | firnUncorrectableWorkArea (region bank : Nat) (ticket : Option Nat)
  | tableMemoryError (slice : Nat) (mem : TableMem) (ticket : Option Nat)
  | tableReloadDone (slice : Nat) (verified : Bool)
  | contextMemoryError (ctx : Nat) (ticket : Option Nat)
  | crossingDatumLate (ticket : Nat)
  | streamedSetCheck (ticket set : Nat)
  | retryEnd (stillFails : Bool)
  | scrubRead (found : ScrubFound)
  | backgroundRereadDone (region set : Nat) (stillFails : Bool)
  | hiddenRow (beats : Bytes) (parityOk : Bool)
  | readResponse (chan : MemChan) (tag : Nat) (data : Bytes) (parityOk : Bool)
  | writeAcknowledgement (chan : MemChan) (tag : Nat) (parityOk : Bool)
  | writeAckTimeout (chan : MemChan) (tag : Nat)
  | hello (f : RxFrame)
  | idle (f : RxFrame)
  | nak (f : RxFrame)
  | exchange (f : RxFrame)
  | check (f : RxFrame)
  | abort (f : RxFrame)
  | helloTimer (port : Fin 4)
  | idleTimer (port : Fin 4)
  | linkReceiveTimeout (port : Fin 4)
  | peerDeadline (ticket : Nat)
  | stallLimit (ticket : Nat)
  | checkDeadline (ticket : Nat)
  | mgtSend (length : BitVec 11) (parityOk : Bool)
  | mgtRelease (parityOk : Bool)
  | mgtClearOverrun (parityOk : Bool)
  | mgtData3Access (write : Option (BitVec 32)) (parityOk : Bool)
  | mgtRegisterWrite (offset : BitVec 8) (value : Option (BitVec 32)) (parityOk : Bool)
  | read
  | write
  | describe
  | downloadBegin
  | downloadData
  | downloadEnd
  | openChallenge
  | openProve
  | close
  | enrol
  | seedImport
  | seedKeyDeferredWrite (part : Nat)
  | auditKey
  | verifyKey
  | zeroise
  | selftest (failed : BitVec 32)
  | sessionIdleTimeout (session : BitVec 32)
  | pendingSessionTimeout (session : BitVec 32)
  | entropySample (sample : Byte) (parityOk : Bool)
  | zeroiseInput
  | tamperInput (cycles : Nat)
  | rstNAssert
  | resetRelease (testMode zeroisePin tamperPin : Bool)
  | selftestEntry
  | selftestComplete (report : TestReport)
  | mgtAdvance
  | readyEntry
  | testWrapperAccess (instrument : Instrument)
  | reelFrameCrcFailure (port : Fin 4) (arrival : BadFrame)
  | byteParityError (path : ParityPath) (ticket : Option Nat)
  | subChannelCredit (sub : OutSub)
  deriving DecidableEq, Repr, Inhabited

end Sys2Proof
end

