-- ==== Sys2Proof/Machine/Bytes.lean ====
section
/-! DEFINITION. Byte strings: little-endian fields (R9), CRC-32C (R129), and list helpers of the whole model. -/
namespace Sys2Proof.Machine

/-- `n` low bytes of `x`, lowest first (R9). -/
def leBytes : Nat → Nat → Bytes
  | 0, _ => []
  | n + 1, x => BitVec.ofNat 8 x :: leBytes n (x / 256)

/-- The little-endian number of a byte string (R9). -/
def leNat : Bytes → Nat
  | [] => 0
  | b :: bs => b.toNat + 256 * leNat bs

/-- `n` bytes of `x`, highest first: the order of SHA-384, HMAC and ECDSA values (R9). -/
def beBytes (n x : Nat) : Bytes := (leBytes n x).reverse

/-- The big-endian number of a byte string. -/
def beNat (bs : Bytes) : Nat := leNat bs.reverse

/-- The `n` bytes of `bs` from offset `o`; bytes beyond the end read as zero. -/
def slice (bs : Bytes) (o n : Nat) : Bytes :=
  let got := (bs.drop o).take n
  got ++ List.replicate (n - got.length) 0

/-- The little-endian field of `n` bytes at offset `o` (R9). -/
def field (bs : Bytes) (o n : Nat) : Nat := leNat (slice bs o n)

/-- The byte at offset `o`, as a number. -/
def byteAt (bs : Bytes) (o : Nat) : Nat := (bs.getD o 0).toNat

/-- Bit `i` of a number. -/
def bitAt (x i : Nat) : Bool := x / pow2 i % 2 == 1

/-- Bits `hi` down to `lo` of a number. -/
def bitsAt (x hi lo : Nat) : Nat := x / pow2 lo % pow2 (hi + 1 - lo)

/-- Every byte of a string is zero. -/
def allZero (bs : Bytes) : Bool := bs.all (· == 0)

/-- The bytes of the half-open range `[lo, hi)` of a string are all zero (a reserved field, R10). -/
def zeroAt (bs : Bytes) (lo hi : Nat) : Bool := allZero (slice bs lo (hi - lo))

/-- `bs` with the bytes from offset `o` replaced by `new`, never longer than `bs`. -/
def overwrite (bs : Bytes) (o : Nat) (new : Bytes) : Bytes :=
  (bs.take o ++ new ++ bs.drop (o + new.length)).take bs.length

/-- `bs` with `n` bytes from offset `o` set to zero (used for placement fields, R332). -/
def zeroOut (bs : Bytes) (o n : Nat) : Bytes := overwrite bs o (List.replicate n 0)

/-- `bs` cut or padded with zeros to exactly `n` bytes. -/
def padTo (n : Nat) (bs : Bytes) : Bytes := slice bs 0 n

/-- The ASCII bytes of a short text, given as its character codes. -/
def ascii (cs : List Nat) : Bytes := cs.map (BitVec.ofNat 8)

/-- A two's-complement number of `n` bits. -/
def signed (n x : Nat) : Int :=
  if x % pow2 n < pow2 (n - 1) then Int.ofNat (x % pow2 n) else Int.ofNat (x % pow2 n) - ipow2 n

/-- The `n`-bit two's-complement pattern of an integer. -/
def unsigned (n : Nat) (i : Int) : Nat := (i % ipow2 n).toNat

/-- One bit step of the reflected CRC-32C (polynomial 0x1EDC6F41, R129). -/
def crcBit (c : Nat) : Nat := if c % 2 = 1 then Nat.xor (c / 2) 0x82F63B78 else c / 2

/-- CRC-32C over one byte (R129). -/
def crcByte (c : Nat) (b : Byte) : Nat :=
  crcBit (crcBit (crcBit (crcBit (crcBit (crcBit (crcBit (crcBit (Nat.xor c b.toNat))))))))

/-- CRC-32C of a byte string: initial value and final XOR all ones (R129). -/
def crc32c (bs : Bytes) : Nat := Nat.xor (bs.foldl crcByte 0xFFFFFFFF) 0xFFFFFFFF

/-- The numbers `0 … n-1`, in order. -/
def upto (n : Nat) : List Nat := List.range n

/-- `⌈a / b⌉`. -/
def ceilDiv (a b : Nat) : Nat := (a + b - 1) / b

/-- Consecutive pieces of `n` entries of a list; the last takes the remainder. The fuel is the list's length. -/
def chunksOf {α : Type} (n : Nat) : Nat → List α → List (List α)
  | 0, _ => []
  | fuel + 1, l => if l.isEmpty then [] else l.take n :: chunksOf n fuel (l.drop n)

/-- Insert in the order `lt`, before the first entry that is not below the new one. -/
def insertBy {α : Type} (lt : α → α → Bool) (a : α) : List α → List α
  | [] => [a]
  | b :: l => if lt b a then b :: insertBy lt a l else a :: b :: l

/-- Sort in the order `lt`, keeping the order of equal entries. -/
def sortBy {α : Type} (lt : α → α → Bool) (l : List α) : List α :=
  l.foldr (insertBy lt) []

/-- Every entry is below its successor in `lt`. -/
def ascendingBy {α : Type} (lt : α → α → Bool) : List α → Bool
  | [] => true
  | [_] => true
  | a :: b :: l => lt a b && ascendingBy lt (b :: l)

/-- The entry `i` of a vector, or the default where `i` is outside it. -/
def vget {α : Type} {n : Nat} [Inhabited α] (v : Vector α n) (i : Nat) : α := v[i]?.getD default

/-- `v` with entry `i` replaced; unchanged where `i` is outside it. -/
def vset {α : Type} {n : Nat} (v : Vector α n) (i : Nat) (a : α) : Vector α n := v.setIfInBounds i a

/-- Change the first entry of a list that a test picks. -/
def modFirst {α : Type} (p : α → Bool) (f : α → α) : List α → List α
  | [] => []
  | x :: l => if p x then f x :: l else x :: modFirst p f l

/-- `v` with entry `i` changed by `f`. -/
def vmod {α : Type} {n : Nat} [Inhabited α] (v : Vector α n) (i : Nat) (f : α → α) : Vector α n :=
  vset v i (f (vget v i))

/-- The sum of a list of numbers. -/
def sumNat (l : List Nat) : Nat := l.foldl (· + ·) 0

/-- The sum of a list of integers. -/
def sumInt (l : List Int) : Int := l.foldl (· + ·) 0

/-- The first entry of a list that is largest by `key`, where the list is not empty. -/
def maxInt (d : Int) (l : List Int) : Int := l.foldl max d

end Sys2Proof.Machine
end

