-- ==== Sys2Proof/Machine/Float.lean ====
section
/-! DEFINITION. Operand and output formats (R59), the rounding procedure (R70, R72, R73, R75, R76), and single binary32
operations of IEEE 754-2019 with their flags (R158, R167). -/
namespace Sys2Proof.Machine

/-- The number formats of R59, R125 and R171. -/
inductive NumFmt where
  | e4m3 | e5m2 | mxfp4 | bf16 | fp16 | fp32 | u32 | lw128
  deriving DecidableEq, Repr, Inhabited

/-- The format code of weight descriptors and tensor descriptors (R125, R171). -/
def NumFmt.code : NumFmt → Nat
  | .e4m3 => 1 | .e5m2 => 2 | .mxfp4 => 3 | .bf16 => 4 | .fp16 => 5 | .fp32 => 6 | .u32 => 7 | .lw128 => 8

/-- The format a code names, where it names one. -/
def NumFmt.ofCode : Nat → Option NumFmt
  | 1 => some .e4m3 | 2 => some .e5m2 | 3 => some .mxfp4 | 4 => some .bf16
  | 5 => some .fp16 | 6 => some .fp32 | 7 => some .u32 | 8 => some .lw128 | _ => none

/-- Bytes of one stored element (R59, R63, R171); the packed MXFP4 element counts one. -/
def NumFmt.bytes : NumFmt → Nat
  | .e4m3 => 1 | .e5m2 => 1 | .mxfp4 => 1 | .bf16 => 2 | .fp16 => 2 | .fp32 => 4 | .u32 => 4 | .lw128 => 16

/-- Exponent bits of a floating-point format (R59). -/
def NumFmt.ebits : NumFmt → Nat
  | .e4m3 => 4 | .e5m2 => 5 | .mxfp4 => 2 | .bf16 => 8 | .fp16 => 5 | .fp32 => 8 | .u32 => 0 | .lw128 => 0

/-- Mantissa bits of a floating-point format (R59). -/
def NumFmt.mbits : NumFmt → Nat
  | .e4m3 => 3 | .e5m2 => 2 | .mxfp4 => 1 | .bf16 => 7 | .fp16 => 10 | .fp32 => 23 | .u32 => 0 | .lw128 => 0

/-- Exponent bias of a floating-point format (R59). -/
def NumFmt.bias : NumFmt → Int
  | .e4m3 => 7 | .e5m2 => 15 | .mxfp4 => 1 | .bf16 => 127 | .fp16 => 15 | .fp32 => 127 | .u32 => 0 | .lw128 => 0

/-- An exact dyadic number `m * 2 ^ e`. -/
structure Dy where
  m : Int
  e : Int
  deriving DecidableEq, Repr, Inhabited

/-- A decoded number: a NaN, a signed infinity, or a signed finite value `± m * 2 ^ e` (a zero keeps its sign). -/
inductive FVal where
  | nan
  | inf (neg : Bool)
  | fin (neg : Bool) (m : Nat) (e : Int)
  deriving DecidableEq, Repr, Inhabited

/-- The sign bit of a decoded number. -/
def FVal.neg : FVal → Bool
  | .nan => false | .inf s => s | .fin s _ _ => s

/-- A decoded finite value as an exact dyadic; zero for the others. -/
def FVal.dy : FVal → Dy
  | .fin s m e => ⟨if s then - Int.ofNat m else Int.ofNat m, e⟩
  | _ => ⟨0, 0⟩

/-- The value is finite. -/
def FVal.isFin : FVal → Bool
  | .fin _ _ _ => true | _ => false

/-- The value is finite and not zero. -/
def FVal.isFinNonzero : FVal → Bool
  | .fin _ m _ => m != 0 | _ => false

/-- The value is a zero of either sign. -/
def FVal.isZero : FVal → Bool
  | .fin _ m _ => m == 0 | _ => false

/-- The value is a NaN. -/
def FVal.isNan : FVal → Bool
  | .nan => true | _ => false

/-- Decode a bit pattern of a floating-point format (R59). E4M3 and E2M1 have no infinities; E4M3 has one NaN pattern
of each sign, E2M1 none. -/
def decodeF (f : NumFmt) (bits : Nat) : FVal :=
  let mb := f.mbits
  let eb := f.ebits
  let man := bits % pow2 mb
  let ex := bits / pow2 mb % pow2 eb
  let neg := bits / pow2 (mb + eb) % 2 == 1
  let top := pow2 eb - 1
  let special : Option FVal :=
    match f with
    | .e4m3 => if ex == top && man == 7 then some .nan else none
    | .mxfp4 => none
    | _ => if ex == top then some (if man == 0 then .inf neg else .nan) else none
  match special with
  | some v => v
  | none =>
    if ex = 0 then .fin neg man (1 - f.bias - Int.ofNat mb)
    else .fin neg (man + pow2 mb) (Int.ofNat ex - f.bias - Int.ofNat mb)

/-- The exponent E(x) = ⌊log₂|x|⌋ of a finite non-zero magnitude `m * 2 ^ e` (R61). -/
def expOf (m : Nat) (e : Int) : Int := Int.ofNat (Nat.log2 m) + e

/-- E of a decoded value, where it is finite and not zero (R61). -/
def FVal.exp? : FVal → Option Int
  | .fin _ m e => if m = 0 then none else some (expOf m e)
  | _ => none

/-- Precision of an output format (R70). -/
def NumFmt.prec (f : NumFmt) : Nat := f.mbits + 1

/-- The least exponent of a normal number (R70). -/
def NumFmt.emin (f : NumFmt) : Int := 1 - f.bias

/-- The largest finite value of a format as `(m, e)` (R59, R70). -/
def NumFmt.maxFinite : NumFmt → Nat × Int
  | .e4m3 => (14, 5)
  | .e5m2 => (7, 13)
  | .mxfp4 => (3, 1)
  | .bf16 => (255, 120)
  | .fp16 => (2047, 5)
  | _ => (16777215, 104)

/-- The bits of `± keep * 2 ^ q` where `keep` is below `2 ^ prec` and `q` is the exponent of the last place. -/
def encodeF (f : NumFmt) (neg : Bool) (keep : Nat) (q : Int) : Nat :=
  let s := if neg then pow2 (f.mbits + f.ebits) else 0
  if keep < pow2 f.mbits then s + keep
  else s + (q + Int.ofNat f.mbits + f.bias).toNat * pow2 f.mbits + (keep - pow2 f.mbits)

/-- The canonical NaN of a format (R75); zero for U32 and LW128 (R174). -/
def canonNaN : NumFmt → Nat
  | .fp32 => 0x7FC00000 | .bf16 => 0x7FC0 | .fp16 => 0x7E00 | .e5m2 => 0x7E | .e4m3 => 0x7F | _ => 0

/-- The bits are an infinity of the format; E4M3 has none (R76). -/
def isInfBits (f : NumFmt) (bits : Nat) : Bool := match decodeF f bits with | .inf _ => true | _ => false

/-- Flag bits of R167. -/
def flInexact : U16 := 1
def flUnderflow : U16 := 2
def flOverflow : U16 := 4
def flInvalid : U16 := 8
def flDivZero : U16 := 16
def flRowScale : U16 := 32
def flVarClamp : U16 := 64
def flMaskedRange : U16 := 128
def flListFull : U16 := 256

/-- A result with the flags it raised. -/
structure FRes where
  bits : Nat
  flags : U16
  deriving DecidableEq, Repr, Inhabited

/-- An infinity written to a format: the infinity, or ±448 with overflow for E4M3 (R76). -/
def encodeInf (f : NumFmt) (neg : Bool) : FRes :=
  match f with
  | .e4m3 => ⟨if neg then 0xFE else 0x7E, flOverflow⟩
  | _ => ⟨(if neg then pow2 (f.mbits + f.ebits) else 0) + (pow2 f.ebits - 1) * pow2 f.mbits, 0⟩

/-- The overflow result of a format, with overflow and inexact (R70, R73). -/
def overflowRes (f : NumFmt) (neg : Bool) : FRes :=
  ⟨(encodeInf f neg).bits, flOverflow ||| flInexact⟩

/-- Whether a discarded part rounds the magnitude up: `rest` of `2 ^ shift`, `keep` the kept part. -/
abbrev RoundRule := Nat → Nat → Nat → Bool

/-- Round to nearest, ties to even (R70). -/
def roundEven : RoundRule := fun keep rest shift =>
  2 * rest > pow2 shift || (2 * rest == pow2 shift && keep % 2 == 1)

/-- Stochastic rounding with the width `w = min(shift, cap)` and the random value `r` (R72). -/
def roundStoch (cap : Nat) (rnd : Nat → Nat) : RoundRule := fun _ rest shift =>
  let w := min shift cap
  let r := rnd w
  let top := rest / pow2 (shift - w)
  let low := rest % pow2 (shift - w)
  top > r || (top == r && low != 0)

/-- The number of places cut off when `m * 2 ^ e` is rounded to `f` (R70), as an integer. -/
def cutOf (f : NumFmt) (m : Nat) (e : Int) : Int :=
  let x := max (expOf m e) f.emin
  (x - Int.ofNat f.prec + 1) - e

/-- The rounding procedure of R70 on the exact magnitude `m * 2 ^ e`, with the round-up rule `rule`, and the flags of R73. -/
def roundMag (rule : RoundRule) (f : NumFmt) (neg : Bool) (m : Nat) (e : Int) : FRes :=
  if m = 0 then ⟨if neg then pow2 (f.mbits + f.ebits) else 0, 0⟩
  else
    let shift := cutOf f m e
    let q := e + shift
    let keep0 := if shift ≤ 0 then m * pow2 (-shift).toNat else m / pow2 shift.toNat
    let rest := if shift ≤ 0 then 0 else m % pow2 shift.toNat
    let keep1 := if rest != 0 && rule keep0 rest shift.toNat then keep0 + 1 else keep0
    let carry := keep1 == pow2 f.prec
    let keep := if carry then keep1 / 2 else keep1
    let q' := if carry then q + 1 else q
    let (mm, me) := f.maxFinite
    -- keep * 2^q' > maxfinite, compared at the place me
    let tooBig := if q' ≥ me then keep * pow2 (q' - me).toNat > mm else keep > mm * pow2 (me - q').toNat
    if tooBig then overflowRes f neg
    else
      let inex := rest != 0
      let tiny := keep < pow2 f.mbits
      ⟨encodeF f neg keep q',
        (if inex then flInexact else 0) ||| (if inex && tiny then flUnderflow else 0)⟩

/-- R70 on an integer `i` with last place `2 ^ e`; zero gives +0 (R71). -/
def roundInt (rule : RoundRule) (f : NumFmt) (i : Int) (e : Int) : FRes :=
  roundMag rule f (decide (i < 0)) i.natAbs e

/-- Round an exact quotient `± (n / d) * 2 ^ e` once, to nearest even: the quotient is extended by enough places that
one sticky place below the result stands for the rest. -/
def roundQuot (f : NumFmt) (neg : Bool) (n d : Nat) (e : Int) : FRes :=
  let k := f.prec + 3 + Nat.log2 d + 1 - min (Nat.log2 n) (f.prec + 3 + Nat.log2 d)
  let nn := n * pow2 k
  let q := nn / d
  let m := 2 * q + (if nn % d = 0 then 0 else 1)
  if n = 0 then ⟨if neg then pow2 (f.mbits + f.ebits) else 0, 0⟩
  else roundMag roundEven f neg m (e - Int.ofNat k - 1)

/-! ### Binary32 operations -/

/-- The canonical NaN as binary32 bits. -/
def nan32 : F32 := 0x7FC00000

/-- Decode binary32. -/
def dec32 (x : F32) : FVal := decodeF .fp32 x.toNat

/-- A binary32 result with flags. -/
structure R32 where
  v : F32
  fl : U16
  deriving DecidableEq, Repr, Inhabited

/-- An `FRes` of binary32 as `R32`. -/
def FRes.r32 (r : FRes) : R32 := ⟨BitVec.ofNat 32 r.bits, r.flags⟩

/-- A NaN result, with invalid where no operand was a NaN. -/
def nanRes (anyNan : Bool) : R32 := ⟨nan32, if anyNan then 0 else flInvalid⟩

/-- ±∞ as binary32. -/
def inf32 (neg : Bool) : F32 := if neg then 0xFF800000 else 0x7F800000

/-- ±0 as binary32. -/
def zero32 (neg : Bool) : F32 := if neg then 0x80000000 else 0

/-- Sum of exact dyadics at a common last place. -/
def Dy.add (a b : Dy) : Dy :=
  let e := min a.e b.e
  ⟨a.m * ipow2 (a.e - e).toNat + b.m * ipow2 (b.e - e).toNat, e⟩

/-- Product of exact dyadics. -/
def Dy.mul (a b : Dy) : Dy := ⟨a.m * b.m, a.e + b.e⟩

/-- Negation of an exact dyadic. -/
def Dy.neg (a : Dy) : Dy := ⟨- a.m, a.e⟩

/-- Exact comparison `a < b`. -/
def Dy.lt (a b : Dy) : Bool := decide ((a.add b.neg).m < 0)

/-- Exact comparison `a ≤ b`. -/
def Dy.le (a b : Dy) : Bool := decide ((a.add b.neg).m ≤ 0)

/-- Round an exact dyadic to binary32, to nearest even. A zero is +0. -/
def Dy.round32 (a : Dy) : R32 := (roundInt roundEven .fp32 a.m a.e).r32

/-- IEEE 754-2019 addition. An exact zero sum of non-zero terms is +0; like-signed zeros keep their sign. -/
def fadd (x y : F32) : R32 :=
  match dec32 x, dec32 y with
  | .nan, _ => nanRes true
  | _, .nan => nanRes true
  | .inf s, .inf t => if s == t then ⟨inf32 s, 0⟩ else nanRes false
  | .inf s, _ => ⟨inf32 s, 0⟩
  | _, .inf t => ⟨inf32 t, 0⟩
  | .fin s m e, .fin t n g =>
    if m = 0 ∧ n = 0 then ⟨zero32 (s && t), 0⟩
    else ((FVal.fin s m e).dy.add (FVal.fin t n g).dy).round32

/-- Flip the sign bit. -/
def fneg (x : F32) : F32 := x ^^^ 0x80000000

/-- IEEE 754-2019 subtraction. -/
def fsub (x y : F32) : R32 :=
  match dec32 y with
  | .nan => nanRes true
  | _ => fadd x (fneg y)

/-- IEEE 754-2019 multiplication. -/
def fmul (x y : F32) : R32 :=
  match dec32 x, dec32 y with
  | .nan, _ => nanRes true
  | _, .nan => nanRes true
  | .inf s, v => if v.isZero then nanRes false else ⟨inf32 (s != v.neg), 0⟩
  | v, .inf s => if v.isZero then nanRes false else ⟨inf32 (s != v.neg), 0⟩
  | .fin s m e, .fin t n g => (roundMag roundEven .fp32 (s != t) (m * n) (e + g)).r32

/-- IEEE 754-2019 division. -/
def fdiv (x y : F32) : R32 :=
  match dec32 x, dec32 y with
  | .nan, _ => nanRes true
  | _, .nan => nanRes true
  | .inf _, .inf _ => nanRes false
  | .inf s, .fin t _ _ => ⟨inf32 (s != t), 0⟩
  | .fin s _ _, .inf t => ⟨zero32 (s != t), 0⟩
  | .fin s m e, .fin t n g =>
    if n = 0 then (if m = 0 then nanRes false else ⟨inf32 (s != t), flDivZero⟩)
    else (roundQuot .fp32 (s != t) m n (e - g)).r32

/-- IEEE 754-2019 fusedMultiplyAdd `x * y + z` (R197, R281). -/
def ffma (x y z : F32) : R32 :=
  match dec32 x, dec32 y, dec32 z with
  | .nan, _, _ => nanRes true
  | _, .nan, _ => nanRes true
  | _, _, .nan => nanRes true
  | .inf s, b, c =>
    if b.isZero then nanRes false
    else match c with
      | .inf u => if u == (s != b.neg) then ⟨inf32 u, 0⟩ else nanRes false
      | _ => ⟨inf32 (s != b.neg), 0⟩
  | a, .inf t, c =>
    if a.isZero then nanRes false
    else match c with
      | .inf u => if u == (t != a.neg) then ⟨inf32 u, 0⟩ else nanRes false
      | _ => ⟨inf32 (t != a.neg), 0⟩
  | .fin _ _ _, .fin _ _ _, .inf u => ⟨inf32 u, 0⟩
  | .fin s m e, .fin t n g, .fin u k h =>
    if m * n = 0 ∧ k = 0 then ⟨zero32 ((s != t) && u), 0⟩
    else (((FVal.fin (s != t) (m * n) (e + g)).dy).add (FVal.fin u k h).dy).round32

/-- A NaN pattern. -/
def isNaN32 (x : F32) : Bool := (dec32 x).isNan

/-- A pattern that is a zero of either sign. -/
def isZero32 (x : F32) : Bool := (dec32 x).isZero

/-- The order of non-NaN binary32 values as real numbers with ±∞, as an integer key. Both zeros have key 0. -/
def key32 (x : F32) : Int :=
  let a := x.toNat % 0x80000000
  if x.toNat ≥ 0x80000000 then - Int.ofNat a else Int.ofNat a

/-- `x < y` on non-NaN values (R308: scores are compared as real numbers). -/
def flt (x y : F32) : Bool := decide (key32 x < key32 y)

/-- `x ≤ y` on non-NaN values. -/
def fle (x y : F32) : Bool := decide (key32 x ≤ key32 y)

/-- The next binary32 value above a non-NaN value other than +∞ (R211). -/
def nextUp (x : F32) : F32 :=
  if isZero32 x then 1
  else if x.toNat ≥ 0x80000000 then x - 1 else x + 1

/-- An unsigned integer as binary32, rounded to nearest even (exact below 2 ^ 24). -/
def nat32 (n : Nat) : R32 := (roundMag roundEven .fp32 false n 0).r32

/-- ⌊x⌋ of a finite value `m * 2 ^ e`. -/
def Dy.floor (a : Dy) : Int :=
  if a.e ≥ 0 then a.m * ipow2 a.e.toNat else a.m / ipow2 (-a.e).toNat

/-- A finite binary32 as an exact dyadic. -/
def dy32 (x : F32) : Dy := (dec32 x).dy

/-- Round an exact dyadic toward +∞ to binary32 (RU of R211); a value below every finite one gives the least finite one. -/
def roundUp32 (a : Dy) : F32 :=
  if a.m > 0 then
    (roundMag (fun _ _ _ => true) .fp32 false a.m.natAbs a.e).r32.v
  else
    let v := (roundMag (fun _ _ _ => false) .fp32 (decide (a.m < 0)) a.m.natAbs a.e).r32.v
    if v = 0xFF800000 then 0xFF7FFFFF else v

/-- A decoded value, converted exactly to binary32: every shorter format is an exact subset (R177). -/
def toF32 (f : NumFmt) (bits : Nat) : F32 :=
  match decodeF f bits with
  | .nan => nan32
  | .inf s => inf32 s
  | .fin s m e => (roundMag roundEven .fp32 s m e).r32.v

/-- Round a binary32 value to a shorter format once, by `rule` (R70, R74, R75, R76); a NaN raises no flag. -/
def fromF32 (rule : RoundRule) (f : NumFmt) (x : F32) : FRes :=
  match dec32 x with
  | .nan => ⟨canonNaN f, 0⟩
  | .inf s => encodeInf f s
  | .fin s m e => roundMag rule f s m e

end Sys2Proof.Machine
end

