-- ==== Sys2Proof/Machine/Exact.lean ====
section
/-! DEFINITION. Real functions to high precision, for every value the spec fixes as the number nearest to a real value:
ladder masses (R206), ladder weights (R213), log-sum-exp (R214), log-probabilities of +∞ picks (R234), and the exactly
rounded built-ins (R185, R186). Fixed point with `fxP` fraction bits (log 6). -/
namespace Sys2Proof.Machine

/-- Fraction bits of the fixed-point evaluation (log 6). -/
def fxP : Nat := 512

/-- The fixed-point one. -/
def fxOne : Int := ipow2 fxP

/-- Product of fixed-point numbers, rounded down. -/
def fxMul (a b : Int) : Int := a * b / fxOne

/-- Quotient of fixed-point numbers, rounded down. -/
def fxDiv (a b : Int) : Int := a * fxOne / b

/-- An exact dyadic in fixed point, rounded down. -/
def Dy.fx (a : Dy) : Int :=
  if a.e + Int.ofNat fxP ≥ 0 then a.m * ipow2 (a.e + Int.ofNat fxP).toNat
  else a.m / ipow2 (-(a.e + Int.ofNat fxP)).toNat

/-- A fixed-point number as a dyadic. -/
def fxDy (a : Int) : Dy := ⟨a, - Int.ofNat fxP⟩

/-- `Σ t_k` with `t_0 = t`, `t_(k+1) = t_k * x / (k+1)`: the exponential series from term `k`. -/
def fxExpSeries (x : Int) : Nat → Nat → Int → Int
  | 0, _, t => t
  | fuel + 1, k, t => t + fxExpSeries x fuel (k + 1) (fxMul t x / Int.ofNat (k + 1))

/-- `Σ z^(2k+1) / (2k+1)`: the inverse hyperbolic tangent series. -/
def fxAtanhSeries (z2 : Int) : Nat → Nat → Int → Int
  | 0, _, _ => 0
  | fuel + 1, k, p => p / Int.ofNat (2 * k + 1) + fxAtanhSeries z2 fuel (k + 1) (fxMul p z2)

/-- The inverse hyperbolic tangent of `z`, for |z| ≤ 1/3. -/
def fxAtanh (z : Int) : Int := fxAtanhSeries (fxMul z z) 170 0 z

/-- ln 2. -/
def fxLn2 : Int := 2 * fxAtanh (fxOne / 3)

/-- Square a number `n` times. -/
def fxSquare : Nat → Int → Int
  | 0, a => a
  | n + 1, a => fxSquare n (fxMul a a)

/-- e^x of a fixed-point `x`, as the dyadic `m * 2^k` with `m` in fixed point. -/
def fxExp (x : Int) : Dy :=
  let k := x / fxLn2
  let r := x - k * fxLn2
  let s := r / ipow2 16
  let y := fxSquare 16 (fxExpSeries s 32 0 fxOne)
  ⟨y, k - Int.ofNat fxP⟩

/-- ln of the fixed-point `m` with 1 ≤ m < 2. -/
def fxLnUnit (m : Int) : Int := 2 * fxAtanh (fxDiv (m - fxOne) (m + fxOne))

/-- ln of a positive dyadic, in fixed point. -/
def fxLn (a : Dy) : Int :=
  let l := Nat.log2 a.m.natAbs
  let m := (⟨a.m, - Int.ofNat l⟩ : Dy).fx
  fxLnUnit m + (a.e + Int.ofNat l) * fxLn2

/-- Integer square root by bits, from bit `k` down. -/
def isqrtBits : Nat → Nat → Nat → Nat
  | 0, _, r => r
  | k + 1, n, r =>
    let c := r + pow2 k
    if c * c ≤ n then isqrtBits k n c else isqrtBits k n r

/-- ⌊√n⌋. -/
def isqrt (n : Nat) : Nat := isqrtBits (Nat.log2 n / 2 + 1) n 0

/-- `Σ (-1)^k z^(2k+1)/(2k+1)`: the arc tangent series. -/
def fxAtanSeries (z2 : Int) : Nat → Nat → Int → Int
  | 0, _, _ => 0
  | fuel + 1, k, p => p / Int.ofNat (2 * k + 1) + fxAtanSeries z2 fuel (k + 1) (-(fxMul p z2))

/-- π by Machin's formula. -/
def fxPi : Int :=
  let at5 := fxAtanSeries (fxOne / 25) 120 0 (fxOne / 5)
  let at239 := fxAtanSeries (fxOne / 57121) 40 0 (fxOne / 239)
  16 * at5 - 4 * at239

/-- `Σ (-1)^k x^(2k+1)/(2k+1)!`: the sine series from term `k`, `t` the running term. -/
def fxSinSeries (x2 : Int) : Nat → Nat → Int → Int
  | 0, _, _ => 0
  | fuel + 1, k, t =>
    t + fxSinSeries x2 fuel (k + 1) (-(fxMul t x2) / Int.ofNat ((2 * k + 2) * (2 * k + 3)))

/-- sin of a fixed-point angle in [0, π/2]. -/
def fxSin (x : Int) : Int := fxSinSeries (fxMul x x) 90 0 x

/-- √x of a fixed-point number. -/
def fxSqrt (x : Int) : Int := Int.ofNat (isqrt (x.toNat * pow2 fxP))

/-- `Σ t_k` with `t_(k+1) = t_k * 2 x² / (2k+3)`, the positive series of erf. -/
def fxErfSeries (x2 : Int) : Nat → Nat → Int → Int
  | 0, _, _ => 0
  | fuel + 1, k, t => t + fxErfSeries x2 fuel (k + 1) (2 * fxMul t x2 / Int.ofNat (2 * k + 3))

/-- erf of a fixed-point x ≥ 0; above 18 it is 1 to every place kept. -/
def fxErf (x : Int) : Int :=
  if x > 18 * fxOne then fxOne
  else
    let x2 := fxMul x x
    let s := fxErfSeries x2 1600 0 x
    fxDiv (2 * fxMul (fxExp (-x2)).fx s) (fxSqrt fxPi)

/-- `a + k / (a + (k+1) / (a + …))` in fixed point, for a positive `a`. -/
def fxMillsTail (a : Int) : Nat → Nat → Int
  | 0, _ => a
  | fuel + 1, k => a + Int.ofNat k * fxOne * fxOne / fxMillsTail a fuel (k + 1)

/-- `Φ(−a)` of a fixed-point a ≥ 12, as a dyadic of full relative precision: the density times Mills' ratio by its continued
fraction. -/
def dyPhiTail (a : Int) : Dy :=
  let ratio := fxDiv fxOne (fxMillsTail a 200 1)
  let e := fxExp (-(fxMul a a / 2))
  let w := fxDiv ratio (fxSqrt (2 * fxPi))
  ⟨e.m * w, e.e - Int.ofNat fxP⟩

/-- The real number a function has, before its one rounding: an exact quotient `± (n/d) * 2^e`, or a dyadic that
agrees with it to far more places than any format keeps (log 6). -/
inductive RealVal where
  | exact (neg : Bool) (n d : Nat) (e : Int)
  | near (v : Dy)
  deriving DecidableEq, Repr, Inhabited

/-- Round a real value to a format, to nearest even (R185). -/
def RealVal.round (f : NumFmt) : RealVal → FRes
  | .exact s n d e => roundQuot f s n d e
  | .near v => roundInt roundEven f v.m v.e

/-- The value FP32 holds exactly, where it does (R186). -/
def RealVal.exact32 : RealVal → Option FRes
  | .exact s n d e =>
    let r := roundQuot .fp32 s n d e
    if r.flags &&& flInexact = 0 then some r else none
  | .near _ => none

/-- The binary32 value toward zero from a real value, and its successor in magnitude: the two values that
bracket it (R186). -/
def RealVal.bracket : RealVal → FRes × FRes
  | .exact s n d e =>
    let k := 64 + Nat.log2 d
    let m := 2 * (n * pow2 k / d) + 1
    (roundMag (fun _ _ _ => false) .fp32 s m (e - Int.ofNat k - 1), roundMag (fun _ _ _ => true) .fp32 s m (e - Int.ofNat k - 1))
  | .near v =>
    (roundInt (fun _ _ _ => false) .fp32 v.m v.e, roundInt (fun _ _ _ => true) .fp32 v.m v.e)

/-- exp of a finite binary32, to high precision. An argument beyond ±500 is cut to it; every format has
overflowed or underflowed there. -/
def realExp (x : Dy) : RealVal :=
  if x.m = 0 then .exact false 1 1 0
  else
    let y := max (-(500 * fxOne)) (min (500 * fxOne) x.fx)
    if y = 0 ∨ x.fx.natAbs < pow2 (fxP - 160) then .near (Dy.add ⟨1, 0⟩ x)
    else .near (fxExp y)

/-- ln of a positive dyadic, to high precision. -/
def realLn (x : Dy) : RealVal :=
  if x.add ⟨-1, 0⟩ = ⟨0, (x.add ⟨-1, 0⟩).e⟩ then .exact false 0 1 0 else .near (fxDy (fxLn x))

/-- The FP32 number nearest to exp(s − j − 1) for a finite score s in step j = ⌊s⌋ (R206). -/
def massOf (s : F32) : F32 :=
  let d := dy32 s
  let j := d.floor
  let x := d.add ⟨-(j + 1), 0⟩
  ((realExp x).round .fp32).r32.v

/-- The weight ⌊e^−d × 2^72⌋ (R213). -/
def ladderWeight (d : Nat) : Nat :=
  if d = 0 then pow2 72
  else if d ≥ 50 then 0
  else
    let v := fxExp (-(Int.ofNat d * fxOne))
    ((⟨v.m, v.e + 72⟩ : Dy).floor).toNat

/-- The FP32 value nearest to (j + 1) + ln(Z × 2^−72); exact when Z = 2^72 (R214). -/
def lseOf (j : Int) (z : Nat) : F32 :=
  if z = pow2 72 then (Dy.round32 ⟨j + 1, 0⟩).v
  else (Dy.round32 (fxDy (fxLn ⟨Int.ofNat z, -72⟩ + (j + 1) * fxOne))).v

/-- The FP32 value nearest to −ln c (R234); +0 for c = 1. -/
def negLn (c : Nat) : F32 :=
  if c ≤ 1 then 0 else (Dy.round32 (fxDy (-(fxLn ⟨Int.ofNat c, 0⟩)))).v

end Sys2Proof.Machine
end

