-- ==== Sys2Proof/Machine/Crypto.lean ====
section
/-! DEFINITION. The Vault's algorithms (R426): SHA-384, HMAC-SHA-384, the KDF in counter mode (R427), AES-256, AES-256-GCM
decryption, CTR_DRBG with derivation function (R444) and ECDSA P-384 (R428, R438 to R443). The manual names the standards and
does not print them; their bodies are taken from the standards it names (log 10). -/
namespace Sys2Proof.Machine

/-! ### SHA-384 -/

/-- The round constants of FIPS 180-4, 64-bit. -/
def shaK : List Nat :=
  [0x428a2f98d728ae22, 0x7137449123ef65cd, 0xb5c0fbcfec4d3b2f, 0xe9b5dba58189dbbc, 0x3956c25bf348b538, 0x59f111f1b605d019, 0x923f82a4af194f9b, 0xab1c5ed5da6d8118] ++
  [0xd807aa98a3030242, 0x12835b0145706fbe, 0x243185be4ee4b28c, 0x550c7dc3d5ffb4e2, 0x72be5d74f27b896f, 0x80deb1fe3b1696b1, 0x9bdc06a725c71235, 0xc19bf174cf692694] ++
  [0xe49b69c19ef14ad2, 0xefbe4786384f25e3, 0xfc19dc68b8cd5b5, 0x240ca1cc77ac9c65, 0x2de92c6f592b0275, 0x4a7484aa6ea6e483, 0x5cb0a9dcbd41fbd4, 0x76f988da831153b5] ++
  [0x983e5152ee66dfab, 0xa831c66d2db43210, 0xb00327c898fb213f, 0xbf597fc7beef0ee4, 0xc6e00bf33da88fc2, 0xd5a79147930aa725, 0x6ca6351e003826f, 0x142929670a0e6e70] ++
  [0x27b70a8546d22ffc, 0x2e1b21385c26c926, 0x4d2c6dfc5ac42aed, 0x53380d139d95b3df, 0x650a73548baf63de, 0x766a0abb3c77b2a8, 0x81c2c92e47edaee6, 0x92722c851482353b] ++
  [0xa2bfe8a14cf10364, 0xa81a664bbc423001, 0xc24b8b70d0f89791, 0xc76c51a30654be30, 0xd192e819d6ef5218, 0xd69906245565a910, 0xf40e35855771202a, 0x106aa07032bbd1b8] ++
  [0x19a4c116b8d2d0c8, 0x1e376c085141ab53, 0x2748774cdf8eeb99, 0x34b0bcb5e19b48a8, 0x391c0cb3c5c95a63, 0x4ed8aa4ae3418acb, 0x5b9cca4f7763e373, 0x682e6ff3d6b2b8a3] ++
  [0x748f82ee5defb2fc, 0x78a5636f43172f60, 0x84c87814a1f0ab72, 0x8cc702081a6439ec, 0x90befffa23631e28, 0xa4506cebde82bde9, 0xbef9a3f7b2c67915, 0xc67178f2e372532b] ++
  [0xca273eceea26619c, 0xd186b8c721c0c207, 0xeada7dd6cde0eb1e, 0xf57d4f7fee6ed178, 0x6f067aa72176fba, 0xa637dc5a2c898a6, 0x113f9804bef90dae, 0x1b710b35131c471b] ++
  [0x28db77f523047d84, 0x32caab7b40c72493, 0x3c9ebe0a15c9bebc, 0x431d67c49c100d4c, 0x4cc5d4becb3e42b6, 0x597f299cfc657e2a, 0x5fcb6fab3ad6faec, 0x6c44198c4a475817]

/-- The initial hash value of SHA-384 (FIPS 180-4). -/
def shaH : List Nat :=
  [0xcbbb9d5dc1059ed8, 0x629a292a367cd507, 0x9159015a3070dd17, 0x152fecd8f70e5939, 0x67332667ffc00b31, 0x8eb44a8768581511, 0xdb0c2e0d64f98fa7, 0x47b5481dbefa4fa4]

/-- Modulus of the SHA-384 words. -/
def shaM : Nat := 0x10000000000000000

/-- Rotate right in 64 bits. -/
def rotr64 (x n : Nat) : Nat := x / pow2 n + (x * pow2 (64 - n)) % shaM

/-- The functions of FIPS 180-4 section 4.1.3. -/
def shaBig0 (x : Nat) : Nat := Nat.xor (Nat.xor (rotr64 x 28) (rotr64 x 34)) (rotr64 x 39)
def shaBig1 (x : Nat) : Nat := Nat.xor (Nat.xor (rotr64 x 14) (rotr64 x 18)) (rotr64 x 41)
def shaSm0 (x : Nat) : Nat := Nat.xor (Nat.xor (rotr64 x 1) (rotr64 x 8)) (x / pow2 7)
def shaSm1 (x : Nat) : Nat := Nat.xor (Nat.xor (rotr64 x 19) (rotr64 x 61)) (x / pow2 6)
def shaCh (x y z : Nat) : Nat := Nat.xor (Nat.land x y) (Nat.land (Nat.xor x (shaM - 1)) z)
def shaMaj (x y z : Nat) : Nat := Nat.xor (Nat.xor (Nat.land x y) (Nat.land x z)) (Nat.land y z)

/-- The message schedule: the last 16 words, oldest first, and the words produced for `n` further rounds. -/
def shaSched : Nat → List Nat → List Nat
  | 0, _ => []
  | n + 1, w =>
    let t := (shaSm1 (w.getD 14 0) + w.getD 9 0 + shaSm0 (w.getD 1 0) + w.getD 0 0) % shaM
    t :: shaSched n (w.drop 1 ++ [t])

/-- The eight working words. -/
structure ShaSt where
  a : Nat
  b : Nat
  c : Nat
  d : Nat
  e : Nat
  f : Nat
  g : Nat
  h : Nat
  deriving DecidableEq, Repr, Inhabited

/-- One round. -/
def shaRound (s : ShaSt) (kw : Nat × Nat) : ShaSt :=
  let t1 := (s.h + shaBig1 s.e + shaCh s.e s.f s.g + kw.1 + kw.2) % shaM
  let t2 := (shaBig0 s.a + shaMaj s.a s.b s.c) % shaM
  ⟨(t1 + t2) % shaM, s.a, s.b, s.c, (s.d + t1) % shaM, s.e, s.f, s.g⟩

/-- The words of a 128-byte block. -/
def shaWords (blk : Bytes) : List Nat := (upto 16).map (fun i => beNat (slice blk (8 * i) 8))

/-- One block. -/
def shaBlock (s : ShaSt) (blk : Bytes) : ShaSt :=
  let w := shaWords blk
  let r := (shaK.zip (w ++ shaSched 64 w)).foldl shaRound s
  ⟨(s.a + r.a) % shaM, (s.b + r.b) % shaM, (s.c + r.c) % shaM, (s.d + r.d) % shaM,
    (s.e + r.e) % shaM, (s.f + r.f) % shaM, (s.g + r.g) % shaM, (s.h + r.h) % shaM⟩

/-- Padding: a one bit, zeros, the length in bits as a 128-bit number. -/
def shaPad (m : Bytes) : Bytes :=
  let z := (128 + 112 - (m.length + 1) % 128) % 128
  m ++ [0x80] ++ List.replicate z 0 ++ beBytes 16 (8 * m.length)

/-- SHA-384 (FIPS 180-4): 48 bytes. -/
def sha384 (m : Bytes) : Bytes :=
  let p := shaPad m
  let s := (chunksOf 128 p.length p).foldl shaBlock
    ⟨shaH.getD 0 0, shaH.getD 1 0, shaH.getD 2 0, shaH.getD 3 0, shaH.getD 4 0, shaH.getD 5 0, shaH.getD 6 0, shaH.getD 7 0⟩
  [s.a, s.b, s.c, s.d, s.e, s.f].flatMap (beBytes 8)

/-- XOR of byte strings. -/
def xorBytes (a b : Bytes) : Bytes := (a.zip b).map (fun p => p.1 ^^^ p.2)

/-- HMAC-SHA-384 (FIPS 198-1): blocks of 128 bytes. -/
def hmac384 (key m : Bytes) : Bytes :=
  let k := padTo 128 (if key.length > 128 then sha384 key else key)
  let ik := k.map (· ^^^ 0x36)
  let ok := k.map (· ^^^ 0x5C)
  sha384 (ok ++ sha384 (ik ++ m))

/-- KDF(K, label, context, L) of R427, `bits` a multiple of 8. -/
def kdf (key label context : Bytes) (bits : Nat) : Bytes :=
  (hmac384 key (beBytes 4 1 ++ label ++ [0] ++ context ++ beBytes 4 bits)).take (bits / 8)

/-! ### AES-256 -/

/-- Multiplication by x in GF(2^8). -/
def gfX (a : Nat) : Nat := if a ≥ 128 then Nat.xor (2 * a - 256) 0x1B else 2 * a

/-- Multiplication in GF(2^8), over the 8 bits of `b`. -/
def gfMulBits : Nat → Nat → Nat → Nat
  | 0, _, _ => 0
  | n + 1, a, b => Nat.xor (if b % 2 = 1 then a else 0) (gfMulBits n (gfX a) (b / 2))
def gfMul (a b : Nat) : Nat := gfMulBits 8 a b

/-- The inverse in GF(2^8): a^254. -/
def gfInv (a : Nat) : Nat :=
  let a2 := gfMul a a
  let a3 := gfMul a2 a
  let a12 := gfMul (gfMul a3 a3) (gfMul a3 a3)
  let a15 := gfMul a12 a3
  let a30 := gfMul a15 a15
  let a60 := gfMul a30 a30
  let a120 := gfMul a60 a60
  let a240 := gfMul a120 a120
  gfMul (gfMul a240 a12) a2

/-- The AES substitution box. -/
def aesSub (x : Nat) : Nat :=
  let y := gfInv x
  let r (n : Nat) : Nat := (y * pow2 n) % 256 + y / pow2 (8 - n)
  Nat.xor (Nat.xor (Nat.xor (Nat.xor (Nat.xor y (r 1)) (r 2)) (r 3)) (r 4)) 0x63

/-- Expand an AES-256 key: `n` further words after the last eight, `i` the word number, `rc` the round constant. -/
def aesExpand : Nat → Nat → Nat → List (List Nat) → List (List Nat)
  | 0, _, _, _ => []
  | n + 1, i, rc, w =>
    let t := w.getD 7 []
    let t' :=
      if i % 8 = 0 then
        let s := (t.drop 1 ++ t.take 1).map aesSub
        [Nat.xor (s.getD 0 0) rc] ++ s.drop 1
      else if i % 8 = 4 then t.map aesSub else t
    let nw := ((w.getD 0 []).zip t').map (fun p => Nat.xor p.1 p.2)
    nw :: aesExpand n (i + 1) (if i % 8 = 0 then gfX rc else rc) (w.drop 1 ++ [nw])

/-- The 15 round keys of AES-256, 16 numbers each. -/
def aesKeys (key : Bytes) : List (List Nat) :=
  let w0 := (upto 8).map (fun i => (slice key (4 * i) 4).map BitVec.toNat)
  let w := w0 ++ aesExpand 52 8 1 w0
  (upto 15).map (fun r => (upto 4).flatMap (fun c => w.getD (4 * r + c) []))

/-- SubBytes and ShiftRows. -/
def aesSubShift (s : List Nat) : List Nat :=
  (upto 16).map (fun i => aesSub (s.getD ((i + 4 * (i % 4)) % 16) 0))

/-- MixColumns. -/
def aesMix (s : List Nat) : List Nat :=
  (upto 16).map (fun i =>
    let c := i / 4 * 4
    let g (k : Nat) : Nat := s.getD (c + (i + k) % 4) 0
    Nat.xor (Nat.xor (gfMul 2 (g 0)) (gfMul 3 (g 1))) (Nat.xor (g 2) (g 3)))

/-- AddRoundKey. -/
def aesAdd (s k : List Nat) : List Nat := (s.zip k).map (fun p => Nat.xor p.1 p.2)

/-- AES-256 encryption of one block (FIPS 197). -/
def aes256 (key blk : Bytes) : Bytes :=
  let ks := aesKeys key
  let s0 := aesAdd (blk.map BitVec.toNat) (ks.getD 0 [])
  let s1 := ((ks.drop 1).take 13).foldl (fun s k => aesAdd (aesMix (aesSubShift s)) k) s0
  (aesAdd (aesSubShift s1) (ks.getD 14 [])).map (BitVec.ofNat 8)

/-! ### AES-256-GCM decryption -/

/-- Multiplication in GF(2^128) of SP 800-38D over the bits of `x`, highest first. -/
def ghashMul : Nat → Nat → Nat → Nat → Nat
  | 0, _, _, z => z
  | n + 1, x, v, z =>
    let z' := if bitAt x n then Nat.xor z v else z
    ghashMul n x (if v % 2 = 1 then Nat.xor (v / 2) (0xE1 * pow2 120) else v / 2) z'

/-- GHASH of a string of whole blocks. -/
def ghash (h : Nat) (bs : Bytes) : Nat :=
  (chunksOf 16 bs.length bs).foldl (fun y b => ghashMul 128 (Nat.xor y (beNat b)) h 0) 0

/-- Zero padding to whole blocks. -/
def pad16 (bs : Bytes) : Bytes := bs ++ List.replicate ((16 - bs.length % 16) % 16) 0

/-- The GCTR key stream XORed onto a text from counter `c`. -/
def gctr (key iv : Bytes) (c : Nat) (text : Bytes) : Bytes :=
  ((chunksOf 16 text.length text).zip (upto text.length)).flatMap
    (fun p => xorBytes p.1 (aes256 key (iv ++ beBytes 4 (c + p.2))))

/-- AES-256-GCM decryption with a 96-bit IV and a 128-bit tag (SP 800-38D): the plaintext, or none where the tag fails. -/
def gcmDecrypt (key iv aad ct tag : Bytes) : Option Bytes :=
  let h := beNat (aes256 key (List.replicate 16 0))
  let s := ghash h (pad16 aad ++ pad16 ct ++ beBytes 8 (8 * aad.length) ++ beBytes 8 (8 * ct.length))
  let t := gctr key iv 1 (beBytes 16 s)
  if t = tag then some (gctr key iv 2 ct) else none

/-! ### CTR_DRBG (SP 800-90A, AES-256, derivation function) -/

/-- The working state of CTR_DRBG (R424). -/
structure Drbg where
  key : Bytes
  v : Bytes
  counter : Nat
  deriving DecidableEq, Repr, Inhabited

/-- CBC-MAC chaining of the derivation function. -/
def bcc (key : Bytes) (data : Bytes) : Bytes :=
  (chunksOf 16 data.length data).foldl (fun c b => aes256 key (xorBytes c b)) (List.replicate 16 0)

/-- The derivation function to 48 bytes. -/
def drbgDf (input : Bytes) : Bytes :=
  let s0 := beBytes 4 input.length ++ beBytes 4 48 ++ input ++ [0x80]
  let s := pad16 s0
  let k0 := (upto 32).map (BitVec.ofNat 8)
  let t := (upto 3).flatMap (fun i => bcc k0 (beBytes 4 i ++ List.replicate 12 0 ++ s))
  let k := t.take 32
  let x1 := aes256 k (t.drop 32)
  let x2 := aes256 k x1
  let x3 := aes256 k x2
  x1 ++ x2 ++ x3

/-- V + n modulo 2^128. -/
def incV (v : Bytes) (n : Nat) : Bytes := beBytes 16 ((beNat v + n) % pow2 128)

/-- CTR_DRBG_Update. -/
def drbgUpdate (d : Drbg) (data : Bytes) : Drbg :=
  let t := (upto 3).flatMap (fun i => aes256 d.key (incV d.v (i + 1)))
  let x := xorBytes t data
  ⟨x.take 32, x.drop 32, d.counter⟩

/-- Instantiate from entropy input, nonce and personalisation string. -/
def drbgInstantiate (entropy pers : Bytes) : Drbg :=
  { drbgUpdate ⟨List.replicate 32 0, List.replicate 16 0, 0⟩ (drbgDf (entropy ++ pers)) with counter := 1 }

/-- Reseed with fresh entropy. -/
def drbgReseed (d : Drbg) (entropy : Bytes) : Drbg := { drbgUpdate d (drbgDf entropy) with counter := 1 }

/-- Generate `n` bytes: one generate request. -/
def drbgGenerate (d : Drbg) (n : Nat) : Bytes × Drbg :=
  let blocks := ceilDiv n 16
  let out := ((upto blocks).flatMap (fun i => aes256 d.key (incV d.v (i + 1)))).take n
  let d1 := drbgUpdate { d with v := incV d.v blocks } (List.replicate 48 0)
  (out, { d1 with counter := d.counter + 1 })

/-! ### ECDSA on P-384 -/

def p384p : Nat := 0xfffffffffffffffffffffffffffffffffffffffffffffffffffffffffffffffeffffffff0000000000000000ffffffff
def p384b : Nat := 0xb3312fa7e23ee7e4988e056be3f82d19181d9c6efe8141120314088f5013875ac656398d8a2ed19d2a85c8edd3ec2aef
def p384n : Nat := 0xffffffffffffffffffffffffffffffffffffffffffffffffc7634d81f4372ddf581a0db248b0a77aecec196accc52973
def p384gx : Nat := 0xaa87ca22be8b05378eb1c71ef320ad746e1d3b628ba79b9859f741e082542a385502f25dbf55296c3a545e3872760ab7
def p384gy : Nat := 0x3617de4a96262c6f5d9e98bf9292dc29f8f41dbd289a147ce9da3113b5f0b8c00a60b1ce1d7e819d7a431d7c90ea0e5f

/-- a^e modulo n over `k` bits of e, highest first. -/
def powModBits : Nat → Nat → Nat → Nat → Nat → Nat
  | 0, _, _, _, r => r
  | k + 1, n, a, e, r =>
    let r2 := r * r % n
    powModBits k n a e (if bitAt e k then r2 * a % n else r2)

/-- The inverse modulo a prime of 384 bits. -/
def invMod (n a : Nat) : Nat := powModBits 384 n (a % n) (n - 2) 1

/-- A point in Jacobian coordinates; z = 0 is the point at infinity. -/
structure JPt where
  x : Nat
  y : Nat
  z : Nat
  deriving DecidableEq, Repr, Inhabited

/-- Difference modulo p. -/
def subP (a b : Nat) : Nat := (a + p384p - b % p384p) % p384p

/-- Doubling (a = −3). -/
def jDouble (p : JPt) : JPt :=
  if p.z = 0 then p
  else
    let zz := p.z * p.z % p384p
    let m := 3 * (subP p.x zz) * (p.x + zz) % p384p
    let yy := p.y * p.y % p384p
    let s := 4 * p.x * yy % p384p
    let x3 := subP (m * m % p384p) (2 * s)
    let y3 := subP (m * subP s x3 % p384p) (8 * yy * yy)
    ⟨x3, y3, 2 * p.y * p.z % p384p⟩

/-- Addition. -/
def jAdd (p q : JPt) : JPt :=
  if p.z = 0 then q
  else if q.z = 0 then p
  else
    let z1 := p.z * p.z % p384p
    let z2 := q.z * q.z % p384p
    let u1 := p.x * z2 % p384p
    let u2 := q.x * z1 % p384p
    let s1 := p.y * z2 % p384p * q.z % p384p
    let s2 := q.y * z1 % p384p * p.z % p384p
    if u1 = u2 then (if s1 = s2 then jDouble p else ⟨1, 1, 0⟩)
    else
      let h := subP u2 u1
      let r := subP s2 s1
      let hh := h * h % p384p
      let hhh := h * hh % p384p
      let v := u1 * hh % p384p
      let x3 := subP (subP (r * r % p384p) hhh) (2 * v)
      let y3 := subP (r * subP v x3 % p384p) (s1 * hhh)
      ⟨x3, y3, p.z * q.z % p384p * h % p384p⟩

/-- k·P over `n` bits of k, highest first. -/
def jMulBits : Nat → Nat → JPt → JPt → JPt
  | 0, _, _, r => r
  | n + 1, k, p, r =>
    let d := jDouble r
    jMulBits n k p (if bitAt k n then jAdd d p else d)
def jMul (k : Nat) (p : JPt) : JPt := jMulBits 384 k p ⟨1, 1, 0⟩

/-- The base point. -/
def p384g : JPt := ⟨p384gx, p384gy, 1⟩

/-- Affine coordinates of a point that is not at infinity. -/
def jAffine (p : JPt) : Nat × Nat :=
  let i := invMod p384p p.z
  let ii := i * i % p384p
  (p.x * ii % p384p, p.y * ii % p384p * i % p384p)

/-- The 97-byte encoding of a public key (R428). -/
def pubEncode (p : JPt) : Bytes := let a := jAffine p; [0x04] ++ beBytes 48 a.1 ++ beBytes 48 a.2

/-- Full validation under SP 800-56A of an encoded key: on the curve, not at infinity, n·Q at infinity (R438). -/
def pubValid (k : Bytes) : Bool :=
  let x := beNat (slice k 1 48)
  let y := beNat (slice k 49 48)
  k.length == 97 && byteAt k 0 == 4 && decide (x < p384p ∧ y < p384p) &&
  decide (y * y % p384p = (x * x % p384p * x + p384b + 3 * (p384p - x)) % p384p) &&
  decide ((jMul p384n ⟨x, y, 1⟩).z = 0)

/-- The key identifier of an encoded key (R428). -/
def keyId (k : Bytes) : Bytes := (sha384 k).take 16

/-- ECDSA verification over SHA-384 of a message (FIPS 186-5). -/
def ecdsaVerify (pub msg sig : Bytes) : Bool :=
  let r := beNat (slice sig 0 48)
  let s := beNat (slice sig 48 48)
  let z := beNat (sha384 msg)
  let w := invMod p384n s
  let q : JPt := ⟨beNat (slice pub 1 48), beNat (slice pub 49 48), 1⟩
  let pt := jAdd (jMul (z * w % p384n) p384g) (jMul (r * w % p384n) q)
  decide (1 ≤ r ∧ r < p384n ∧ 1 ≤ s ∧ s < p384n) && decide (pt.z ≠ 0) && decide ((jAffine pt).1 % p384n = r)

/-- A secret in 1 to n − 1 by rejection sampling (R426): 48 bytes drawn, drawn again while beyond n − 2. -/
def drawScalar : Nat → Drbg → Nat × Drbg
  | 0, d => (1, d)
  | k + 1, d =>
    let (b, d1) := drbgGenerate d 48
    if beNat b ≤ p384n - 2 then (beNat b + 1, d1) else drawScalar k d1

/-- Rejections allowed before the draw is given up: the chance of needing them is below 2^−3000. -/
def scalarTries : Nat := 16

/-- ECDSA signature with private key `priv`: r ‖ s, each 48 bytes (R51, R428). A zero r or s draws a new secret. -/
def ecdsaSign : Nat → Drbg → Nat → Bytes → Bytes × Drbg
  | 0, d, _, _ => (List.replicate 96 0, d)
  | t + 1, d, priv, msg =>
    let (k, d1) := drawScalar scalarTries d
    let r := (jAffine (jMul k p384g)).1 % p384n
    let z := beNat (sha384 msg)
    let s := invMod p384n k * ((z + r * priv) % p384n) % p384n
    if r = 0 ∨ s = 0 then ecdsaSign t d1 priv msg else (beBytes 48 r ++ beBytes 48 s, d1)

end Sys2Proof.Machine
end

