-- ==== Sys2Proof/Machine/LongWord.lean ====
section
/-! DEFINITION. The long word (R63), the window rule (R64, R65), special operands (R74), multi-word passes (R77 to R79),
normalisation statistics (R80 to R83) and Filuf-2 compatibility accumulation (R85). -/
namespace Sys2Proof.Machine

/-- The four special-value flags that travel beside a long word (R74). -/
structure Spec where
  nan : Bool
  inv : Bool
  pinf : Bool
  ninf : Bool
  deriving DecidableEq, Repr, Inhabited

/-- No special-value flag. -/
def Spec.none : Spec := ⟨false, false, false, false⟩

/-- Special-value flags are ORed, never added (R74). -/
def Spec.or (a b : Spec) : Spec := ⟨a.nan || b.nan, a.inv || b.inv, a.pinf || b.pinf, a.ninf || b.ninf⟩

/-- A long word: the LW128 integer with its special-value flags (R63, R74). -/
structure LWord where
  i : Int
  sp : Spec
  deriving DecidableEq, Repr, Inhabited

/-- The zero long word. -/
def LWord.zero : LWord := ⟨0, Spec.none⟩

/-- Long words that share one top add as integers and OR their flags (R91, R308). -/
def LWord.add (a b : LWord) : LWord := ⟨a.i + b.i, a.sp.or b.sp⟩

/-- ⌊v / 2^q⌋: truncation toward −∞ to the window's last place (R65). -/
def Dy.floorAt (v : Dy) (q : Int) : Int := (⟨v.m, v.e - q⟩ : Dy).floor

/-- The largest E over the finite non-zero values of a row or column, where there is one (R61). -/
def maxExp? (l : List FVal) : Option Int :=
  l.foldl (fun a v => match v.exp?, a with | some e, some b => some (max b e) | some e, none => some e | none, b => b) none

/-- The exponent of a row or column: −128 where no element is finite and non-zero (R61). -/
def maxExp (l : List FVal) : Int := (maxExp? l).getD (-128)

/-- The window top of an array output element (R64). -/
def windowTop (eh ew : Int) : Int := eh + ew + 2

/-- The special flags of one product (R74). -/
def prodSpec (a b : FVal) : Spec :=
  if a.isNan || b.isNan then ⟨true, false, false, false⟩
  else if a.isFin && b.isFin then Spec.none
  else if a.isZero || b.isZero then ⟨false, true, false, false⟩
  else if a.neg != b.neg then ⟨false, false, false, true⟩ else ⟨false, false, true, false⟩

/-- The integer term of one exact product on the window top `t` (R65); a special operand contributes 0 (R74). -/
def prodTerm (t : Int) (a b : FVal) : Int :=
  if a.isFin && b.isFin then (a.dy.mul b.dy).floorAt (t - 104) else 0

/-- The significand of `m` truncated to its top 8 bits (R77). -/
def top8 (m : Nat) : Nat :=
  let s := Nat.log2 m - 7
  m / pow2 s * pow2 s

/-- The parts hi, mid and lo of a finite FP32 operand; they share its sign and sum to it exactly (R77). -/
def split3 : FVal → List FVal
  | .fin s m e =>
    let hi := if m = 0 then 0 else top8 m
    let r := m - hi
    let mid := if r = 0 then 0 else top8 r
    [.fin s hi e, .fin s mid e, .fin s (r - mid) e]
  | v => [v]

/-- How an operand of the array enters it: whole, or as three parts when it is FP32 (R77). -/
def partsOf (isF32 : Bool) (v : FVal) : List FVal := if isF32 then split3 v else [v]

/-- The pairs of part ranks that the array runs: all nine in exact mode, those whose ranks sum to at most 2 in wide
mode, and every part against a whole operand (R78). -/
def passPairs (aF32 bF32 exactMode : Bool) : List (Nat × Nat) :=
  match aF32, bF32 with
  | true, true =>
    if exactMode then (upto 3).flatMap (fun i => (upto 3).map (fun j => (i, j)))
    else [(0, 0), (0, 1), (1, 0), (0, 2), (1, 1), (2, 0)]
  | true, false => [(0, 0), (1, 0), (2, 0)]
  | false, true => [(0, 0), (0, 1), (0, 2)]
  | false, false => [(0, 0)]

/-- The number of array passes of an operand pair (R60, R78). -/
def passCount (aF32 bF32 exactMode : Bool) : Nat := (passPairs aF32 bF32 exactMode).length

/-- The long-word contribution of one product: every partial product truncated on the one window (R79); a product
with a special operand contributes its flags and no term (R74). -/
def mulLW (t : Int) (aF32 bF32 exactMode : Bool) (a b : FVal) : LWord :=
  if a.isFin && b.isFin then
    let pa := partsOf aF32 a
    let pb := partsOf bF32 b
    ⟨sumInt ((passPairs aF32 bF32 exactMode).map (fun p => prodTerm t (pa.getD p.1 default) (pb.getD p.2 default))), Spec.none⟩
  else ⟨0, prodSpec a b⟩

/-- The long word of a row against a column on the window top `t` (R65, R91). -/
def dotLW (t : Int) (aF32 bF32 exactMode : Bool) (as bs : List FVal) : LWord :=
  (as.zip bs).foldl (fun acc p => acc.add (mulLW t aF32 bF32 exactMode p.1 p.2)) LWord.zero

/-- The output of a finished long word: the table of R74, else the one rounding of R70, with the flags each raises. -/
def lwOut (rule : RoundRule) (f : NumFmt) (w : LWord) (top : Int) : FRes :=
  if w.sp.inv || (w.sp.pinf && w.sp.ninf) then ⟨canonNaN f, flInvalid⟩
  else if w.sp.nan then ⟨canonNaN f, 0⟩
  else if w.sp.pinf then encodeInf f false
  else if w.sp.ninf then encodeInf f true
  else roundInt rule f w.i (top - 104)

/-- The markers of an exported long word with special flags (R269), as 128-bit patterns. -/
def lwMarker (sp : Spec) : Option Int :=
  if sp.nan || sp.inv || (sp.pinf && sp.ninf) then some (-(ipow2 127))
  else if sp.pinf then some (-(ipow2 127) + 1)
  else if sp.ninf then some (-(ipow2 127) + 2)
  else none

/-- The 16 bytes of an exported LW128: a marker, else the sum (R63, R269). -/
def lwBytes (w : LWord) : Bytes := leBytes 16 (unsigned 128 ((lwMarker w.sp).getD w.i))

/-- An LW128 read back: a marker gives its flags, any other word its integer (R269). The −2^127 marker reads as NaN. -/
def lwRead (bs : Bytes) : LWord :=
  let i := signed 128 (leNat bs)
  if i = -(ipow2 127) then ⟨0, ⟨true, false, false, false⟩⟩
  else if i = -(ipow2 127) + 1 then ⟨0, ⟨false, false, true, false⟩⟩
  else if i = -(ipow2 127) + 2 then ⟨0, ⟨false, false, false, true⟩⟩
  else ⟨i, Spec.none⟩

/-- Shift a long word from its top to a common higher top, truncating toward −∞ once (R67). -/
def lwShift (w : LWord) (top top' : Int) : LWord :=
  if w.sp = Spec.none then ⟨w.i / ipow2 (top' - top).toNat, w.sp⟩ else w

/-- The residue modulo 7 of a partial sum, 0 to 6 for negative values too (R92). -/
def residue7 (i : Int) : Nat := (i % 7).toNat

/-! ### Normalisation statistics -/

/-- The statistics the normaliser sums as a row arrives: e_x, S1 on top t1 and S2 on top t2 (R80); a row that holds a
NaN or an infinity forms no sums (R83). -/
structure RowStats where
  special : Bool
  ex : Int
  s1 : Int
  s2 : Int
  deriving DecidableEq, Repr, Inhabited

/-- The sums of R80 for an arriving row. -/
def rowStats (xs : List FVal) : RowStats :=
  if xs.all FVal.isFin then
    let ex := maxExp xs
    let t1 := ex + 1
    ⟨false, ex, sumInt (xs.map (fun v => v.dy.floorAt (t1 - 104))),
      sumInt (xs.map (fun v => (v.dy.mul v.dy).floorAt (2 * t1 - 104)))⟩
  else ⟨true, -128, 0, 0⟩

/-- D = n·B·2^104 − A² (R81). -/
def statD (n : Nat) (st : RowStats) : Int := Int.ofNat n * st.s2 * ipow2 104 - st.s1 * st.s1

/-- An exact integer quotient `i / d * 2^e` rounded once to FP32. -/
def quot32 (i : Int) (d : Nat) (e : Int) : R32 :=
  if i = 0 then ⟨0, 0⟩ else (roundQuot .fp32 (decide (i < 0)) i.natAbs d e).r32

/-- The mean S1 / n (R81, R83). -/
def statMean (n : Nat) (st : RowStats) : R32 :=
  if st.special then ⟨nan32, 0⟩ else quot32 st.s1 n (st.ex + 1 - 104)

/-- The mean square S2 / n (R81, R83). -/
def statMeanSq (n : Nat) (st : RowStats) : R32 :=
  if st.special then ⟨nan32, 0⟩ else quot32 st.s2 n (2 * (st.ex + 1) - 104)

/-- The variance D · 2^(2·t1 − 208) / n², and whether R82 clamped it to +0 (R81, R82, R83). -/
def statVar (n : Nat) (st : RowStats) : R32 × Bool :=
  if st.special then (⟨nan32, 0⟩, false)
  else if statD n st < 0 then (⟨0, flVarClamp⟩, true)
  else (quot32 (statD n st) (n * n) (2 * (st.ex + 1) - 208), false)

/-! ### Filuf-2 compatibility accumulation -/

/-- A product with its scales applied, rounded to FP32 (R85 step 1). -/
def compatProd (a b : FVal) : R32 :=
  match a, b with
  | .nan, _ => nanRes true
  | _, .nan => nanRes true
  | .inf s, v => if v.isZero then nanRes false else ⟨inf32 (s != v.neg), 0⟩
  | v, .inf s => if v.isZero then nanRes false else ⟨inf32 (s != v.neg), 0⟩
  | .fin s m e, .fin t n g => (roundMag roundEven .fp32 (s != t) (m * n) (e + g)).r32

/-- An FP32 accumulation step that ORs the flags of the addition (R85, R167). -/
def accAdd (acc : R32) (x : R32) : R32 :=
  let r := fadd acc.v x.v
  ⟨r.v, acc.fl ||| x.fl ||| r.fl⟩

/-- One level of R85's pairwise tree: positions 2m and 2m+1 are added, an unpaired last value passes up unchanged. -/
def treeLevel : List R32 → List R32
  | a :: b :: l => accAdd a b :: treeLevel l
  | l => l

/-- The pairwise tree of R85 step 5; the fuel is the number of levels. -/
def treeSum : Nat → List R32 → R32
  | _, [] => ⟨0, 0⟩
  | _, [a] => a
  | 0, a :: _ => a
  | n + 1, l => treeSum n (treeLevel l)

/-- The sum of the chunk sums of canonical slice `s`: chunks s, s+S, … in ascending order, from +0 (R85 step 4). -/
def sliceSum (sCount s : Nat) (chunks : List R32) : R32 :=
  ((chunks.zip (upto chunks.length)).filter (fun p => p.2 % sCount == s)).foldl (fun acc p => accAdd acc p.1) ⟨0, 0⟩

/-- A compatibility score (R85) with its flags. -/
def compatScore (sCount : Nat) (as bs : List FVal) : R32 :=
  let prods := (as.zip bs).map (fun p => compatProd p.1 p.2)
  let chunks := (chunksOf 256 prods.length prods).map (fun c => c.foldl accAdd ⟨0, 0⟩)
  treeSum 7 ((upto sCount).map (fun s => sliceSum sCount s chunks))

end Sys2Proof.Machine
end

