-- ==== Sys2Proof/Machine/Types.lean ====
section
/-! DEFINITION. The parts of the block's state: identity and start-up, partitions and tickets, stream contexts and row
summaries, running figures and their exchanges, Firn, ports and links, the Vault, the window and the error handlers. -/
namespace Sys2Proof.Machine

/-! ### Identity and start-up -/

/-- The grades of R3. -/
inductive Grade where
  | a | b | c
  deriving DecidableEq, Repr, Inhabited

/-- The steppings of R4. -/
inductive Stepping where
  | a0 | b0
  deriving DecidableEq, Repr, Inhabited

/-- Slices of a grade (R3). -/
def Grade.slices : Grade → Nat | .a => 4 | .b => 3 | .c => 2
/-- Tiles of a grade (R3). -/
def Grade.tiles : Grade → Nat | .a => 16 | .b => 12 | .c => 8
/-- Rime lanes of a grade (R3). -/
def Grade.lanes : Grade → Nat | .a => 256 | .b => 192 | .c => 128
/-- Firn pages of a grade (05). -/
def Grade.pages : Grade → Nat | .a => 3072 | .b => 2304 | .c => 1536
/-- The grade code of 0x1000.03. -/
def Grade.code : Grade → Nat | .a => 1 | .b => 2 | .c => 3

/-- The start-up states of R469. -/
inductive Startup where
  | reset | selftest | image | profile | ready | run | whiteout
  deriving DecidableEq, Repr, Inhabited

/-- The code of MGT_STAT [27:24] and EVT_STATE (R469). -/
def Startup.code : Startup → Nat
  | .reset => 0 | .selftest => 1 | .image => 2 | .profile => 3 | .ready => 4 | .run => 5 | .whiteout => 15

/-- The opcodes of R333. -/
inductive Op where
  | nop | step | score | settle | verify | beam | loss | grad | reduce | func | fill | loadw | evictw | save | restore
  | waitcount | fence | digest | dict | halt
  deriving DecidableEq, Repr, Inhabited

/-- The opcode byte (R333). -/
def Op.code : Op → Nat
  | .nop => 0x00 | .step => 0x01 | .score => 0x02 | .settle => 0x03 | .verify => 0x04 | .beam => 0x05
  | .loss => 0x08 | .grad => 0x09 | .reduce => 0x0A | .func => 0x10 | .fill => 0x11 | .loadw => 0x18 | .evictw => 0x19
  | .save => 0x20 | .restore => 0x21 | .waitcount => 0x28 | .fence => 0x29 | .digest => 0x2A | .dict => 0x30
  | .halt => 0x3F

/-- The opcode a byte names, where it names one (R331, R333). -/
def Op.ofCode : Nat → Option Op
  | 0x00 => some .nop | 0x01 => some .step | 0x02 => some .score | 0x03 => some .settle | 0x04 => some .verify
  | 0x05 => some .beam | 0x08 => some .loss | 0x09 => some .grad | 0x0A => some .reduce | 0x10 => some .func
  | 0x11 => some .fill | 0x18 => some .loadw | 0x19 => some .evictw | 0x20 => some .save | 0x21 => some .restore
  | 0x28 => some .waitcount | 0x29 => some .fence | 0x2A => some .digest | 0x30 => some .dict | 0x3F => some .halt
  | _ => none

/-- The command statuses of R24. -/
inductive Status where
  | ok | okAvalanche | emptyRow | invalidRow | deadlineStalled | settledWithoutPeers | range | format | scheduleFault
  | busy | unrecovered | whiteout
  deriving DecidableEq, Repr, Inhabited

/-- The code of a status (R24). -/
def Status.code : Status → Nat
  | .ok => 0x00 | .okAvalanche => 0x01 | .emptyRow => 0x02 | .invalidRow => 0x03 | .deadlineStalled => 0x04
  | .settledWithoutPeers => 0x05 | .range => 0x10 | .format => 0x11 | .scheduleFault => 0x12 | .busy => 0x13
  | .unrecovered => 0x21 | .whiteout => 0x3F

/-- The value status a status reduces to; statuses with none keep their code (R24). -/
def Status.value : Status → Nat
  | .ok => 0 | .okAvalanche => 0 | .deadlineStalled => 0 | s => s.code

/-- Statuses of kind "No result" (R24). -/
def Status.noResult : Status → Bool
  | .scheduleFault => true | .busy => true | .unrecovered => true | .whiteout => true | _ => false

/-! ### Counters -/

/-- The counters of the dictionary that hold a U64 (0x5005 and the 0x7000 range), sums excluded. -/
inductive Counter where
  | sleetDraws | settledWithoutPeers | sleetReseeds
  | retryTile | retryColumn | retryFirn | retryDrift | retryFrame | retryGenerator
  | inputHolds | peerWaits | stalls | checkWaits | creditWaits | deadlineStalls
  | varianceClamps | maskedRange | penaltyOverflows | flurryMismatches | sleetParity | busyDoorbells
  | slips | preemptions | preemptionShifts | badFrames | authFailures
  | avalanchePasses | avalancheRows | ladderClamps | continuedGathers
  | checkMismatches | checkMisses
  | framesSent | crcFailures | resends | framesDiscarded | linkDowns | sequenceFaults | abortsOriginated | abortsReceived
  | cellResidue | registerParity | accumulatorResidue | accumulatorCorrections | accumulatorUncorrectable
  | rowsBypassed | tilesDisabled
  | firnCorrections | firnWeight | backgroundRereads | wordsRetired | firnWork | regionsDegraded | scrubPasses
  | driftCrc | byteParity | metadataMismatches
  | laneMismatches | moraineMismatches | tableCorrections | tableReloads | contextsEmptied
  | tileEscalations | sliceEscalations | hostEscalations | tileOverflows | sliceOverflows | scheduleFaults
  | sessionsOpened | seedImports | seedImportFailures | checkpointsSigned | imageRefusals | drbgReseeds
  deriving DecidableEq, Repr, Inhabited

/-- A counter's place in the counter file. -/
def Counter.idx (c : Counter) : Nat := c.ctorIdx

/-! ### Rings, partitions -/

/-- A command ring (R323). -/
structure Ring where
  base : U64
  size : BitVec 8
  head : U16
  tail : U16
  deriving DecidableEq, Repr, Inhabited

/-- Slots of a ring of log2 size `size` (R323). -/
def Ring.slots (r : Ring) : Nat := pow2 r.size.toNat

/-- A completion or Floe ring (R323). -/
structure OutRing where
  base : U64
  size : BitVec 8
  write : U32
  read : U32
  deriving DecidableEq, Repr, Inhabited

/-- Slots of an output ring; a size of 0 gives none (R323). -/
def OutRing.slots (r : OutRing) : Nat := if r.size = 0 then 0 else pow2 r.size.toNat

/-- Records written and not yet consumed (R324). -/
def OutRing.lead (r : OutRing) : Nat := (r.write - r.read).toNat

/-- Free slots of an output ring. -/
def OutRing.free (r : OutRing) : Nat := r.slots - r.lead

/-- A partition's state (R323). -/
inductive PartState where
  | closed | opened | halted
  deriving DecidableEq, Repr, Inhabited

/-- The code of 0x3000.01 (R323). -/
def PartState.code : PartState → Nat | .closed => 0 | .opened => 1 | .halted => 2

/-- What waits for a partition's checkpoint (R326, R443). -/
inductive Waiting where
  | nothing
  | openWrite
  | closeWrite
  deriving DecidableEq, Repr, Inhabited

/-- A seed with its epoch (R424, R435). -/
structure Seed where
  bytes : Bytes
  epoch : U32
  deriving DecidableEq, Repr, Inhabited

/-- One of the 64 partitions (R323, R44 to R50, R424). -/
structure Partition where
  state : PartState
  waiting : Waiting
  quota : U16
  rings : Vector Ring 4
  comp : OutRing
  floe : OutRing
  settleWithout : Bool
  /-- Floe records written since start (R44 sequence). -/
  seq : Nat
  /-- The chain value, the number of the next checkpoint, the last sequence a checkpoint covers (R49 to R51). -/
  chain : Bytes
  ckptNumber : Nat
  lastSeq : Nat
  /-- Floe records since the last checkpoint became due (R50). -/
  unsigned : List Bytes
  /-- The partition's seed and epoch, and the key in every Flurry unit's slot (R275, R436). -/
  seed : Option Seed
  key : U64 × U64
  /-- A seed whose key is written once the partition is idle (R437). -/
  held : Option Seed
  deriving DecidableEq, Repr, Inhabited

/-- Why a checkpoint is due (R50, R51). -/
inductive CkptReason where
  | records | closed | halted | genesis
  deriving DecidableEq, Repr, Inhabited

/-- The reason code (R51). -/
def CkptReason.code : CkptReason → Nat | .records => 0 | .closed => 1 | .halted => 2 | .genesis => 3

/-- A checkpoint that is due and not yet signed (R50, R443). -/
structure Ckpt where
  part : Nat
  reason : CkptReason
  covered : Nat
  number : Nat
  lastSeq : Nat
  chain : Bytes
  prev : Bytes
  /-- The ticket whose completion record waits for it (R352, R355). -/
  ticket : Option Nat
  deriving DecidableEq, Repr, Inhabited

/-! ### Row summaries and stream contexts -/

/-- A top-list entry (R210). -/
structure TopEnt where
  s : F32
  id : Nat
  key : F32
  deriving DecidableEq, Repr, Inhabited

/-- A Gumbel candidate: key, id and score of its token (R208, R224). -/
structure KeyEnt where
  key : F32
  id : Nat
  s : F32
  deriving DecidableEq, Repr, Inhabited

/-- No Gumbel candidate (R308). -/
def KeyEnt.none : KeyEnt := ⟨0xFF800000, 0xFFFFFFFF, 0xFF800000⟩

/-- The LOSS extension of a row (R249, R309). -/
structure LossRow where
  count : Nat
  target : U64
  sum : LWord
  teacher : List U64
  deriving DecidableEq, Repr, Inhabited

/-- A row as Reel round 1 carries it (R216, R309). The ladder lists its records from the top step downward, each as
(step mass, count); `topRung = none` is the empty ladder. -/
structure RowRec where
  invalid : Bool
  masked : Bool
  maxS : F32
  maxId : Nat
  infs : Nat
  g : KeyEnt
  floor : F32
  captured : F32
  topRung : Option Int
  ladder : List (Nat × Nat)
  top : List TopEnt
  loss : Option LossRow
  deriving DecidableEq, Repr, Inhabited

/-- The mark of a row summary (R229, R230). -/
inductive SumMark where
  | empty
  | scored (step : Nat)
  | settled (step : Nat)
  deriving DecidableEq, Repr, Inhabited

/-- A row summary of a stream context (08): what round 1 carries, the step Gumbel pairs, the cornice, and the entries
an avalanche pass collected. -/
structure RowSum where
  mark : SumMark
  row : RowRec
  pairs : List (List KeyEnt)
  cornice : List (F32 × Nat)
  clamped : Bool
  /-- Finite unmasked tokens of the row on this member, those below the ladder window included (R218). -/
  finite : Nat
  /-- Keys that a SCORE left, for the ids of the top list, are in `row.top`; others are formed again (R204). -/
  collected : List (F32 × Nat)
  deriving DecidableEq, Repr, Inhabited

/-- The stream parameter record (R345), as its 128 bytes. -/
abbrev ParamRec := Bytes

/-- A stream context (R340). -/
structure Ctx where
  owner : Byte
  holds : Bool
  id : BitVec 24
  params : ParamRec
  penalties : List (Nat × Nat)
  biases : List (Nat × F32)
  beams : List Bytes
  nextStep : BitVec 48
  sleetUsed : Bool
  beamValid : Bool
  compat : Bool
  summary : RowSum
  /-- The ticket whose lists wait in the incoming bank (06). -/
  bank : Option Nat
  deriving DecidableEq, Repr, Inhabited

/-! ### Exchanges of a running figure -/

/-- A row's part of a round-2 payload (R312). -/
structure GatherRow where
  pos : Nat
  pair0 : KeyEnt
  pair1 : KeyEnt
  entries : List (F32 × Nat)
  deriving DecidableEq, Repr, Inhabited

/-- What an exchange carries (R308 to R313). -/
inductive Payload where
  | rows (l : List RowRec)
  | gather (l : List GatherRow)
  | tops (l : List Int)
  | words (l : List LWord)
  deriving DecidableEq, Repr, Inhabited

/-- An exchange in progress: its field of R298, its gather number, the segment whose children's frames are being merged and
the number of segments that have come down, the merged summary of the subtree so far, the child ports whose frames are still
expected, and whether a summary is missing (R305, R307, R319). A tree round has one segment. -/
structure Exch where
  kind : Nat
  gather : Nat
  segment : Nat
  segments : Nat
  down : Nat
  /-- Figure offset at which the exchange begins, and the length of its hop slots (R305, R307). -/
  t0 : Nat
  slot : Nat
  acc : Payload
  need : List (Fin 4)
  missing : Bool
  /-- Long words of the segments that have come down, and own long words of the segments to come (R307). -/
  finished : List LWord
  rest : List LWord
  /-- Segments cut at the ends of batches: where each begins, and its long words (R307, R370). -/
  starts : List Nat
  sizes : List Nat
  /-- Ticks by which waits for the frames now expected have moved the figure; they move no peer deadline (R317). -/
  waited : Nat
  /-- The peer deadline has passed, so waits count as stalls (R318). -/
  stalled : Bool
  stallCount : Nat
  deriving DecidableEq, Repr, Inhabited

/-- A row of a selecting command while it settles (R221 to R228). -/
structure SelRow where
  /-- The row's number in the command, and its stream position. -/
  index : Nat
  pos : Nat
  ctx : Nat
  sumCtx : Nat
  step : Nat
  draft : Option Nat
  merged : RowRec
  /-- Boundary protocol: the step j_b, and whether top-p and min-p apply at it (R223). -/
  boundary : Option (Int × Bool × Bool)
  entries : List (F32 × Nat)
  pair0 : KeyEnt
  pair1 : KeyEnt
  gathers : Nat
  decided : Option Nat
  avalanche : Bool
  withoutPeers : Bool
  deriving DecidableEq, Repr, Inhabited

/-- Where a launched command stands. -/
inductive Phase where
  | launched
  | exchanging
  | checking
  | finished
  deriving DecidableEq, Repr, Inhabited

/-- Where an avalanche pass stands (R227, R156): none, the rows still to be scored again, or the row whose spilled entries are
being read back and the rows after it. -/
inductive Pass where
  | idle
  | scoring (left : List Nat)
  | reading (row : Nat) (left : List Nat)
  deriving DecidableEq, Repr, Inhabited

/-- Bytes that a launched command has written to host memory; a spill area is scratch (R26, R157). -/
structure Written where
  ticket : Nat
  addr : Nat
  len : Nat
  scratch : Bool
  deriving DecidableEq, Repr, Inhabited

/-- A part of a result that waits for the comparison of a cross-checked command (R54): bytes for host memory, or a row for
the activation port. -/
inductive Post where
  | mem (addr : Nat) (bytes : Bytes)
  | act (bytes : Bytes)
  deriving DecidableEq, Repr, Inhabited

/-- What a command has produced so far (R44, R351). -/
structure Result where
  status : Status
  flags : U16
  value : U64
  digests : List U64
  rows : Nat
  notOk : Nat
  avalanche : Bool
  checkEqual : Bool
  /-- Ticks added by avalanche passes, continued gathers and round-2 stretches (R370). -/
  extra : Nat
  deriving DecidableEq, Repr, Inhabited

/-- A running figure (R357, R365, R373 to R378): its id, launch and declared length, and what moved it. -/
structure Running where
  figure : Option Nat
  urgent : Bool
  array : Bool
  /-- The shard was not resident at launch, so the figure streams it (R138). -/
  streamed : Bool
  launchCount : U64
  launchTick : Nat
  length : Nat
  moved : Nat
  retries : Nat
  held : Nat
  holding : Bool
  suspendedAt : Option Nat
  phase : Phase
  exch : Option Exch
  rows : List SelRow
  tops : List Int
  /-- Sets of a streamed shard that passed their checks, and refetches by set (R144). -/
  setsOk : List Nat
  /-- Sets whose fetched bytes came with a parity error, which is a CRC failure of the set (R461). -/
  setsBad : List Nat
  refetches : List (Nat × Nat)
  /-- The set whose bytes were late at its load tick, for which the figure holds until they arrive (R21, R143). -/
  lateSet : Option Nat
  /-- Non-determinism events of the command (R32). -/
  nd : Nat
  flurryErrors : List Sys2Proof.FlurryUnit
  /-- The avalanche pass, and the figure offset at which round 2 begins after it (R227, R370). -/
  pass : Pass
  passAt : Nat
  /-- What waits for the CHECK frame of the command (R54). -/
  posts : List Post
  /-- Ticks by which waits for the CHECK frame have moved the figure (R56). -/
  checkWaited : Nat
  result : Result
  deriving DecidableEq, Repr, Inhabited

/-- How far the block has read what a ticket needs before launch (R330, R153). -/
inductive Fetch where
  | command
  | blocks
  | lists
  | records
  | done
  deriving DecidableEq, Repr, Inhabited

/-- A hidden row in the activation buffer: its bytes and how it arrived (R170, R461, R462). -/
structure ActRow where
  bytes : Bytes
  badParity : Bool
  badLength : Bool
  stats : RowStats
  deriving DecidableEq, Repr, Inhabited

/-- An entry of the 512-entry ticket table (R14, R328 to R330). -/
structure Ticket where
  seq : Nat
  part : Nat
  queue : Nat
  slot : Nat
  cmd : Bytes
  blocks : Bytes
  fetch : Fetch
  /-- The command, an operand block or a fetched input could not be read (R338, R461). -/
  readError : Bool
  rows : List ActRow
  /-- Counts that the ticket waited for its lists while it was otherwise eligible (R21, R153; log 25). -/
  held : Nat
  run : Option Running
  /-- The ticket ended, with its status, flags of R351 and completion offset, and waits for its record. -/
  ended : Option (Status × Nat × Nat)
  deriving DecidableEq, Repr, Inhabited

/-! ### Firn -/

/-- A region's state (R133). -/
inductive RegionState where
  | empty | loading | resident | degraded
  deriving DecidableEq, Repr, Inhabited

/-- The code of 0x3300.05 (R133). -/
def RegionState.code : RegionState → Nat | .empty => 0 | .loading => 1 | .resident => 2 | .degraded => 3

/-- The rows a SCORE keeps in a work area (R230, R231). -/
structure Kept where
  ctxs : List Nat
  step : Nat
  fmt : NumFmt
  width : Nat
  scales : List Int
  deriving DecidableEq, Repr, Inhabited

/-- A Firn region (R133, R135, R231). -/
structure Region where
  owner : Byte
  base : U16
  pages : U16
  work : Bool
  state : RegionState
  descriptor : Bytes
  mapAscending : Bool
  kept : Option Kept
  deriving DecidableEq, Repr, Inhabited

/-! ### Ports and links -/

/-- Who a read is for. -/
inductive ReadFor where
  | ticket (seq : Nat)
  | set (seq n : Nat)
  | reread (region set : Nat)
  | background (region set : Nat)
  deriving DecidableEq, Repr, Inhabited

/-- A read request in flight (R458, R459, R461). -/
structure ReadReq where
  chan : Sys2Proof.MemChan
  tag : Nat
  addr : Nat
  len : Nat
  who : ReadFor
  again : Bool
  /-- The request has left; one that has not waits for a tag or a fetch descriptor (R14, R458). -/
  sent : Bool
  deriving DecidableEq, Repr, Inhabited

/-- A write request that the fabric has not acknowledged (R459, R461). -/
structure WriteReq where
  chan : Sys2Proof.MemChan
  tag : Nat
  addr : Nat
  data : Bytes
  ticket : Option Nat
  /-- The request has left; one that has not waits for a tag (R458). -/
  sent : Bool
  deriving DecidableEq, Repr, Inhabited

/-- A beat as it left: its data, the parity bit of each byte, and X_LAST (R452). -/
structure Beat where
  data : Bytes
  par : List Bool
  last : Bool
  deriving DecidableEq, Repr, Inhabited

/-- A sub-channel that the block sends on: credits held, messages that wait for one, beats sent (R452, R455, R456). -/
structure OutPort where
  credits : Nat
  queue : List Bytes
  sent : List Beat
  deriving DecidableEq, Repr, Inhabited

/-- A sub-channel that the block receives on: X_READY, and how often X_CREDIT has been pulsed (R455, R457). -/
structure InPort where
  ready : Bool
  credits : Nat
  deriving DecidableEq, Repr, Inhabited

/-- A Reel link's state (R293). -/
inductive LinkState where
  | unused | bringUp | up | misWired | down
  deriving DecidableEq, Repr, Inhabited

/-- The code of 0x4001.02 (R293). -/
def LinkState.code : LinkState → Nat | .unused => 0 | .bringUp => 1 | .up => 2 | .misWired => 3 | .down => 4

/-- A Reel frame (R298). -/
structure Frame where
  kind : Nat
  flags : Nat
  sender : Nat
  tag : Nat
  part : Nat
  opcode : Nat
  exchange : Nat
  gather : Nat
  groupSeq : Nat
  segment : Nat
  linkSeq : Nat
  acked : Nat
  credits : Nat
  payload : Bytes
  deriving DecidableEq, Repr, Inhabited

/-- A Reel port (R293 to R303). -/
structure Port where
  rate : U16
  state : LinkState
  neighbour : U16
  neighbourTag : U32
  /-- Credits held to send credited frames (R302). -/
  credits : Nat
  /-- Link sequence of the next credited frame, and the frames not yet acknowledged (R298, R301). -/
  txSeq : U16
  unacked : List Frame
  /-- Credited frames that wait for a credit. -/
  backlog : List Frame
  /-- Link sequence of the last credited frame received in order, and entries freed since the last frame sent. -/
  rxSeq : U16
  owed : Nat
  rxq : List Frame
  deriving DecidableEq, Repr, Inhabited

/-- A frame that a member passed over at its peer deadline (R319, R320). -/
structure Passed where
  port : Fin 4
  part : Nat
  opcode : Nat
  groupSeq : Nat
  exchange : Nat
  gather : Nat
  segment : Nat
  deriving DecidableEq, Repr, Inhabited

/-- An ABORT kept for a launch that has not taken place (R322). -/
structure AbortEnt where
  part : Nat
  opcode : Nat
  groupSeq : Nat
  origin : Nat
  deriving DecidableEq, Repr, Inhabited

/-! ### Vault and window -/

/-- The roles of R409. -/
inductive Role where
  | officer | operator | observer
  deriving DecidableEq, Repr, Inhabited

/-- The code of a role (R430). -/
def Role.code : Role → Nat | .officer => 1 | .operator => 2 | .observer => 3

/-- The role a code names (R430). -/
def Role.ofCode : Nat → Option Role
  | 1 => some .officer | 2 => some .operator | 3 => some .observer | _ => none

/-- A session, pending until its proof (R430). -/
structure Session where
  id : U32
  role : Role
  key : Bytes
  counter : U64
  opened : Bool
  challenge : Bytes
  deriving DecidableEq, Repr, Inhabited

/-- The Vault's state (0x5000.01). -/
inductive VaultState where
  | selfTesting | awaitingEnrol | operational | zeroised | failed
  deriving DecidableEq, Repr, Inhabited

/-- The code of 0x5000.01 (R451). -/
def VaultState.code : VaultState → Nat
  | .selfTesting => 0 | .awaitingEnrol => 1 | .operational => 2 | .zeroised => 3 | .failed => 4

/-- The continuous health tests of R445. -/
structure EntropyTests where
  samples : Nat
  last : Byte
  run : Nat
  windowFirst : Byte
  windowCount : Nat
  windowPos : Nat
  repFailed : Bool
  propFailed : Bool
  deriving DecidableEq, Repr, Inhabited

/-- The Vault (R423 to R451). -/
structure Vault where
  state : VaultState
  failures : U32
  enrolled : Bool
  keys : Vector Bytes 3
  sessions : List Session
  /-- The id of the next session; zero once every id has been given (R430). -/
  nextSession : U32
  failedProofs : Vector Nat 3
  seedWrap : Bytes
  drbg : Option Drbg
  /-- A reseed is due and waits for entropy (R444). -/
  reseedDue : Bool
  pool : Bytes
  tests : EntropyTests
  /-- The Sleet seed key of the last seeding (R285, R424). -/
  sleetKey : Bytes
  auditPriv : Nat
  auditPub : Bytes
  verifyKeys : Vector Bytes 4
  challenges : Nat
  deriving DecidableEq, Repr, Inhabited

/-- An open download (R421). -/
structure Download where
  intake : Nat
  total : Nat
  data : Bytes
  deriving DecidableEq, Repr, Inhabited

/-- A response that waits for something other than its own access (R326, R437). -/
inductive Deferred where
  | ckpt (part : Nat)
  | seed (part : Nat)
  deriving DecidableEq, Repr, Inhabited

/-- The management window (R415 to R417) and the request it holds. -/
structure Window where
  length : BitVec 11
  /-- The length of the frame that the last accepted Send submitted. -/
  sent : BitVec 11
  busy : Bool
  ready : Bool
  overrun : Bool
  respLength : BitVec 11
  slot : BitVec 6
  request : Bytes
  response : Bytes
  /-- A request awaits its operation. -/
  latched : Bool
  /-- The request was released while its partition was idle, or while it was busy (R404, R437). -/
  admitted : Bool
  refused : Bool
  deferred : Option Deferred
  deriving DecidableEq, Repr, Inhabited

/-- A loaded figure image (R367). -/
structure Figure where
  id : Nat
  image : Bytes
  deriving DecidableEq, Repr, Inhabited

/-! ### Errors -/

/-- The levels of the error handlers (R384). -/
inductive Level where
  | tile (n : Nat)
  | slice (n : Nat)
  | block
  deriving DecidableEq, Repr, Inhabited

/-- A resource of R384. -/
inductive Resource where
  | cell (row col : Nat)
  | accumulator (bank : Nat)
  | lane (n : Nat)
  | rounding (tile : Nat)
  | flurry
  | sleet
  | bank (n : Nat)
  | moraine
  | moraineFlurry
  | table (slice : Nat)
  | context (n : Nat)
  | crossing
  | port (n : Nat)
  deriving DecidableEq, Repr, Inhabited

/-- The kinds of the error log (R397). -/
inductive ErrKind where
  | cellResidue | registerParity | accResidue | accUncorrectable | firnWeight | firnWork | firnScrub | driftCrc
  | byteParity | laneMismatch | flurryMismatch | sleetParity | tableWord | contextWord | scheduleFault | reel
  | moraineMismatch | queueOverflow
  deriving DecidableEq, Repr, Inhabited

/-- The kind code (R397). -/
def ErrKind.code : ErrKind → Nat
  | .cellResidue => 1 | .registerParity => 2 | .accResidue => 3 | .accUncorrectable => 4 | .firnWeight => 5
  | .firnWork => 6 | .firnScrub => 7 | .driftCrc => 8 | .byteParity => 9 | .laneMismatch => 0x0A
  | .flurryMismatch => 0x0B | .sleetParity => 0x0C | .tableWord => 0x0D | .contextWord => 0x0E | .scheduleFault => 0x0F
  | .reel => 0x10 | .moraineMismatch => 0x11 | .queueOverflow => 0x12

/-- The actions of the error log (R397). -/
inductive ErrAction where
  | retried | rowBypassed | tileDisabled | ended | wordRetired | degraded | emptied | escalated | whiteout | reloaded
  deriving DecidableEq, Repr, Inhabited

/-- The action code (R397). -/
def ErrAction.code : ErrAction → Nat
  | .retried => 1 | .rowBypassed => 2 | .tileDisabled => 3 | .ended => 4 | .wordRetired => 5 | .degraded => 6
  | .emptied => 7 | .escalated => 8 | .whiteout => 9 | .reloaded => 0x0A

/-- An error, as a handler takes it: where it was found and the command it affects. -/
structure Err where
  kind : ErrKind
  resource : Resource
  unit : Nat
  detail : Nat
  ticket : Option Nat
  /-- Region and set of a Firn error. -/
  region : Nat
  set : Nat
  /-- A lane error of a figure that scores: the column group's retry (R384). -/
  scoring : Bool
  /-- Local Pavane count at detection (R397), and the work that an array retry repeats (R372). -/
  count : U64
  work : Sys2Proof.ArrayWork
  deriving DecidableEq, Repr, Inhabited

/-- A handler: the error it handles and up to four queued (R385). -/
structure Handler where
  current : Option Err
  queue : List Err
  deriving DecidableEq, Repr, Inhabited

/-- The retry kinds of R372, in table order. -/
inductive RetryKind where
  | tileLoad | columnGroup | firnReread | driftRefetch | frameResend | generator
  deriving DecidableEq, Repr, Inhabited

/-- A retry in progress or queued (R372 to R374), and the handler that is busy until it ends. -/
structure Retry where
  kind : RetryKind
  length : Nat
  level : Option Level
  err : Option Err
  attempt : Nat
  /-- The length has passed and bytes of a reread are still missing, so the hold goes on in whole counts (R146). -/
  late : Bool
  /-- A reread's bytes came with a parity error, which is a CRC failure of the set (R461). -/
  bad : Bool
  deriving DecidableEq, Repr, Inhabited

/-- A background reread of a set, begun by the scrub (R151): the bank of the bad word, and the attempts made (R147). -/
structure Background where
  region : Nat
  set : Nat
  bank : Nat
  attempt : Nat
  /-- Its bytes came with a parity error (R461). -/
  bad : Bool
  deriving DecidableEq, Repr, Inhabited

/-- A stationary register set (R86 to R97, R104): the bytes of the 33 physical rows, the block scales and column exponents, the
parity bit of each byte, and whether the set is stale. -/
structure RegSet where
  rows : List Bytes
  scales : Bytes
  metas : Bytes
  parity : List (List Bool)
  stale : Bool
  deriving DecidableEq, Repr, Inhabited

/-- A word of the accumulator with its special-value flags and its residue (R74, R105). The manual gives no SECDED code. -/
structure AccWord where
  bits : BitVec 128
  sp : Spec
  residue : Nat
  deriving DecidableEq, Repr, Inhabited

/-- The split buffer of a tile: the mid and lo part-sets, with byte parity (R110). -/
structure SplitBuf where
  bytes : Bytes
  parity : List Bool
  deriving DecidableEq, Repr, Inhabited

/-- A Serac tile (04): repair entry, pinned entry and retries of each physical row (R117 to R120); its register sets, split
buffer, accumulator and carry file, whose unlisted words are zero (R93, R105, R110, R112), and the columns with pending sums
(R115). -/
structure Tile where
  entry : U16
  pinned : U16
  /-- The pinned entry in force: the map comes into force on entry into READY (R120, R469). -/
  force : U16
  retries : Vector Nat 33
  active : RegSet
  shadow : RegSet
  acc : List AccWord
  split : SplitBuf
  carry : List F32
  pendCols : List Nat
  handler : Handler
  deriving DecidableEq, Repr, Inhabited

/-- A slice: its Sleet generator, its table copy, its fault bit and its handler (10, R388, R396). -/
structure Slice where
  sleet : List U64
  tableGood : Bool
  fault : Bool
  handler : Handler
  deriving DecidableEq, Repr, Inhabited

/-- The class B objects of R408. -/
structure Profile where
  vocab : U32
  accumulation : BitVec 8
  fp32Passes : BitVec 8
  compatSlices : BitVec 8
  tableGen : BitVec 8
  corniceMargin : F32
  filterOrder : BitVec 8
  dwChunk : U16
  srCap : BitVec 8
  gumbelSrc : BitVec 8
  srSrc : BitVec 8
  fillSrc : BitVec 8
  normalMethod : BitVec 8
  deriving DecidableEq, Repr, Inhabited

/-- The block-wide class T objects (R412, R293, 11, 05). -/
structure Settings where
  idleLimit : U16
  completionEvents : U64
  healthEvents : Bool
  hopBudget : U16
  driftBudget : U16
  peerGrace : U16
  stallLimit : U32
  memberId : U16
  groupSize : U16
  depth : BitVec 8
  parentPort : BitVec 8
  childPorts : BitVec 8
  groupTag : U32
  hopPayload : U32
  deriving DecidableEq, Repr, Inhabited

end Sys2Proof.Machine
end

