-- ==== Sys2Proof/Machine/Flags.lean ====
section
/-! DEFINITION. The arithmetic flag field of a command (R167), the discards of R165, and the reduction of row statuses
(R24, R25). The flag bits are those of Float.lean. -/
namespace Sys2Proof.Machine

/-- OR the flags of several steps into one field (R167). -/
def orFlags (l : List U16) : U16 := l.foldl (· ||| ·) 0

/-- The flags a score leaves: those of a masked score are discarded (R165). -/
def keptFlags (masked : Bool) (fl : U16) : U16 := if masked then 0 else fl

/-- One lane step after others: its flags are ORed into theirs (R167). -/
def R32.bind (x : R32) (f : F32 → R32) : R32 := let r := f x.v; ⟨r.v, x.fl ||| r.fl⟩

/-- A value that no step has touched yet. -/
def R32.pure (x : F32) : R32 := ⟨x, 0⟩

/-- The flags of a list of results. -/
def flagsOf (l : List R32) : U16 := orFlags (l.map R32.fl)

/-- Add to a command's flag field. -/
def Result.orFlags (r : Result) (fl : U16) : Result := { r with flags := r.flags ||| fl }

/-- Rows whose value status is not 0x00 (R44, R24). SETTLED_WITHOUT_PEERS reduces to no other status. -/
def countNotOk (l : List Status) : Nat := (l.filter (fun st => st.value != 0)).length

/-- The status of a command that completes with a result: its own, or OK (R25). -/
def commandStatus (st : Status) (late : Bool) : Status := if st == .ok && late then .deadlineStalled else st

end Sys2Proof.Machine
end

