-- ==== Sys2Proof/Machine/Flurry.lean ====
section
/-! DEFINITION. Flurry (R271 to R274), the tensor counter (R278), digest terms (R46), and the Sleet recurrence
(R284, R285). -/
namespace Sys2Proof.Machine

/-- 2^64. -/
def m64 : Nat := 0x10000000000000000

/-- Rotate left in 64 bits. -/
def rotl64 (x n : Nat) : Nat := (x * pow2 n) % m64 + x / pow2 (64 - n)

/-- The multiplier and the key-schedule constants of R272. -/
def flurryM : Nat := 0xB7E291C45A3D6F0B
def flurryC1 : Nat := 0x8F3D0C71E4A92B55
def flurryC2 : Nat := 0x3C6EF1A29D04B887

/-- rot[0] to rot[9] (R272). -/
def flurryRot : List Nat := [17, 29, 41, 11, 53, 23, 37, 7, 47, 31]

/-- The Flurry rounds for the rotations left (R272). -/
def flurryRounds : List Nat → Nat → Nat → Nat → Nat → Nat × Nat
  | [], _, _, a, b => (a, b)
  | r :: rs, k0, k1, a, b =>
    let a1 := (a + Nat.xor b k0) % m64
    let b1 := Nat.xor (rotl64 b r) ((a1 + k1) % m64)
    let a2 := a1 * flurryM % m64
    flurryRounds rs ((k0 + flurryC1) % m64) ((k1 + flurryC2) % m64) a2 b1

/-- The Flurry function: the output (a, b) for a key and a counter block (R272). -/
def flurry (k0 k1 a b : Nat) : Nat × Nat := flurryRounds flurryRot k0 k1 a b

/-- The counter block halves of R271. -/
def counterA (domain stream step : Nat) : Nat :=
  domain % 256 * pow2 56 + stream % pow2 24 * pow2 32 + step / pow2 16 % pow2 32
def counterB (step index : Nat) : Nat := step % pow2 16 * pow2 48 + index % pow2 48

/-- A Flurry draw under a key, by the fields of R271. -/
def draw (key : Nat × Nat) (domain stream step index : Nat) : Nat × Nat :=
  flurry key.1 key.2 (counterA domain stream step) (counterB step index)

/-- Uniform U(x) = x[63:40] × 2^−24 (R273). -/
def uniformU (x : Nat) : F32 := (roundMag roundEven .fp32 false (x / pow2 40) (-24)).r32.v

/-- Odd uniform V(x) = (2 × x[63:41] + 1) × 2^−24 (R273). -/
def uniformV (x : Nat) : F32 := (roundMag roundEven .fp32 false (2 * (x / pow2 41) + 1) (-24)).r32.v

/-- Rounding bits R_w(x) = x[63:64−w] (R273). -/
def roundingBits (x w : Nat) : Nat := x / pow2 (64 - w)

/-- The stream and step fields of the tensor counter of tag `g` and step value `n` (R278). -/
def tensorStream (g : Nat) : Nat := g % pow2 24
def tensorStep (g n : Nat) : Nat := g / pow2 24 % 256 * pow2 40 + n % pow2 40

/-- A draw for element `i` of a tensor (R278). -/
def drawTensor (key : Nat × Nat) (domain tag step i : Nat) : Nat × Nat :=
  draw key domain (tensorStream tag) (tensorStep tag step) i

/-- The digest term of an element: the first 64 bits of Flurry keyed by its value bits and its tag (R46). -/
def digestTerm (tag value i : Nat) : Nat := (flurry (value % m64) (tag % pow2 32) (counterA 0xFF 0 0) (counterB 0 i)).1

/-- The digest of a tensor given as (index, value) elements (R46, R47). -/
def digestOf (tag : Nat) (els : List (Nat × Nat)) : Nat :=
  els.foldl (fun d e => (d + digestTerm tag e.2 e.1) % m64) 0

/-- The digest of LW128 elements: two terms each, low half at 2i and high half at 2i + 1 (R46). -/
def digestLW (tag : Nat) (els : List (Nat × Nat)) : Nat :=
  digestOf tag (els.flatMap (fun e => [(2 * e.1, e.2 % m64), (2 * e.1 + 1, e.2 / m64)]))

/-- The 607 seed words of a slice's Sleet generator (R285). -/
def sleetSeed (key : Nat × Nat) (slice seeding : Nat) : List U64 :=
  (upto 607).map (fun m =>
    let a := (draw key 0x07 slice seeding m).1
    BitVec.ofNat 64 (if m = 0 then a / 2 * 2 + 1 else a))

/-- One word of the lagged sum: the state lists the last 607 words, oldest first (R284). -/
def sleetNext (ws : List U64) : List U64 := ws.drop 1 ++ [ws.getD (607 - 273) 0 + ws.getD 0 0]

/-- `n` words of the lagged sum. -/
def sleetAdvance : Nat → List U64 → List U64
  | 0, ws => ws
  | n + 1, ws => sleetAdvance n (sleetNext ws)

/-- A Sleet output is the high half of a word (R284). -/
def sleetOutput (w : U64) : Nat := w.toNat / pow2 32

/-- u of a Gumbel key from a Sleet output s: (2 × s[31:9] + 1) × 2^−24 (R286). -/
def sleetV (s : Nat) : F32 := (roundMag roundEven .fp32 false (2 * (s / pow2 9 % pow2 23) + 1) (-24)).r32.v

/-- u of a uniform fill from a Sleet output s: s[31:8] × 2^−24 (R286). -/
def sleetU (s : Nat) : F32 := (roundMag roundEven .fp32 false (s / pow2 8 % pow2 24) (-24)).r32.v

end Sys2Proof.Machine
end

