-- ==== Sys2Proof/Config.lean ====
section
/-! DEFINITION. What an implementation fixes and the manual does not give: ROM contents, compiled slot tables, and the
free values. None has a body, so no proof can see a value of it. -/
namespace Sys2Proof

/-- The free values of the manual, one for each value of the model's counter `State.free` (log 4). -/
opaque Config.freeBits : Nat → BitVec 64

/-- Segment record `n` of the built-in table file of generation `gen` (0 native, 1 Filuf-2) and function `fid`, in the
layout of R191; the files are not reproduced in the manual (R178; log 5). -/
opaque Config.romRecord : (gen fid n : Nat) → BitVec 128

/-- The slope constant k of sub-table `sub` of a built-in table file (R181, R190; log 5). -/
opaque Config.romSlope : (gen fid sub : Nat) → BitVec 64

/-- The SHA-384 digest of the Flurry known-answer file (0x8020.00; R291; log 5). -/
opaque Config.knownAnswerDigest : BitVec 384

/-- The follow offset that rhaeth-quad compiled for an ordered pair of figure images (R476; log 8): the first image, the
second image and the active tiles. -/
opaque Config.followOffset : (first second : List (BitVec 8)) → (tiles : Nat) → Nat

/-- Whether a slot of a running figure would coincide with one of an urgent figure, which the compiled slot tables decide
(R377; log 32): the images of the urgent and the other figure, the active tiles, and the offset of each figure. -/
opaque Config.slotsCoincide : (urgent other : List (BitVec 8)) → (tiles urgentAt otherAt : Nat) → Bool

/-- The swaps that rhaeth-quad compiled into a figure image, tile by tile in order (R104; log 72): the tile, the tick at which the
load into the set begins where it has one, and the swap tick. -/
opaque Config.figureSwaps : (image : List (BitVec 8)) → (tiles : Nat) → List (Nat × Option Nat × Nat)

/-- The result of a micro-program step for which R197 states none: EXPX of a NaN, and EXPI by a NaN (log 9): the step
code and its two operands. -/
opaque Config.microOpen : (op : Nat) → (a b : BitVec 32) → BitVec 32

/-- The fixed message of the pairwise consistency test, which the manual does not give (R441; log 74). -/
opaque Config.pairwiseMessage : List (BitVec 8)

/-- The size byte that DESCRIBE gives for the download intakes of 0x8040, whose type OCTETS(n) leaves n open (R412, R419;
log 35). -/
opaque Config.intakeSize : BitVec 8

end Sys2Proof
end

