-- ==== Sys2Proof/Machine/Profile.lean ====
section
/-! DEFINITION. The class B objects with their defaults (R408), and the profile digest (R407). -/
namespace Sys2Proof.Machine

/-- The defaults of the class B objects (R412, 03, 07, 08, 09, 10). -/
def Profile.defaults : Profile :=
  { vocab := 2097152, accumulation := 0, fp32Passes := 1, compatSlices := 8, tableGen := 0, corniceMargin := 0x41C00000,
    filterOrder := 0, dwChunk := 1024, srCap := 24, gumbelSrc := 0, srSrc := 0, fillSrc := 0, normalMethod := 0 }

/-- One record of the digest input: index, sub-index, size and value bytes (R407). -/
def profileRecord (index sub size value : Nat) : Bytes :=
  leBytes 2 index ++ leBytes 1 sub ++ leBytes 1 size ++ leBytes size value

/-- The digest input, in ascending order of index and sub-index (R407, R408). -/
def Profile.input (p : Profile) : Bytes :=
  profileRecord 0x2000 0 4 p.vocab.toNat ++ profileRecord 0x2001 1 1 p.accumulation.toNat ++
  profileRecord 0x2001 2 1 p.fp32Passes.toNat ++ profileRecord 0x2002 0 1 p.compatSlices.toNat ++
  profileRecord 0x2003 0 1 p.tableGen.toNat ++ profileRecord 0x2010 0 4 p.corniceMargin.toNat ++
  profileRecord 0x2011 0 1 p.filterOrder.toNat ++ profileRecord 0x2020 0 2 p.dwChunk.toNat ++
  profileRecord 0x2030 0 1 p.srCap.toNat ++ profileRecord 0x2031 1 1 p.gumbelSrc.toNat ++
  profileRecord 0x2031 2 1 p.srSrc.toNat ++ profileRecord 0x2031 3 1 p.fillSrc.toNat ++
  profileRecord 0x2040 0 1 p.normalMethod.toNat

/-- The profile digest 0x23FF.00 (R407). -/
def Profile.digest (p : Profile) : Bytes := sha384 p.input

end Sys2Proof.Machine
end

