-- ==== Sys2Proof/Machine/State.lean ====
section
/-! DEFINITION. The state of the block: everything the manual gives it, the queue of waiting commands, and the state
right after reset (logs 1 to 4). -/
namespace Sys2Proof.Machine

/-- Reasons a step stops. Both name a command that the manual gives no effect in that state because the hardware
never meets it there; stopping is safe (log 11). -/
inductive Fault where
  /-- An opcode row, a completion or a timer names a ticket that the block does not hold in the state the row needs.
  Raised by the opcode rows, COMMAND_COMPLETION and the ticket timers. Safe: the machine stops. -/
  | noSuchTicket
  /-- A memory response or an acknowledgement answers nothing the block asked for. Raised by READ_RESPONSE,
  WRITE_ACKNOWLEDGEMENT and WRITE_ACK_TIMEOUT. Safe: the machine stops. -/
  | unsolicited
  deriving DecidableEq, Repr, Inhabited

/-- Reasons a command is refused. -/
inductive Refusal where
  /-- The command has no meaning in this model; raised by an arm of `exec` alone. Safe: the machine stops. -/
  | notModelled (mnemonic : String)
  deriving DecidableEq, Repr, Inhabited

/-- Memory as its listed bytes: addresses strictly rising, no entry equal to 0, which an unlisted address reads as (log 3). -/
abbrev Memory := List Host.Cell

/-- The state of the block. -/
structure State where
  /-- Commands that wait, first in first out. -/
  pending : List Instr
  /-- The model's own counter behind the free values of `Config.freeBits` (log 4). -/
  free : Nat
  grade : Grade
  stepping : Stepping
  startup : Startup
  rstAsserted : Bool
  testMode : Bool
  released : Bool
  testsDone : Bool
  advancing : Bool
  zeroisePin : Bool
  tamperPin : Bool
  portErrors : Nat
  testReading : U64
  count : U64
  countLoaded : Bool
  slipPending : Bool
  inputDiff : BitVec 8
  tick : Nat
  profile : Profile
  profileDigest : Bytes
  settings : Settings
  parts : Vector Partition 64
  tickets : List Ticket
  nextSeq : Nat
  ckpts : List Ckpt
  ctxs : Vector Ctx 256
  regions : Vector Region 64
  firn : Memory
  bankSpares : Vector Nat 256
  scrub : Nat
  background : List Background
  mem : Memory
  reads : List ReadReq
  writes : List WriteReq
  /-- What the commands that have no record yet have written to host memory (R26, R157). -/
  written : List Written
  outs : Vector OutPort 17
  /-- The sub-channels that the block receives on (R453). -/
  ins : Vector InPort 18
  tiles : Vector Tile 16
  slices : Vector Slice 4
  block : Handler
  retries : List Retry
  /-- A frame boundary at which preemption was due came while a retry held the member (R379). -/
  preemptDue : Bool
  sleetRunning : Bool
  seedings : Nat
  overlays : List Bytes
  micros : List Bytes
  figures : List Figure
  ports : Vector Port 4
  memberDepth : BitVec 8
  abortTable : List AbortEnt
  abortSeen : List AbortEnt
  /-- Group commands that have launched or ended, by their launch (R322). -/
  groupDone : List AbortEnt
  passed : List Passed
  /-- Rows on the activation port that no ticket has taken yet, with their parity (R475). -/
  actIn : List (Bytes × Bool)
  vault : Vault
  window : Window
  download : Option Download
  pendingCompletions : U64
  pendingHealth : Bool
  /-- Events that came at the present count, which a read at this count leaves set (R413). -/
  freshCompletions : U64
  freshHealth : Bool
  /-- Reel bring-up has begun since reset (R294, R396). -/
  linksBegun : Bool
  whiteoutCause : BitVec 8
  whiteoutCount : U64
  tableReloaded : Bool
  reasons : BitVec 8
  log : Vector Bytes 16
  logWritten : U32
  counters : Vector U64 80
  deriving DecidableEq, Repr

/-- The empty command ring (R323). -/
def Ring.empty : Ring := ⟨0, 0, 0, 0⟩
/-- The empty output ring (R323). -/
def OutRing.empty : OutRing := ⟨0, 0, 0, 0⟩

/-- A partition after reset (R323, R424). -/
def Partition.reset : Partition :=
  { state := .closed, waiting := .nothing, quota := 8, rings := Vector.replicate 4 Ring.empty, comp := OutRing.empty,
    floe := OutRing.empty, settleWithout := false, seq := 0, chain := List.replicate 48 0, ckptNumber := 0, lastSeq := 0,
    unsigned := [], seed := none, key := (0, 0), held := none }

/-- The row record of no score (R308 identities). -/
def RowRec.empty : RowRec :=
  { invalid := false, masked := true, maxS := 0xFF800000, maxId := 0xFFFFFFFF, infs := 0, g := KeyEnt.none,
    floor := 0xFF800000, captured := 0xFF800000, topRung := none, ladder := [], top := [], loss := none }

/-- The empty row summary. -/
def RowSum.empty : RowSum :=
  { mark := .empty, row := RowRec.empty, pairs := [], cornice := [], clamped := false, finite := 0, collected := [] }

/-- An empty stream context of an owner (R340, R342). -/
def Ctx.emptyFor (owner : Byte) : Ctx :=
  { owner := owner, holds := false, id := 0, params := [], penalties := [], biases := [], beams := [], nextStep := 0,
    sleetUsed := false, beamValid := false, compat := false, summary := RowSum.empty, bank := none }

/-- A region after reset (R133). -/
def Region.reset : Region :=
  { owner := 0xFF, base := 0, pages := 0, work := false, state := .empty, descriptor := [], mapAscending := false,
    kept := none }

/-- An idle handler (R385). -/
def Handler.idle : Handler := ⟨none, []⟩

/-- A register set that no load has written (log 2). -/
def RegSet.empty : RegSet := ⟨[], [], [], [], false⟩

/-- A tile before self-test: no row bypassed, spare free, its registers and memories zero (log 2). -/
def Tile.reset : Tile :=
  { entry := 63, pinned := 0, force := 0, retries := Vector.replicate 33 0, active := RegSet.empty, shadow := RegSet.empty,
    acc := [], split := ⟨[], []⟩, carry := [], pendCols := [], handler := Handler.idle }

/-- A slice after reset (10, R388). -/
def Slice.reset : Slice := ⟨List.replicate 607 0, true, false, Handler.idle⟩

/-- A Reel port after reset (R293); a link's sequences start at 0 (log 12). -/
def Port.reset : Port :=
  { rate := 0, state := .unused, neighbour := 0xFFFF, neighbourTag := 0, credits := 0, txSeq := 0, unacked := [],
    backlog := [], rxSeq := 0xFFFF, owed := 0, rxq := [] }

/-- The Vault after reset: every value zero (R424). -/
def Vault.reset : Vault :=
  { state := .selfTesting, failures := 0, enrolled := false, keys := Vector.replicate 3 (List.replicate 48 0),
    sessions := [], nextSession := 1, failedProofs := Vector.replicate 3 0, seedWrap := List.replicate 32 0, drbg := none,
    reseedDue := false, pool := [], tests := ⟨0, 0, 0, 0, 0, 0, false, false⟩,
    sleetKey := List.replicate 16 0, auditPriv := 0, auditPub := [],
    verifyKeys := Vector.replicate 4 [], challenges := 0 }

/-- The window after reset (R415). -/
def Window.reset : Window :=
  { length := 0, sent := 0, busy := false, ready := false, overrun := false, respLength := 0, slot := 0,
    request := List.replicate 1024 0, response := List.replicate 1024 0, latched := false, admitted := false, refused := false,
    deferred := none }

/-- The class T objects at their defaults (R412, R293, R297, 05, 11). -/
def Settings.defaults : Settings :=
  { idleLimit := 300, completionEvents := 0, healthEvents := true, hopBudget := 512, driftBudget := 1024,
    peerGrace := 2048, stallLimit := 0, memberId := 0, groupSize := 1, depth := 0, parentPort := 0xFF, childPorts := 0,
    groupTag := 0, hopPayload := 81920 }

/-- The state right after reset of a part of a grade and stepping: RST_N asserted, state RESET, every object at its
default, no ticket, no session, nothing listed in memory (R455, R466, R469; logs 2 and 3). -/
def State.resetOf (g : Grade) (st : Stepping) : State :=
  { pending := [], free := 0, grade := g, stepping := st, startup := .reset, rstAsserted := true, testMode := false,
    released := false, testsDone := false, advancing := false, zeroisePin := false, tamperPin := false, portErrors := 0,
    testReading := 0, count := 0, countLoaded := false, slipPending := false, inputDiff := 0, tick := 0,
    profile := Profile.defaults, profileDigest := Profile.defaults.digest, settings := Settings.defaults,
    parts := Vector.replicate 64 Partition.reset, tickets := [], nextSeq := 0, ckpts := [],
    ctxs := Vector.replicate 256 (Ctx.emptyFor 0xFF), regions := Vector.replicate 64 Region.reset, firn := [],
    bankSpares := Vector.replicate 256 16, scrub := 0, background := [], mem := [], reads := [], writes := [], written := [],
    outs := Vector.replicate 17 ⟨0, [], []⟩,
    ins := Vector.replicate 18 ⟨false, 0⟩, tiles := Vector.replicate 16 Tile.reset,
    slices := Vector.replicate 4 Slice.reset, block := Handler.idle, retries := [], preemptDue := false,
    sleetRunning := false, seedings := 0,
    overlays := [], micros := [], figures := [], ports := Vector.replicate 4 Port.reset, memberDepth := 0xFF,
    abortTable := [], abortSeen := [], groupDone := [], passed := [], actIn := [], vault := Vault.reset,
    window := Window.reset, download := none,
    pendingCompletions := 0, pendingHealth := false, freshCompletions := 0, freshHealth := false, linksBegun := false,
    whiteoutCause := 0, whiteoutCount := 0, tableReloaded := false,
    reasons := 0, log := Vector.replicate 16 (List.replicate 32 0), logWritten := 0, counters := Vector.replicate 80 0 }

/-- The machine right after reset: grade A, stepping B0 (log 2). -/
def State.reset : State := State.resetOf .a .b0

end Sys2Proof.Machine
end

