-- ==== Sys2Proof/Machine/Ops.lean ====
section
/-! DEFINITION. The named operations over memory, counters, ports, tickets and partitions that the meanings share. -/
namespace Sys2Proof.Machine

/-- The answer of every meaning. -/
abbrev Out := Host.Outcome State Fault Refusal

/-! ### Memory (log 3) -/

/-- The byte at an address; an unlisted address reads as 0. -/
def Memory.byte : Memory → Nat → Byte
  | [], _ => 0
  | (k, b) :: m, a => if k = a then b else Memory.byte m a

/-- The canonical form: addresses strictly rising, and no entry equal to what an unlisted address reads as. -/
def Memory.wf : Memory → Bool
  | [] => true
  | [(_, b)] => b != 0
  | (k, b) :: (k', b') :: m => b != 0 && decide (k < k') && Memory.wf ((k', b') :: m)

/-- The cells of a byte string stored from `a`, in canonical form. -/
def Memory.cells (a : Nat) : Bytes → Memory
  | [] => []
  | b :: bs => if b = 0 then Memory.cells (a + 1) bs else (a, b) :: Memory.cells (a + 1) bs

/-- The memory with the bytes `bs` stored from `a`. -/
def Memory.store (m : Memory) (a : Nat) (bs : Bytes) : Memory :=
  m.filter (fun c => decide (c.1 < a)) ++ Memory.cells a bs ++ m.filter (fun c => decide (a + bs.length ≤ c.1))

/-- `n` bytes from `a` of a memory whose cells all lie at `a` or above. -/
def Memory.walk : Nat → Nat → Memory → Bytes
  | 0, _, _ => []
  | n + 1, a, [] => 0 :: Memory.walk n (a + 1) []
  | n + 1, a, (k, b) :: m => if k = a then b :: Memory.walk n (a + 1) m else 0 :: Memory.walk n (a + 1) ((k, b) :: m)

/-- `n` bytes from `a`. -/
def Memory.load (m : Memory) (a n : Nat) : Bytes :=
  Memory.walk n a (m.filter (fun c => decide (a ≤ c.1 ∧ c.1 < a + n)))

/-- An address of host memory as a request carries it: 52 bits (R458; log 26). -/
def hostAddr (a : Nat) : Nat := a % pow2 52

/-- `n` bytes of host memory as the block has them. -/
def State.host (s : State) (a n : Nat) : Bytes :=
  let lo := hostAddr a
  let k := min n (pow2 52 - lo)
  s.mem.load lo k ++ s.mem.load 0 (n - k)

/-- Host memory with bytes stored at an address (log 26). -/
def Memory.storeHost (m : Memory) (a : Nat) (bs : Bytes) : Memory :=
  let lo := hostAddr a
  let k := min bs.length (pow2 52 - lo)
  if k = bs.length then m.store lo bs else (m.store lo (bs.take k)).store 0 ((bs.drop k).take (pow2 52))

/-! ### Free values and counters -/

/-- A fresh free value (log 4). -/
def State.fresh (s : State) : BitVec 64 × State := (Config.freeBits s.free, { s with free := s.free + 1 })

/-- Add to a counter of the dictionary. -/
def State.bump (s : State) (c : Counter) (n : Nat) : State :=
  { s with counters := vset s.counters c.idx (vget s.counters c.idx + BitVec.ofNat 64 n) }

/-- The value of a counter. -/
def State.counter (s : State) (c : Counter) : U64 := vget s.counters c.idx

/-- The non-determinism total 0x7010.01 (R32). -/
def State.ndTotal (s : State) : U64 :=
  s.counter .sleetDraws + s.counter .settledWithoutPeers + s.counter .sleetReseeds

/-! ### Outgoing sub-channels (R455 to R457) -/

/-- A sub-channel's place in `State.outs`. -/
def outIdx : OutSub → Nat
  | .cmdDbs => 0 | .cmdRq => 1 | .cmdWd => 2 | .actOut => 3
  | .drfRq n => 4 + n.val | .drfWd n => 8 + n.val | .reelTx n => 12 + n.val | .mgtRs => 16

/-- Bytes of a beat of a sub-channel that the block sends on (R453). -/
def beatBytes : OutSub → Nat
  | .cmdDbs => 1 | .cmdRq => 16 | .cmdWd => 64 | .actOut => 128
  | .drfRq _ => 16 | .drfWd _ => 512 | .reelTx _ => 256 | .mgtRs => 4

/-- The even parity bit of a byte (R452). -/
def parityBit (b : Byte) : Bool := (upto 8).foldl (fun p i => p != b.getLsbD i) false

/-- The beats of a message: whole beats, bytes beyond the message in the last beat zero, X_LAST on the last (R452, R453). -/
def beatsOf (w : Nat) (msg : Bytes) : List Beat :=
  let n := max 1 (ceilDiv msg.length w)
  (upto n).map (fun i => let d := padTo w ((msg.drop (w * i)).take w); ⟨d, d.map parityBit, i + 1 == n⟩)

/-- Send what the credits allow: each message spends one credit (R456). -/
def OutPort.drain (w : Nat) (o : OutPort) : OutPort :=
  let k := min o.credits o.queue.length
  { credits := o.credits - k, queue := o.queue.drop k, sent := o.sent ++ (o.queue.take k).flatMap (beatsOf w) }

/-- Hand a message to a sub-channel; it leaves as soon as a credit is held (R456). -/
def State.emit (s : State) (sub : OutSub) (msg : Bytes) : State :=
  { s with outs := vmod s.outs (outIdx sub) (fun o => ({ o with queue := o.queue ++ [msg] } : OutPort).drain (beatBytes sub)) }

/-! ### Incoming sub-channels (R453, R455, R457) -/

/-- The sub-channels that the block receives on (R453). -/
inductive InSub where
  | cmdDb
  | cmdRd
  | cmdWa
  | actIn
  | drfRd (n : Fin 4)
  | drfWa (n : Fin 4)
  | reelRx (n : Fin 4)
  | mgtRq
  | vltEnt
  deriving DecidableEq, Repr, Inhabited

/-- A sub-channel's place in `State.ins`. -/
def inIdx : InSub → Nat
  | .cmdDb => 0 | .cmdRd => 1 | .cmdWa => 2 | .actIn => 3
  | .drfRd n => 4 + n.val | .drfWa n => 8 + n.val | .reelRx n => 12 + n.val | .mgtRq => 16 | .vltEnt => 17

/-- Message entries of the receivers, by place (R453). -/
def inEntries : List Nat := [16, 64, 64, 512, 1088, 1088, 1088, 1088, 64, 64, 64, 64, 8, 8, 8, 8, 1, 16]

/-- The receivers are out of reset: X_READY rises, and X_CREDIT is pulsed once for each message entry (R455). -/
def InPort.opened (n : Nat) : InPort := ⟨true, n⟩

/-- A message's entry is free again: its credit goes back (R457). -/
def State.returnCredit (s : State) (i : InSub) : State :=
  { s with ins := vmod s.ins (inIdx i) (fun p => { p with credits := p.credits + 1 }) }

/-- A parity error on a port: it is counted and pulses EVT_PORTERR (R461). -/
def State.portError (s : State) : State := { s.bump .byteParity 1 with portErrors := s.portErrors + 1 }

/-- A beat meets a receiver that is out of reset: it is taken, and its message's credit goes back; in reset nothing is taken
(R455, R457). -/
def State.onPort (s : State) (i : InSub) (f : State → Out) : Out := if s.rstAsserted then .next s else f (s.returnCredit i)

/-! ### Events (R413) -/

/-- A health event (R386, R413). -/
def State.healthEvent (s : State) : State := { s with pendingHealth := true, freshHealth := true }

/-- A completion event of a partition (R352, R413). -/
def State.completionEvent (s : State) (p : Nat) : State :=
  let b := BitVec.ofNat 64 (pow2 p)
  { s with pendingCompletions := s.pendingCompletions ||| b, freshCompletions := s.freshCompletions ||| b }

/-- The event line EVT_EVENT, shown also by MGT_STAT bit 29 (R413). -/
def State.eventPending (s : State) : Bool :=
  (s.pendingCompletions &&& s.settings.completionEvents) != 0 || (s.pendingHealth && s.settings.healthEvents)

/-- The Whiteout indication on EVT_WHITEOUT, high until RST_N (R391, R454). -/
def State.evtWhiteout (s : State) : Bool := s.startup == .whiteout

/-- The start-up state on EVT_STATE, as MGT_STAT [27:24] shows it (R454, R469). -/
def State.evtState (s : State) : Nat := s.startup.code

/-! ### Grades and tiles -/

/-- The live repair entry of a tile: its own entry, disabled and marked pinned where an in-force pinned entry disables
it (R120, 0x6003). A tile disabled both by its own entry and by a pinned one reads Pinned 0 (DESIGN CHOICE, log 80). -/
def Tile.live (t : Tile) : U16 :=
  if t.entry.toNat ≥ 0x8000 then t.entry
  else if t.force = 0xC000 then t.entry ||| 0xC000 else t.entry

/-- The tile is disabled (R120). -/
def Tile.disabled (t : Tile) : Bool := decide (t.live.toNat ≥ 0x8000)

/-- The tile numbers of the grade. -/
def State.tileNos (s : State) : List Nat := upto s.grade.tiles

/-- The active tiles (R124). -/
def State.activeTiles (s : State) : List Nat := s.tileNos.filter (fun i => !(vget s.tiles i).disabled)

/-- Tiles whose spare row is in use (R396). -/
def State.sparesInUse (s : State) : Nat :=
  (s.tileNos.filter (fun i => decide ((vget s.tiles i).entry.toNat % 64 < 32))).length

/-- Bring-up or a link error left the parent port or a child port not up (R396 [8]). -/
def State.treePorts (s : State) : List (Fin 4) :=
  [0, 1, 2, 3].filter (fun p : Fin 4 =>
    s.settings.parentPort.toNat == p.val || bitAt s.settings.childPorts.toNat p.val)

/-- The child ports (R293). -/
def State.childPorts (s : State) : List (Fin 4) :=
  [0, 1, 2, 3].filter (fun p : Fin 4 => bitAt s.settings.childPorts.toNat p.val)

/-- The parent port, where the member has one (R293). -/
def State.parentPort (s : State) : Option (Fin 4) :=
  ([0, 1, 2, 3] : List (Fin 4)).find? (fun p => s.settings.parentPort.toNat == p.val)

/-- The ports that are up. -/
def State.upPorts (s : State) : List (Fin 4) :=
  [0, 1, 2, 3].filter (fun p : Fin 4 => (vget s.ports p.val).state == .up)

/-! ### Tickets and partitions -/

/-- A partition. -/
def State.part (s : State) (p : Nat) : Partition := s.parts[p]?.getD Partition.reset

/-- Change a partition. -/
def State.modPart (s : State) (p : Nat) (f : Partition → Partition) : State := { s with parts := vset s.parts p (f (s.part p)) }

/-- The ticket of a sequence. -/
def State.ticket (s : State) (q : Nat) : Option Ticket := s.tickets.find? (fun t => t.seq == q)

/-- Change the ticket of a sequence. -/
def State.modTicket (s : State) (q : Nat) (f : Ticket → Ticket) : State :=
  { s with tickets := s.tickets.map (fun t => if t.seq = q then f t else t) }

/-- Free a ticket (R352). -/
def State.dropTicket (s : State) (q : Nat) : State := { s with tickets := s.tickets.filter (fun t => t.seq != q) }

/-- Change the running figure of a ticket. -/
def State.modRun (s : State) (q : Nat) (f : Running → Running) : State :=
  s.modTicket q (fun t => { t with run := t.run.map f })

/-- Tickets that a partition holds (R323). -/
def State.heldTickets (s : State) (p : Nat) : Nat := (s.tickets.filter (fun t => t.part == p)).length

/-- A partition is idle while it holds no ticket (R325). -/
def State.partIdle (s : State) (p : Nat) : Bool := s.heldTickets p == 0

/-- Every partition is idle (R325). -/
def State.allIdle (s : State) : Bool := s.tickets.isEmpty

/-- A stream context. -/
def State.ctx (s : State) (c : Nat) : Ctx := s.ctxs[c]?.getD (Ctx.emptyFor 0xFF)

/-- Change a stream context. -/
def State.modCtx (s : State) (c : Nat) (f : Ctx → Ctx) : State := { s with ctxs := vset s.ctxs c (f (s.ctx c)) }

/-- A Firn region. -/
def State.region (s : State) (r : Nat) : Region := s.regions[r]?.getD Region.reset

/-- Change a Firn region. -/
def State.modRegion (s : State) (r : Nat) (f : Region → Region) : State :=
  { s with regions := vset s.regions r (f (s.region r)) }

/-- A tile. -/
def State.tile (s : State) (i : Nat) : Tile := s.tiles[i]?.getD Tile.reset

/-- Change a tile. -/
def State.modTile (s : State) (i : Nat) (f : Tile → Tile) : State := { s with tiles := vset s.tiles i (f (s.tile i)) }

/-- A slice. -/
def State.sliceOf (s : State) (i : Nat) : Slice := s.slices[i]?.getD Slice.reset

/-- Change a slice. -/
def State.modSlice (s : State) (i : Nat) (f : Slice → Slice) : State := { s with slices := vset s.slices i (f (s.sliceOf i)) }

/-- A Reel port. -/
def State.port (s : State) (i : Fin 4) : Port := s.ports[i]

/-- Change a Reel port. -/
def State.modPort (s : State) (i : Fin 4) (f : Port → Port) : State := { s with ports := s.ports.set i (f (s.port i)) }

/-- Change the Vault. -/
def State.modVault (s : State) (f : Vault → Vault) : State := { s with vault := f s.vault }

/-- Change the window. -/
def State.modWindow (s : State) (f : Window → Window) : State := { s with window := f s.window }

/-- Change a running figure at each ticket. -/
def State.mapRuns (s : State) (f : Ticket → Running → Running) : State :=
  { s with tickets := s.tickets.map (fun t => { t with run := t.run.map (f t) }) }

/-- The figure runs until its records are written, unless a preemption has suspended it (R373). -/
def Running.active (r : Running) : Bool := r.suspendedAt.isNone

/-- A ticket's figure is launched and has not ended. -/
def Ticket.running (t : Ticket) : Bool := t.run.isSome && t.ended.isNone

/-- A ticket that a launched figure serves and that is not yet finished: the opcode rows act on such tickets alone. -/
def State.launched (s : State) (q : Nat) : Option (Ticket × Running) :=
  match s.ticket q with
  | some t => match t.run, t.ended with
    | some r, none => some (t, r)
    | _, _ => none
  | none => none

/-! ### The block runs -/

/-- Nothing happens while RST_N is asserted, until SELFTEST is entered, and in test mode (R455, R468, R469). -/
def State.dormant (s : State) : Bool := s.startup == .reset

/-- A meaning that the block takes only outside RESET: in RESET nothing happens (R469). -/
def State.awake (s : State) (f : State → Out) : Out := if s.dormant then .next s else f s

/-! ### Memory requests (R458, R459) -/

/-- The least tag not in use among a channel's requests in flight (R458; log 13). -/
def freeTag (used : List Nat) : Nat := ((upto (used.length + 1)).find? (fun t => !used.contains t)).getD 0

/-- Tags of a sub-channel: 11 bits (R458). -/
def tagSpace : Nat := 2048

/-- Fetch descriptors of a Drift channel (R14, R140). -/
def fetchDescriptors : Nat := 32

/-- The tags of a channel's requests in flight (R458). -/
def State.tagsUsed (s : State) (ch : Sys2Proof.MemChan) : List Nat :=
  (s.reads.filter (fun r => r.chan == ch && r.sent)).map ReadReq.tag ++
    (s.writes.filter (fun w => w.chan == ch && w.sent)).map WriteReq.tag

/-- The fetch descriptor of a set read: eight consecutive sets of one channel, so 32 consecutive sets over the four (R140). -/
def ReadFor.descriptor : ReadFor → Option (Nat × Nat)
  | .set q n => some (q, n / 32)
  | _ => none

/-- A fetch descriptor serves the read, or one is free (R14, R140). -/
def State.descriptorFree (s : State) (r : ReadReq) : Bool :=
  match r.who.descriptor with
  | none => true
  | some d =>
    let ds := ((s.reads.filter (fun x => x.chan == r.chan && x.sent)).filterMap (fun x => x.who.descriptor)).eraseDups
    ds.contains d || decide (ds.length < fetchDescriptors)

/-- The request sub-channel of a channel. -/
def rqSub : Sys2Proof.MemChan → OutSub | .cmd => .cmdRq | .drf n => .drfRq n
/-- The write-data sub-channel of a channel. -/
def wdSub : Sys2Proof.MemChan → OutSub | .cmd => .cmdWd | .drf n => .drfWd n

/-- A request beat (R458): kind 1 read, 2 write. -/
def requestBeat (kind tag len addr : Nat) : Bytes :=
  leBytes 16 (kind * pow2 124 + tag * pow2 104 + (len / 64 - 1) * pow2 96 + addr)

/-- Give a waiting read its tag and send it (R458). -/
def State.sendRead (s : State) (r : ReadReq) : State :=
  let tag := freeTag (s.tagsUsed r.chan)
  ({ s with reads := modFirst (· == r) (fun x => { x with tag := tag, sent := true }) s.reads }).emit (rqSub r.chan)
    (requestBeat 1 tag r.len r.addr)

/-- Give a waiting write its tag and send it with its data (R458, R459). -/
def State.sendWrite (s : State) (w : WriteReq) : State :=
  let tag := freeTag (s.tagsUsed w.chan)
  let beat := match w.chan with | .cmd => w.data | .drf _ => padTo 512 w.data
  (({ s with writes := modFirst (· == w) (fun x => { x with tag := tag, sent := true }) s.writes }).emit (rqSub w.chan)
    (requestBeat 2 tag w.data.length w.addr)).emit (wdSub w.chan) beat

/-- Send the requests of a channel that wait, reads before writes and each in order, while tags and descriptors last; the fuel
is their number (R14, R458; log 13). -/
def State.sendWaiting : Nat → Sys2Proof.MemChan → State → State
  | 0, _, s => s
  | n + 1, ch, s =>
    if (s.tagsUsed ch).length ≥ tagSpace then s
    else match s.reads.find? (fun r => r.chan == ch && !r.sent && s.descriptorFree r) with
      | some r => State.sendWaiting n ch (s.sendRead r)
      | none => match s.writes.find? (fun w => w.chan == ch && !w.sent) with
        | some w => State.sendWaiting n ch (s.sendWrite w)
        | none => s

/-- Send what waits on a channel (R14, R458). -/
def State.drainChannel (s : State) (ch : Sys2Proof.MemChan) : State :=
  State.sendWaiting ((s.reads.filter (fun r => r.chan == ch && !r.sent)).length +
    (s.writes.filter (fun w => w.chan == ch && !w.sent)).length) ch s

/-- Issue a read of at most 512 bytes at a multiple of 64 (R458). It leaves once a tag, and for a set a fetch descriptor, is
free. -/
def State.issueRead (s : State) (ch : Sys2Proof.MemChan) (addr len : Nat) (who : ReadFor) (again : Bool) : State :=
  ({ s with reads := s.reads ++ [ReadReq.mk ch 0 addr len who again false] }).drainChannel ch

/-- The requests that cover `len` bytes from `addr`: lines of 64 bytes, cut at multiples of 512 (R140, R458). -/
def requestPieces (addr len : Nat) : List (Nat × Nat) :=
  if len = 0 then []
  else
    let lo := addr / 512
    let hi := (addr + len - 1) / 512
    (upto (hi + 1 - lo)).map (fun i =>
      let a := max (addr / 64 * 64) (512 * (lo + i))
      let b := min (ceilDiv (addr + len) 64 * 64) (512 * (lo + i + 1))
      (hostAddr a, b - a))

/-- The Drift channel of a transfer that no rule assigns (log 13). -/
def drfOf (addr : Nat) : Sys2Proof.MemChan := .drf ⟨addr / 512 % 4, Nat.mod_lt _ (by decide)⟩

/-- Read a range of host memory over Drift, for someone. -/
def State.readRange (s : State) (who : ReadFor) (r : Nat × Nat) : State :=
  (requestPieces r.1 r.2).foldl (fun (s : State) p => s.issueRead (drfOf p.1) p.1 p.2 who false) s

/-- Read a range over one Drift channel (R140: set n on channel n mod 4). -/
def State.readRangeOn (s : State) (n : Nat) (who : ReadFor) (r : Nat × Nat) : State :=
  (requestPieces r.1 r.2).foldl (fun (s : State) p => s.issueRead (.drf ⟨n % 4, Nat.mod_lt _ (by decide)⟩) p.1 p.2 who false) s

/-- Read the pieces of a set with its CRC entry on the set's channel, in ascending address (R140). -/
def State.readPieces (s : State) (n : Nat) (who : ReadFor) (rs : List (Nat × Nat)) : State :=
  (sortBy (fun (a b : Nat × Nat) => decide (a.1 < b.1)) rs).foldl (fun (s : State) r => s.readRangeOn n who r) s

/-- Issue one write request with its data; the model's view of host memory takes the bytes (R459, log 3). -/
def State.issueWrite (s : State) (ch : Sys2Proof.MemChan) (addr len : Nat) (ticket : Option Nat) : State :=
  ({ s with writes := s.writes ++ [WriteReq.mk ch 0 addr (s.mem.load addr len) ticket false] }).drainChannel ch

/-- Write bytes to host memory over Drift: the lines of 64 bytes that cover them are written (log 14). -/
def State.writeDrift (s : State) (ticket : Option Nat) (addr : Nat) (bs : Bytes) : State :=
  if bs.isEmpty then s
  else
    let s1 := { s with mem := s.mem.storeHost addr bs }
    (requestPieces addr bs.length).foldl (fun (s : State) p => s.issueWrite (drfOf p.1) p.1 p.2 ticket) s1

/-- Bytes that a command writes now, and that it has written (R26, R157). -/
def State.writeNoted (s : State) (q addr : Nat) (bs : Bytes) (scratch : Bool) : State :=
  let s1 := s.writeDrift (some q) addr bs
  { s1 with written := ⟨q, addr, bs.length, scratch⟩ :: s1.written }

/-- Bytes that a command writes to scratch, which is no part of its result (R157). -/
def State.writeScratch (s : State) (q addr : Nat) (bs : Bytes) : State := s.writeNoted q addr bs true

/-- The command of a ticket carries the cross-check flag, so that its result is posted only after the comparison (R54). -/
def State.holdsPosts (s : State) (q : Nat) : Bool := ((s.ticket q).map (fun t => bitAt (byteAt t.cmd 1) 0)).getD false

/-- Hold a part of a command's result until the comparison (R54). -/
def State.hold (s : State) (q : Nat) (p : Post) : State := s.modRun q (fun r => { r with posts := r.posts ++ [p] })

/-- Write a part of a command's result to host memory, after the comparison where it is cross-checked (R54). -/
def State.writeHost (s : State) (q addr : Nat) (bs : Bytes) : State :=
  if s.holdsPosts q then s.hold q (.mem addr bs) else s.writeNoted q addr bs false

/-- Send a row of a command's result on the activation port, after the comparison where it is cross-checked (R54). -/
def State.sendAct (s : State) (q : Nat) (bs : Bytes) : State :=
  if s.holdsPosts q then s.hold q (.act bs) else s.emit .actOut bs

/-- Post one part of a result that waited (R54). -/
def State.post (s : State) (q : Nat) (p : Post) : State :=
  match p with
  | .mem a bs => s.writeNoted q a bs false
  | .act bs => s.emit .actOut bs

/-- Post what waited for the comparison (R54). -/
def State.postAll (s : State) (q : Nat) : State :=
  let ps := match (s.ticket q).bind Ticket.run with | some r => r.posts | none => []
  (ps.foldl (fun (s : State) p => s.post q p) s).modRun q (fun r => { r with posts := [] })

/-- Bytes whose values the manual leaves undefined: free values (log 33). -/
def State.openBytes (s : State) : Nat → Bytes × State
  | 0 => ([], s)
  | n + 1 => let f := s.fresh; let r := f.2.openBytes n; (BitVec.ofNat 8 f.1.toNat :: r.1, r.2)

/-- Host memory whose contents are undefined from now on: free values (R26, R157; log 33). -/
def State.openRange (s : State) (addr len : Nat) : State :=
  let r := s.openBytes len
  { r.2 with mem := r.2.mem.storeHost addr r.1 }

/-- What a command has written becomes undefined when it ends without a result (R26), its scratch in any case (R157). -/
def State.openWritten (s : State) (q : Nat) (all : Bool) : State :=
  let ws := s.written.filter (fun w => w.ticket == q)
  let s1 := (ws.filter (fun w => all || w.scratch)).foldl (fun (s : State) w => s.openRange w.addr w.len) s
  { s1 with written := s1.written.filter (fun w => w.ticket != q) }

/-- Write a record to host memory over the command port (17). -/
def State.writeRecord (s : State) (ticket : Option Nat) (addr : Nat) (bs : Bytes) : State :=
  let s1 := { s with mem := s.mem.storeHost addr bs }
  (requestPieces addr bs.length).foldl (fun (s : State) p => s.issueWrite .cmd p.1 p.2 ticket) s1

/-- Reads still in flight for a ticket's inputs before launch. -/
def State.readsFor (s : State) (q : Nat) : List ReadReq := s.reads.filter (fun r => r.who == .ticket q)

/-- Writes of a ticket that the fabric has not accepted (R352). -/
def State.writesFor (s : State) (q : Nat) : List WriteReq := s.writes.filter (fun w => w.ticket == some q)

/-! ### The error log (R397) -/

/-- The level code of a log entry. -/
def Level.code : Level → Nat | .tile _ => 1 | .slice _ => 2 | .block => 3

/-- Write an error log entry for an error detected at a count (R397). -/
def State.logAt (s : State) (count : U64) (level : Level) (kind : ErrKind) (unit detail : Nat) (action : ErrAction)
    (ticket : Option Nat) : State :=
  let part := match ticket.bind s.ticket with | some t => t.part | none => 0xFF
  let seq := match ticket with | some q => q | none => pow2 64 - 1
  let e := leBytes 8 count.toNat ++ leBytes 1 level.code ++ leBytes 1 kind.code ++ leBytes 1 unit ++
    leBytes 1 detail ++ leBytes 1 action.code ++ leBytes 1 part ++ leBytes 2 0 ++ leBytes 8 seq ++ leBytes 8 0
  { s with log := vset s.log (s.logWritten.toNat % 16) e, logWritten := s.logWritten + 1 }

/-- Write an error log entry for an error detected now (R397). -/
def State.logError (s : State) (level : Level) (kind : ErrKind) (unit detail : Nat) (action : ErrAction)
    (ticket : Option Nat) : State := s.logAt s.count level kind unit detail action ticket

/-- Write an entry for an error that a handler took, with its unit and detail (R397). -/
def State.logErr (s : State) (level : Level) (e : Err) (action : ErrAction) : State :=
  s.logAt e.count level e.kind e.unit e.detail action e.ticket

end Sys2Proof.Machine
end

