-- ==== Sys2Proof/Machine/Links.lean ====
section
/-! DEFINITION. Reel frames (R298, R299), link-level sending, credits and acknowledgements (R301, R302), and ABORT (R321). -/
namespace Sys2Proof.Machine

/-- Frame type codes (R299). -/
def ftIdle : Nat := 0x00
def ftHello : Nat := 0x01
def ftNak : Nat := 0x02
def ftExchange : Nat := 0x10
def ftCheck : Nat := 0x20
def ftAbort : Nat := 0x3F

/-- The header and payload of a frame (R298). -/
def Frame.body (f : Frame) : Bytes :=
  leBytes 1 f.kind ++ leBytes 1 f.flags ++ leBytes 2 f.sender ++ leBytes 4 f.tag ++ leBytes 1 f.part ++
  leBytes 1 f.opcode ++ leBytes 1 f.exchange ++ leBytes 1 f.gather ++ leBytes 4 f.groupSeq ++ leBytes 4 f.segment ++
  leBytes 4 f.payload.length ++ leBytes 2 f.linkSeq ++ leBytes 2 f.acked ++ leBytes 1 f.credits ++ leBytes 3 0 ++ f.payload

/-- A frame with its CRC-32C, as it leaves the block (R298). -/
def Frame.wire (f : Frame) : Bytes := f.body ++ leBytes 4 (crc32c f.body)

/-- The frame in a received header and payload (R298). -/
def Frame.read (bs : Bytes) : Frame :=
  { kind := field bs 0 1, flags := field bs 1 1, sender := field bs 2 2, tag := field bs 4 4, part := field bs 8 1,
    opcode := field bs 9 1, exchange := field bs 10 1, gather := field bs 11 1, groupSeq := field bs 12 4,
    segment := field bs 16 4, linkSeq := field bs 24 2, acked := field bs 26 2, credits := field bs 28 1,
    payload := bs.drop 32 }

/-- The payload length agrees with the frame's type, and its reserved fields are zero (R300). The length of an exchange
payload is judged where the exchange is known (R304). -/
def frameFormOk (bs : Bytes) : Bool :=
  let f := Frame.read bs
  let n := f.payload.length
  decide (32 ≤ bs.length) && field bs 20 4 == n && zeroAt bs 29 32 && decide (f.flags < 16) && decide (f.sender < 0x4000) &&
  match f.kind with
  | 0x00 => n == 0
  | 0x01 => n == 16 && zeroAt f.payload 11 16
  | 0x02 => n == 0
  | 0x10 => decide (1 ≤ f.exchange ∧ f.exchange ≤ 4)
  | 0x20 => n == 128
  | 0x3F => n == 4 && zeroAt f.payload 3 4
  | _ => false

/-- A tree port: the parent port or a child port (R292). -/
def State.isTree (s : State) (p : Fin 4) : Bool := s.treePorts.contains p

/-- Write a frame to a port's link. Nothing leaves on Reel in Whiteout (R391). The frame carries the acknowledgement and
the credits freed so far (R298). -/
def State.putFrame (s : State) (p : Fin 4) (f : Frame) : State :=
  if s.startup == .whiteout then s
  else
    let pt := s.port p
    let g := { f with acked := pt.rxSeq.toNat, credits := pt.owed }
    (s.modPort p (fun pt => { pt with owed := 0 })).emit (.reelTx p) g.wire

/-- The fields every frame of this member starts from. -/
def State.frameBase (s : State) (kind : Nat) : Frame :=
  { kind := kind, flags := 0, sender := s.settings.memberId.toNat, tag := s.settings.groupTag.toNat, part := 0,
    opcode := 0, exchange := 0, gather := 0, groupSeq := 0, segment := 0, linkSeq := 0, acked := 0, credits := 0,
    payload := [] }

/-- Send a control frame, which takes no credit (R302). -/
def State.sendControl (s : State) (p : Fin 4) (kind : Nat) (payload : Bytes) : State :=
  s.putFrame p { s.frameBase kind with payload := payload }

/-- The role a port reports in HELLO: 0 parent link, 1 child link, 2 side link (R294, R299). -/
def State.helloRole (s : State) (p : Fin 4) : Nat :=
  if s.parentPort == some p then 0 else if s.childPorts.contains p then 1 else 2

/-- Send HELLO (R294, R299). -/
def State.sendHello (s : State) (p : Fin 4) : State :=
  s.sendControl p ftHello (leBytes 2 s.settings.memberId.toNat ++ leBytes 1 s.memberDepth.toNat ++
    leBytes 1 (s.helloRole p) ++ leBytes 4 s.settings.groupTag.toNat ++ leBytes 2 s.settings.groupSize.toNat ++
    leBytes 1 s.settings.depth.toNat ++ leBytes 5 0)

/-- Send one credited frame: it takes a credit and the next link sequence, and is held until acknowledged (R301, R302). -/
def State.sendCreditedNow (s : State) (p : Fin 4) (f : Frame) : State :=
  let pt := s.port p
  let g := { f with linkSeq := pt.txSeq.toNat }
  let s1 := s.modPort p (fun pt =>
    { pt with credits := pt.credits - 1, txSeq := pt.txSeq + 1, unacked := pt.unacked ++ [g] })
  (s1.bump .framesSent 1).putFrame p g

/-- Send what waits for a credit, while credits last and fewer than 8 frames are held until acknowledged (R14, R302); the fuel
is the length of the backlog. -/
def State.flushBacklog : Nat → Fin 4 → State → State
  | 0, _, s => s
  | n + 1, p, s =>
    match (s.port p).backlog with
    | [] => s
    | f :: l =>
      if (s.port p).credits = 0 ∨ (s.port p).unacked.length ≥ 8 then s
      else State.flushBacklog n p ((s.modPort p (fun pt => { pt with backlog := l })).sendCreditedNow p f)

/-- Send a credited frame, or hold it until a credit comes back (R302). -/
def State.sendCredited (s : State) (p : Fin 4) (f : Frame) : State :=
  let s1 := s.modPort p (fun pt => { pt with backlog := pt.backlog ++ [f] })
  State.flushBacklog ((s1.port p).backlog.length) p s1

/-- Unacknowledged frames that remain after an acknowledgement (R301). -/
def afterAck (acked : Nat) (l : List Frame) : List Frame :=
  match l.findIdx? (fun f => f.linkSeq == acked) with
  | some i => l.drop (i + 1)
  | none => l

/-- Take the acknowledgement and the credits that any valid frame carries (R298, R302). -/
def State.takeAck (s : State) (p : Fin 4) (f : Frame) : State :=
  let s1 := s.modPort p (fun pt =>
    { pt with unacked := afterAck f.acked pt.unacked, credits := min 8 (pt.credits + f.credits) })
  State.flushBacklog ((s1.port p).backlog.length) p s1

/-- A port's link comes up: 8 credits, empty queues, link sequences from zero (R294, R302; log 12). -/
def Port.bringUp (pt : Port) : Port :=
  { pt with state := .up, credits := 8, txSeq := 0, unacked := [], backlog := [], rxSeq := 0xFFFF, owed := 0, rxq := [] }

/-- The opcode of a ticket's command, where it is one of R333. -/
def Ticket.op (t : Ticket) : Op := (Op.ofCode (byteAt t.cmd 0)).getD .nop

/-- The commands with a peer exchange (R333). -/
def Op.peer : Op → Bool
  | .step => true | .settle => true | .verify => true | .beam => true | .loss => true | .grad => true | .reduce => true
  | _ => false

/-- The group sequence of a command (R331). -/
def Ticket.groupSeq (t : Ticket) : Nat := field t.cmd 0x28 4

/-- A launched group command whose exchanges, CHECK among them, are not complete (R314, R321). A member with D = 0 is alone (R296). -/
def State.groupOpen (s : State) (t : Ticket) : Bool :=
  t.op.peer && s.settings.depth != 0 &&
  match t.run with
  | some r => r.phase != .finished
  | none => false

/-- ABORT naming a launch, with its origin and reason (R299, R321). -/
def State.abortFrame (s : State) (part opcode groupSeq origin reason : Nat) : Frame :=
  { s.frameBase ftAbort with
    part := part, opcode := opcode, groupSeq := groupSeq,
    payload := leBytes 2 origin ++ leBytes 1 reason ++ leBytes 1 0 }

/-- Send a frame on each of some ports. -/
def State.putFrames (s : State) (ps : List (Fin 4)) (f : Frame) : State := ps.foldl (fun s p => s.putFrame p f) s

/-- Send ABORT for a launch on every port that is up (R321), and remember it, so that it is not sent on again. -/
def State.sendAbort (s : State) (t : Ticket) (reason : Status) : State :=
  let me := s.settings.memberId.toNat
  let s1 := { s with abortSeen := s.abortSeen ++ [AbortEnt.mk t.part t.op.code t.groupSeq me] }
  (s1.putFrames s1.upPorts (s1.abortFrame t.part t.op.code t.groupSeq me reason.code)).bump .abortsOriginated 1

/-- Mark a link down, begin its bring-up and count the event (R301, R303). -/
def State.linkDown (s : State) (p : Fin 4) : State :=
  (((s.modPort p (fun pt => { pt with state := .down, unacked := [], backlog := [], rxq := [], credits := 0 })).bump
    .linkDowns 1).logError .block .reel p.val 0xFF .ended none).sendHello p

end Sys2Proof.Machine
end

