-- ==== Sys2Proof/Machine/Weights.lean ====
section
/-! DEFINITION. Weight descriptors (R125, R126), set geometry (R88), image layout (R127, R96, R97), and the checks of sets
(R62, R98, R128, R129, R246). -/
namespace Sys2Proof.Machine

/-- A weight descriptor's fields (R125). -/
structure Desc where
  code : Nat
  geometry : Nat
  h : Nat
  columns : Nat
  firstId : Nat
  elem : Nat
  scale : Nat
  mdata : Nat
  crc : Nat
  map : Nat
  deriving DecidableEq, Repr, Inhabited

/-- The fields of a 64-byte descriptor (R125). -/
def Desc.read (bs : Bytes) : Desc :=
  { code := field bs 0 1, geometry := field bs 1 1, h := field bs 4 4, columns := field bs 8 4, firstId := field bs 0x0C 4,
    elem := field bs 0x10 8, scale := field bs 0x18 8, mdata := field bs 0x20 8, crc := field bs 0x28 8,
    map := field bs 0x30 8 }

/-- The weight format (R125). -/
def Desc.fmt (d : Desc) : NumFmt := (NumFmt.ofCode d.code).getD .e4m3
/-- Compatibility sets (R125). -/
def Desc.compat (d : Desc) : Bool := d.geometry == 1
/-- The vocabulary map is present (R125). -/
def Desc.hasMap (d : Desc) : Bool := d.map != 0
/-- Column groups G. -/
def Desc.groups (d : Desc) : Nat := d.columns / 32

/-- Lanes per cell (R88). -/
def Desc.lanes (d : Desc) : Nat :=
  let native := match d.fmt with | .e4m3 => 8 | .e5m2 => 8 | .mxfp4 => 16 | _ => 4
  if d.compat then native / 2 else native

/-- K elements of a set (R88). -/
def Desc.kPer (d : Desc) : Nat := 32 * d.lanes

/-- Sets per column group C (R88, R128). -/
def Desc.setsPer (d : Desc) : Nat := ceilDiv d.h d.kPer

/-- Sets of the shard. -/
def Desc.sets (d : Desc) : Nat := d.groups * d.setsPer

/-- Element bytes of a set (R127). -/
def Desc.setBytes (d : Desc) : Nat := if d.fmt == .fp32 then 16384 else if d.compat then 4096 else 8192

/-- Scale bytes of a set (R127). -/
def Desc.scaleBytes (d : Desc) : Nat := if d.fmt == .mxfp4 then (if d.compat then 256 else 512) else 0

/-- A reserved field is not zero, or a condition of R86, R125 or R126 gives FORMAT. -/
def Desc.formatBad (accumulation : Nat) (bs : Bytes) : Bool :=
  let d := Desc.read bs
  !(decide (1 ≤ d.code ∧ d.code ≤ 6)) || decide (d.geometry ≠ accumulation) || !(zeroAt bs 2 4) ||
  (accumulation == 1 && d.fmt == .fp32) || !(zeroAt bs 0x38 0x40) || decide (d.elem % 4096 ≠ 0) || decide (d.scale % 512 ≠ 0) ||
  (d.code != 3 && d.scale != 0) || decide (d.mdata % 32 ≠ 0) || decide (d.crc % 4 ≠ 0) || decide (d.map % 128 ≠ 0)

/-- A condition of R125 or R126 gives RANGE: sizes, and areas below 2^52. -/
def Desc.rangeBad (bs : Bytes) : Bool :=
  let d := Desc.read bs
  let top := pow2 52
  !(decide (d.h % 256 = 0 ∧ 256 ≤ d.h ∧ d.h ≤ 32768)) ||
  !(decide (d.columns % 32 = 0 ∧ 32 ≤ d.columns ∧ d.columns ≤ 131072)) ||
  decide (d.elem + d.sets * d.setBytes > top) || decide (d.scale + d.sets * d.scaleBytes > top) ||
  decide (d.mdata + 32 * d.groups > top) || decide (d.crc + 4 * d.sets > top) ||
  (d.hasMap && decide (d.map + 128 * d.groups > top))

/-- The bytes a shard takes in a weight region (05). -/
def Desc.footprint (d : Desc) : Nat :=
  d.sets * (d.setBytes + d.scaleBytes + 4) + 32 * d.groups + (if d.hasMap then 128 * d.groups else 0)

/-- The descriptor of a shard's copy in Firn from a byte address: its areas lie end to end (05). -/
def Desc.inFirn (d : Desc) (a : Nat) : Desc :=
  let scale := a + d.sets * d.setBytes
  let mdata := scale + d.sets * d.scaleBytes
  let map := mdata + 32 * d.groups
  { d with elem := a, scale := scale, mdata := mdata, map := if d.hasMap then map else 0,
           crc := if d.hasMap then map + 128 * d.groups else map }

/-- The ranges that hold set n: element, scale, and on a group's first set metadata and map, then CRC (R127, R129). -/
def Desc.setRanges (d : Desc) (n : Nat) : List (Nat × Nat) :=
  let g := n / d.setsPer
  let first := n % d.setsPer == 0
  [(d.elem + n * d.setBytes, d.setBytes)] ++
  (if d.scaleBytes > 0 then [(d.scale + n * d.scaleBytes, d.scaleBytes)] else []) ++
  (if first then [(d.mdata + 32 * g, 32)] else []) ++
  (if first && d.hasMap then [(d.map + 128 * g, 128)] else [])

/-- Element bytes of set n. -/
def Desc.elemOf (d : Desc) (m : Memory) (n : Nat) : Bytes := m.load (d.elem + n * d.setBytes) d.setBytes
/-- Scale bytes of set n. -/
def Desc.scaleOf (d : Desc) (m : Memory) (n : Nat) : Bytes := m.load (d.scale + n * d.scaleBytes) d.scaleBytes
/-- The metadata byte e_w of column c of group g, in two's complement (R62). -/
def Desc.metaOf (d : Desc) (m : Memory) (g c : Nat) : Int := signed 8 (m.byte (d.mdata + 32 * g + c)).toNat

/-- The global token id of a column (R125, R127, R130). -/
def Desc.idOf (d : Desc) (m : Memory) (j : Nat) : Nat :=
  if d.hasMap then leNat (m.load (d.map + 4 * j) 4) else d.firstId + j

/-- The token ids of the shard in column order. -/
def Desc.ids (d : Desc) (m : Memory) : List Nat := (upto d.columns).map (d.idOf m)

/-- The CRC stored for set n agrees with its bytes (R129). -/
def Desc.crcOk (d : Desc) (m : Memory) (n : Nat) : Bool :=
  crc32c ((d.setRanges n).flatMap (fun r => m.load r.1 r.2)) == leNat (m.load (d.crc + 4 * n) 4)

/-- The bits of the element at row r, column c, lane l of a set (R96, R127). -/
def Desc.elemBits (d : Desc) (el : Bytes) (r c l : Nat) : Nat :=
  let half := if d.compat then 2 else 1
  match d.fmt with
  | .mxfp4 =>
    let b := byteAt el (r * (256 / half) + c * (8 / half) + l / 2)
    if l % 2 = 0 then b % 16 else b / 16
  | .fp32 => field el (512 * r + 16 * c + 4 * l) 4
  | .bf16 => field el (r * (256 / half) + c * (8 / half) + 2 * l) 2
  | .fp16 => field el (r * (256 / half) + c * (8 / half) + 2 * l) 2
  | _ => byteAt el (r * (256 / half) + c * (8 / half) + l)

/-- Apply an MX block scale (R59): 0xFF makes the element NaN. -/
def applyMx (x : Nat) : FVal → FVal
  | .fin s m e => if x = 255 then .nan else .fin s m (e + Int.ofNat x - 127)
  | v => v

/-- The values of column c of a set in ascending K, with MX scales applied (R59, R96, R97). -/
def Desc.colOf (d : Desc) (el sc : Bytes) (c : Nat) : List FVal :=
  (upto 32).flatMap (fun r => (upto d.lanes).map (fun l =>
    let v := decodeF d.fmt (d.elemBits el r c l)
    if d.fmt == .mxfp4 then applyMx (byteAt sc (32 * ((r * d.lanes + l) / 32) + c)) v else v))

/-- The H values of shard column j, in ascending K; the padding of R128 is cut off. -/
def Desc.column (d : Desc) (m : Memory) (j : Nat) : List FVal :=
  let g := j / 32
  ((upto d.setsPer).flatMap (fun s =>
    d.colOf (d.elemOf m (g * d.setsPer + s)) (d.scaleOf m (g * d.setsPer + s)) (j % 32))).take d.h

/-- The padding of a padded set is zero (R128). -/
def Desc.padOk (d : Desc) (m : Memory) (n : Nat) : Bool :=
  if d.h % d.kPer = 0 ∨ n % d.setsPer + 1 ≠ d.setsPer then true
  else allZero ((d.elemOf m n).drop (d.setBytes / 2)) && allZero ((d.scaleOf m n).drop (d.scaleBytes / 2))

/-- The largest exponent of column c of set n, before the clamp of R62. -/
def Desc.setExp (d : Desc) (m : Memory) (n c : Nat) : Option Int := maxExp? (d.colOf (d.elemOf m n) (d.scaleOf m n) c)

/-- The metadata checks of set n: no column above its byte e_w, and on the last set of a group the largest exponent equal
to it (R62, R98). -/
def Desc.metaOk (d : Desc) (m : Memory) (n : Nat) : Bool :=
  let g := n / d.setsPer
  (upto 32).all (fun c =>
    let ew := d.metaOf m g c
    (match d.setExp m n c with | some e => decide (e ≤ ew) | none => true) &&
    (if n % d.setsPer + 1 = d.setsPer then
      decide (max (-128) ((upto d.setsPer).foldl (fun a s => match d.setExp m (g * d.setsPer + s) c with
        | some e => max a e | none => a) (-128)) = ew)
    else true))

/-- No column metadata byte of set n's group exceeds e_g (R246). -/
def Desc.egOk (d : Desc) (m : Memory) (n : Nat) (eg : Int) : Bool :=
  (upto 32).all (fun c => decide (d.metaOf m (n / d.setsPer) c ≤ eg))

/-- The verdict on a set as it enters Firn or a load port (R144): CRC, then metadata and padding. -/
inductive SetVerdict where
  | good | badCrc | badPad | badFormat
  deriving DecidableEq, Repr, Inhabited

/-- Check set n of an image held in a memory; `eg` is the bound of R246 where the command makes that check. -/
def Desc.check (d : Desc) (m : Memory) (n : Nat) (eg : Option Int) : SetVerdict :=
  if !(d.crcOk m n) then .badCrc
  else if !(d.metaOk m n) || (match eg with | some e => !(d.egOk m n e) | none => false) then .badFormat
  else if !(d.padOk m n) then .badPad else .good

end Sys2Proof.Machine
end

