-- ==== Sys2Proof/Machine/Operands.lean ====
section
/-! DEFINITION. Operand forms: the fields of a command (R331, R350), the selection, training and tensor blocks (R346 to
R349), stream tables and update records (R341, R344), stream parameter records (R345) and tensor descriptors (R171, R172). -/
namespace Sys2Proof.Machine

/-- A binary32 field. -/
def f32At (bs : Bytes) (o : Nat) : F32 := BitVec.ofNat 32 (field bs o 4)

/-! ### The command (R331) -/

/-- Flags: bit 0 cross-check, bit 1 signal on completion. -/
def Ticket.crossCheck (t : Ticket) : Bool := bitAt (byteAt t.cmd 1) 0
/-- The operand-block count. -/
def Ticket.blockCount (t : Ticket) : Nat := byteAt t.cmd 2
/-- The figure field. -/
def Ticket.figureField (t : Ticket) : Nat := field t.cmd 4 2
/-- The launch count field. -/
def Ticket.launchField (t : Ticket) : Nat := field t.cmd 8 8
/-- The deadline count. -/
def Ticket.deadline (t : Ticket) : Nat := field t.cmd 0x10 8
/-- The operand base. -/
def Ticket.operandBase (t : Ticket) : Nat := field t.cmd 0x18 8
/-- The step value [47:0]. -/
def Ticket.stepValue (t : Ticket) : Nat := field t.cmd 0x20 6
/-- The cross-check partner's member id. -/
def Ticket.partner (t : Ticket) : Nat := field t.cmd 0x2C 2
/-- The check port. -/
def Ticket.checkPort (t : Ticket) : Fin 4 := ⟨byteAt t.cmd 0x2E % 4, Nat.mod_lt _ (by decide)⟩
/-- The opcode area's byte at 0x30: a region or a context (R350). -/
def Ticket.areaByte (t : Ticket) : Nat := byteAt t.cmd 0x30
/-- The opcode area's address or count at 0x38 (R350). -/
def Ticket.areaWord (t : Ticket) : Nat := field t.cmd 0x38 8

/-! ### Operand blocks (R346 to R348) -/

/-- A byte field of block 0. -/
def Ticket.b (t : Ticket) (o : Nat) : Nat := byteAt t.blocks o
/-- A field of block 0. -/
def Ticket.f (t : Ticket) (o n : Nat) : Nat := field t.blocks o n
/-- A binary32 field of block 0. -/
def Ticket.fl (t : Ticket) (o : Nat) : F32 := f32At t.blocks o
/-- The weight descriptor of block 0 (R346, R348, R349). -/
def Ticket.desc (t : Ticket) : Desc := Desc.read (t.blocks.take 64)
/-- The array activation format (R346). -/
def Ticket.actFmt (t : Ticket) : NumFmt := (NumFmt.ofCode (t.b 0x42)).getD .e4m3
/-- The hidden row format (R346). -/
def Ticket.rowFmt (t : Ticket) : NumFmt := (NumFmt.ofCode (t.b 0x43)).getD .fp32
/-- Streams (R346). -/
def Ticket.streams (t : Ticket) : Nat := t.f 0x98 2
/-- Tokens of a training command (R348). -/
def Ticket.tokens (t : Ticket) : Nat := t.f 0x7C 4
/-- First token position (R348). -/
def Ticket.p0 (t : Ticket) : Nat := t.f 0x78 4

/-- A stream-table entry (R341). -/
structure StreamEnt where
  ctx : Nat
  flags : Nat
  comp : Nat
  ncomp : Nat
  id : Nat
  deriving DecidableEq, Repr, Inhabited

/-- The stream-table entry at position p (R341). -/
def Ticket.stream (t : Ticket) (p : Nat) : StreamEnt :=
  let o := 256 + 8 * p
  ⟨t.b o, t.b (o + 1), t.b (o + 2), t.b (o + 3), t.f (o + 4) 4⟩

/-- The new-stream flag (R341). -/
def StreamEnt.isNew (e : StreamEnt) : Bool := bitAt e.flags 0
/-- The update-record flag (R341). -/
def StreamEnt.updates (e : StreamEnt) : Bool := bitAt e.flags 1

/-- The stream-table entries of a command. -/
def Ticket.entries (t : Ticket) : List StreamEnt := (upto t.streams).map t.stream

/-- The contexts a command names: stream contexts with companions, LOSS companions, or the context of SAVE and RESTORE. -/
def Ticket.namedCtxs (t : Ticket) : List Nat :=
  match t.op with
  | .step => t.entries.map StreamEnt.ctx
  | .score => t.entries.map StreamEnt.ctx
  | .settle => t.entries.map StreamEnt.ctx
  | .verify => t.entries.flatMap (fun e => e.ctx :: (upto e.ncomp).map (fun i => e.comp + i))
  | .beam => t.entries.flatMap (fun e => e.ctx :: (upto e.ncomp).map (fun i => e.comp + i))
  | .loss => (upto (min 64 t.tokens)).map (fun i => t.b 0x9C + i)
  | .save => [t.areaByte]
  | .restore => [t.areaByte]
  | _ => []

/-- The commands that read a shard (R138). -/
def Op.scores : Op → Bool
  | .step => true | .score => true | .settle => true | .verify => true | .beam => true | .loss => true | .grad => true
  | _ => false

/-- The commands that take hidden rows (R330, R470). -/
def Op.takesRows : Op → Bool
  | .step => true | .score => true | .verify => true | .beam => true | .loss => true | .grad => true | _ => false

/-- The Firn regions a command names: its weight region, and a work area (R138, R230, R266, R350). -/
def Ticket.regionsNamed (t : Ticket) : List Nat :=
  match t.op with
  | .score => [t.b 0x40, t.b 0x9A].filter (· < 64)
  | .grad => [t.b 0x40, t.b 0x9D].filter (· < 64)
  | .loadw => [t.areaByte].filter (· < 64)
  | .evictw => [t.areaByte].filter (· < 64)
  | o => if o.scores then [t.b 0x40].filter (· < 64) else []

/-- Beams that a BEAM scores: live and not finished ones in ascending index, or beam 0 where the stream holds none
(R235). -/
def Ctx.scoredBeams (c : Ctx) : List Nat :=
  if c.beamValid then (upto c.beams.length).filter (fun i => byteAt (c.beams.getD i []) 0 % 4 == 1) else [0]

/-- The rows of a command: streams, beams, draft rows or tokens. -/
def State.rowCount (s : State) (t : Ticket) : Nat :=
  match t.op with
  | .step => t.streams
  | .score => t.streams
  | .settle => t.streams
  | .verify => t.b 0xA1 + 1
  | .beam => ((s.ctx (t.stream 0).ctx).scoredBeams).length
  | .loss => t.tokens
  | .grad => t.tokens
  | _ => 0

/-- Bytes of a hidden row on the activation port (R170, R453). -/
def Ticket.rowBytes (t : Ticket) : Nat := t.desc.h * t.rowFmt.bytes

/-! ### Stream parameters (R345) -/

/-- Soft-cap c. -/
def prC (p : Bytes) : F32 := f32At p 0x00
/-- Repetition penalty ρ. -/
def prRho (p : Bytes) : F32 := f32At p 0x04
/-- Presence penalty α. -/
def prAlpha (p : Bytes) : F32 := f32At p 0x08
/-- Frequency penalty β. -/
def prBeta (p : Bytes) : F32 := f32At p 0x0C
/-- Temperature T. -/
def prT (p : Bytes) : F32 := f32At p 0x10
/-- Top-p p. -/
def prP (p : Bytes) : F32 := f32At p 0x14
/-- Min-p p_min. -/
def prMin (p : Bytes) : F32 := f32At p 0x18
/-- Top-k k. -/
def prK (p : Bytes) : Nat := field p 0x1C 2
/-- Log-probability count. -/
def prLog (p : Bytes) : Nat := byteAt p 0x1E
/-- Update the penalty list after settling (R163). -/
def prUpdate (p : Bytes) : Bool := bitAt (byteAt p 0x1F) 0

/-- Top-k is on (R217). -/
def prTopK (p : Bytes) : Bool := prK p != 0
/-- Top-p is on (R217). -/
def prTopP (p : Bytes) : Bool := prP p != 0x3F800000
/-- Min-p is on (R217). -/
def prMinP (p : Bytes) : Bool := !(isZero32 (prMin p))
/-- Sampling: T > 0 (R159). -/
def prSamples (p : Bytes) : Bool := !(isZero32 (prT p))

/-- The parameter record of a new stream: greedy (R345). -/
def Params.default : Bytes :=
  leBytes 4 0 ++ leBytes 4 0x3F800000 ++ leBytes 4 0 ++ leBytes 4 0 ++ leBytes 4 0 ++ leBytes 4 0x3F800000 ++
  List.replicate 104 0

/-- A reserved field of a parameter record is not zero (R345). -/
def paramsFormatBad (p : Bytes) : Bool := decide (byteAt p 0x1F > 1) || !(zeroAt p 0x20 0x80)

/-- +0, −0, or positive and finite (R159, R245). -/
def capOk (x : F32) : Bool := match dec32 x with | .fin s m _ => m == 0 || !s | _ => false
/-- Positive and finite. -/
def posFinite (x : F32) : Bool := match dec32 x with | .fin s m _ => m != 0 && !s | _ => false
/-- Finite. -/
def finite32 (x : F32) : Bool := (dec32 x).isFin
/-- Zero of either sign, or above 0 and at most 1. -/
def unitOk (x : F32) : Bool := isZero32 x || (posFinite x && fle x 0x3F800000)

/-- A parameter of R159 or R217 is outside its legal values. -/
def paramsRangeBad (p : Bytes) : Bool :=
  !(capOk (prC p)) || !(posFinite (prRho p)) || !(finite32 (prAlpha p)) || !(finite32 (prBeta p)) || !(capOk (prT p)) ||
  !(posFinite (prP p) && fle (prP p) 0x3F800000) || !(unitOk (prMin p)) || decide (prK p > 1024) || decide (prLog p > 20)

/-! ### Update records (R344) -/

/-- The update record of stream position p, as fetched. -/
def State.updateRec (s : State) (t : Ticket) (p : Nat) : Bytes := s.host (t.f 0x60 8 + 32 * p) 32
/-- Replace bits: parameter record, penalty list, bias list. -/
def urReplace (u : Bytes) (i : Nat) : Bool := bitAt (byteAt u 0) i
def urPenalties (u : Bytes) : Nat := field u 2 2
def urBiases (u : Bytes) : Nat := field u 4 2
def urParamAddr (u : Bytes) : Nat := field u 8 8
def urPenaltyAddr (u : Bytes) : Nat := field u 0x10 8
def urBiasAddr (u : Bytes) : Nat := field u 0x18 8

/-- An update record's reserved fields, entry counts or parameter alignment give FORMAT (R344, R160, R164). -/
def updateFormatBad (u : Bytes) : Bool :=
  decide (byteAt u 0 > 7) || !(zeroAt u 1 2) || !(zeroAt u 6 8) || (urReplace u 0 && decide (urParamAddr u % 64 ≠ 0)) ||
  (urReplace u 1 && decide (urPenalties u > 8192)) || (urReplace u 2 && decide (urBiases u > 1024))

/-- An address of an update record reaches 2^52 (R344). -/
def updateRangeBad (u : Bytes) : Bool :=
  let top := pow2 52
  (urReplace u 0 && decide (urParamAddr u + 128 > top)) ||
  (urReplace u 1 && decide (urPenaltyAddr u + 5 * urPenalties u > top)) ||
  (urReplace u 2 && decide (urBiasAddr u + 8 * urBiases u > top))

/-- The entries of a penalty list in its 5-byte layout (R160, R38). -/
def penaltiesOf (bs : Bytes) (n : Nat) : List (Nat × Nat) :=
  (upto n).map (fun i => (field bs (5 * i) 3, field bs (5 * i + 3) 2))

/-- Penalty entries whose ids are not strictly ascending, or have bits [23:21] set (R39, R160). -/
def penaltyIdsBad (l : List (Nat × Nat)) : Bool :=
  l.any (fun e => decide (e.1 ≥ pow2 21)) || !(ascendingBy (fun a b => decide (a.1 < b.1)) l)

/-- A penalty list breaks R160: bad ids, or a count of 0. -/
def penaltiesBad (l : List (Nat × Nat)) : Bool := l.any (fun e => e.2 == 0) || penaltyIdsBad l

/-- The entries of a bias list in its 8-byte layout, in list order, with their reserved byte (R164). -/
def biasRaw (bs : Bytes) (n : Nat) : List (Nat × Nat × F32) :=
  (upto n).map (fun i => (field bs (8 * i) 3, byteAt bs (8 * i + 3), f32At bs (8 * i + 4)))

/-- Merge equal neighbours of a sorted bias list by FP32 addition in list order (R164). -/
def mergeBias : List (Nat × F32) → List (Nat × F32)
  | [] => []
  | e :: l =>
    match mergeBias' e l with
    | (h, rest) => h :: rest
where
  /-- Fold the entries that follow `e`. -/
  mergeBias' : (Nat × F32) → List (Nat × F32) → (Nat × F32) × List (Nat × F32)
    | e, [] => (e, [])
    | e, f :: l =>
      if f.1 = e.1 then mergeBias' (e.1, (fadd e.2 f.2).v) l
      else let r := mergeBias' f l; (e, r.1 :: r.2)

/-- The sorted, merged form of a bias list (R164). -/
def biasForm (l : List (Nat × Nat × F32)) : List (Nat × F32) :=
  mergeBias (sortBy (fun a b => decide (a.1 < b.1)) (l.map (fun e => (e.1, e.2.2))))

/-- A bias list breaks R164: a NaN before or after merging, or a reserved byte set. -/
def biasBad (l : List (Nat × Nat × F32)) : Bool :=
  l.any (fun e => e.2.1 != 0 || isNaN32 e.2.2) || (biasForm l).any (fun e => isNaN32 e.2)

/-! ### Tensor descriptors (R171, R172) -/

/-- A tensor descriptor. -/
structure Tens where
  code : Nat
  dims : Nat
  flags : Nat
  gdim : Nat
  tag : Nat
  base : Nat
  sizes : List Nat
  strides : List Int
  ibase : Nat
  ilimit : Nat
  reserved : Bool
  deriving DecidableEq, Repr, Inhabited

/-- The descriptor at an offset of a block (R171). -/
def Tens.read (bs : Bytes) (o : Nat) : Tens :=
  { code := field bs o 1, dims := field bs (o + 1) 1, flags := field bs (o + 2) 1, gdim := field bs (o + 3) 1,
    tag := field bs (o + 4) 4, base := field bs (o + 8) 8,
    sizes := (upto 4).map (fun d => field bs (o + 0x10 + 4 * d) 4),
    strides := (upto 4).map (fun d => signed 32 (field bs (o + 0x20 + 4 * d) 4)),
    ibase := field bs (o + 0x30) 8, ilimit := field bs (o + 0x38) 4, reserved := !(zeroAt bs (o + 0x3C) (o + 0x40)) }

/-- The element format. -/
def Tens.fmt (d : Tens) : NumFmt := (NumFmt.ofCode d.code).getD .fp32
/-- Gather is on. -/
def Tens.gather (d : Tens) : Bool := bitAt d.flags 0
/-- Elements: the product of the sizes (R172). -/
def Tens.count (d : Tens) : Nat := d.sizes.foldl (· * ·) 1
/-- The size of dimension k. -/
def Tens.size (d : Tens) (k : Nat) : Nat := d.sizes.getD k 1

/-- A condition of R171 or R172 gives FORMAT; `out` marks an output tensor. -/
def Tens.formatBad (d : Tens) (out : Bool) : Bool :=
  let esz := d.fmt.bytes
  !(decide (d.code = 1 ∨ d.code = 2 ∨ (4 ≤ d.code ∧ d.code ≤ 8))) || !(decide (1 ≤ d.dims ∧ d.dims ≤ 4)) ||
  decide (d.flags > 1) || (if d.gather then decide (d.gdim ≥ d.dims) else d.gdim != 0) || d.reserved ||
  decide (d.base % esz ≠ 0) || d.strides.any (fun x => decide (x % Int.ofNat esz ≠ 0)) ||
  (if d.gather then decide (d.ibase % 4 ≠ 0) else d.ibase != 0) ||
  (upto 4).any (fun k => decide (d.dims ≤ k) && (d.size k != 1 || d.strides.getD k 0 != 0)) || (out && d.gather)

/-- The most an index of dimension k can reach, gathered indices bounded by the limit (R172). -/
def Tens.maxIdx (d : Tens) (k : Nat) : Nat := if d.gather && d.gdim == k then d.ilimit - 1 else d.size k - 1

/-- The lowest and highest addresses the tensor can reach (R172). -/
def Tens.extent (d : Tens) : Int × Int :=
  (upto 4).foldl (fun e k =>
    let m := Int.ofNat (d.maxIdx k) * d.strides.getD k 0
    if m < 0 then (e.1 + m, e.2) else (e.1, e.2 + m)) (Int.ofNat d.base, Int.ofNat (d.base + d.fmt.bytes - 1))

/-- A condition of R172 gives RANGE; an empty tensor reaches no address. The index vector's own addresses are bounded too (DEDUCED,
log 81). -/
def Tens.rangeBad (d : Tens) : Bool :=
  decide (d.count > pow2 40) ||
  (d.count != 0 && (decide (d.extent.1 < 0) || decide (d.extent.2 ≥ ipow2 52) ||
    (d.gather && decide (d.ibase + 4 * d.size d.gdim > pow2 52))))

/-- The index of dimension k of linear element i (R172). -/
def Tens.idx (d : Tens) (i k : Nat) : Nat := i / ((d.sizes.take k).foldl (· * ·) 1) % max 1 (d.size k)

/-- The index vector of a gathering tensor. -/
def Tens.indexAt (d : Tens) (m : Memory) (j : Nat) : Nat := leNat (m.load (d.ibase + 4 * j) 4)

/-- The address of element i; `none` where its gathered index lies beyond the limit (R172, R174). -/
def Tens.addr (d : Tens) (m : Memory) (i : Nat) : Option Nat :=
  let bad := d.gather && decide (d.indexAt m (d.idx i d.gdim) ≥ d.ilimit)
  if bad then none
  else some ((upto 4).foldl (fun (a : Int) k =>
    let j := if d.gather && d.gdim == k then d.indexAt m (d.idx i k) else d.idx i k
    a + Int.ofNat j * d.strides.getD k 0) (Int.ofNat d.base)).toNat

/-- The value bits of element i: the canonical NaN, or zero for U32 and LW128, where its index lies beyond the limit (R174). -/
def Tens.get (d : Tens) (m : Memory) (i : Nat) : Nat :=
  match d.addr m i with
  | some a => leNat (m.load a d.fmt.bytes)
  | none => canonNaN d.fmt

/-- Some gathered index lies beyond the limit (R174). -/
def Tens.outOfLimit (d : Tens) (m : Memory) : Bool :=
  d.gather && (upto (if d.count = 0 then 0 else d.size d.gdim)).any (fun j => decide (d.indexAt m j ≥ d.ilimit))

end Sys2Proof.Machine
end

