-- ==== Sys2Proof/Machine/Special.lean ====
section
/-! DEFINITION. Segment-table functions (R177 to R188, R192, R193), overlay tables (R190, R191, R194) and micro-programs
(R195 to R199). The built-in tables are ROM whose contents the manual does not give (log 5); where R185 and R186 fix or
bound a result, the model takes the fixed value, or keeps the table's value inside the bound. -/
namespace Sys2Proof.Machine

/-- A segment record (R191). -/
structure Segment where
  c0 : Int
  c1 : Int
  c2 : Int
  a0 : Nat
  a1 : Nat
  q : Int
  deriving DecidableEq, Repr, Inhabited

/-- A segment record read from its 16 bytes (R191). -/
def segOfBytes (bs : Bytes) : Segment :=
  { c0 := signed 32 (field bs 0 4), c1 := signed 24 (field bs 4 3), a0 := field bs 7 1 % 64,
    c2 := signed 16 (field bs 8 2), a1 := field bs 10 1 % 64, q := signed 16 (field bs 12 2) }

/-- A sub-table: its lowest binade, its binades, its first segment, and its slope under the linear below rule (R190). -/
structure SubTable where
  eLo : Int
  binades : Nat
  first : Nat
  slope : Option Nat
  deriving DecidableEq, Repr, Inhabited

/-- Where R179 finds its segment: below the sub-table, or at a segment number with its `t`. -/
inductive SegPos where
  | linear
  | at (g t : Nat)
  deriving DecidableEq, Repr, Inhabited

/-- The segment and `t` of a table variable z ≥ 0 (R179). -/
def segPos (sb : Nat) (b : SubTable) (z : Dy) : SegPos :=
  let e := expOf z.m.natAbs z.e
  if z.m = 0 ∨ e < b.eLo then
    match b.slope with
    | some _ => .linear
    | none => .at b.first 0
  else if e > b.eLo + Int.ofNat b.binades - 1 then
    .at (b.first + (b.binades - 1) * pow2 sb + (pow2 sb - 1)) (pow2 24 - 1)
  else
    let f : Dy := (⟨z.m, z.e - e⟩ : Dy).add ⟨-1, 0⟩
    let st := ((⟨f.m, f.e + Int.ofNat (sb + 24)⟩ : Dy).floor).toNat
    .at (b.first + (e - b.eLo).toNat * pow2 sb + st / pow2 24) (st % pow2 24)

/-- The value y × 2^q of a segment at `t` (R179). -/
def segValue (s : Segment) (t : Nat) : Dy :=
  ⟨s.c0 * ipow2 s.a0 + s.c1 * Int.ofNat t * ipow2 s.a1 + s.c2 * Int.ofNat t * Int.ofNat t, s.q⟩

/-- T(z) of a sub-table, with the linear below rule on the signed variable (R179, R181; log 7). -/
def tableT (sb : Nat) (rec : Nat → Segment) (b : SubTable) (neg : Bool) (z : Dy) : Dy :=
  match segPos sb b z with
  | .linear =>
    let v : Dy := ⟨z.m * Int.ofNat (b.slope.getD 0), z.e - 60⟩
    if neg then v.neg else v
  | .at g t => segValue (rec g) t

/-- The built-in function ids of R177. -/
def builtinIds : List Nat :=
  [0, 1, 2, 3, 4, 5, 8, 9, 10, 0x10, 0x11, 0x12, 0x13, 0x18, 0x19, 0x1A, 0x1C, 0x1D, 0x20, 0x21]

/-- The ids that have a Filuf-2 table (R192). -/
def filuf2Ids : List Nat := [1, 2, 3, 4, 8, 9, 10, 0x10, 0x11, 0x13, 0x1D]

/-- Lowest binade, binades and below rule of each sub-table of a built-in (R181): "+" before "−", special ranges before
the general one (log 7). -/
def subSpec : Nat → List (Int × Nat × Bool)
  | 1 => [(-40, 40, false)]
  | 2 => [(-40, 40, false)]
  | 3 => [(-24, 24, true), (-24, 24, true), (0, 1, false)]
  | 4 => [(-24, 24, true), (-24, 24, true), (0, 1, false)]
  | 5 => [(-24, 24, true), (-24, 24, true), (0, 1, false)]
  | 8 => [(0, 1, false)]
  | 9 => [(0, 2, false)]
  | 10 => [(0, 2, false)]
  | 0x10 => [(-24, 28, true)]
  | 0x11 => [(-24, 31, false), (-24, 31, false)]
  | 0x12 => [(-24, 29, false), (-24, 31, false)]
  | 0x13 => [(-24, 29, true), (-24, 31, true)]
  | 0x18 => [(-24, 27, true)]
  | 0x19 => [(-24, 23, true), (0, 5, false)]
  | 0x1A => [(-27, 25, true), (1, 7, false)]
  | 0x1C => [(-24, 28, true), (-24, 29, true)]
  | 0x1D => [(-24, 28, true), (-24, 29, true)]
  | 0x20 => [(-24, 25, true)]
  | 0x21 => [(-24, 25, true)]
  | _ => []

/-- The table file a built-in uses: id 0x21 uses that of 0x20 (R189). -/
def tableFid (fid : Nat) : Nat := if fid = 0x21 then 0x20 else fid

/-- The generation in force for a built-in (R192). -/
def genOf (filuf2 : Bool) (fid : Nat) : Nat := if filuf2 && filuf2Ids.contains fid then 1 else 0

/-- The slope constant of a sub-table with the linear rule, in units of 2^−60: "Linear 1" and "Linear 0.5" are exact, the
others are those of the file (R181, R190; log 5). -/
def romSlope (gen fid k : Nat) : Nat :=
  match fid with
  | 3 | 4 | 5 | 0x10 => pow2 60
  | 0x13 | 0x1C | 0x1D => pow2 59
  | _ => (Config.romSlope gen (tableFid fid) k).toNat

/-- Sub-table `k` of a built-in in a generation, its first segment counted from the ones before it (R181, R190). -/
def subTable (gen fid k : Nat) : SubTable :=
  let sb := if gen = 1 then 5 else 6
  let before := ((subSpec fid).take k).map (fun t => t.2.1 * pow2 sb)
  let t := (subSpec fid).getD k (0, 1, false)
  ⟨t.1, t.2.1, sumNat before, if t.2.2 then some (romSlope gen fid k) else none⟩

/-- The 16 bytes of a segment record of a built-in's file, its reserved bytes and bits zero (R191), and in a Filuf-2 file
c2 = 0 (R193). -/
def romRecordBytes (gen fid n : Nat) : Bytes :=
  let b := leBytes 16 (Config.romRecord gen (tableFid fid) n).toNat
  let low6 (i : Nat) : Bytes := leBytes 1 (byteAt b i % 64)
  slice b 0 7 ++ low6 7 ++ (if gen = 1 then [0, 0] else slice b 8 2) ++ low6 10 ++ [0] ++ slice b 12 2 ++ [0, 0]

/-- The segments of a built-in's file. -/
def romSegments (gen fid : Nat) : Nat := sumNat ((subSpec fid).map (fun t => t.2.1 * pow2 (if gen = 1 then 5 else 6)))

/-- The 24 bytes of a sub-table descriptor (R190). -/
def SubTable.bytes (b : SubTable) : Bytes :=
  leBytes 2 (unsigned 16 b.eLo) ++ leBytes 2 b.binades ++ leBytes 4 b.first ++ leBytes 1 (if b.slope.isSome then 1 else 0) ++
  List.replicate 7 0 ++ leBytes 8 (b.slope.getD 0)

/-- The table file of a built-in: the header and the records (R189, R190). -/
def romFile (gen fid : Nat) : Bytes :=
  let subs := (subSpec fid).length
  leBytes 4 0x33544653 ++ leBytes 2 1 ++ leBytes 1 gen ++ leBytes 1 (if gen = 1 then 5 else 6) ++ leBytes 1 fid ++
  leBytes 1 subs ++ [0, 0] ++ leBytes 4 (romSegments gen fid) ++
  (upto 4).flatMap (fun k => if k < subs then (subTable gen fid k).bytes else List.replicate 24 0) ++ List.replicate 16 0 ++
  (upto (romSegments gen fid)).flatMap (romRecordBytes gen fid)

/-- T of sub-table `k` of a built-in at `z` (R179). -/
def romT (gen fid k : Nat) (neg : Bool) (z : Dy) : Dy :=
  let sb := if gen = 1 then 5 else 6
  tableT sb (fun n => segOfBytes (romRecordBytes gen fid n)) (subTable gen fid k) neg z

/-- z lies beyond the highest binade of sub-table `k` (R181 "above"). -/
def isAbove (fid k : Nat) (z : Dy) : Bool :=
  let t := (subSpec fid).getD k (0, 1, false)
  decide (z.m ≠ 0 ∧ expOf z.m.natAbs z.e > t.1 + Int.ofNat t.2.1 - 1)

/-- log₂ e and ln 2 held to 80 fraction bits, truncated (R181). -/
def constLe : Dy := ⟨fxDiv fxOne fxLn2 / ipow2 (fxP - 80), -80⟩
def constL2 : Dy := ⟨fxLn2 / ipow2 (fxP - 80), -80⟩

/-- `n` clamped to −400 to 400 (R180). -/
def clamp400 (n : Int) : Int := max (-400) (min 400 n)

/-- Multiply a dyadic by 2^n. -/
def Dy.scale (a : Dy) (n : Int) : Dy := ⟨a.m, a.e + n⟩

/-- Cut a dyadic to `k` fraction bits, toward −∞ (R181). -/
def Dy.cut (a : Dy) (k : Nat) : Dy :=
  if a.e ≥ -(Int.ofNat k) then a else ⟨(⟨a.m, a.e + Int.ofNat k⟩ : Dy).floor, -(Int.ofNat k)⟩

/-- |x| of a dyadic. -/
def Dy.abs (a : Dy) : Dy := ⟨Int.ofNat a.m.natAbs, a.e⟩

/-- Keep `k` significant bits of a positive dyadic, truncated (R181, 0x05). -/
def Dy.sig (a : Dy) (k : Nat) : Dy :=
  let l := Nat.log2 a.m.natAbs + 1
  if l ≤ k then a else ⟨a.m / ipow2 (l - k), a.e + Int.ofNat (l - k)⟩

/-- The reconstructed table value of a built-in for an argument that R183 does not decide (R181, R182). λ(r) of ids 0x19 and
0x1A is the native table of 0x04 under either generation, as their own tables are (DEDUCED, log 66). -/
def tableValue (gen fid : Nat) (x : Dy) : Dy :=
  let neg := decide (x.m < 0)
  let ax := x.abs
  let ex := expOf ax.m.natAbs ax.e
  let one : Dy := ⟨1, 0⟩
  let signedBy (v : Dy) : Dy := if neg then v.neg else v
  match fid with
  | 1 =>
    let p := x.mul constLe
    let n := p.floor
    (romT gen 1 0 false ((p.add ⟨-n, 0⟩).cut 64)).scale (clamp400 n)
  | 2 =>
    let n := x.floor
    (romT gen 2 0 false (x.add ⟨-n, 0⟩)).scale (clamp400 n)
  | 3 =>
    if (⟨1, -1⟩ : Dy).le x && x.lt ⟨2, 0⟩ then
      let d := x.add ⟨-1, 0⟩
      let v := romT gen 3 (if d.m < 0 then 1 else 0) false d.abs
      if d.m < 0 then v.neg else v
    else (romT gen 3 2 false (x.scale (-ex))).add ⟨constL2.m * ex, constL2.e⟩
  | 4 =>
    if (⟨1, -1⟩ : Dy).le x && x.lt ⟨2, 0⟩ then
      let d := x.add ⟨-1, 0⟩
      let v := romT gen 4 (if d.m < 0 then 1 else 0) false d.abs
      if d.m < 0 then v.neg else v
    else (romT gen 4 2 false (x.scale (-ex))).add ⟨ex, 0⟩
  | 5 =>
    if (⟨-1, -1⟩ : Dy).lt x && x.lt one then
      signedBy (romT gen 5 (if neg then 1 else 0) false ax)
    else
      let w := (one.add x).sig 48
      let ew := expOf w.m.natAbs w.e
      (romT gen 5 2 false (w.scale (-ew))).add ⟨constL2.m * ew, constL2.e⟩
  | 8 => signedBy ((romT gen 8 0 false (ax.scale (-ex))).scale (clamp400 (-ex)))
  | 9 =>
    let m := ex - ex % 2
    (romT gen 9 0 false (x.scale (-m))).scale (clamp400 (m / 2))
  | 10 =>
    let m := ex - ex % 2
    (romT gen 10 0 false (x.scale (-m))).scale (clamp400 (-(m / 2)))
  | 0x10 => signedBy (if isAbove 0x10 0 ax then one else romT gen 0x10 0 false ax)
  | 0x11 =>
    if isAbove 0x11 0 ax then (if neg then ⟨0, 0⟩ else one) else romT gen 0x11 (if neg then 1 else 0) neg ax
  | 0x12 =>
    let k := if neg then 1 else 0
    if isAbove 0x12 k ax then (if neg then ⟨0, 0⟩ else x) else romT gen 0x12 k neg ax
  | 0x13 =>
    let k := if neg then 1 else 0
    if isAbove 0x13 k ax then (if neg then ⟨0, 0⟩ else x) else romT gen 0x13 k neg ax
  | 0x18 => signedBy (if isAbove 0x18 0 ax then one else romT gen 0x18 0 false ax)
  | 0x19 =>
    if ax.lt ⟨1, -1⟩ then signedBy (romT gen 0x19 0 false ax)
    else
      let r := one.add ax.neg
      let er := expOf r.m.natAbs r.e
      let z := ((romT gen 4 2 false (r.scale (-er))).cut 80).add ⟨er, 0⟩
      signedBy (romT gen 0x19 1 false z.neg)
  | 0x1A =>
    let d := x.add ⟨-1, -1⟩
    if d.abs.lt ⟨1, -2⟩ then
      let v := romT gen 0x1A 0 false d.abs
      if d.m < 0 then v.neg else v
    else
      let r := if d.m < 0 then x else one.add x.neg
      let er := expOf r.m.natAbs r.e
      let z := ((romT gen 4 2 false (r.scale (-er))).cut 80).add ⟨er, 0⟩
      let v := romT gen 0x1A 1 false z.neg
      if d.m < 0 then v.neg else v
  | 0x1C =>
    let k := if neg then 1 else 0
    if isAbove 0x1C k ax then (if neg then ⟨0, 0⟩ else x) else romT gen 0x1C k neg ax
  | 0x1D =>
    let k := if neg then 1 else 0
    if isAbove 0x1D k ax then (if neg then ⟨0, 0⟩ else x) else romT gen 0x1D k neg ax
  | 0x20 => signedBy (turns gen ax 0)
  | 0x21 => turns gen ax 1
  | _ => x
where
  /-- sin of a non-negative number of turns, its quadrant moved by `k` (R181, ids 0x20 and 0x21). -/
  turns (gen : Nat) (ax : Dy) (k : Nat) : Dy :=
    let u := (ax.add ⟨-ax.floor, 0⟩).cut 64
    let q4 : Dy := ⟨u.m * 4, u.e⟩
    let q0 := q4.floor.toNat
    let v := q4.add ⟨-(Int.ofNat q0), 0⟩
    let q := (q0 + k) % 4
    let z := if q % 2 = 0 then v else (⟨1, 0⟩ : Dy).add v.neg
    let t := romT gen 0x20 0 false z
    if q ≥ 2 then t.neg else t

/-- Bisection for an increasing function: the largest fixed-point y (by bits below `2^k`) with `f y ≤ target`. -/
def fxBisect (f : Int → Int) (target : Int) : Nat → Int → Int
  | 0, y => y
  | k + 1, y => if f (y + ipow2 k) ≤ target then fxBisect f target k (y + ipow2 k) else fxBisect f target k y

/-- √ of a positive dyadic as a real value: exact where the root is a dyadic. -/
def realSqrt (x : Dy) : RealVal :=
  let s := x.e % 2
  let m := x.m.natAbs * pow2 (s.toNat + 400)
  let e := (x.e - s - 400) / 2
  let r := isqrt m
  if r * r = m then .exact false r 1 e else .near ⟨Int.ofNat (2 * r + 1), e - 1⟩

/-- 1/√ of a positive dyadic as a real value. -/
def realRsqrt (x : Dy) : RealVal :=
  let l := Nat.log2 x.m.natAbs
  if x.m.natAbs = pow2 l ∧ (x.e + Int.ofNat l) % 2 = 0 then .exact false 1 1 (-((x.e + Int.ofNat l) / 2))
  else
    let s := x.e % 2
    -- 1/√(m 2^s) to 400 places, with m * 2^s an integer
    let m := x.m.natAbs * pow2 s.toNat
    let k := 400 + Nat.log2 m
    let r := isqrt (pow2 (2 * k) / m)
    .near ⟨Int.ofNat (2 * r + 1), -(Int.ofNat k) - 1 - (x.e - s) / 2⟩

/-- 1 / (1 + e^−x) in fixed point, for |x| ≤ 500 in fixed point, as e^x / (1 + e^x) for negative x. -/
def fxSigmoid (x : Int) : Int :=
  if x ≥ 0 then fxDiv fxOne (fxOne + (fxExp (-x)).fx)
  else fxDiv (fxExp x).fx (fxOne + (fxExp x).fx)

/-- x cut to ±500 in fixed point. -/
def fxCut (x : Dy) : Int := max (-(500 * fxOne)) (min (500 * fxOne) x.fx)

/-- The exact real value of a built-in's definition (R177) at an argument that R183 does not decide. -/
def realValue (fid : Nat) (x : Dy) : RealVal :=
  let neg := decide (x.m < 0)
  let ax := x.abs
  let far := (⟨500, 0⟩ : Dy).lt ax
  let sg (v : Int) : Dy := fxDy (if neg then -v else v)
  match fid with
  | 1 => realExp x
  | 2 =>
    let n := x.floor
    let r := x.add ⟨-n, 0⟩
    if r.m = 0 then .exact false 1 1 (clamp400 n)
    else .near ((fxExp (fxMul r.fx fxLn2)).scale (clamp400 n))
  | 3 => realLn x
  | 4 =>
    let l := Nat.log2 x.m.natAbs
    if x.m.natAbs = pow2 l then .exact (decide (x.e + Int.ofNat l < 0)) (x.e + Int.ofNat l).natAbs 1 0
    else .near (fxDy (fxDiv (fxLn x) fxLn2))
  | 5 => realLn ((⟨1, 0⟩ : Dy).add x)
  | 8 => .exact neg 1 x.m.natAbs (-x.e)
  | 9 => realSqrt x
  | 10 => realRsqrt x
  | 0x10 =>
    let t := (fxExp (-(2 * min (500 * fxOne) ax.fx))).fx
    .near (sg (fxDiv (fxOne - t) (fxOne + t)))
  | 0x11 => .near (fxDy (fxSigmoid (fxCut x)))
  | 0x12 =>
    if far then (if neg then .near ⟨0, 0⟩ else .exact false x.m.natAbs 1 x.e)
    else
      let t := (fxExp (-(ax.fx))).fx
      let l := fxLn (fxDy (fxOne + t))
      .near (fxDy (if neg then l else ax.fx + l))
  | 0x13 =>
    if far then (if neg then .near ⟨0, 0⟩ else .exact false x.m.natAbs 1 x.e)
    else .near (fxDy (fxMul x.fx (fxSigmoid (fxCut x))))
  | 0x18 => .near (sg (fxErf ax.fx))
  | 0x19 => .near (sg (fxBisect fxErf ax.fx (fxP + 5) 0))
  | 0x1A =>
    let d := x.add ⟨-1, -1⟩
    let y := fxMul (fxBisect fxErf (2 * d.abs.fx) (fxP + 5) 0) (fxSqrt (2 * fxOne))
    .near (fxDy (if d.m < 0 then -y else y))
  | 0x1C =>
    if far then (if neg then .near ⟨0, 0⟩ else .exact false x.m.natAbs 1 x.e)
    else if neg && (⟨12, 0⟩ : Dy).le ax then
      let t := dyPhiTail ax.fx
      .near ((x.mul t))
    else
      let g := fxErf (fxDiv ax.fx (fxSqrt (2 * fxOne)))
      .near (fxDy (fxMul x.fx (if neg then fxOne - g else fxOne + g) / 2))
  | 0x1D =>
    if far then (if neg then .near ⟨0, 0⟩ else .exact false x.m.natAbs 1 x.e)
    else
      let x3 := fxMul x.fx (fxMul x.fx x.fx)
      let u := fxMul (fxSqrt (2 * fxDiv fxOne fxPi)) (x.fx + x3 * 44715 / 1000000)
      .near (fxDy (fxMul x.fx (fxSigmoid (max (-(500 * fxOne)) (min (500 * fxOne) (2 * u))))))
  | 0x20 => sinVal x 0 neg
  | 0x21 => sinVal x 1 false
  | _ => .exact neg x.m.natAbs 1 x.e
where
  /-- sin of |x| turns with its quadrant moved by `k`, negated for `flip`. -/
  sinVal (x : Dy) (k : Nat) (flip : Bool) : RealVal :=
    let ax := x.abs
    let u := ax.add ⟨-ax.floor, 0⟩
    let q4 : Dy := ⟨u.m * 4, u.e⟩
    let q0 := q4.floor.toNat
    let v := q4.add ⟨-(Int.ofNat q0), 0⟩
    let q := (q0 + k) % 4
    let z := if q % 2 = 0 then v else (⟨1, 0⟩ : Dy).add v.neg
    let s := (decide (q ≥ 2)) != flip
    if z.m = 0 then .exact s 0 1 0
    else if (z.add ⟨-1, 0⟩).m = 0 then .exact s 1 1 0
    else
      let y := fxSin (fxMul z.fx (fxPi / 2))
      .near (fxDy (if s then -y else y))

/-- A special result of R183: a NaN with invalid, or an infinity, zero or exact value with its flag. -/
def specNaN (f : NumFmt) : FRes := ⟨canonNaN f, flInvalid⟩
def specInf (f : NumFmt) (neg pole : Bool) : FRes :=
  let r := encodeInf f neg
  ⟨r.bits, r.flags ||| (if pole then flDivZero else 0)⟩
def specZero (f : NumFmt) (neg : Bool) : FRes := roundMag roundEven f neg 0 0
def specOne (f : NumFmt) (neg : Bool) : FRes := roundMag roundEven f neg 1 0

/-- The special arguments of R183, decided before any table evaluation. `none`: an ordinary argument. -/
def specialArg (fid : Nat) (f : NumFmt) (x : F32) : Option FRes :=
  match dec32 x with
  | .nan => some ⟨canonNaN f, 0⟩
  | .inf s =>
    match fid with
    | 0 => some (specInf f s false)
    | 1 | 2 => some (if s then specZero f false else specInf f false false)
    | 3 | 4 | 5 | 9 => some (if s then specNaN f else specInf f false false)
    | 8 => some (specZero f s)
    | 10 => some (if s then specNaN f else specZero f false)
    | 0x10 | 0x18 => some (specOne f s)
    | 0x11 => some (if s then specZero f false else specOne f false)
    | 0x12 => some (if s then specZero f false else specInf f false false)
    | 0x13 | 0x1C | 0x1D => some (if s then specZero f true else specInf f false false)
    | _ => some (specNaN f)
  | .fin s m e =>
    let d : Dy := ⟨if s then -(Int.ofNat m) else Int.ofNat m, e⟩
    let one : Dy := ⟨1, 0⟩
    if m = 0 then
      match fid with
      | 0 | 5 | 9 | 0x10 | 0x13 | 0x18 | 0x19 | 0x1C | 0x1D | 0x20 => some (specZero f s)
      | 1 | 2 | 0x21 => some (specOne f false)
      | 3 | 4 | 0x1A => some (specInf f true true)
      | 8 => some (specInf f s true)
      | 10 => some (specInf f s true)
      | 0x11 => some (roundMag roundEven f false 1 (-1))
      | _ => none
    else
      match fid with
      | 3 | 4 | 9 | 10 => if s then some (specNaN f) else none
      | 5 =>
        if (d.add one).m = 0 then some (specInf f true true)
        else if (d.add one).m < 0 then some (specNaN f) else none
      | 0x19 =>
        if (d.abs.add ⟨-1, 0⟩).m = 0 then some (specInf f s true)
        else if one.lt d.abs then some (specNaN f) else none
      | 0x1A =>
        if s || one.lt d then some (specNaN f)
        else if (d.add ⟨-1, 0⟩).m = 0 then some (specInf f false true)
        else if (d.add ⟨-1, -1⟩).m = 0 then some (specZero f false)
        else none
      | 0x20 =>
        let h : Dy := ⟨d.m * 2, d.e⟩
        if (h.add ⟨-h.floor, 0⟩).m = 0 then some (specZero f s) else none
      | 0x21 =>
        let h : Dy := ⟨d.m * 4, d.e⟩
        if (h.add ⟨-h.floor, 0⟩).m = 0 && h.floor % 2 == 1 then some (specZero f false) else none
      | _ => none

/-- The sign of a zero that the tables give: odd functions carry the argument's, 0x1A is negative below 0.5, and SiLU and GELU
end in −0 (R181, R182). -/
def zeroSign (fid : Nat) (x : Dy) : Bool :=
  match fid with
  | 8 | 0x10 | 0x18 | 0x19 | 0x20 => decide (x.m < 0)
  | 0x13 | 0x1C | 0x1D => decide (x.m < 0)
  | 0x1A => x.lt ⟨1, -1⟩
  | _ => false

/-- The reconstructed table value rounded to a format by a rule, with the flags of R70 and R73 (R180). -/
def tableRes (gen fid : Nat) (rule : RoundRule) (f : NumFmt) (x : Dy) : FRes :=
  let t := tableValue gen fid x
  if t.m = 0 then specZero f (zeroSign fid x) else roundInt rule f t.m t.e

/-- How a function runs through the neighbourhood of an argument (R177, R187, R188). -/
inductive Trend where
  | rising | falling | turning
  deriving DecidableEq, Repr, Inhabited

/-- The trend of a built-in at an argument. `turning` stands for the segment of a turning point and the two beside it: SiLU
turns in segment 17 of binade 0, the GELU forms in segment 32 of binade −1, sin and cos at the end of the folded variable. -/
def trendOf (fid : Nat) (x : Dy) : Trend :=
  let neg := decide (x.m < 0)
  let ax := x.abs
  let dip (lo hi : Dy) : Trend := if !neg || ax.lt lo then .rising else if ax.lt hi then .turning else .falling
  match fid with
  | 8 | 10 => .falling
  | 0x13 => dip ⟨80, -6⟩ ⟨83, -6⟩
  | 0x1C | 0x1D => dip ⟨95, -7⟩ ⟨98, -7⟩
  | 0x20 => wave ax 0 false
  | 0x21 => wave ax 1 neg
  | _ => .rising
where
  /-- The trend of sin of |x| turns with its quadrant moved by `k`, turned over for `flip`. -/
  wave (ax : Dy) (k : Nat) (flip : Bool) : Trend :=
    let u := ax.add ⟨-ax.floor, 0⟩
    let q4 : Dy := ⟨u.m * 4, u.e⟩
    let q0 := q4.floor.toNat
    let v := q4.add ⟨-(Int.ofNat q0), 0⟩
    let q := (q0 + k) % 4
    let z := if q % 2 = 0 then v else (⟨1, 0⟩ : Dy).add v.neg
    if (⟨127, -7⟩ : Dy).le z then .turning
    else if (q == 0 || q == 3) != flip then .rising else .falling

/-- The binary32 neighbours of a finite number, in the order of values. -/
def nextUp32 (x : F32) : F32 := if x.toNat < 0x80000000 then x + 1 else x - 1
def nextDown32 (x : F32) : F32 := if x.toNat < 0x80000000 then x - 1 else x + 1

/-- The two values that bracket a built-in's exact value, the lower first (R186). -/
def bracketOf (fid : Nat) (x : Dy) : FRes × FRes :=
  let b := (realValue fid x).bracket
  if key32 (b.1.r32.v) ≤ key32 (b.2.r32.v) then b else (b.2, b.1)

/-- The table's rounding lies at or above the upper value of the bracket. -/
def tableUpper (fid : Nat) (x : Dy) : Bool :=
  decide (key32 (bracketOf fid x).2.r32.v ≤ key32 (tableRes 0 fid roundEven .fp32 x).r32.v)

/-- Some argument from `y` on, in the direction of `next`, with the bracket and the trend given, rounds to the upper value. -/
def upperFrom (fid : Nat) (tr : Trend) (lo hi : Nat) (next : F32 → F32) : Nat → F32 → Bool
  | 0, _ => false
  | n + 1, y =>
    let d := dy32 y
    if (specialArg fid .fp32 y).isSome || trendOf fid d != tr || (bracketOf fid d).1.bits != lo || (bracketOf fid d).2.bits != hi then
      false
    else tableUpper fid d || upperFrom fid tr lo hi next n (next y)

/-- The FP32 result of the native generation: exactly rounded for sqrt, equal to the exact value where FP32 holds it, else
one of the two values that bracket the exact one, as the table decides (R178, R186). The published tables never step backward
(R187, R188): so the upper value is given where the table gives it at this argument or, within the same bracket and the same
monotone interval, at one on the lower side of the function. The ROM's records are not printed and so unconstrained here; for
records that keep R186 to R188 this is the rounded table value itself (log 5). -/
def nativeF32 (fid : Nat) (xb : F32) : FRes :=
  let x := dy32 xb
  let rv := realValue fid x
  if fid = 9 then rv.round .fp32
  else match rv.exact32 with
    | some r => r
    | none =>
      let (lo, hi) := bracketOf fid x
      let up := match trendOf fid x with
        | .rising => upperFrom fid .rising lo.bits hi.bits nextDown32 4294967296 xb
        | .falling => upperFrom fid .falling lo.bits hi.bits nextUp32 4294967296 xb
        | .turning => tableUpper fid x
      let r := if up then hi else lo
      let t := tableRes 0 fid roundEven .fp32 x
      if t.bits = r.bits then t else r

/-- The result of the native generation in a shorter format, to nearest even: the exactly rounded value (R185), with the flags
of the table value where that rounds to it (R180). -/
def nativeShort (fid : Nat) (f : NumFmt) (x : Dy) : FRes :=
  let r := (realValue fid x).round f
  let t := tableRes 0 fid roundEven f x
  if t.bits = r.bits then t else r

/-- A built-in function of an FP32 argument, rounded to `f` by `rule`; `stoch` says that the rule is stochastic
(R177 to R186, R192, R193). An infinite result from a finite argument also sets divide by zero (R167, R180). -/
def builtin (filuf2 : Bool) (fid : Nat) (stoch : Bool) (rule : RoundRule) (f : NumFmt) (x : F32) : FRes :=
  match specialArg fid f x with
  | some r => r
  | none =>
    let gen := genOf filuf2 fid
    let r :=
      if fid = 0 then fromF32 rule f x
      else if stoch || gen == 1 then tableRes gen fid rule f (dy32 x)
      else if f == .fp32 then nativeF32 fid x
      else nativeShort fid f (dy32 x)
    if isInfBits f r.bits then ⟨r.bits, r.flags ||| flDivZero⟩ else r

/-- The cut-off places of a built-in's result, for the width of a stochastic draw (R180). -/
def builtinCut (filuf2 : Bool) (fid : Nat) (f : NumFmt) (x : F32) : Int :=
  let t := if fid = 0 then dy32 x else tableValue (genOf filuf2 fid) fid (dy32 x)
  cutOf f t.m.natAbs t.e

/-- A built-in evaluated to FP32. -/
def builtin32 (filuf2 : Bool) (fid : Nat) (x : F32) : R32 :=
  (builtin filuf2 fid false roundEven .fp32 x).r32

/-! ### Overlays and micro-programs -/

/-- A loaded overlay: its file bytes (R190, R194). -/
structure Overlay where
  file : Bytes
  deriving DecidableEq, Repr, Inhabited

/-- Segment records of an overlay file (R190). -/
def Overlay.count (o : Overlay) : Nat := field o.file 0x0C 4

/-- Sub-table `k` of an overlay (R190). -/
def Overlay.sub (o : Overlay) (k : Nat) : SubTable :=
  let at' := 0x10 + 24 * k
  ⟨signed 16 (field o.file at' 2), field o.file (at' + 2) 2, field o.file (at' + 4) 4,
    if field o.file (at' + 8) 1 = 1 then some (field o.file (at' + 16) 8) else none⟩

/-- The header and descriptors of an overlay obey R190, and no descriptor names a record beyond its count (R194). -/
def overlayOk (file : Bytes) : Bool :=
  let subs := field file 9 1
  let n := field file 0x0C 4
  let desc (k : Nat) : Bool :=
    let a := 0x10 + 24 * k
    let rule := field file (a + 8) 1
    if k < subs then
      decide (field file (a + 2) 2 ≥ 1) && decide (rule ≤ 1) && zeroAt file (a + 9) (a + 16) &&
      (rule == 1 || zeroAt file (a + 16) (a + 24)) &&
      decide (field file (a + 4) 4 + field file (a + 2) 2 * 64 ≤ n)
    else zeroAt file a (a + 24)
  field file 0 4 == 0x33544653 && field file 4 2 == 1 && field file 6 1 == 2 && field file 7 1 == 6 &&
  field file 8 1 == 0 && decide (1 ≤ subs ∧ subs ≤ 4) && zeroAt file 0x0A 0x0C && zeroAt file 0x70 0x80 &&
  (upto 4).all desc && file.length == 128 + 16 * n &&
  (upto n).all (fun i => zeroAt file (128 + 16 * i + 11) (128 + 16 * i + 12) && zeroAt file (128 + 16 * i + 14) (128 + 16 * i + 16)
    && decide (field file (128 + 16 * i + 7) 1 ≤ 63) && decide (field file (128 + 16 * i + 10) 1 ≤ 63))

/-- T of an overlay sub-table at |v|, rounded to FP32 (R197 TLU). -/
def overlayT (o : Overlay) (k : Nat) (v : F32) : R32 :=
  match dec32 v with
  | .nan => ⟨nan32, 0⟩
  | .inf _ =>
    -- beyond every binade: the above rule of R179
    let b := o.sub k
    let g := b.first + (b.binades - 1) * 64 + 63
    let t := segValue (segOfBytes (slice o.file (128 + 16 * g) 16)) (pow2 24 - 1)
    t.round32
  | .fin _ m e =>
    (tableT 6 (fun g => segOfBytes (slice o.file (128 + 16 * g) 16)) (o.sub k) false ⟨Int.ofNat m, e⟩).round32

/-- A micro-program image read from its 528 bytes (R195). -/
structure MicroProg where
  image : Bytes
  deriving DecidableEq, Repr, Inhabited

def MicroProg.fid (p : MicroProg) : Nat := field p.image 6 1
def MicroProg.steps (p : MicroProg) : Nat := field p.image 7 1
def MicroProg.consts (p : MicroProg) : Nat := field p.image 8 1
def MicroProg.refs (p : MicroProg) : Nat := field p.image 9 1
def MicroProg.refDigest (p : MicroProg) (k : Nat) : Bytes := slice p.image (0x10 + 48 * k) 48
def MicroProg.const (p : MicroProg) (k : Nat) : F32 := BitVec.ofNat 32 (field p.image (0xD0 + 4 * k) 4)
def MicroProg.step (p : MicroProg) (k : Nat) : Nat := field p.image (0x110 + 4 * k) 4

/-- Op, D, A, B, C and Imm of a step word (R196). -/
def stepOp (w : Nat) : Nat := bitsAt w 31 26
def stepD (w : Nat) : Nat := bitsAt w 25 23
def stepA (w : Nat) : Nat := bitsAt w 22 20
def stepB (w : Nat) : Nat := bitsAt w 19 17
def stepC (w : Nat) : Nat := bitsAt w 16 14
def stepImm (w : Nat) : Nat := bitsAt w 13 0

/-- One step word is legal (R197, R198). -/
def stepOk (consts refs : Nat) (w : Nat) : Bool :=
  match stepOp w with
  | 0 => stepB w == 0 && stepC w == 0 && stepImm w == 0 && stepD w == 0
  | 1 => decide (stepImm w % 16 < consts)
  | 2 => true
  | 3 => decide (stepImm w % 4 < refs)
  | 4 => decide (stepImm w % 8 ≤ 4)
  | 5 => true
  | 6 => true
  | 7 => decide (-400 ≤ signed 14 (stepImm w) ∧ signed 14 (stepImm w) ≤ 400)
  | 8 => true
  | _ => false

/-- An image obeys R195 and R198, where `loaded` are the digests of the loaded overlays. -/
def microOk (loaded : List Bytes) (image : Bytes) : Bool :=
  let p : MicroProg := ⟨image⟩
  let n := p.steps
  image.length == 528 && field image 0 4 == 0x33504D46 && field image 4 2 == 1 && decide (p.fid ≥ 0x40) &&
  decide (1 ≤ n ∧ n ≤ 64) && decide (p.consts ≤ 16) && decide (p.refs ≤ 4) && zeroAt image 0x0A 0x10 &&
  (upto 4).all (fun k => if k < p.refs then loaded.contains (p.refDigest k) else allZero (p.refDigest k)) &&
  (upto 16).all (fun k => decide (k < p.consts) || p.const k == 0) &&
  (upto 64).all (fun k => if k < n then stepOk p.consts p.refs (p.step k) else p.step k == 0) &&
  (upto n).all (fun k => (stepOp (p.step k) == 0) == (k + 1 == n))

/-- The eight registers and the flags of a running micro-program (R199). -/
structure MicroState where
  v : List F32
  fl : U16
  deriving DecidableEq, Repr, Inhabited

/-- 1/a rounded toward zero to 12 significant bits (R197 RSEED). -/
def rseed (a : F32) : R32 :=
  match dec32 a with
  | .nan => ⟨nan32, 0⟩
  | .inf s => ⟨zero32 s, 0⟩
  | .fin s m e =>
    if m = 0 then ⟨inf32 s, flDivZero⟩
    else
      let k := 13 + Nat.log2 m
      let q := pow2 k / m
      let cutb := Nat.log2 q + 1 - 12
      let keep := q / pow2 cutb * pow2 cutb
      let r := (roundMag roundEven .fp32 s keep (-(Int.ofNat k) - e)).r32
      let inexact := keep * m != pow2 k
      let tiny := decide (expOf keep (-(Int.ofNat k) - e) < -126)
      ⟨r.v, r.fl ||| (if inexact then flInexact else 0) ||| (if inexact && tiny then flUnderflow else 0)⟩

/-- One step other than END (R197). -/
def microStep (p : MicroProg) (ovl : List Overlay) (w : Nat) (st : MicroState) : MicroState :=
  let g (i : Nat) : F32 := st.v.getD i 0
  let put (r : R32) : MicroState := ⟨st.v.set (stepD w) r.v, st.fl ||| r.fl⟩
  let a := g (stepA w)
  let b := g (stepB w)
  match stepOp w with
  | 1 => put ⟨p.const (stepImm w % 16), 0⟩
  | 2 => put (ffma a b (g (stepC w)))
  | 3 => put (overlayT (ovl.getD (stepImm w % 4) default) (stepImm w / 4 % 4) a)
  | 4 =>
    let un := isNaN32 a || isNaN32 b
    let c := match stepImm w % 8 with
      | 0 => !un && flt a b
      | 1 => !un && fle a b
      | 2 => !un && key32 a == key32 b
      | 3 => un
      | _ => decide (a.toNat ≥ 0x80000000)
    if c then put ⟨g (stepC w), 0⟩ else st
  | 5 => put (match dec32 a with
      | .nan => ⟨Config.microOpen 5 a b, 0⟩
      | .inf _ => ⟨inf32 false, 0⟩
      | .fin _ m e => if m = 0 then ⟨inf32 true, 0⟩ else (Dy.round32 ⟨expOf m e, 0⟩))
  | 6 => put (match dec32 a, dec32 b with
      | .fin s m e, .fin t n h =>
        if m = 0 then ⟨a, 0⟩
        else
          let k := clamp400 (FVal.fin t n h).dy.floor
          (roundMag roundEven .fp32 s m (e + (k - expOf m e))).r32
      | .fin s m e, .inf t => if m = 0 then ⟨a, 0⟩ else (roundMag roundEven .fp32 s m (e + ((if t then -400 else 400) - expOf m e))).r32
      | .fin _ m _, .nan => if m = 0 then ⟨a, 0⟩ else ⟨Config.microOpen 6 a b, 0⟩
      | .nan, _ => ⟨a, 0⟩
      | .inf _, _ => ⟨a, 0⟩)
  | 7 => put (match dec32 a with
      | .nan => ⟨nan32, 0⟩
      | .inf _ => ⟨a, 0⟩
      | .fin s m e => (roundMag roundEven .fp32 s m (e + signed 14 (stepImm w))).r32)
  | 8 => put (rseed a)
  | _ => st

/-- Run the steps before END (R199). -/
def microRun (p : MicroProg) (ovl : List Overlay) (x : F32) : MicroState :=
  (upto (p.steps - 1)).foldl (fun st k => microStep p ovl (p.step k) st) ⟨x :: List.replicate 7 0, 0⟩

/-- The result of a micro-program in FP32 with its flags; a NaN argument gives the canonical NaN and no flag (R184, R199). -/
def microEval (p : MicroProg) (ovl : List Overlay) (x : F32) : R32 :=
  if isNaN32 x then ⟨nan32, 0⟩
  else
    let st := microRun p ovl x
    ⟨st.v.getD (stepA (p.step (p.steps - 1))) 0, st.fl⟩

/-- The lane cost of one element of a function (R201). -/
def microCost (p : MicroProg) : Nat :=
  let tlu := ((upto p.steps).filter (fun k => stepOp (p.step k) == 3)).length
  max (p.steps - tlu) (4 * tlu)

end Sys2Proof.Machine
end

