-- ==== Sys2Proof/Machine/Lanes.lean ====
section
/-! DEFINITION. The Rime lanes and the Serac array: the normaliser and the cast to the array format (R168, R169), scores
(R64 to R79, R85, R107), the score chain (R158), penalty lists (R161, R163) and Gumbel keys (R203, R286). -/
namespace Sys2Proof.Machine

/-! ### Settings a command works under -/

/-- The tables in force are those of Filuf-2: the table generation or compatibility accumulation selects them (R192). -/
def State.filuf2 (s : State) : Bool := s.profile.tableGen == 1 || s.profile.accumulation == 1

/-- The partition key (R275). -/
def State.partKey (s : State) (p : Nat) : Nat × Nat := ((s.part p).key.1.toNat, (s.part p).key.2.toNat)

/-! ### The normaliser (R168) -/

/-- The values a gain or bias vector gives: FP32 values in host memory, or a constant for a base of zero (R168, R346). -/
def State.vector (s : State) (base h : Nat) (none' : F32) : List F32 :=
  if base = 0 then List.replicate h none' else (chunksOf 4 h (s.host base (4 * h))).map (fun c => BitVec.ofNat 32 (leNat c))

/-- A normalised row: its elements, the flags they raised, and whether R82 clamped the variance. -/
structure NormRow where
  y : List F32
  fl : U16
  clamped : Bool
  deriving DecidableEq, Repr, Inhabited

/-- LayerNorm of a row (R168 kind 0x01). -/
def layerNorm (filuf2 : Bool) (eps : F32) (gamma beta xs : List F32) (st : RowStats) : NormRow :=
  let n := xs.length
  let mean := statMean n st
  let (var, clamped) := statVar n st
  let r := (var.bind (fun v => fadd v eps)).bind (builtin32 filuf2 0x0A)
  let ys := ((xs.zip gamma).zip beta).map (fun e =>
    (((fsub e.1.1 mean.v).bind (fun d => fmul d r.v)).bind (fun t => fmul t e.1.2)).bind (fun u => fadd u e.2))
  ⟨ys.map R32.v, mean.fl ||| r.fl ||| flagsOf ys, clamped⟩

/-- RMS normalisation of a row (R168 kind 0x02). -/
def rmsNorm (filuf2 : Bool) (eps : F32) (gamma xs : List F32) (st : RowStats) : NormRow :=
  let ms := statMeanSq xs.length st
  let r := (ms.bind (fun v => fadd v eps)).bind (builtin32 filuf2 0x0A)
  let ys := (xs.zip gamma).map (fun e => (fmul e.1 r.v).bind (fun t => fmul t e.2))
  ⟨ys.map R32.v, r.fl ||| flagsOf ys, false⟩

/-- The elements of an arriving hidden row as FP32, converted exactly (R168). -/
def rowElems (f : NumFmt) (bs : Bytes) : List F32 :=
  (chunksOf f.bytes bs.length bs).map (fun c => toF32 f (leNat c))

/-- The sums of R80 that an arriving row gives. -/
def arrivalStats (f : NumFmt) (bs : Bytes) : RowStats := rowStats ((rowElems f bs).map dec32)

/-- Normalise one hidden row by the kind its command names (R168). -/
def State.normalise (s : State) (t : Ticket) (row : ActRow) : NormRow :=
  let xs := rowElems t.rowFmt row.bytes
  let h := xs.length
  match t.b 0x41 with
  | 1 => layerNorm s.filuf2 (t.fl 0x44) (s.vector (t.f 0x48 8) h 0x3F800000) (s.vector (t.f 0x50 8) h 0) xs row.stats
  | 2 => rmsNorm s.filuf2 (t.fl 0x44) (s.vector (t.f 0x48 8) h 0x3F800000) xs row.stats
  | _ => ⟨xs, 0, false⟩

/-! ### The cast to the array format (R169) -/

/-- A row in the array format: its element bits and its row scale. -/
structure CastRow where
  fmt : NumFmt
  bits : List Nat
  scale : Int
  deriving DecidableEq, Repr, Inhabited

/-- Multiply a decoded value by 2^s. -/
def FVal.scale (s : Int) : FVal → FVal
  | .fin n m e => .fin n m (e + s)
  | v => v

/-- The values a cast row carries into the array, its row scale applied (R59). -/
def CastRow.vals (c : CastRow) : List FVal := c.bits.map (fun b => (decodeF c.fmt b).scale c.scale)

/-- The row scale of FP8 (R169), and whether it was clamped. -/
def rowScale (f : NumFmt) (y : List F32) : Int × Bool :=
  let want := match f, maxExp? (y.map dec32) with
    | .e4m3, some e => some (e - 7)
    | .e5m2, some e => some (e - 14)
    | _, _ => none
  match want with
  | none => (0, false)
  | some s => let c := max (-128) (min 127 s); (c, c != s)

/-- Round one element times 2^−s to the array format (R169). -/
def castElem (f : NumFmt) (s : Int) (x : F32) : FRes :=
  match dec32 x with
  | .nan => ⟨canonNaN f, 0⟩
  | .inf n => encodeInf f n
  | .fin n m e => roundMag roundEven f n m (e - s)

/-- The feeder's cast of a normalised row, with the flags it raises (R169). An FP32 activation is not cast. -/
def castRow (f : NumFmt) (y : List F32) : CastRow × U16 :=
  if f == .fp32 then (⟨.fp32, y.map BitVec.toNat, 0⟩, 0)
  else
    let (s, clamped) := rowScale f y
    let els := y.map (castElem f s)
    (⟨f, els.map FRes.bits, s⟩, orFlags (els.map FRes.flags) ||| (if clamped then flRowScale else 0))

/-- The bytes of a cast row as the work area keeps them (R231). -/
def CastRow.bytes (c : CastRow) : Bytes := c.bits.flatMap (leBytes c.fmt.bytes)

/-- A cast row read back from a work area (R231). -/
def CastRow.ofBytes (f : NumFmt) (scale : Int) (bs : Bytes) : CastRow :=
  ⟨f, (chunksOf f.bytes bs.length bs).map leNat, scale⟩

/-! ### Array scores -/

/-- A column of the shard: its token id, its metadata byte and its H values. -/
structure Column where
  id : Nat
  ew : Int
  vals : List FVal
  deriving DecidableEq, Repr, Inhabited

/-- The columns of a shard held in a memory. -/
def Desc.cols (d : Desc) (m : Memory) : List Column :=
  (upto d.columns).map (fun j => ⟨d.idOf m j, d.metaOf m (j / 32) (j % 32), d.column m j⟩)

/-- How the array forms its products: the formats and modes in force. -/
structure ArrayMode where
  aF32 : Bool
  bF32 : Bool
  exactMode : Bool
  compat : Bool
  slices : Nat
  deriving DecidableEq, Repr, Inhabited

/-- The array mode of a command (R77, R85). -/
def State.arrayMode (s : State) (t : Ticket) : ArrayMode :=
  { aF32 := t.actFmt == .fp32, bF32 := t.desc.fmt == .fp32, exactMode := s.profile.fp32Passes == 1,
    compat := s.profile.accumulation == 1, slices := s.profile.compatSlices.toNat }

/-- The score of a cast row against a column, rounded to FP32, with its flags (R64 to R79, R107; R85 in compatibility
mode). -/
def arrayScore (md : ArrayMode) (eh : Int) (as : List FVal) (c : Column) : R32 :=
  if md.compat then compatScore md.slices as c.vals
  else
    let top := windowTop eh c.ew
    (lwOut roundEven .fp32 (dotLW top md.aF32 md.bF32 md.exactMode as c.vals) top).r32

/-! ### Penalty lists -/

/-- The count a penalty list holds for a token (R161). -/
def penaltyCount (l : List (Nat × Nat)) (v : Nat) : Nat := ((l.find? (fun e => e.1 == v)).map Prod.snd).getD 0

/-- The bias a bias list holds for a token (R164). -/
def biasOf (l : List (Nat × F32)) (v : Nat) : Option F32 := (l.find? (fun e => e.1 == v)).map Prod.snd

/-- The penalty list after a token settles, and whether the list was full (R163). -/
def penaltyAfter (l : List (Nat × Nat)) (u : Nat) : List (Nat × Nat) × Bool :=
  if l.any (fun e => e.1 == u) then (l.map (fun e => if e.1 = u then (e.1, min 65535 (e.2 + 1)) else e), false)
  else if l.length < 8192 then (insertBy (fun a b => decide (a.1 < b.1)) (u, 1) l, false)
  else (l, true)

/-! ### The score chain (R158) -/

/-- The controls of a row's chain. -/
structure Chain where
  filuf2 : Bool
  c : F32
  rho : F32
  alpha : F32
  beta : F32
  t : F32
  pens : List (Nat × Nat)
  biases : List (Nat × F32)
  deriving DecidableEq, Repr, Inhabited

/-- The chain of a stream (R158), with a penalty list. -/
def State.chain (s : State) (p : Bytes) (pens : List (Nat × Nat)) (biases : List (Nat × F32)) : Chain :=
  { filuf2 := s.filuf2, c := prC p, rho := prRho p, alpha := prAlpha p, beta := prBeta p, t := prT p, pens := pens,
    biases := biases }

/-- The chain of a LOSS or GRAD: steps 1 and 5 alone (R158). -/
def State.trainChain (s : State) (t : Ticket) : Chain :=
  { filuf2 := s.filuf2, c := t.fl 0x84, rho := 0x3F800000, alpha := 0, beta := 0, t := 0, pens := [], biases := [] }

/-- Step 1, the soft-cap. -/
def softCap (filuf2 : Bool) (c l : F32) : R32 :=
  if isZero32 c then R32.pure l
  else ((fdiv l c).bind (builtin32 filuf2 0x10)).bind (fun th => fmul c th)

/-- Steps 2 and 3, the penalties, for the count n_v. -/
def penaltySteps (ch : Chain) (n : Nat) (s : R32) : R32 :=
  if n = 0 then s
  else
    let s2 := s.bind (fun x => if flt 0 x then fdiv x ch.rho else fmul x ch.rho)
    let q := (fmul ch.beta (nat32 n).v).bind (fun y => fadd y ch.alpha)
    let s3 := s2.bind (fun x => fsub x q.v)
    ⟨s3.v, s3.fl ||| q.fl⟩

/-- Step 4, the bias. -/
def biasStep (ch : Chain) (v : Nat) (s : R32) : R32 :=
  match biasOf ch.biases v with
  | some b => s.bind (fun x => fadd x b)
  | none => s

/-- Step 6, the temperature. -/
def tempStep (t : F32) (s : R32) : R32 := if isZero32 t then s else s.bind (fun x => fdiv x t)

/-- The six steps on a score of token v; step 5 sets −∞ on a masked score, and its flags are discarded (R158, R165). -/
def chainScore (ch : Chain) (v : Nat) (masked : Bool) (l : R32) : R32 :=
  if masked then ⟨0xFF800000, 0⟩
  else tempStep ch.t (biasStep ch v (penaltySteps ch (penaltyCount ch.pens v) (l.bind (softCap ch.filuf2 ch.c))))

/-! ### Scores of a row -/

/-- A score as the lanes hand it on: its token, its value and whether step 5 masked it. -/
structure Score where
  id : Nat
  v : F32
  masked : Bool
  deriving DecidableEq, Repr, Inhabited

/-- Bit j of a mask slice in host memory; a base of zero masks no column (R158, 06). -/
def State.maskBit (s : State) (base cols pos j : Nat) : Bool :=
  base != 0 && bitAt (s.mem.byte (hostAddr (base + pos * (cols / 8) + j / 8))).toNat (j % 8)

/-- Columns of a shard that R130 masks: ids at or beyond the global vocabulary. -/
def State.beyond (s : State) (id : Nat) : Bool := decide (id ≥ s.profile.vocab.toNat)

/-- The scores of a cast row through the chain, with the flags they leave (R158, R165, R167). -/
def State.scoreRow (s : State) (md : ArrayMode) (cols : List Column) (ch : Chain) (mask : Nat → Bool) (row : CastRow) :
    List Score × U16 :=
  let vals := row.vals
  let eh := maxExp vals
  let out := (cols.zip (upto cols.length)).map (fun e =>
    let masked := mask e.2 || s.beyond e.1.id
    let r := if masked then ⟨0xFF800000, 0⟩ else chainScore ch e.1.id false (arrayScore md eh vals e.1)
    ((⟨e.1.id, r.v, masked⟩ : Score), r.fl))
  (out.map Prod.fst, orFlags (out.map Prod.snd))

/-! ### Gumbel keys -/

/-- The noise g_v from u (R203 steps 3 to 5). -/
def gumbelOf (filuf2 : Bool) (u : F32) : R32 :=
  let x := builtin32 filuf2 0x03 u
  let y := x.bind (fun a => builtin32 filuf2 0x03 (fneg a))
  ⟨fneg y.v, y.fl⟩

/-- The key of a token by Flurry (R203, R204). -/
def gumbelKey (filuf2 : Bool) (key : Nat × Nat) (stream step v : Nat) (s : F32) : R32 :=
  (gumbelOf filuf2 (uniformV (draw key 0x01 stream step v).1)).bind (fun g => fadd s g)

/-- The key of a token by a Sleet output (R286). -/
def sleetKey (filuf2 : Bool) (out : Nat) (s : F32) : R32 := (gumbelOf filuf2 (sleetV out)).bind (fun g => fadd s g)

/-- The Sleet output of a slice's generator `n` words on from its newest word (R284). -/
def Slice.sleetAhead (c : Slice) (n : Nat) : Nat := sleetOutput ((sleetAdvance n c.sleet).getLastD 0)

/-- A Sleet output taken by a lane: a word of a slice's generator (R284). Which slice's, and which word, depends on the tick and
the lane, so a free value selects both (log 4). -/
def State.sleetDraw (s : State) : Nat × State :=
  let r := s.fresh
  ((s.sliceOf (r.1.toNat % s.grade.slices)).sleetAhead (r.1.toNat / 4), r.2)

/-- The tokens that Moraine takes from a row's scores, with their keys, the flags of forming the keys, and the Sleet
outputs taken. Masked scores, −∞ scores and NaNs enter no structure (R202, R165); a key is formed for every unmasked
score of a row that samples (R203; log 20). -/
def State.keyRow (s : State) (sleet samples : Bool) (key : Nat × Nat) (stream step : Nat) (l : List Score) :
    List TopEnt × U16 × Nat × State :=
  l.foldr (fun (x : Score) (acc : List TopEnt × U16 × Nat × State) =>
    let (ts, fl, n, s) := acc
    if x.masked then acc
    else
      let drop := isNaN32 x.v || x.v == 0xFF800000
      if !samples then (if drop then acc else (TopEnt.mk x.v x.id 0xFF800000 :: ts, fl, n, s))
      else if sleet then
        let (o, s1) := s.sleetDraw
        let k := sleetKey s.filuf2 o x.v
        (if drop then ts else TopEnt.mk x.v x.id k.v :: ts, fl ||| k.fl, n + 1, s1)
      else
        let k := gumbelKey s.filuf2 key stream step x.id x.v
        (if drop then ts else TopEnt.mk x.v x.id k.v :: ts, fl ||| k.fl, n, s)) ([], 0, 0, s)

/-- Count Sleet outputs taken into a result (R288, R32). -/
def State.countDraws (s : State) (q n : Nat) : State :=
  if n = 0 then s else (s.bump .sleetDraws n).modRun q (fun r => { r with nd := r.nd + n })

end Sys2Proof.Machine
end

