-- ==== Sys2Proof/Machine/Moraine.lean ====
section
/-! DEFINITION. Moraine: the structures of a row (R205 to R212), weighted mass and log-sum-exp (R213 to R215), the merge of
round 1 (R308, R311), the filters and the boundary step (R217 to R226), and log-probabilities (R233, R234). -/
namespace Sys2Proof.Machine

/-! ### Orders -/

/-- +∞ in binary32. -/
def pinf32 : F32 := 0x7F800000
/-- −∞ in binary32. -/
def ninf32 : F32 := 0xFF800000
/-- No token. -/
def noId : Nat := 0xFFFFFFFF

/-- Rank order on (score, id): descending score, then ascending id (08). -/
def rankLt (s1 : F32) (i1 : Nat) (s2 : F32) (i2 : Nat) : Bool :=
  flt s2 s1 || (!(flt s1 s2) && decide (i1 < i2))

/-- Rank order on top-list entries. -/
def TopEnt.lt (a b : TopEnt) : Bool := rankLt a.s a.id b.s b.id

/-- Rank order on cornice entries. -/
def entLt (a b : F32 × Nat) : Bool := rankLt a.1 a.2 b.1 b.2

/-- A Gumbel candidate is better: higher key, lower id among equal keys (R308). -/
def KeyEnt.lt (a b : KeyEnt) : Bool := rankLt a.key a.id b.key b.id

/-- The better of two Gumbel candidates. -/
def KeyEnt.best (a b : KeyEnt) : KeyEnt := if b.lt a then b else a

/-- The best candidate of a list. -/
def bestKey (l : List KeyEnt) : KeyEnt := l.foldl KeyEnt.best KeyEnt.none

/-- The candidate of a token. -/
def TopEnt.cand (t : TopEnt) : KeyEnt := ⟨t.key, t.id, t.s⟩

/-- Sort by merging halves; the fuel is the number of levels. -/
def mergeSortBy {α : Type} (lt : α → α → Bool) : Nat → List α → List α
  | 0, l => l
  | n + 1, l =>
    if l.length ≤ 1 then l
    else
      let h := l.length / 2
      mergeTwo lt (l.length) (mergeSortBy lt n (l.take h)) (mergeSortBy lt n (l.drop h))
where
  /-- Merge two sorted lists; the fuel is their joint length. -/
  mergeTwo {α : Type} (lt : α → α → Bool) : Nat → List α → List α → List α
    | _, [], l => l
    | _, l, [] => l
    | 0, a, _ => a
    | n + 1, a :: l, b :: m => if lt b a then b :: mergeTwo lt n (a :: l) m else a :: mergeTwo lt n l (b :: m)

/-- Tokens in rank order. -/
def rankSort (l : List TopEnt) : List TopEnt := mergeSortBy TopEnt.lt 32 l

/-! ### The ladder -/

/-- A score as it enters the ladder (R207), and whether it was clamped. -/
def ladderScore (s : F32) : F32 × Bool :=
  if fle 0x49000000 s then (0x48FFFFFF, true) else if flt s 0xC9000000 then (0xC9000000, true) else (s, false)

/-- The step of a finite score (R206, R207). -/
def stepOf (s : F32) : Int := (dy32 (ladderScore s).1).floor

/-- The mass contribution of a finite score, in units of 2^−26 (R206, R208). -/
def massUnits (s : F32) : Nat :=
  let d := dy32 (massOf (ladderScore s).1)
  ((⟨d.m, d.e + 26⟩ : Dy).floor).toNat

/-- The finite tokens of a row. -/
def finiteToks (l : List TopEnt) : List TopEnt := l.filter (fun t => t.s != pinf32)

/-- The two best candidates of a list (R224). -/
def topTwo (l : List KeyEnt) : List KeyEnt :=
  l.foldl (fun acc k => (insertBy KeyEnt.lt k acc).take 2) []

/-- The ladder of a row's tokens: top rung, records from its top step downward, and the step Gumbel pairs (R208, R209). -/
def ladderOf (l : List TopEnt) : Option Int × List (Nat × Nat) × List (List KeyEnt) :=
  let fin := (finiteToks l).map (fun t => (stepOf t.s, t))
  match fin with
  | [] => (none, [], [])
  | (j, _) :: rest =>
    let top := (rest.foldl (fun a e => max a e.1) j) / 16
    let steps := (upto 128).map (fun i => (fin.filter (fun e => e.1 == 16 * top + 15 - Int.ofNat i)).map Prod.snd)
    (some top, steps.map (fun ts => (sumNat (ts.map (fun t => massUnits t.s)), ts.length)),
      steps.map (fun ts => topTwo (ts.map TopEnt.cand)))

/-- The step of record i of a ladder (R309). -/
def recStep (top : Int) (i : Nat) : Int := 16 * top + 15 - Int.ofNat i

/-- A ladder's records with their steps, highest first. -/
def RowRec.steps (r : RowRec) : List (Int × Nat × Nat) :=
  match r.topRung with
  | none => []
  | some top => (r.ladder.zip (upto r.ladder.length)).map (fun e => (recStep top e.2, e.1.1, e.1.2))

/-- The record of a step: mass and count. -/
def RowRec.at (r : RowRec) (j : Int) : Nat × Nat := ((r.steps.find? (fun e => e.1 == j)).map Prod.snd).getD (0, 0)

/-! ### The cornice (R211) -/

/-- The bound RU(M − Δ) in FP32 (R211). -/
def corniceBound (m delta : F32) : F32 :=
  if delta = pinf32 then ninf32 else roundUp32 ((dy32 m).add (dy32 delta).neg)

/-- The cornice and its floor, from the finite tokens in rank order (R211). -/
def corniceOf (columns : Nat) (delta : F32) (sorted : List TopEnt) : List (F32 × Nat) × F32 :=
  let ents := sorted.map (fun t => (t.s, t.id))
  match ents with
  | [] => ([], ninf32)
  | (m, _) :: _ =>
    if columns ≤ 4096 then (ents, ninf32)
    else
      let bound := corniceBound m delta
      let q := ents.filter (fun e => fle bound e.1)
      if q.length > 4096 then (q.take 4096, nextUp ((q.getD 4095 (ninf32, noId)).1)) else (q, bound)

/-! ### The row summary -/

/-- What a row's summary is folded from (R205). -/
structure FoldSpec where
  /-- Length of the top list (R210). -/
  len : Nat
  columns : Nat
  delta : F32
  /-- An unmasked +∞ makes the row invalid (R251). -/
  infInvalid : Bool
  /-- The draft token of a VERIFY row (R216). -/
  draft : Option Nat
  deriving DecidableEq, Repr, Inhabited

/-- The identity of every field, with the invalid report (R308). -/
def RowRec.bad : RowRec := { RowRec.empty with invalid := true, masked := true }

/-- The largest key's candidate. -/
def gumbelMax (l : List TopEnt) : KeyEnt := bestKey (l.map TopEnt.cand)

/-- The row summary of a member's scores, where `scores` are as the lanes handed them and `toks` the tokens that enter the
structures (R205 to R212, R308). A row that is invalid here still sets its clamp flag (R207). -/
def foldRow (fs : FoldSpec) (samples : Bool) (scores : List Score) (toks : List TopEnt) : RowSum :=
  let bad := scores.any (fun x => !x.masked && (isNaN32 x.v || (fs.infInvalid && x.v == pinf32)))
  if bad then { RowSum.empty with row := RowRec.bad, clamped := (finiteToks toks).any (fun t => (ladderScore t.s).2) }
  else
    let sorted := rankSort toks
    match sorted with
    | [] => { RowSum.empty with row := RowRec.empty }
    | best :: _ =>
      let fin := finiteToks sorted
      let (top, lad, pairs) := ladderOf sorted
      let (cor, floor) := corniceOf fs.columns fs.delta fin
      let cap := match fs.draft with
        | some d => ((sorted.find? (fun t => t.id == d)).map TopEnt.s).getD ninf32
        | none => ninf32
      { mark := .empty,
        row := {
          invalid := false, masked := false, maxS := best.s, maxId := best.id,
          infs := (sorted.filter (fun t => t.s == pinf32)).length,
          g := if samples then gumbelMax sorted else KeyEnt.none,
          floor := floor, captured := cap, topRung := top, ladder := lad, top := sorted.take fs.len, loss := none },
        pairs := pairs, cornice := cor, clamped := fin.any (fun t => (ladderScore t.s).2), finite := fin.length,
        collected := [] }

/-- Scores that R207 placed in the ladder at its ends. -/
def clampCount (toks : List TopEnt) : Nat := ((finiteToks toks).filter (fun t => (ladderScore t.s).2)).length

/-! ### The merge of round 1 (R308, R311) -/

/-- Add two ladder records. -/
def recAdd (a b : Nat × Nat) : Nat × Nat := (a.1 + b.1, a.2 + b.2)

/-- A ladder moved down to a higher top rung; records at 128 or beyond fall away (R311). -/
def ladderShift (l : List (Nat × Nat)) (rungs : Int) : List (Nat × Nat) :=
  (List.replicate (16 * rungs.toNat) (0, 0) ++ l).take 128

/-- Merge two ladders by rung index (R311). -/
def ladderMerge (t1 : Option Int) (l1 : List (Nat × Nat)) (t2 : Option Int) (l2 : List (Nat × Nat)) :
    Option Int × List (Nat × Nat) :=
  match t1, t2 with
  | none, _ => (t2, l2)
  | _, none => (t1, l1)
  | some a, some b =>
    let r := max a b
    let x := ladderShift l1 (r - a)
    let y := ladderShift l2 (r - b)
    (some r, (x.zip y).map (fun p => recAdd p.1 p.2))

/-- Merge the LOSS extensions (R250, R252, R308). -/
def LossRow.merge (a b : LossRow) : LossRow :=
  { count := a.count + b.count, target := a.target + b.target, sum := a.sum.add b.sum,
    teacher := (a.teacher.zip b.teacher).map (fun p => p.1 + p.2) }

/-- The larger of two scores. -/
def fmax (a b : F32) : F32 := if flt a b then b else a

/-- Merge two row records, with top lists of `len` entries (R308). -/
def RowRec.merge (len : Nat) (a b : RowRec) : RowRec :=
  let first := rankLt a.maxS a.maxId b.maxS b.maxId
  let lad := ladderMerge a.topRung a.ladder b.topRung b.ladder
  { invalid := a.invalid || b.invalid, masked := a.masked && b.masked,
    maxS := if first then a.maxS else b.maxS, maxId := if first then a.maxId else b.maxId,
    infs := a.infs + b.infs, g := KeyEnt.best a.g b.g, floor := fmax a.floor b.floor, captured := fmax a.captured b.captured,
    topRung := lad.1, ladder := lad.2, top := (rankSort (a.top ++ b.top)).take len,
    loss := match a.loss, b.loss with | some x, some y => some (x.merge y) | some x, none => some x | none, y => y }

/-! ### Mass and log-sum-exp (R213 to R215) -/

/-- The merged ladder's top step j_top: the step of the merged maximum (R209, R213). -/
def RowRec.jTop (r : RowRec) : Int :=
  ((r.steps.find? (fun e => e.2.2 != 0)).map Prod.fst).getD 0

/-- The weighted term of a step (R213). -/
def wTerm (jTop j : Int) (q : Nat) : Nat := q * ladderWeight (jTop - j).toNat / pow2 26

/-- C_j: the weighted mass of the steps at or above j (R223). -/
def RowRec.above (r : RowRec) (j : Int) : Nat :=
  sumNat ((r.steps.filter (fun e => decide (e.1 ≥ j))).map (fun e => wTerm r.jTop e.1 e.2.1))

/-- Z, the total mass (R214). -/
def RowRec.z (r : RowRec) : Nat := sumNat (r.steps.map (fun e => wTerm r.jTop e.1 e.2.1))

/-- The weighted mass of a set of scores, step by step (R213). -/
def setMass (jTop : Int) (ss : List F32) : Nat :=
  let js := (ss.map stepOf).eraseDups
  sumNat (js.map (fun j => wTerm jTop j (sumNat ((ss.filter (fun x => stepOf x == j)).map massUnits))))

/-- LSE of a merged row (R214, R215). -/
def RowRec.lse (r : RowRec) : F32 :=
  if r.invalid then nan32
  else if r.masked then ninf32
  else if r.infs > 0 then pinf32
  else lseOf r.jTop r.z

/-! ### The filters (R217, R218) -/

/-- λ = log(p_min) (R218). -/
def lambdaOf (filuf2 : Bool) (p : Bytes) : F32 := (builtin32 filuf2 0x03 (prMin p)).v

/-- s − M ≥ λ on the real values (R218). -/
def meetsMinP (m lam s : F32) : Bool := Dy.le (dy32 lam) ((dy32 s).add (dy32 m).neg)

/-- P = ⌊p × base⌋ (R218). -/
def massShare (p : Bytes) (base : Nat) : Nat :=
  let d := dy32 (prP p)
  ((⟨d.m * Int.ofNat base, d.e⟩ : Dy).floor).toNat

/-- The least n ≥ 1 whose prefix satisfies a test, counted from `n`. -/
def leastPrefix (test : Nat → Bool) (len : Nat) : Option Nat := ((upto len).map (· + 1)).find? test

/-- The kept prefix of a row with top-k on (R218, R221). -/
def topKKept (filuf2 : Bool) (order : Nat) (p : Bytes) (r : RowRec) : List TopEnt :=
  let k := r.top.take (prK p)
  let lam := lambdaOf filuf2 p
  let m1 := if prMinP p then (k.takeWhile (fun t => meetsMinP r.maxS lam t.s)) else k
  let m2 :=
    if prTopP p then
      let base := if order = 1 then setMass r.jTop (k.map TopEnt.s) else r.z
      let share := massShare p base
      match leastPrefix (fun n => decide (setMass r.jTop ((m1.take n).map TopEnt.s) ≥ share)) m1.length with
      | some n => m1.take n
      | none => m1
    else m1
  m2

/-- A step brought into the range in which R207 places scores. -/
def ladderStep (j : Int) : Int := max (-524288) (min 524287 j)

/-- The boundary step of a row, and whether top-p and min-p apply at it (R223). j_p is sought at or below j_top, so that the
kept prefix is not empty (R218); j_m is the step at which R207 places the score M + λ. -/
def boundaryOf (filuf2 : Bool) (p : Bytes) (r : RowRec) : Int × Bool × Bool :=
  let share := massShare p r.z
  let jp := if prTopP p then
      (((r.steps.filter (fun e => decide (e.1 ≤ r.jTop))).find? (fun e => decide (r.above e.1 ≥ share))).map Prod.fst)
    else none
  let jm := if prMinP p then some (ladderStep ((dy32 r.maxS).add (dy32 (lambdaOf filuf2 p))).floor) else none
  match jp, jm with
  | some a, some b => (max a b, decide (a ≥ b), decide (b ≥ a))
  | some a, none => (a, true, false)
  | none, some b => (b, false, true)
  | none, none => (r.jTop, false, false)

/-- What a merged row settles to after round 1 (R221). -/
inductive Pick where
  | status (st : Status)
  | token (t : TopEnt) (kept : Nat) (inf : Bool)
  | boundary (jb : Int) (useP useM : Bool)
  deriving DecidableEq, Repr, Inhabited

/-- The finite unmasked tokens of a row that the ladder counts. -/
def RowRec.count (r : RowRec) : Nat := sumNat (r.steps.map (fun e => e.2.2))

/-- Settle a merged row as far as round 1 allows (R221, R222). -/
def settleRow (filuf2 : Bool) (order : Nat) (p : Bytes) (r : RowRec) : Pick :=
  if r.invalid then .status .invalidRow
  else if r.masked then .status .emptyRow
  else if r.infs > 0 then .token ⟨r.maxS, r.maxId, ninf32⟩ r.infs true
  else if !(prSamples p) then .token ⟨r.maxS, r.maxId, ninf32⟩ 1 false
  else if prTopK p then
    let k := topKKept filuf2 order p r
    let b := gumbelMax k
    .token ⟨b.s, b.id, b.key⟩ k.length false
  else if !(prTopP p) && !(prMinP p) then .token ⟨r.g.s, r.g.id, r.g.key⟩ r.count false
  else let b := boundaryOf filuf2 p r; .boundary b.1 b.2.1 b.2.2

/-! ### Round 2 (R224 to R226) -/

/-- A member's entries of step j_b, in rank order, after the last entry gathered (R224). -/
def stepEntries (sum : RowSum) (jb : Int) (last : Option (F32 × Nat)) : List (F32 × Nat) :=
  let src := if sum.collected.isEmpty then sum.cornice.filter (fun e => stepOf e.1 == jb) else sum.collected
  let rest := match last with
    | some e => src.filter (fun x => entLt e x)
    | none => src
  rest.take 4096

/-- The best candidates among the step Gumbel pairs above j_b (R224). -/
def pairsAbove (sum : RowSum) (jb : Int) : List KeyEnt :=
  match sum.row.topRung with
  | none => []
  | some top => topTwo (((sum.pairs.zip (upto sum.pairs.length)).filter (fun e => decide (recStep top e.2 > jb))).flatMap Prod.fst)

/-- Merge two rows of a round-2 payload (R224, R308). -/
def GatherRow.merge (a b : GatherRow) : GatherRow :=
  let ks := topTwo ([a.pair0, a.pair1, b.pair0, b.pair1].filter (fun k => k.id != noId))
  { pos := a.pos, pair0 := ks.getD 0 KeyEnt.none, pair1 := ks.getD 1 KeyEnt.none,
    entries := (mergeSortBy entLt 32 (a.entries ++ b.entries)).take 4096 }

/-- n_p among the entries gathered so far (R225). -/
def nTopP (p : Bytes) (r : RowRec) (jb : Int) (ents : List (F32 × Nat)) : Option Nat :=
  let share := massShare p r.z
  let base := r.above (jb + 1)
  leastPrefix (fun n =>
    decide (base + wTerm r.jTop jb (sumNat ((ents.take n).map (fun e => massUnits e.1))) ≥ share)) ents.length

/-- Entries gathered so far that meet min-p (R225): they form a prefix. -/
def nMinP (filuf2 : Bool) (p : Bytes) (r : RowRec) (ents : List (F32 × Nat)) : Nat :=
  (ents.takeWhile (fun e => meetsMinP r.maxS (lambdaOf filuf2 p) e.1)).length

/-- The within-step count n_w, once it can be decided (R225, R226). `all` says that every entry of the step is gathered. -/
def withinCount (filuf2 : Bool) (p : Bytes) (r : RowRec) (b : Int × Bool × Bool) (ents : List (F32 × Nat)) (all : Bool) :
    Option Nat :=
  let np := if b.2.1 then nTopP p r b.1 ents else none
  let nm := nMinP filuf2 p r ents
  let mDone := b.2.2 && (decide (nm < ents.length) || all)
  match np with
  | some n => some (if b.2.2 then min n nm else n)
  | none => if mDone then some nm else if all then some ents.length else none

/-- Entries of the merged ladder above a step. -/
def RowRec.countAbove (r : RowRec) (j : Int) : Nat :=
  sumNat ((r.steps.filter (fun e => decide (e.1 > j))).map (fun e => e.2.2))

/-! ### Log-probabilities (R233, R234) -/

/-- The log-probability of a token's score in a merged row (R233, R234). -/
def logProb (r : RowRec) (s : F32) : F32 :=
  if r.infs > 0 then (if s = pinf32 then negLn r.infs else ninf32) else (fsub s r.lse).v

/-- An entry of R234: log-probability and token id. -/
def lpWord (lp : F32) (id : Nat) : Nat := lp.toNat + (id % pow2 21) * pow2 32

/-- An unused entry of R234. -/
def lpUnused : Nat := 0xFF800000

/-- The 21 entries of a row with log-probability count n (R234). -/
def lpEntries (r : RowRec) (n : Nat) (settled : Option (F32 × Nat)) : List Nat :=
  let dead := r.invalid || r.masked
  (upto 21).map (fun i =>
    if dead then lpUnused
    else if i = 20 then (match settled with | some (s, id) => lpWord (logProb r s) id | none => lpUnused)
    else if i < n then (match r.top[i]? with | some e => lpWord (logProb r e.s) e.id | none => lpUnused)
    else lpUnused)

end Sys2Proof.Machine
end

