-- ==== Sys2Proof/Machine/Records.lean ====
section
/-! DEFINITION. CTR_DRBG draws (R444), Floe records (R43 to R48), checkpoints (R49 to R52), completion records (R351,
R352), kept rows (R231) and the end of a ticket. -/
namespace Sys2Proof.Machine

/-! ### CTR_DRBG -/

/-- Generate requests between reseeds (R444). -/
def drbgInterval : Nat := 4096

/-- Put back the CTR_DRBG after its use: a reseed falls due after every 4,096 generate requests (R444; log 16). -/
def State.setDrbg (s : State) (d : Drbg) : State :=
  if d.counter > drbgInterval && !s.vault.reseedDue then
    s.modVault (fun v => { v with drbg := some d, reseedDue := true, pool := [] })
  else s.modVault (fun v => { v with drbg := some d })

/-- Draw bytes from CTR_DRBG (R426). It is instantiated wherever the block draws (R444, R446). -/
def State.vaultDraw (s : State) (n : Nat) : Bytes × State :=
  match s.vault.drbg with
  | none => ([], s)
  | some d => let r := drbgGenerate d n; (r.1, s.setDrbg r.2)

/-! ### Command-list hash (R44, R332) -/

/-- Set several fields of a block to zero. -/
def zeroFields (fs : List (Nat × Nat)) (bs : Bytes) : Bytes := fs.foldl (fun b f => zeroOut b f.1 f.2) bs

/-- The placement fields of a command, with those of the opcode area (R331, R350). -/
def commandPlacement (op : Op) : List (Nat × Nat) :=
  [(0x01, 1), (0x04, 2), (0x08, 8), (0x10, 8), (0x18, 8), (0x28, 4), (0x2C, 2), (0x2E, 1)] ++
  match op with
  | .loadw => [(0x30, 1)]
  | .evictw => [(0x30, 1)]
  | .save => [(0x30, 1), (0x38, 8)]
  | .restore => [(0x30, 1), (0x38, 8)]
  | .waitcount => [(0x38, 8)]
  | .dict => [(0x38, 8)]
  | _ => []

/-- The placement fields of block 0 (R346 to R349, R125). -/
def block0Placement (op : Op) : List (Nat × Nat) :=
  let sel := [(0x10, 0x28), (0x40, 1), (0x48, 0x48), (0x9A, 1)]
  let train := [(0x10, 0x28), (0x40, 1), (0x48, 0x30), (0x9C, 1), (0x9D, 1), (0xB0, 0x28)]
  let tens := [(0x08, 8), (0x30, 8), (0x48, 8), (0x70, 8), (0x80, 16)]
  match op with
  | .score => sel ++ [(0xA8, 16)]
  | .step => sel | .settle => sel | .verify => sel | .beam => sel
  | .loss => train | .grad => train
  | .reduce => tens | .func => tens | .fill => tens | .digest => tens
  | .loadw => [(0x10, 0x28)]
  | _ => []

/-- The commands whose later blocks form a stream table (R341). -/
def Op.selects : Op → Bool
  | .step => true | .score => true | .settle => true | .verify => true | .beam => true | _ => false

/-- The context and first companion of each of a stream-table block's entries (R341). -/
def streamPlacement : List (Nat × Nat) := (upto 32).flatMap (fun k => [(8 * k, 1), (8 * k + 2, 1)])

/-- The command-list hash (R44, R332). -/
def Ticket.hash (t : Ticket) : Bytes :=
  let b0 := t.blocks.take 256
  let rest := chunksOf 256 (t.blocks.length / 256 + 1) (t.blocks.drop 256)
  let rest' := if t.op.selects then rest.map (zeroFields streamPlacement) else rest
  (sha384 (zeroFields (commandPlacement t.op) t.cmd ++ zeroFields (block0Placement t.op) b0 ++ rest'.flatten)).take 16

/-- The image-set digest: the loaded overlays in slot order, then the micro-programs in ascending function id (R44, R440;
log 17). -/
def State.imageSet (s : State) : Bytes :=
  let ds := (s.overlays ++ sortBy (fun a b => decide (field a 6 1 < field b 6 1)) s.micros).map sha384
  if ds.isEmpty then List.replicate 8 0 else (sha384 ds.flatten).take 8

/-! ### Floe records -/

/-- The commands that emit a Floe record (R43, R333). -/
def Op.floe : Op → Bool | .step => true | .loss => true | .grad => true | _ => false

/-- A number saturated at a field of `n` bytes. -/
def sat (n x : Nat) : Nat := min x (pow2 (8 * n) - 1)

/-- The Floe record of a launched command that ends with a status and a completion offset (R43, R44). -/
def State.floeRecord (s : State) (t : Ticket) (r : Running) (status : Status) (offset : Nat) : Bytes :=
  let p := s.part t.part
  let res := r.result
  let none' := status.noResult
  let flags := (if res.avalanche then 1 else 0) + (if r.held > 0 then 2 else 0) + (if r.retries > 0 then 4 else 0) +
    (if res.checkEqual then 8 else 0)
  let epoch := match p.seed with | some sd => sd.epoch.toNat | none => 0
  let ds := (upto 4).map (fun i => if none' then 0 else (res.digests.getD i 0).toNat)
  leBytes 1 1 ++ leBytes 1 t.op.code ++ leBytes 1 t.part ++ leBytes 1 flags ++ leBytes 1 status.code ++ leBytes 3 0 ++
  leBytes 8 p.seq ++ leBytes 8 (field t.cmd 0x20 6) ++ leBytes 8 r.launchCount.toNat ++ t.hash ++ s.profileDigest.take 16 ++
  leBytes 4 epoch ++ leBytes 4 (sat 4 r.nd) ++ ds.flatMap (leBytes 8) ++
  leBytes 4 (if none' then 0 else res.rows) ++ leBytes 2 (if none' then 0 else sat 2 res.notOk) ++ leBytes 2 0 ++
  s.imageSet ++ leBytes 4 (sat 4 offset) ++ leBytes 2 (sat 2 r.retries) ++ leBytes 2 (sat 2 r.held)

/-- The CHECK payload: the record with every field not compared set to zero and the status reduced (R316). The non-determinism
delta at 0x44 counts as not compared (DEDUCED, log 76). -/
def checkPayload (rec : Bytes) (status : Status) : Bytes :=
  overwrite (zeroFields [(0x03, 1), (0x08, 8), (0x18, 8), (0x44, 4), (0x78, 4), (0x7C, 2), (0x7E, 2)] rec) 4
    (leBytes 1 status.value)

/-- Write one 128-byte slot of a partition's Floe ring (R323). -/
def State.putFloeSlot (s : State) (p : Nat) (bs : Bytes) : State :=
  let r := (s.part p).floe
  let a := r.base.toNat + 128 * (r.write.toNat % max 1 r.slots)
  (s.writeRecord none a bs).modPart p (fun q => { q with floe := { q.floe with write := q.floe.write + 1 } })

/-! ### Checkpoints -/

/-- A checkpoint falls due over the records since the previous one (R50, R51). -/
def State.checkpointDue (s : State) (p : Nat) (reason : CkptReason) (ticket : Option Nat) : State :=
  let q := s.part p
  let covered := q.unsigned.length
  let last := if covered = 0 then q.lastSeq else q.seq - 1
  let chain := sha384 (q.chain ++ q.unsigned.flatten)
  let s1 := { s with ckpts := s.ckpts ++ [Ckpt.mk p reason covered q.ckptNumber last chain q.chain ticket] }
  s1.modPart p (fun q =>
    { q with chain := chain, ckptNumber := q.ckptNumber + 1, lastSeq := last, unsigned := [] })

/-- The genesis of a partition: a nonce from CTR_DRBG, the first chain value and its checkpoint (R49). -/
def State.genesisDue (s : State) (p : Nat) : State :=
  let (nonce, s1) := s.vaultDraw 32
  let chain := sha384 (ascii [0x46, 0x4C, 0x4F, 0x45] ++ leBytes 1 p ++ nonce)
  let s2 := { s1 with ckpts := s1.ckpts ++ [Ckpt.mk p .genesis 0 0 0 chain (nonce ++ List.replicate 16 0) none] }
  s2.modPart p (fun q => { q with chain := chain, ckptNumber := 1, lastSeq := 0, unsigned := [], waiting := .openWrite })

/-- The first 128 bytes of a checkpoint (R51). -/
def Ckpt.head (c : Ckpt) (count : Nat) : Bytes :=
  leBytes 1 2 ++ leBytes 1 c.reason.code ++ leBytes 1 c.part ++ leBytes 1 0 ++ leBytes 4 c.covered ++ leBytes 8 c.number ++
  leBytes 8 c.lastSeq ++ leBytes 8 count ++ c.chain ++ c.prev

/-- The audit key identifier, zero while there is no pair (R442). -/
def Vault.auditId (v : Vault) : Bytes := if v.auditPub.isEmpty then List.replicate 16 0 else keyId v.auditPub

/-- Sign a checkpoint and write its two slots (R51, R443). -/
def State.writeCheckpoint (s : State) (c : Ckpt) : State :=
  let head := c.head s.count.toNat
  let (sig, s1) := match s.vault.drbg with
    | some d => let r := ecdsaSign scalarTries d s.vault.auditPriv head; (r.1, s.setDrbg r.2)
    | none => ([], s)
  let tail := sig ++ s.vault.auditId ++ List.replicate 16 0
  ((s1.putFloeSlot c.part head).putFloeSlot c.part tail).bump .checkpointsSigned 1

/-! ### Kept rows -/

/-- Release the rows a work area keeps: every context of that SCORE still scored under its step value loses its row
summary (R231). -/
def State.releaseKept (s : State) (r : Nat) : State :=
  match (s.region r).kept with
  | none => s
  | some k =>
    let s1 := s.modRegion r (fun g => { g with kept := none, state := if g.state = .degraded then .degraded else .empty })
    k.ctxs.foldl (fun s c =>
      if (s.ctx c).summary.mark == .scored k.step then s.modCtx c (fun x => { x with summary := RowSum.empty }) else s) s1

/-- Release the kept rows whose SCORE named a context (R231). -/
def State.releaseKeptOf (s : State) (c : Nat) : State :=
  (upto 64).foldl (fun s r =>
    match (s.region r).kept with
    | some k => if k.ctxs.contains c then s.releaseKept r else s
    | none => s) s

/-- Release the kept rows of a partition (R231). -/
def State.releaseKeptPart (s : State) (p : Nat) : State :=
  (upto 64).foldl (fun s r => if (s.region r).owner.toNat = p then s.releaseKept r else s) s

/-! ### The end of a ticket -/

/-- The completion record of a ticket (R351). -/
def State.completionRecord (t : Ticket) (status : Status) (flags offset : Nat) : Bytes :=
  let res := t.run.map Running.result
  leBytes 1 3 ++ leBytes 1 (byteAt t.cmd 0) ++ leBytes 1 t.part ++ leBytes 1 t.queue ++ leBytes 1 status.code ++
  leBytes 1 flags ++ leBytes 2 ((res.map (fun r => r.flags.toNat)).getD 0) ++ leBytes 8 t.seq ++ leBytes 2 t.slot ++
  leBytes 2 0 ++ leBytes 4 (sat 4 offset) ++
  leBytes 8 (if status.noResult then 0 else (res.map (fun r => r.value.toNat)).getD 0)

/-- Write a ticket's completion record, raise its completion event where the command asks for it, and free it (R352). -/
def State.putCompletion (s : State) (t : Ticket) (status : Status) (flags offset : Nat) : State :=
  let r := (s.part t.part).comp
  let a := r.base.toNat + 32 * (r.write.toNat % max 1 r.slots)
  let s1 := (s.writeRecord none a (State.completionRecord t status flags offset)).modPart t.part (fun q =>
    { q with comp := { q.comp with write := q.comp.write + 1 } })
  let s2 := if bitAt (byteAt t.cmd 1) 1 then s1.completionEvent t.part else s1
  let s3 := if status == .deadlineStalled then s2.bump .deadlineStalls 1 else s2
  s3.dropTicket t.seq

/-- Write a launched command's Floe record where it emits one; the flag says whether a 4,096-record checkpoint fell due
for it (R43, R50). -/
def State.putFloe (s : State) (t : Ticket) (status : Status) (offset : Nat) : State × Bool :=
  match t.run with
  | none => (s, false)
  | some r =>
    if !t.op.floe then (s, false)
    else
      let rec' := s.floeRecord t r status offset
      let s1 := (s.putFloeSlot t.part rec').modPart t.part (fun q =>
        { q with seq := q.seq + 1, unsigned := q.unsigned ++ [rec'] })
      if (s1.part t.part).unsigned.length ≥ 4096 then (s1.checkpointDue t.part .records (some t.seq), true) else (s1, false)

/-- End a ticket: its Floe record, the checkpoint that triggers, then its completion record unless that checkpoint must
be written first (R352). -/
def State.finish (s : State) (t : Ticket) (status : Status) (flags offset : Nat) : State :=
  let (s1, due) := s.putFloe t status offset
  if due then s1.modTicket t.seq (fun t => { t with ended := some (status, flags, offset) })
  else s1.putCompletion t status flags offset

/-- A LOADW that fails leaves its region empty (R135, R136). -/
def State.loadFails (s : State) (q : Nat) : State :=
  match s.ticket q with
  | some t => if t.op == .loadw then s.modRegion (byteAt t.cmd 0x30) (fun g => { g with state := .empty, descriptor := [] }) else s
  | none => s

/-- A launched command ends with a status and no further effect of its own: its figure stops, a group launch whose
exchanges are not complete sends ABORT, and its records follow at COMMAND_COMPLETION (R321). -/
def State.endLaunch (s : State) (q : Nat) (status : Status) : State :=
  match s.launched q with
  | none => s
  | some (t, r) =>
    let s1 := if s.groupOpen t then s.sendAbort t status else s
    ((s1.openWritten q status.noResult).loadFails q).modTicket q (fun t => { t with
      ended := some (status, 0, s.tick - r.launchTick)
      run := t.run.map (fun r => { r with phase := .finished, exch := none, holding := false }) })

/-- End a launch where a ticket is named. -/
def State.endLaunch? (s : State) (q : Option Nat) (status : Status) : State :=
  match q with
  | some n => s.endLaunch n status
  | none => s

/-- The launched tickets whose figures run. -/
def State.runningSeqs (s : State) : List Nat := (s.tickets.filter Ticket.running).map Ticket.seq

/-- End every running command with a status. -/
def State.endAll (s : State) (status : Status) : State := s.runningSeqs.foldl (fun s q => s.endLaunch q status) s

end Sys2Proof.Machine
end

