-- ==== Sys2Proof/Machine/Shape.lean ====
section
/-! DEFINITION. A command's controls at launch (R344, R345), residency (R138), the shape of a command and the figures that
cover it (R364 to R367), and the terms that the block adds at run time (R306, R369, R370, R372). -/
namespace Sys2Proof.Machine

/-! ### Controls at launch -/

/-- The stream controls that a row scores under. -/
structure Controls where
  params : Bytes
  pens : List (Nat × Nat)
  biases : List (Nat × F32)
  deriving DecidableEq, Repr, Inhabited

/-- The controls of the stream at position p as they stand after its update record (R342, R344, R345). -/
def State.controls (s : State) (t : Ticket) (p : Nat) : Controls :=
  let e := t.stream p
  let c := s.ctx e.ctx
  let base : Controls := if e.isNew then ⟨Params.default, [], []⟩ else ⟨c.params, c.penalties, c.biases⟩
  if !e.updates then base
  else
    let u := s.updateRec t p
    { params := if urReplace u 0 then s.host (urParamAddr u) 128 else base.params,
      pens := if urReplace u 1 then penaltiesOf (s.host (urPenaltyAddr u) (5 * urPenalties u)) (urPenalties u) else base.pens,
      biases := if urReplace u 2 then biasForm (biasRaw (s.host (urBiasAddr u) (8 * urBiases u)) (urBiases u))
        else base.biases }

/-- The controls of every stream of a command before it launches. -/
def State.allControls (s : State) (t : Ticket) : List Controls := (upto t.streams).map (s.controls t)

/-- Rows that a command scores before it launches; a new stream of a BEAM holds beam 0 alone (R235). -/
def State.rowsAtLaunch (s : State) (t : Ticket) : Nat :=
  if t.op == .beam && (t.stream 0).isNew then 1 else s.rowCount t

/-! ### Residency (R138) -/

/-- The shard is resident for the command: the region it names holds exactly its descriptor (R138, R149). -/
def State.resident (s : State) (t : Ticket) : Bool :=
  let r := s.region (t.b 0x40)
  decide (t.b 0x40 < 64) && r.owner.toNat == t.part && !r.work && r.state == .resident && r.descriptor == t.blocks.take 64

/-- First byte of a region in Firn (05). -/
def Region.addr (r : Region) : Nat := r.base.toNat * 65536
/-- Bytes of a region. -/
def Region.bytes (r : Region) : Nat := r.pages.toNat * 65536

/-- The shard as the command reads it: its areas, and the memory that holds them (R138). -/
def State.shard (s : State) (t : Ticket) : Desc × Memory :=
  let inFirn := match t.run with | some r => !r.streamed | none => s.resident t
  if inFirn then (t.desc.inFirn (s.region (t.b 0x40)).addr, s.firn) else (t.desc, s.mem)

/-! ### The shape (R364) -/

/-- Length L of a row's top list (R210). -/
def topLen (op : Op) (beams : Nat) (p : Bytes) : Nat :=
  min 1024 (max 1 (max (prK p) (max (prLog p) (if op == .beam then beams else 0))))

/-- The largest L over the rows of a command; 0 for commands without a top list (R364). -/
def State.topLenOf (s : State) (t : Ticket) : Nat :=
  if t.op.selects then (s.allControls t).foldl (fun a c => max a (topLen t.op (t.b 0xA0) c.params)) 1 else 0

/-- The largest L of a launched command, whose update records its contexts hold. -/
def State.topLenNow (s : State) (t : Ticket) : Nat :=
  t.entries.foldl (fun a e => max a (topLen t.op (t.b 0xA0) (s.ctx e.ctx).params)) 1

/-- The commands that draw Gumbel keys (R203): a SCORE forms those of the SETTLE that follows. -/
def Op.keys : Op → Bool | .step => true | .score => true | .settle => true | .verify => true | _ => false

/-- Lane cost of a score (R176), from which parts of the chain are on. -/
def laneCost (cap pens bias temp gumbel : Bool) : Nat :=
  let simple := 3 + (if cap then 2 else 0) + (if pens then 5 else 0) + (if bias then 1 else 0) + (if temp then 1 else 0) +
    (if gumbel then 1 else 0)
  max simple (4 * ((if cap then 1 else 0) + (if gumbel then 2 else 0)))

/-- Lane cost of the union of a command's streams (R176, R364). -/
def State.scoreCost (s : State) (t : Ticket) : Nat :=
  let cs := s.allControls t
  laneCost (cs.any (fun c => !(isZero32 (prC c.params)))) (cs.any (fun c => !c.pens.isEmpty))
    (cs.any (fun c => !c.biases.isEmpty)) (cs.any (fun c => prSamples c.params))
    (t.op.keys && cs.any (fun c => prSamples c.params))

/-- The micro-program of a function id (R195). -/
def State.micro (s : State) (fid : Nat) : Option MicroProg := (s.micros.find? (fun m => field m 6 1 == fid)).map MicroProg.mk

/-- Lane cost of a tensor command per element (R201, R283). -/
def State.tensorCost (s : State) (t : Ticket) : Nat :=
  match t.op with
  | .func => match s.micro (t.b 0x90) with
    | some m => microCost m
    | none => if t.b 0x90 = 0 then 1 else 4
  | .fill => if t.b 0x90 = 0 then 2 else if s.profile.normalMethod == 1 then 4 else 12
  | _ => 0

/-- Lane cost of a command. -/
def State.laneCostOf (s : State) (t : Ticket) : Nat :=
  if t.op.selects then s.scoreCost t
  else if t.op.scores then laneCost (!(isZero32 (t.fl 0x84))) false false false false
  else s.tensorCost t

/-- The input and output descriptors of the tensor block (R349). -/
def Ticket.inT (t : Ticket) : Tens := Tens.read t.blocks 0
def Ticket.outT (t : Ticket) : Tens := Tens.read t.blocks 0x40

/-- A command carries a weight descriptor. -/
def Op.weights (o : Op) : Bool := o.scores || o == .loadw

/-- Extent of a shape (R364). -/
def State.extentOf (s : State) (t : Ticket) : Nat :=
  match t.op with
  | .reduce => t.inT.size 0 * t.inT.size 1
  | .func => t.outT.count
  | .fill => t.outT.count
  | .digest => t.inT.count
  | .loadw => t.desc.footprint
  | .evictw => (s.region t.areaByte).pages.toNat
  | o => if o.scores then t.desc.columns else 0

/-- Rows of a shape: streams, beams, draft rows, tokens, or rows of REDUCE (R364; log 22). -/
def State.shapeRows (s : State) (t : Ticket) : Nat := if t.op == .reduce then t.inT.size 1 else s.rowsAtLaunch t

/-- Selection path (R364): the boundary path wherever a row of a settling command has top-k off and top-p or min-p on. -/
def State.pathOf (s : State) (t : Ticket) : Nat :=
  let cut := (s.allControls t).any (fun c => !(prTopK c.params) && (prTopP c.params || prMinP c.params))
  match t.op with
  | .step => if cut then 2 else 1
  | .settle => if cut then 2 else 1
  | .verify => if cut then 2 else 1
  | .beam => 1
  | _ => 0

/-- A tick or byte count, as a bit of a modes byte. -/
def bit (b : Bool) (i : Nat) : Nat := if b then pow2 i else 0

/-- Modes of a shape, with its urgent bit (R364). -/
def State.modesOf (s : State) (t : Ticket) (urgent : Bool) : Nat :=
  let compat := t.op.weights && s.profile.accumulation == 1
  let f32 := t.op.scores && (t.actFmt == .fp32 || t.desc.fmt == .fp32)
  bit compat 0 + bit (f32 && s.profile.fp32Passes == 1) 1 + bit (t.op.scores && s.resident t) 2 + bit urgent 3 +
  bit t.crossCheck 4 + bit (t.op.selects && (s.allControls t).any (fun c => prTopK c.params)) 5

/-- The 48-byte shape of a command, its allowance left zero (R364; log 22). -/
def State.shapeOf (s : State) (t : Ticket) (urgent : Bool) : Bytes :=
  let o := t.op
  let w := o.weights
  let sc := o.scores
  let compat := w && s.profile.accumulation == 1
  let grad := o == .grad
  let distil := (o == .loss || grad) && !(isZero32 (t.fl 0x8C))
  leBytes 1 o.code ++ leBytes 1 (if w then t.desc.code else 0) ++ leBytes 1 (if sc then t.b 0x42 else 0) ++
  leBytes 1 (s.modesOf t urgent) ++ leBytes 2 (if w then t.desc.h else 0) ++ leBytes 2 0 ++ leBytes 8 (s.extentOf t) ++
  leBytes 1 (s.laneCostOf t) ++ leBytes 1 (s.pathOf t) ++ leBytes 1 s.settings.depth.toNat ++
  leBytes 1 (if sc then t.b 0x41 else 0) ++ leBytes 2 s.settings.hopBudget.toNat ++ leBytes 2 s.settings.driftBudget.toNat ++
  leBytes 4 s.settings.hopPayload.toNat ++ leBytes 4 0 ++ leBytes 4 (s.shapeRows t) ++
  leBytes 1 (if compat then s.profile.compatSlices.toNat else 0) ++ leBytes 1 (if o.takesRows then t.b 0x43 else 0) ++
  leBytes 1 (bit (w && t.desc.hasMap) 0 + bit distil 1) ++ leBytes 1 (if grad then t.b 0x99 else 0) ++
  leBytes 2 (s.topLenOf t) ++ leBytes 1 (if grad then t.b 0x9A % 16 else 0) ++ leBytes 1 (if grad then t.b 0x9B % 16 else 0) ++
  leBytes 4 0

/-! ### Figures (R365 to R367) -/

/-- The shape of a figure. -/
def Figure.shape (f : Figure) : Bytes := slice f.image 0x10 48
/-- The figure carries the urgent bit (R366). -/
def Figure.urgent (f : Figure) : Bool := bitAt (byteAt f.image 0x13) 3
/-- The declared length of the variant for a number of active tiles (R367). -/
def Figure.declared (f : Figure) (tiles : Nat) : Nat := field f.image (0x40 + 4 * (tiles - 1)) 4
/-- The retry allowance (R364). -/
def Figure.allowance (f : Figure) : Nat := field f.image 0x2C 4

/-- The shape fields that a figure need not have equal: extent, lane cost, allowance, rows, top-list length (R365). -/
def looseFields : List (Nat × Nat) := [(0x08, 8), (0x10, 1), (0x1C, 4), (0x20, 4), (0x28, 2)]

/-- A figure's shape covers a command's (R365). -/
def covers (fig cmd : Bytes) : Bool :=
  zeroFields looseFields fig == zeroFields looseFields cmd &&
  decide (field cmd 0x08 8 ≤ field fig 0x08 8 ∧ field cmd 0x10 1 ≤ field fig 0x10 1 ∧
    field cmd 0x20 4 ≤ field fig 0x20 4 ∧ field cmd 0x28 2 ≤ field fig 0x28 2)

/-- A figure covers a ticket's command; one with the urgent bit does so for queue class 0 alone (R365, R366). -/
def State.figureFits (s : State) (t : Ticket) (f : Figure) : Bool :=
  if f.urgent then t.queue == 0 && covers f.shape (s.shapeOf t true) else covers f.shape (s.shapeOf t false)

/-- The better of two covering figures: least declared length, then lowest id (R366). -/
def betterFigure (tiles : Nat) (a b : Figure) : Bool :=
  decide (a.declared tiles < b.declared tiles) || (a.declared tiles == b.declared tiles && decide (a.id < b.id))

/-- The figure a ticket runs: the one it names, or the directory's choice (R334, R366). -/
def State.figureFor (s : State) (t : Ticket) : Option Figure :=
  if t.figureField ≠ 0 then (s.figures.find? (fun f => f.id == t.figureField)).filter (s.figureFits t)
  else
    let all := s.figures.filter (s.figureFits t)
    let urg := all.filter Figure.urgent
    (sortBy (betterFigure s.activeTiles.length) (if urg.isEmpty then all else urg)).head?

/-- WAITCOUNT, FENCE and HALT have no figure (R370). -/
def Op.noFigure : Op → Bool | .waitcount => true | .fence => true | .halt => true | _ => false

/-! ### Terms (R306, R369, R370, R372) -/

/-- The sizes of the batches of V vectors (R106). -/
def batches (n v : Nat) : List Nat := (upto (ceilDiv v (max 1 n))).map (fun i => min n (v - i * n))

/-- Vector ticks of one K range for a batch of V vectors (R103, R109). -/
def kTicks (afmt wfmt : NumFmt) (exact : Bool) (v : Nat) : Nat :=
  match afmt == .fp32, wfmt == .fp32 with
  | true, true => if exact then 3 * max (3 * v) 32 else max (3 * v) 32 + max (2 * v) 32 + max v 32
  | true, false => max (3 * v) 32
  | false, true => 3 * max v 32
  | false, false => max v 32

/-- The fields of a shape that the scoring terms use. -/
def shFmt (sh : Bytes) (o : Nat) : NumFmt := (NumFmt.ofCode (byteAt sh o)).getD .e4m3

/-- Sets per column group of a shape (R88). -/
def shSets (sh : Bytes) : Nat :=
  (Desc.mk (byteAt sh 1) (byteAt sh 3 % 2) (field sh 4 2) 0 0 0 0 0 0 0).setsPer

/-- Sets per 256-index chunk in compatibility mode (R114). -/
def chunkSets (w : NumFmt) : Nat := match w with | .e4m3 => 2 | .e5m2 => 2 | .mxfp4 => 1 | _ => 4

/-- Array-bound scoring term of V rows on N tiles (R108, R114, R122, R369). -/
def arrayTerm (sh : Bytes) (v tiles : Nat) : Nat :=
  let n := max 1 tiles
  let g := ceilDiv (field sh 8 8) 32
  let c := shSets sh
  let modes := byteAt sh 3
  let w := shFmt sh 1
  if bitAt modes 3 then v * (ceilDiv g n * c * 32) + 72
  else if bitAt modes 0 then
    let cs := chunkSets w
    let size := 64 / ceilDiv (max 1 (byteAt sh 0x24)) 4
    ceilDiv g n * sumNat ((batches size v).map (fun x => c / cs * (max x 32 + (cs - 1) * max x 35))) + 72
  else
    let per := if g ≥ n then ceilDiv g n * c else ceilDiv c (n / max 1 g)
    per * sumNat ((batches 64 v).map (kTicks (shFmt sh 2) w (bitAt modes 1))) + 72

/-- The scoring term of a shape (R176, R369): the greater of array and lanes, streamed where the shard is not resident. -/
def scoreTerm (sh : Bytes) (tiles lanes : Nat) : Nat :=
  let v := field sh 0x20 4
  let x := field sh 8 8
  let arr := arrayTerm sh v tiles
  let base := if bitAt (byteAt sh 3) 3 then arr else max arr (ceilDiv (v * x * byteAt sh 0x10) (max 1 lanes) + 72)
  if bitAt (byteAt sh 3) 2 then base
  else
    let d := Desc.mk (byteAt sh 1) (byteAt sh 3 % 2) (field sh 4 2) x 0 0 0 0 0 (byteAt sh 0x26 % 2)
    max base (ceilDiv d.footprint 1920) + field sh 0x16 2 + 32

/-- The avalanche pass (R227, R369). -/
def avalancheTerm (sh : Bytes) (tiles lanes : Nat) : Nat :=
  max (scoreTerm sh tiles lanes) (ceilDiv (8 * field sh 8 8 * field sh 0x20 4) 1920) + 256

/-- The stretch of a tree round that carries at most `bound` bytes (R306). -/
def stretchOf (bound payload : Nat) : Nat := max 1 (ceilDiv bound (max 1 payload))

/-- A tree round of stretch n (R305, R369). -/
def State.treeRound (s : State) (n : Nat) : Nat := 2 * s.settings.depth.toNat * n * s.settings.hopBudget.toNat

/-- The image of a running figure. -/
def State.imageOfRun (s : State) (r : Running) : Option Bytes :=
  (r.figure.bind (fun i => s.figures.find? (fun f => f.id == i))).map Figure.image

/-- The shape of a launched figure, where it has one. -/
def State.figureShape (s : State) (r : Running) : Bytes :=
  match r.figure.bind (fun i => s.figures.find? (fun f => f.id == i)) with
  | some f => f.shape
  | none => List.replicate 48 0

/-- A shape with another number of rows. -/
def shapeWithRows (sh : Bytes) (v : Nat) : Bytes := overwrite sh 0x20 (leBytes 4 v)

/-- Rows of one row pass of a shape (R170). -/
def shapePass (sh : Bytes) : Nat :=
  max 1 (4194304 / max 1 (field sh 4 2 * (shFmt sh 0x25).bytes))

/-- The ticks of one row pass of V rows: normalisation, then scoring (R170, R369). -/
def passTerm (sh : Bytes) (tiles lanes v : Nat) : Nat := max 64 (8 * v) + scoreTerm (shapeWithRows sh v) tiles lanes

/-- Normalisation and scoring summed over the row passes (R170, R369). -/
def passTerms (sh : Bytes) (tiles lanes : Nat) : Nat :=
  sumNat ((batches (shapePass sh) (field sh 0x20 4)).map (passTerm sh tiles lanes))

/-- Where the row passes of a launched figure begin and end after its launch, and the rows of each (R21, R170, R365): the figure's
passes have `per` rows, the command `rows` in all. -/
def State.passStarts (s : State) (r : Running) (per rows : Nat) : List (Nat × Nat × Nat) :=
  let sh := s.figureShape r
  let term (v : Nat) := passTerm sh s.activeTiles.length s.grade.lanes v
  let figRows := field sh 0x20 4
  ((batches per rows).foldl (fun (acc : List (Nat × Nat × Nat) × Nat × Nat) v =>
    let full := min (shapePass sh) (figRows - acc.2.2)
    let stop := acc.2.1 + term (max v full)
    (acc.1 ++ [(acc.2.1, stop, v)], stop, acc.2.2 + max v full)) ([], 96, 0)).1

/-- Batch size of the array for a command (R106, R113). -/
def State.batchSize (s : State) : Nat :=
  if s.profile.accumulation == 1 then 64 / ceilDiv (max 1 s.profile.compatSlices.toNat) 4 else 64

/-- Vectors of batch `n` of a command: batches of each row pass in order (R106, R113, R170), and one row for each set in an urgent
figure (R369). -/
def State.batchVectors (s : State) (t : Ticket) (n : Nat) : Nat :=
  let urgent := match t.run with | some r => r.urgent | none => false
  let pass := max 1 (4194304 / max 1 t.rowBytes)
  if urgent then 1 else (((batches pass (s.rowCount t)).flatMap (batches s.batchSize))).getD n 0

/-- Vectors, or part-vectors, that a set of a command serves in a batch (R106, R109, R372). Sets count in load order, the three
part-sets of an FP32 set included. -/
def State.vectorsOf (s : State) (t : Ticket) (w : Sys2Proof.ArrayWork) : Nat :=
  let v := s.batchVectors t w.batch
  if t.actFmt == .fp32 then
    if t.desc.fmt == .fp32 && s.profile.fp32Passes != 1 then (3 - w.set % 3) * v else 3 * v
  else v

/-- Length of a tile-load retry (R372); one that no command needs takes the least. -/
def State.tileRetryLen (s : State) (t : Option Ticket) (w : Sys2Proof.ArrayWork) : Nat :=
  max (match t with | some t => s.vectorsOf t w | none => 0) 32 + 64

/-- Length of a column-group retry (R116, R372). -/
def State.columnRetryLen (s : State) (t : Option Ticket) (w : Sys2Proof.ArrayWork) : Nat :=
  match t with
  | some t => t.desc.setsPer * max (s.vectorsOf t ⟨0, w.batch⟩) 32
  | none => 32

/-- Length of a Firn reread or a Drift refetch (R146, R372). -/
def State.rereadLen (s : State) : Nat := s.settings.driftBudget.toNat + 128

end Sys2Proof.Machine
end

