-- ==== Sys2Proof/Machine/Window.lean ====
section
/-! DEFINITION. The management window (R415 to R417) and its frames (R418 to R420): parsing, MACs and responses. -/
namespace Sys2Proof.Machine

/-- The management statuses (R420). -/
inductive MStatus where
  | ok | noObject | noSub | access | role | notIdle | refused | length | badFrame | auth | state | sequence | whiteout
  deriving DecidableEq, Repr, Inhabited

/-- The status code (R420). -/
def MStatus.code : MStatus → Nat
  | .ok => 0x00 | .noObject => 0x01 | .noSub => 0x02 | .access => 0x03 | .role => 0x04 | .notIdle => 0x05
  | .refused => 0x06 | .length => 0x07 | .badFrame => 0x08 | .auth => 0x09 | .state => 0x0A | .sequence => 0x0B
  | .whiteout => 0x0C

/-- A request frame's fields (R418). -/
structure Req where
  version : Nat
  op : Nat
  tag : Nat
  session : Nat
  counter : Nat
  index : Nat
  sub : Nat
  status : Nat
  offset : Nat
  payload : Bytes
  deriving DecidableEq, Repr, Inhabited

/-- The bytes of the submitted frame (R417). -/
def Window.frame (w : Window) : Bytes := w.request.take w.sent.toNat

/-- The fields of a request frame (R418). -/
def Req.read (bs : Bytes) : Req :=
  { version := field bs 0 1, op := field bs 1 1, tag := field bs 2 2, session := field bs 4 4, counter := field bs 8 8,
    index := field bs 0x10 2, sub := field bs 0x12 1, status := field bs 0x13 1, offset := field bs 0x14 4,
    payload := slice bs 0x20 (min 960 (field bs 0x18 2)) }

/-- The latched request. -/
def State.req (s : State) : Req := Req.read s.window.frame

/-- The operations of R419 and R433. -/
def knownOps : List Nat := [0x01, 0x02, 0x03, 0x04, 0x05, 0x06, 0x10, 0x11, 0x12, 0x13, 0x14, 0x15, 0x16, 0x17, 0x18]

/-- The frame obeys R418: lengths, CRC, version, reserved bytes and a known operation (R420 BAD_FRAME). Offset is
reserved outside downloads, and Vault services carry index and sub-index zero (R418, R433; log 18). -/
def frameOk (bs : Bytes) : Bool :=
  let r := Req.read bs
  let n := bs.length
  decide (52 ≤ n ∧ n ≤ 1012) && field bs 0x18 2 + 52 == n &&
  field bs (n - 4) 4 == crc32c (bs.take (n - 4)) && r.version == 1 && r.status == 0 && zeroAt bs 0x1A 0x20 &&
  knownOps.contains r.op && (r.op == 4 || r.op == 5 || r.offset == 0) &&
  (decide (r.op < 0x10) || (r.index == 0 && r.sub == 0)) && (r.session != 0 || r.counter == 0)

/-- The MAC of a frame body under a key: the first 16 bytes of HMAC-SHA-384 (R418). -/
def frameMac (key body : Bytes) : Bytes := (hmac384 key body).take 16

/-- A session by its id. -/
def State.session (s : State) (id : Nat) : Option Session := s.vault.sessions.find? (fun x => x.id.toNat == id)

/-- The frame's MAC is right: zero with no session, else under the session's key (R418). -/
def State.macOk (s : State) (bs : Bytes) : Bool :=
  let r := Req.read bs
  let n := bs.length
  let mac := slice bs (n - 20) 16
  if r.session = 0 then allZero mac
  else match s.session r.session with
    | some ss => mac == frameMac ss.key (bs.take (n - 20))
    | none => false

/-- A response frame (R418, R420). A BAD_FRAME response echoes the tag, with session 0 and a zero MAC. -/
def responseFrame (r : Req) (key : Option Bytes) (status : MStatus) (payload : Bytes) : Bytes :=
  let bad := status == .badFrame
  let head := leBytes 1 1 ++ leBytes 1 (r.op + 0x80) ++ leBytes 2 r.tag ++ leBytes 4 (if bad then 0 else r.session) ++
    leBytes 8 r.counter ++ leBytes 2 r.index ++ leBytes 1 r.sub ++ leBytes 1 status.code ++ leBytes 4 0 ++
    leBytes 2 payload.length ++ leBytes 6 0
  let body := head ++ payload
  let mac := match key with
    | some k => if bad then List.replicate 16 0 else frameMac k body
    | none => List.replicate 16 0
  body ++ mac ++ leBytes 4 (crc32c (body ++ mac))

/-- Put a response into the response buffer: Busy clears and Response ready sets at the same tick (R417). -/
def State.respondWith (s : State) (key : Option Bytes) (status : MStatus) (payload : Bytes) : State :=
  let f := responseFrame s.req key status payload
  s.modWindow (fun w =>
    { w with busy := false, ready := true, respLength := BitVec.ofNat 11 f.length, response := overwrite w.response 0 f,
             latched := false, admitted := false, refused := false, deferred := none })

/-- The key of the request's session, where it is open (R418). -/
def State.reqKey (s : State) : Option Bytes := (s.session s.req.session).map Session.key

/-- Answer the latched request under its session's key (R418). -/
def State.respond (s : State) (status : MStatus) (payload : Bytes) : State := s.respondWith s.reqKey status payload

/-- Answer a response that waited for a checkpoint or a seed's key (R326, R437). -/
def State.respondDeferred (s : State) (status : MStatus) : State :=
  match s.window.deferred with
  | some _ => s.respond status []
  | none => s

/-- The word at a slot's data register (R415). -/
def Window.word (w : Window) (i : Nat) : U32 := BitVec.ofNat 32 (field w.response (16 * w.slot.toNat + 4 * i) 4)

/-- Write a word into the request buffer; ignored while Busy is set (R416). -/
def Window.putWord (w : Window) (i : Nat) (v : U32) : Window :=
  if w.busy then w else { w with request := overwrite w.request (16 * w.slot.toNat + 4 * i) (leBytes 4 v.toNat) }

/-- MGT_STAT (R415). -/
def State.mgtStat (s : State) : U32 :=
  BitVec.ofNat 32 ((if s.window.busy then pow2 31 else 0) + (if s.window.ready then pow2 30 else 0) +
    (if s.eventPending then pow2 29 else 0) + (if s.window.overrun then pow2 28 else 0) + s.evtState * pow2 24 +
    (if s.window.ready then s.window.respLength.toNat else 0))

end Sys2Proof.Machine
end

