-- ==== Sys2Proof/Machine/Shutdown.lean ====
section
/-! DEFINITION. Whiteout (R390 to R392, R450) and zeroisation (R448, R449). -/
namespace Sys2Proof.Machine

/-- Every running figure stops, and ABORT goes out for every group launch that has not completed (R391, R449 step 1). -/
def State.stopFigures (s : State) (reason : Status) : State :=
  let s1 := s.tickets.foldl (fun s t =>
    if t.ended.isNone && t.run.isSome && t.op.peer && s.settings.depth != 0 then s.sendAbort t reason else s) s
  { s1 with retries := [], preemptDue := false }

/-- Write the records of every ticket held, in ticket order, unsigned, and free them (R391, R449 step 2, R53). -/
def State.dropAllTickets (s : State) (status : Status) : State :=
  (sortBy (fun a b => decide (a.seq < b.seq)) s.tickets).foldl (fun s t =>
    let offset := match t.run with | some r => s.tick - r.launchTick | none => 0
    let done := s.ckpts.any (fun c => c.ticket == some t.seq)
    let s1 := if done then s else ((s.openWritten t.seq true).putFloe t status offset).1
    s1.putCompletion t status 0 offset) s

/-- Every partition halted, with no checkpoint pending; a LOADW that was under way has failed (R53, R136, R391, R449). -/
def State.haltAll (s : State) : State :=
  { s with
    ckpts := [], parts := s.parts.map (fun (p : Partition) => { p with state := .halted, waiting := .nothing }),
    regions := s.regions.map (fun (g : Region) =>
      if g.state = .loading then { g with state := .empty, descriptor := [] } else g) }

/-- Release every kept row (R231). -/
def State.releaseAllKept (s : State) : State := (upto 64).foldl (fun s r => s.releaseKept r) s

/-- The values that both Whiteout and zeroisation clear (R424). -/
def State.clearKeys (s : State) : State :=
  let ps := s.parts.map (fun (p : Partition) => { p with seed := none, held := none, key := (0, 0) })
  { s with
    parts := ps,
    vault := { s.vault with
      seedWrap := List.replicate 32 0,
      drbg := none,
      reseedDue := false,
      pool := [],
      sleetKey := List.replicate 16 0,
      auditPriv := 0 } }

/-- Enter Whiteout under a cause code (R390, R391, R450). -/
def State.enterWhiteout (s : State) (cause : Nat) : State :=
  if s.startup == .whiteout then s
  else
    let s1 := (((s.stopFigures .whiteout).dropAllTickets .whiteout).releaseAllKept).haltAll
    let s2 := s1.clearKeys
    let s3 := { s2 with
      startup := .whiteout,
      whiteoutCause := BitVec.ofNat 8 cause,
      whiteoutCount := s.count,
      sleetRunning := false,
      slices := s2.slices.map (fun (c : Slice) => { c with sleet := List.replicate 607 0, handler := Handler.idle }),
      tiles := s2.tiles.map (fun (t : Tile) => { t with handler := Handler.idle }),
      block := Handler.idle,
      download := none,
      advancing := false,
      vault := { s2.vault with state := if cause = 4 then .failed else s2.vault.state } }
    s3.respondDeferred .whiteout

/-- Zeroisation (R449). A response that waited for a checkpoint or a seed is given first (log 19). -/
def State.zeroiseBlock (s : State) : State :=
  let s0 := s.respondDeferred .refused
  let s1 := (((s0.stopFigures .unrecovered).dropAllTickets .unrecovered).releaseAllKept).haltAll
  let s2 := s1.clearKeys
  { s2 with
    parts := s2.parts.map (fun (p : Partition) => { p with chain := List.replicate 48 0 }),
    download := none,
    vault := { s2.vault with
      state := .zeroised,
      enrolled := false,
      keys := Vector.replicate 3 (List.replicate 48 0),
      sessions := [],
      auditPub := [],
      verifyKeys := Vector.replicate 4 [] } }

end Sys2Proof.Machine
end

