-- ==== Sys2Proof/Machine/Errors.lean ====
section
/-! DEFINITION. Errors and their handlers (R384 to R389): admission, escalation, queue overflow, the actions, retries
(R372 to R374), row bypass and tile disablement (R117 to R119), degraded regions (R149) and retired words (R148). -/
namespace Sys2Proof.Machine

/-! ### Handlers (R384, R385) -/

/-- The handler of a level. -/
def State.handler (s : State) : Level → Handler
  | .tile n => (s.tile n).handler
  | .slice n => (s.sliceOf n).handler
  | .block => s.block

/-- Replace the handler of a level. -/
def State.setHandler (s : State) (l : Level) (h : Handler) : State :=
  match l with
  | .tile n => s.modTile n (fun t => { t with handler := h })
  | .slice n => s.modSlice n (fun c => { c with handler := h })
  | .block => { s with block := h }

/-- A resource's earlier error is being handled or is queued (R386). -/
def Handler.holds (h : Handler) (r : Resource) : Bool :=
  (match h.current with | some e => e.resource == r | none => false) || h.queue.any (fun e => e.resource == r)

/-! ### Retries (R372 to R374) -/

/-- The counter of a retry kind (R372). -/
def RetryKind.counter : RetryKind → Counter
  | .tileLoad => .retryTile | .columnGroup => .retryColumn | .firnReread => .retryFirn | .driftRefetch => .retryDrift
  | .frameResend => .retryFrame | .generator => .retryGenerator

/-- The length of a retry for a command, and of an array retry for the work it repeats (R372). -/
def State.retryLen (s : State) (k : RetryKind) (t : Option Ticket) (w : Sys2Proof.ArrayWork) : Nat :=
  match k with
  | .tileLoad => s.tileRetryLen t w
  | .columnGroup => s.columnRetryLen t w
  | .firnReread => s.rereadLen
  | .driftRefetch => s.rereadLen
  | .frameResend => s.settings.hopBudget.toNat
  | .generator => 16

/-- Begin a retry: it holds every running figure for its length, and each counts it (R35, R373, R374). -/
def State.startRetry (s : State) (r : Retry) : State :=
  let s1 := s.mapRuns (fun t x =>
    if t.ended.isNone && x.active then { x with moved := x.moved + r.length, retries := x.retries + 1 } else x)
  ({ s1 with retries := s1.retries ++ [r] }).bump r.kind.counter 1

/-- A reread's set: its descriptor in host memory. -/
def State.regionDesc (s : State) (r : Nat) : Desc := Desc.read (s.region r).descriptor

/-- Request a set of a region from its master copy, in the set's own channel (R140, R146). -/
def State.requestSet (s : State) (who : ReadFor) (d : Desc) (n : Nat) : State :=
  s.readPieces n who (d.setRanges n ++ [(d.crc + 4 * n, 4)])

/-! ### Rows, tiles, regions, words -/

/-- Replacement is requested, with its reason (R395). -/
def State.replace (s : State) (bit : Nat) : State := { s with reasons := s.reasons ||| BitVec.ofNat 8 bit }

/-- The running command of an error ends, which is an action of its own in the log (R397). -/
def State.endLogged (s : State) (l : Level) (e : Err) (unit : Nat) : State :=
  if (e.ticket.bind s.launched).isSome then
    (s.logErr l { e with unit := unit } .ended).endLaunch? e.ticket .unrecovered
  else s

/-- Disable a tile (R119, R393, R395); with no active tile left the block enters Whiteout (R124). -/
def State.disableTile (s : State) (n : Nat) (e : Err) : State :=
  let s1 := ((s.modTile n (fun t => { t with entry := t.entry ||| 0x8000 })).bump .tilesDisabled 1).replace 1
  let s2 := (s1.logErr (.slice (n / 4)) { e with unit := n } .tileDisabled).endLogged (.slice (n / 4)) e n
  if s2.activeTiles.isEmpty then (s2.logErr (.slice (n / 4)) { e with unit := n } .whiteout).enterWhiteout 2 else s2

/-- A row has reached the count of R117: it is bypassed where the spare is free, else the tile is disabled (R117, R119).
The free spare itself becomes entry 32, spare defective (log 69). -/
def State.rowReached (s : State) (l : Level) (n row : Nat) (e : Err) : State :=
  if (s.tile n).entry.toNat % 64 = 63 then
    ((s.modTile n (fun t => { t with entry := BitVec.ofNat 16 (t.entry.toNat / 64 * 64 + row) })).bump .rowsBypassed 1).logErr
      l { e with unit := n, detail := row } .rowBypassed
  else s.disableTile n e

/-- Count a tile-load retry of a physical row; the count of a bypassed row has stopped (R117, R394). -/
def State.countRow (s : State) (n row : Nat) (e : Err) : State :=
  if (s.tile n).entry.toNat % 64 = row then s
  else
    let k := vget (s.tile n).retries row + 1
    let s1 := s.modTile n (fun t => { t with retries := vset t.retries row k })
    if k = 3 then s1.rowReached (.tile n) n row e else s1

/-- A region that an error can degrade: a defined one that is not degraded yet (R133, R148; log 34). -/
def Region.degradable (g : Region) : Bool := g.owner != 0xFF && g.state != .degraded

/-- A region becomes degraded (R147 to R149). -/
def State.degrade (s : State) (r : Nat) : State :=
  if (s.region r).degradable then
    (s.modRegion r (fun g => { g with state := .degraded })).bump .regionsDegraded 1
  else s

/-- A region becomes degraded by an error of a bank, with its log entry (R397). -/
def State.degradeLogged (s : State) (kind : ErrKind) (bank : Nat) (ticket : Option Nat) (r : Nat) : State :=
  if (s.region r).degradable then
    (s.degrade r).logError .block kind (bank / 8) r .degraded ticket
  else s

/-- Regions with a word in a bank become degraded: every page covers every bank (R131). -/
def State.degradeBank (s : State) (kind : ErrKind) (bank : Nat) (ticket : Option Nat) : State :=
  (upto 64).foldl (fun (s : State) r => s.degradeLogged kind bank ticket r) s

/-- Retire a word of a bank to a spare word; with none left every region with a word in the bank becomes degraded (R148). -/
def State.retireWord (s : State) (kind : ErrKind) (bank region : Nat) (ticket : Option Nat) : State :=
  let k := vget s.bankSpares bank
  let s1 := if k = 0 then s
    else (({ s with bankSpares := vset s.bankSpares bank (k - 1) }).bump .wordsRetired 1).logError .block kind (bank / 8) region
      .wordRetired ticket
  if k ≤ 1 then (s1.degradeBank kind bank ticket).replace 2 else s1

/-- Empty a stream context (R389). -/
def State.emptyContext (s : State) (c : Nat) : State := (s.releaseKeptOf c).modCtx c (fun x => Ctx.emptyFor x.owner)

/-- Re-seed one slice's Sleet generator (R285, R290). -/
def State.reseedSlice (s : State) (n : Nat) : State :=
  let (key, s1) := s.vaultDraw 16
  let k := (leNat (key.take 8), leNat (key.drop 8))
  { ((s1.modSlice n (fun c => { c with sleet := sleetSeed k n s1.seedings })).modVault (fun v => { v with sleetKey := key })) with
    seedings := s1.seedings + 1 }

/-- Seed every slice's Sleet generator from one seed key (R285). -/
def State.seedSleet (s : State) : State :=
  let (key, s1) := s.vaultDraw 16
  let k := (leNat (key.take 8), leNat (key.drop 8))
  let s2 := (upto s1.grade.slices).foldl (fun (s : State) n => s.modSlice n (fun c => { c with sleet := sleetSeed k n s.seedings })) s1
  { (s2.modVault (fun v => { v with sleetKey := key })) with seedings := s2.seedings + 1, sleetRunning := true }

/-! ### The response to an error (R384) -/

/-- What a handler does about an error. -/
inductive Response where
  | retry (k : RetryKind)
  | ends (st : Status)
  | firnWork
  | background
  | table
  | context
  | reseed
  deriving DecidableEq, Repr, Inhabited

/-- The command has met a mismatch of this error's Flurry unit before (R289). -/
def State.flurrySecond (s : State) (e : Err) : Bool :=
  match e.ticket.bind s.ticket with
  | some t => match t.run with
    | some r => r.flurryErrors.contains (if e.resource = .moraineFlurry then .moraine else .slice e.unit)
    | none => false
  | none => false

/-- The response of R384. -/
def State.response (s : State) (e : Err) : Response :=
  match e.kind with
  | .cellResidue => .retry .tileLoad
  | .registerParity => .retry .tileLoad
  | .accResidue => .retry .tileLoad
  | .byteParity => .retry .tileLoad
  | .accUncorrectable => .retry .columnGroup
  | .laneMismatch => if e.scoring then .retry .columnGroup else .ends .unrecovered
  | .flurryMismatch => if s.flurrySecond e then .ends .unrecovered else .retry .generator
  | .firnWeight => .retry .firnReread
  | .reel => .retry .frameResend
  | .scheduleFault => .ends .scheduleFault
  | .firnWork => .firnWork
  | .firnScrub => if (s.region e.region).work then .firnWork else .background
  | .tableWord => .table
  | .contextWord => .context
  | .sleetParity => .reseed
  | _ => .ends .unrecovered

/-- Remember a Flurry mismatch of the command (R289). -/
def State.noteFlurry (s : State) (e : Err) : State :=
  if e.kind != .flurryMismatch then s
  else match e.ticket with
    | some q => s.modRun q (fun r => { r with
        flurryErrors := (if e.resource = .moraineFlurry then .moraine else .slice e.unit) :: r.flurryErrors })
    | none => s

/-- Running commands that use a context (R389). -/
def State.usersOf (s : State) (c : Nat) : List Nat :=
  (s.tickets.filter (fun t => t.running && t.namedCtxs.contains c)).map Ticket.seq

/-- A background reread of the set that holds a bad word begins; a word between the pieces of an image belongs to no set
(R151). -/
def State.beginBackground (s : State) (e : Err) (bank : Nat) : State :=
  let s1 := (s.bump .backgroundRereads 1).requestSet (.background e.region e.set) (s.regionDesc e.region) e.set
  { s1 with background := s1.background ++ [Background.mk e.region e.set bank 0 false] }

/-- The set of a scrub error exists in the region. -/
def State.setExists (s : State) (e : Err) : Bool := decide (e.set < (s.regionDesc e.region).sets)

/-- The Firn bank of an error. -/
def Err.bank (e : Err) : Nat := match e.resource with | .bank b => b | _ => 0

/-- Act on an error, and say whether its handler stays busy; `hold` is the handler that its retry frees at its end (R384). -/
def State.perform (s : State) (hold : Option Level) (l : Level) (e : Err) : State × Bool :=
  let log (s : State) (a : ErrAction) : State := s.logErr l e a
  match s.response e with
  | .retry k =>
    let s0 := s.noteFlurry e
    let s1 := log (s0.startRetry ⟨k, s.retryLen k (e.ticket.bind s.ticket) e.work, hold, some e, 0, false, false⟩) .retried
    let s2 := if k = .firnReread then s1.requestSet (.reread e.region e.set) (s1.regionDesc e.region) e.set else s1
    let s3 := match l, e.resource with
      | .tile n, .cell row _ => s2.countRow n row e
      | _, _ => s2
    (s3, true)
  | .ends st => ((log s .ended).endLaunch? e.ticket st, e.ticket.isSome)
  | .firnWork => ((log s .ended).endLaunch? e.ticket .unrecovered, false)
  | .background =>
    let s1 := log s .retried
    if s.setExists e then (s1.beginBackground e e.bank, true) else (s1, false)
  | .table =>
    (((log s .ended).endLaunch? e.ticket .unrecovered).modSlice e.unit (fun c => { c with tableGood := false }), true)
  | .context =>
    let s1 := (s.usersOf e.unit).foldl (fun (s : State) q =>
      (s.logErr l { e with ticket := some q } .ended).endLaunch q .unrecovered) s
    (log ((s1.emptyContext e.unit).bump .contextsEmptied 1) .emptied, false)
  | .reseed => (log (s.reseedSlice e.unit) .reloaded, false)

/-- Take errors from a handler's queue until one keeps it busy; the fuel is the length of the queue. -/
def State.serve : Nat → Level → State → State
  | 0, _, s => s
  | n + 1, l, s =>
    let h := s.handler l
    match h.current, h.queue with
    | none, e :: rest =>
      let r := (s.setHandler l ⟨some e, rest⟩).perform (some l) l e
      if r.2 then r.1
      else State.serve n l (r.1.setHandler l { r.1.handler l with current := none })
    | _, _ => s

/-- A handler has finished its error, and takes the next (R385). -/
def State.release (s : State) (l : Level) : State :=
  let s1 := s.setHandler l { s.handler l with current := none }
  State.serve (s1.handler l).queue.length l s1

/-! ### Escalation (R386) and overflow (R387) -/

/-- An error on a resource whose earlier error is being handled or queued (R386). -/
def State.escalate (s : State) (l : Level) (e : Err) : State :=
  match l with
  | .tile n =>
    let s1 := (s.bump .tileEscalations 1).logErr (.slice (n / 4)) { e with unit := n } .escalated
    match e.resource with
    | .cell row _ => (s1.rowReached (.slice (n / 4)) n row e).endLogged (.slice (n / 4)) e n
    | _ => s1.disableTile n e
  | .slice n =>
    let s1 := (s.bump .sliceEscalations 1).logErr .block e .escalated
    ((s1.modSlice n (fun c => { c with fault := true })).replace 4).endLogged .block e e.unit
  | .block =>
    let s1 := ((s.bump .hostEscalations 1).logErr .block e .escalated).healthEvent
    match e.resource with
    | .bank b => (s1.endLogged .block e e.unit).degradeBank e.kind b e.ticket
    | _ => (s1.perform none .block e).1

/-- An error that meets a full queue (R387). -/
def State.overflow (s : State) (l : Level) (e : Err) : State :=
  match l with
  | .tile n =>
    let queued := (s.handler l).queue
    let s1 := ((s.bump .tileOverflows 1).logError (.slice (n / 4)) .queueOverflow n 0xFF .ended e.ticket).endLaunch? e.ticket .unrecovered
    let s2 := (s1.setHandler l { s1.handler l with queue := [] }).modTile n (fun t => { t with pendCols := [] })
    queued.foldl (fun (s : State) x => match x.resource with | .cell row _ => s.countRow n row x | _ => s) s2
  | .slice n => ((s.bump .sliceOverflows 1).logError .block .queueOverflow n 0xFF .ended e.ticket).endAll .unrecovered
  | .block => (s.logError .block .queueOverflow 0xFF 0xFF .whiteout e.ticket).enterWhiteout 1

/-- An error is detected at a level (R384 to R387). Errors in Whiteout are neither handled nor logged (R392). -/
def State.detect (s : State) (l : Level) (e : Err) : State :=
  if s.startup == .whiteout then s
  else
    let h := s.handler l
    if h.holds e.resource then s.escalate l e
    else if h.current.isNone then State.serve 1 l (s.setHandler l { h with queue := e :: h.queue })
    else if h.queue.length < 4 then s.setHandler l { h with queue := h.queue ++ [e] }
    else s.overflow l e

/-- The running command an error names, where it runs. -/
def State.victim (s : State) (q : Option Nat) : Option Nat := q.filter (fun n => (s.launched n).isSome)

/-- The work of an error that no array retry repeats. -/
def noWork : Sys2Proof.ArrayWork := ⟨0, 0⟩

/-- Detect an error: its level, kind, resource, unit, detail, command, and the work that its retry repeats. -/
def State.hit (s : State) (l : Level) (kind : ErrKind) (res : Resource) (unit detail : Nat) (ticket : Option Nat)
    (work : Sys2Proof.ArrayWork := noWork) : State :=
  s.detect l ⟨kind, res, unit, detail, s.victim ticket, 0, 0, false, s.count, work⟩

/-- A link that goes down, or a sequence fault, ends launches at once and leaves the block's handler free (R303, R304, R384). An
earlier error of the port that the handler holds makes it escalate to the host, and a full queue overflows (R386, R387;
log 50). -/
def State.linkFault (s : State) (p : Fin 4) (ticket : Option Nat) : State :=
  let e : Err := ⟨.reel, .port p.val, p.val, 0xFF, ticket, 0, 0, false, s.count, ⟨0, 0⟩⟩
  if s.startup == .whiteout then s
  else if s.block.holds e.resource then ((s.bump .hostEscalations 1).logErr .block e .escalated).healthEvent
  else if s.block.current.isSome && decide (4 ≤ s.block.queue.length) then s.overflow .block e
  else s

/-- A handler that waits for a completion record is free once the record is written (R384). -/
def State.settleHandler (s : State) (l : Level) : State :=
  match (s.handler l).current with
  | some e =>
    let retrying := s.retries.any (fun r => r.level == some l)
    let held := match e.ticket with | some q => (s.ticket q).isSome | none => false
    let rereads := e.kind == .firnScrub && s.background.any (fun b => b.region == e.region && b.set == e.set)
    if retrying || held || rereads || e.kind = .tableWord then s else s.release l
  | none => s

/-- Free every handler whose error's command has its record. -/
def State.settleHandlers (s : State) : State :=
  let ls := (upto 16).map Level.tile ++ (upto 4).map Level.slice ++ [.block]
  ls.foldl (fun (s : State) l => s.settleHandler l) s

end Sys2Proof.Machine
end

