-- ==== Sys2Proof/Machine/Array.lean ====
section
/-! DEFINITION. What the Serac tiles hold (04): the placement of rows (R118), register sets and their parity (R93, R96, R97), the
split buffer (R110), the residue that travels with a sum (R92), the accumulator (R105, R107), the carry file (R112, R113), the
order of a tile's sets (R106, R108, R121), and swaps into a stale set (R104). -/
namespace Sys2Proof.Machine

/-! ### Sums that travel down a column (R91, R92) -/

/-- A partial sum with the residue that travels with it (R92). -/
structure PSum where
  w : LWord
  residue : Nat
  deriving DecidableEq, Repr, Inhabited

/-- The sum that enters physical row 0 (R91). -/
def PSum.zero : PSum := ⟨LWord.zero, 0⟩

/-- The residue of each of some terms, formed apart from the multipliers, added modulo 7 (R92). -/
def residueSum (terms : List LWord) : Nat := sumNat (terms.map (fun w => residue7 w.i)) % 7

/-- A cell adds its terms to the incoming sum, and their residues to the incoming residue (R91, R92). -/
def cellStep (p : PSum) (terms : List LWord) : PSum :=
  ⟨terms.foldl LWord.add p.w, (p.residue + residueSum terms) % 7⟩

/-- A residue error: the outgoing word does not have the residue that travels with it (R92). -/
def PSum.residueError (p : PSum) : Bool := p.residue != residue7 p.w.i

/-- The terms of a cell for one part-set: each activation part that meets it (R79, R109). -/
def cellTerms (md : ArrayMode) (top : Int) (part : Nat) (lanes : List (FVal × FVal)) : List LWord :=
  lanes.flatMap (fun e =>
    if e.1.isFin && e.2.isFin then
      ((passPairs md.aF32 md.bF32 md.exactMode).filter (fun p => p.2 == part)).map (fun p =>
        ⟨prodTerm top ((partsOf md.aF32 e.1).getD p.1 default) ((partsOf md.bF32 e.2).getD p.2 default), Spec.none⟩)
    else if part = 0 then [⟨0, prodSpec e.1 e.2⟩] else [])

/-- One pass of a vector down a column: the cells of the logical rows in order; a bypassed row and a free spare change nothing
(R91, R118). -/
def columnPass (md : ArrayMode) (top : Int) (part : Nat) (rows : List (List (FVal × FVal))) : PSum :=
  rows.foldl (fun p r => cellStep p (cellTerms md top part r)) PSum.zero

/-! ### Rows and register sets -/

/-- The physical row p(r) that a logical row uses: one further where row f at or above it is bypassed (R118). -/
def Tile.physRow (t : Tile) (r : Nat) : Nat :=
  let f := t.entry.toNat % 64
  if f ≤ 31 ∧ f ≤ r then r + 1 else r

/-- A part of an FP32 element in the BF16 layout; the parts' wider exponent has no layout in the manual (R77, R110; log 71). -/
def partBits (part x : Nat) : Nat := (roundMagZero ((split3 (decodeF .fp32 x)).getD part default))
where
  /-- BF16 bits of a part. -/
  roundMagZero : FVal → Nat
    | .fin s m e => (roundMag roundEven .bf16 s m e).bits
    | v => (castElem .bf16 0 (BitVec.ofNat 32 (encodeSpecial v))).bits
  /-- FP32 bits of a special value. -/
  encodeSpecial : FVal → Nat
    | .inf n => if n then 0xFF800000 else 0x7F800000
    | _ => 0x7FC00000

/-- The 256 element bytes that a load tick brings to a logical row (R96, R110); a compatibility set uses the first 128. -/
def Desc.rowBytes (d : Desc) (el : Bytes) (part r : Nat) : Bytes :=
  if d.fmt == .fp32 then (upto 128).flatMap (fun i => leBytes 2 (partBits part (field el (512 * r + 4 * i) 4)))
  else let w := if d.compat then 128 else 256; padTo 256 ((el.drop (w * r)).take w)

/-- The parity bits of a set's bytes (R93). -/
def parityOf (rows : List Bytes) : List (List Bool) := rows.map (fun r => r.map parityBit)

/-- A register set as a load of set n leaves it in a tile: rows at their physical places, zero elsewhere, with the block scales,
the column exponents and the parity of every byte (R90, R91, R93, R96, R97). -/
def Tile.loaded (t : Tile) (d : Desc) (m : Memory) (n part : Nat) : RegSet :=
  let el := d.elemOf m n
  let rows := (upto 33).map (fun p => match (upto 32).find? (fun r => t.physRow r == p) with
    | some r => d.rowBytes el part r
    | none => List.replicate 256 0)
  { rows := rows, scales := d.scaleOf m n, metas := m.load (d.mdata + 32 * (n / d.setsPer)) 32, parity := parityOf rows,
    stale := false }

/-- A cell's bytes read with a parity error (R93). -/
def RegSet.parityError (g : RegSet) (row col : Nat) : Bool :=
  let own := ((g.rows.getD row []).map parityBit)
  (own.drop (8 * col)).take 8 != ((g.parity.getD row []).drop (8 * col)).take 8

/-- A cell's register has lost a bit: the stored parity of its first byte no longer holds (R93). -/
def RegSet.spoil (g : RegSet) (row col : Nat) : RegSet :=
  let p := g.parity.getD row []
  { g with parity := g.parity.set row (p.set (8 * col) (!(p.getD (8 * col) false))) }

/-- A load writes the set's bytes and parity again (R93, R115). -/
def RegSet.reloaded (g : RegSet) : RegSet := { g with parity := parityOf g.rows, stale := false }

/-- The split buffer as the hi load of an FP32 set leaves it (R110). -/
def splitOf (d : Desc) (m : Memory) (n : Nat) : SplitBuf :=
  let el := d.elemOf m n
  let bs (part : Nat) := (upto 32).flatMap (d.rowBytes el part)
  let all := bs 1 ++ bs 2
  ⟨all, all.map parityBit⟩

/-- The split buffer reads with a parity error (R110). -/
def SplitBuf.parityError (b : SplitBuf) : Bool := b.bytes.map parityBit != b.parity

/-- A byte of the split buffer has lost a bit (R110). -/
def SplitBuf.spoil (b : SplitBuf) : SplitBuf := { b with parity := b.parity.set 0 (!(b.parity.getD 0 false)) }

/-- The split buffer is written again by the hi load (R110). -/
def SplitBuf.reloaded (b : SplitBuf) : SplitBuf := { b with parity := b.bytes.map parityBit }

/-- The end of a tile-load retry: both sets and the split buffer are loaded again, and no sum is pending (R110, R115). -/
def Tile.reload (t : Tile) : Tile :=
  { t with active := t.active.reloaded, shadow := t.shadow.reloaded, split := t.split.reloaded, pendCols := [] }

/-! ### Which tile runs what, in which order (R106, R108, R121) -/

/-- The consecutive sets of a column group that run `j` of `per` takes (R108). -/
def runOf (c per j : Nat) : List Nat :=
  let start := j * (c / per) + min j (c % per)
  (upto (c / per + (if j < c % per then 1 else 0))).map (fun k => start + k)

/-- The work of active tile `i` of `n` in order, each as group, batch and set of the group (R106, R108, R121). -/
def tileWork (n g c nb i : Nat) : List (Nat × Nat × Nat) :=
  if n ≤ g then
    ((upto g).filter (fun x => x % n == i)).flatMap (fun x => (upto nb).flatMap (fun b => (upto c).map (fun k => (x, b, k))))
  else
    let per := n / max 1 g
    if i < g * per then (upto nb).flatMap (fun b => (runOf c per (i % per)).map (fun k => (i / per, b, k))) else []

/-- The part-sets of a set in load order (R109). -/
def partsOfSet (d : Desc) : List Nat := if d.fmt == .fp32 then [0, 1, 2] else [0]

/-! ### Accumulator and carry file (R105, R107, R112, R113) -/

/-- The cells of a set for one vector and column: rows of operand pairs (R94, R96). -/
def Desc.cells (d : Desc) (m : Memory) (g k col : Nat) (vals : List FVal) : List (List (FVal × FVal)) :=
  let n := g * d.setsPer + k
  let ws := d.colOf (d.elemOf m n) (d.scaleOf m n) col
  chunksOf d.lanes 32 (((vals.drop (k * d.kPer)).take d.kPer).zip ws)

/-- A word of the accumulator from a sum that has been added (R105, R107). -/
def AccWord.ofSum (p : PSum) : AccWord := ⟨BitVec.ofInt 128 p.w.i, p.w.sp, p.residue⟩

/-- The entry (u, c) before the last add, which goes straight to the rounding stage (R107): the passes of the sets run so far. -/
def Desc.entry (d : Desc) (m : Memory) (md : ArrayMode) (g : Nat) (passes : List (Nat × Nat)) (col : Nat) (row : CastRow) : AccWord :=
  let top := windowTop (maxExp row.vals) (d.metaOf m g col)
  AccWord.ofSum (passes.foldl (fun (p : PSum) e =>
    let q := columnPass md top e.2 (d.cells m g e.1 col row.vals)
    ⟨p.w.add q.w, (p.residue + q.residue) % 7⟩) PSum.zero)

/-- The chunk sums of a row against a column in compatibility mode (R85, R112). -/
def Desc.chunkSums (d : Desc) (m : Memory) (g col : Nat) (row : CastRow) : List R32 :=
  let prods := (row.vals.zip (d.column m (32 * g + col))).map (fun p => compatProd p.1 p.2)
  (chunksOf 256 prods.length prods).map (fun c => c.foldl accAdd ⟨0, 0⟩)

/-- The words that hold the S slice sums of an entry, four to a word (R113). -/
def sliceWords (slices : Nat) (chunks : List R32) : List AccWord :=
  (chunksOf 4 slices ((upto slices).map (fun k => (sliceSum slices k chunks).v))).map (fun l =>
    let x := leNat (l.flatMap (fun v => leBytes 4 v.toNat))
    ⟨BitVec.ofNat 128 x, Spec.none, residue7 (Int.ofNat x)⟩)

/-- The accumulator after a batch: its words (u, c) in order of u, then c (R105, R107, R113). -/
def Desc.accAfter (d : Desc) (m : Memory) (md : ArrayMode) (g : Nat) (passes : List (Nat × Nat)) (rows : List CastRow) :
    List AccWord :=
  if md.compat then
    let words := rows.map (fun r => (upto 32).map (fun c => sliceWords md.slices (d.chunkSums m g c r)))
    words.flatMap (fun cols => (upto (ceilDiv md.slices 4)).flatMap (fun k => cols.map (fun ws => ws.getD k default)))
  else rows.flatMap (fun r => (upto 32).map (fun c => d.entry m md g passes c r))

/-- The carry file after a batch: the last chunk sum of each vector and column (R112). -/
def Desc.carryAfter (d : Desc) (m : Memory) (g : Nat) (rows : List CastRow) : List F32 :=
  rows.flatMap (fun r => (upto 32).map (fun c => (((d.chunkSums m g c r).getLast?).map R32.v).getD 0))

/-- New words over the first ones of a list. -/
def overWords {α : Type} (new old : List α) : List α := new ++ old.drop new.length

/-- A tile after its work in a scoring pass: the two sets loaded last, the accumulator, the split buffer and the carry file. -/
def Tile.after (t : Tile) (d : Desc) (m : Memory) (md : ArrayMode) (size : Nat) (rows : List CastRow)
    (work : List (Nat × Nat × Nat)) : Tile :=
  let loads := work.flatMap (fun w => (partsOfSet d).map (fun p => (w, p)))
  match loads.reverse with
  | [] => t
  | (w, part) :: before =>
    let n := w.1 * d.setsPer + w.2.2
    let batch := (rows.drop (size * w.2.1)).take size
    let passes := (before.reverse.filter (fun l => l.1.1 == w.1 && l.1.2.1 == w.2.1)).map (fun l => (l.1.2.2, l.2))
    { t with
      active := t.loaded d m n part
      shadow := match before with
        | [] => t.active
        | (v, p) :: _ => t.loaded d m (v.1 * d.setsPer + v.2.2) p
      acc := overWords (d.accAfter m md w.1 passes batch) t.acc
      split := if d.fmt == .fp32 then splitOf d m n else t.split
      carry := if md.compat then overWords (d.carryAfter m w.1 batch) t.carry else t.carry }

/-- The tiles after a scoring pass of some rows over a shard (R121). -/
def State.leaveTiles (s : State) (t : Ticket) (d : Desc) (m : Memory) (rows : List CastRow) : State :=
  let ts := s.activeTiles
  let size := s.batchSize
  let nb := ceilDiv rows.length (max 1 size)
  (ts.zip (upto ts.length)).foldl (fun (s : State) e =>
    s.modTile e.1 (fun x => x.after d m (s.arrayMode t) size rows (tileWork ts.length d.groups d.setsPer nb e.2))) s

/-! ### Swaps into a stale set (R101 to R104) -/

/-- A swap of a figure: its tile, the tick its load begins where it has one, and its swap tick. -/
abbrev Swap := Nat × Option Nat × Nat

/-- A swap takes the set that the swap before it in the tile released. That set is stale until a load into it completes, or the
wave that released it has left the tile (R104). -/
def intoStale (before next : Swap) : Bool :=
  let free := decide (before.2.2 + 64 ≤ next.2.2)
  let loaded := match next.2.1 with | some l => decide (before.2.2 ≤ l ∧ l + 31 ≤ next.2.2) | none => false
  before.1 == next.1 && !free && !loaded

/-- The first tile in which a figure swaps into a stale set; the swaps of each tile stand in order. -/
def staleSwap : List Swap → Option Nat
  | a :: b :: l => if intoStale a b then some b.1 else staleSwap (b :: l)
  | _ => none

/-- The tile in which a launched figure swaps into a stale set (R104; log 72). -/
def State.swapFault (s : State) (r : Running) : Option Nat :=
  (s.imageOfRun r).bind (fun im => staleSwap (Config.figureSwaps im s.activeTiles.length))

/-- A swap into a stale set is a schedule fault (R104, R20). -/
def State.endStale (s : State) (t : Ticket) (tile : Nat) : State :=
  ((s.modTile tile (fun x => { x with shadow := { x.shadow with stale := true } })).bump .scheduleFaults 1).hit .block
    .scheduleFault .crossing 0xFF 0xFF (some t.seq)

/-- The work of a figure on the array, where no swap of it is into a stale set (R104). -/
def State.unlessStale (s : State) (t : Ticket) (r : Running) (done : State) : State :=
  match s.swapFault r with
  | some tile => s.endStale t tile
  | none => done

end Sys2Proof.Machine
end

