-- ==== Sys2Proof/Machine/ReelFmt.lean ====
section
/-! DEFINITION. What the exchanges carry: the payloads of R309, R312 and R313 as bytes, and how they merge (R308). -/
namespace Sys2Proof.Machine

/-- The form of a payload: rows, top-list length, and the LOSS extension with its teacher words. -/
structure PayForm where
  rows : Nat
  len : Nat
  loss : Bool
  teachers : Nat
  deriving DecidableEq, Repr, Inhabited

/-- A 32-bit field. -/
def le32 (n : Nat) : Bytes := leBytes 4 n

/-- The ladder of a row as its 128 records (R309). -/
def ladderBytes (l : List (Nat × Nat)) : Bytes :=
  ((l ++ List.replicate 128 (0, 0)).take 128).flatMap (fun (e : Nat × Nat) => leBytes 6 e.1 ++ leBytes 3 e.2)

/-- The top list of a row, padded to L entries (R309). -/
def topBytes (len : Nat) (l : List TopEnt) : Bytes :=
  ((l.map (fun e => le32 e.s.toNat ++ le32 e.id ++ le32 e.key.toNat)) ++
    List.replicate len (le32 0xFF800000 ++ le32 noId ++ le32 0xFF800000)).take len |>.flatten

/-- The LOSS extension (R309). -/
def lossBytes (l : LossRow) : Bytes :=
  le32 l.count ++ le32 0 ++ leBytes 8 l.target.toNat ++ lwBytes l.sum ++ l.teacher.flatMap (fun w => leBytes 8 w.toNat)

/-- A row record of round 1 (R309). -/
def rowRecBytes (fm : PayForm) (r : RowRec) : Bytes :=
  leBytes 1 ((if r.invalid then 1 else 0) + (if r.masked then 2 else 0)) ++ leBytes 3 0 ++ le32 r.maxS.toNat ++ le32 r.maxId ++
  le32 r.infs ++ le32 r.g.key.toNat ++ le32 r.g.id ++ le32 r.floor.toNat ++ le32 r.captured.toNat ++
  le32 (match r.topRung with | some t => unsigned 32 t | none => 0x80000000) ++ le32 r.g.s.toNat ++ leBytes 8 0 ++
  ladderBytes r.ladder ++
  (if fm.loss then lossBytes (r.loss.getD ⟨0, 0, LWord.zero, List.replicate fm.teachers 0⟩) else topBytes fm.len r.top)

/-- Bytes of a row record. -/
def PayForm.recLen (fm : PayForm) : Nat := 0x4B0 + (if fm.loss then 32 + 8 * fm.teachers else 12 * fm.len)

/-- A row record read back (R309). -/
def readRowRec (fm : PayForm) (bs : Bytes) : RowRec :=
  let top := field bs 0x20 4
  let lad := (upto 128).map (fun i => (field bs (0x30 + 9 * i) 6, field bs (0x36 + 9 * i) 3))
  { invalid := bitAt (byteAt bs 0) 0, masked := bitAt (byteAt bs 0) 1, maxS := f32At bs 4, maxId := field bs 8 4,
    infs := field bs 0x0C 4, g := ⟨f32At bs 0x10, field bs 0x14 4, f32At bs 0x24⟩, floor := f32At bs 0x18,
    captured := f32At bs 0x1C, topRung := if top = 0x80000000 then none else some (signed 32 top),
    ladder := if top = 0x80000000 then [] else lad,
    top := if fm.loss then [] else
      ((upto fm.len).map (fun i => TopEnt.mk (f32At bs (0x4B0 + 12 * i)) (field bs (0x4B4 + 12 * i) 4)
        (f32At bs (0x4B8 + 12 * i)))).filter (fun e => e.id != noId),
    loss := if fm.loss then some {
        count := field bs 0x4B0 4, target := BitVec.ofNat 64 (field bs 0x4B8 8), sum := lwRead (slice bs 0x4C0 16),
        teacher := (upto fm.teachers).map (fun i => BitVec.ofNat 64 (field bs (0x4D0 + 8 * i) 8)) }
      else none }

/-- The reserved fields of a row record are zero (R300, R309). -/
def rowRecOk (fm : PayForm) (bs : Bytes) : Bool :=
  decide (byteAt bs 0 < 4) && zeroAt bs 1 4 && zeroAt bs 0x28 0x30 && (!fm.loss || zeroAt bs 0x4B4 0x4B8)

/-- A row of a round-2 payload (R312). -/
def gatherBytes (g : GatherRow) : Bytes :=
  leBytes 2 g.entries.length ++ leBytes 2 g.pos ++ le32 g.pair0.key.toNat ++ le32 g.pair0.id ++ le32 g.pair0.s.toNat ++
  le32 g.pair1.key.toNat ++ le32 g.pair1.id ++ le32 g.pair1.s.toNat ++ le32 0 ++
  g.entries.flatMap (fun (e : F32 × Nat) => le32 e.1.toNat ++ le32 e.2)

/-- Read the rows of a round-2 payload; `none` where its length or a reserved field is wrong. The fuel is the rows
expected. -/
def readGathers : Nat → Bytes → Option (List GatherRow)
  | 0, bs => if bs.isEmpty then some [] else none
  | n + 1, bs =>
    let k := field bs 0 2
    if bs.length < 32 ∨ k > 4096 ∨ bs.length < 32 + 8 * k ∨ !(zeroAt bs 0x1C 0x20) then none
    else
      let g : GatherRow := {
        pos := field bs 2 2, pair0 := ⟨f32At bs 4, field bs 8 4, f32At bs 0x0C⟩,
        pair1 := ⟨f32At bs 0x10, field bs 0x14 4, f32At bs 0x18⟩,
        entries := (upto k).map (fun i => (f32At bs (0x20 + 8 * i), field bs (0x24 + 8 * i) 4)) }
      (readGathers n (bs.drop (32 + 8 * k))).map (g :: ·)

/-- An exchange payload as bytes (R309, R312, R313). -/
def payloadBytes (fm : PayForm) : Payload → Bytes
  | .rows l => l.flatMap (rowRecBytes fm)
  | .gather l => l.flatMap gatherBytes
  | .tops l => l.flatMap (fun t => leBytes 2 (unsigned 16 t))
  | .words l => l.flatMap lwBytes

/-- Read a payload of the same exchange as `own`; `none` where its length disagrees with the exchange or a reserved field is
not zero (R300). -/
def readPayload (fm : PayForm) (own : Payload) (bs : Bytes) : Option Payload :=
  match own with
  | .rows l =>
    let cs := chunksOf fm.recLen bs.length bs
    if bs.length = l.length * fm.recLen ∧ cs.all (rowRecOk fm) then some (.rows (cs.map (readRowRec fm))) else none
  | .gather l => (readGathers l.length bs).bind (fun gs =>
      if gs.map GatherRow.pos = l.map GatherRow.pos then some (.gather gs) else none)
  | .tops l =>
    if bs.length = 2 * l.length then some (.tops ((chunksOf 2 bs.length bs).map (fun c => signed 16 (leNat c)))) else none
  | .words l => if bs.length = 16 * l.length then some (.words ((chunksOf 16 bs.length bs).map lwRead)) else none

/-- Merge two payloads of one exchange, with the top-list length of each row (R308, R313). -/
def Payload.merge (lens : List Nat) : Payload → Payload → Payload
  | .rows a, .rows b => .rows (((a.zip b).zip lens).map (fun p => RowRec.merge p.2 p.1.1 p.1.2))
  | .gather a, .gather b => .gather ((a.zip b).map (fun p => GatherRow.merge p.1 p.2))
  | .tops a, .tops b => .tops ((a.zip b).map (fun p => max p.1 p.2))
  | .words a, .words b => .words ((a.zip b).map (fun p => p.1.add p.2))
  | a, _ => a

/-- The identities that stand where a member reports a row invalid (R308): the record of an invalid row carries no other
field. -/
def cleanRow (r : RowRec) : RowRec := if r.invalid then { RowRec.bad with loss := r.loss.map (fun l =>
  ⟨0, 0, LWord.zero, l.teacher.map (fun _ => 0)⟩) } else r

end Sys2Proof.Machine
end

