-- ==== Sys2Proof/Machine/Checks.lean ====
section
/-! DEFINITION. The checks made before launch (R338): every condition that gives FORMAT and every one that gives RANGE, for
each command. UNRECOVERED comes first, then FORMAT, RANGE and SCHEDULE_FAULT. -/
namespace Sys2Proof.Machine

/-! ### The command itself (R331, R333, R350) -/

/-- Operand blocks that an opcode requires, for a stream count (R333). -/
def Op.blocks (o : Op) (streams : Nat) : Nat :=
  match o with
  | .step => 1 + ceilDiv streams 32
  | .score => 1 + ceilDiv streams 32
  | .settle => 1 + ceilDiv streams 32
  | .verify => 2 | .beam => 2
  | .loss => 1 | .grad => 1 | .reduce => 1 | .func => 1 | .fill => 1 | .loadw => 1 | .digest => 1
  | _ => 0

/-- The opcode area breaks R350: a reserved byte, a scope or an operation without a code, or a misaligned image address. -/
def Ticket.areaBad (t : Ticket) : Bool :=
  let c := t.cmd
  match t.op with
  | .loadw => !(zeroAt c 0x31 0x40)
  | .evictw => !(zeroAt c 0x31 0x40)
  | .save => !(zeroAt c 0x31 0x38) || decide (t.areaWord % 64 ≠ 0)
  | .restore => !(zeroAt c 0x31 0x38) || decide (t.areaWord % 64 ≠ 0)
  | .waitcount => !(zeroAt c 0x30 0x38)
  | .fence => decide (byteAt c 0x30 > 1) || !(zeroAt c 0x31 0x40)
  | .dict => decide (byteAt c 0x33 > 1) || !(zeroAt c 0x36 0x38)
  | _ => !(zeroAt c 0x30 0x40)

/-- A field of the command gives FORMAT (R10, R331, R333, R350). -/
def Ticket.commandBad (t : Ticket) : Bool :=
  let c := t.cmd
  (Op.ofCode (byteAt c 0)).isNone || decide (byteAt c 1 > 3) || decide (t.blockCount ≠ t.op.blocks t.streams) ||
  !(zeroAt c 3 4) || !(zeroAt c 6 8) || decide (t.operandBase % 256 ≠ 0) || (t.blockCount == 0 && t.operandBase != 0) ||
  !(zeroAt c 0x26 0x28) || decide (t.partner ≥ 0x4000) ||
  (if t.crossCheck then decide (byteAt c 0x2E > 3) else byteAt c 0x2E != 0) || !(zeroAt c 0x2F 0x30) || t.areaBad

/-! ### Shared parts of the selection and training blocks -/

/-- An operand pair that the array multiplies (R60). -/
def pairOk (a w : Nat) : Bool :=
  match a, w with
  | 1, 1 => true | 1, 2 => true | 2, 1 => true | 2, 2 => true | 1, 3 => true | 2, 3 => true
  | 4, 4 => true | 4, 5 => true | 5, 4 => true | 5, 5 => true
  | 6, 4 => true | 6, 5 => true | 4, 6 => true | 5, 6 => true | 6, 6 => true
  | _, _ => false

/-- The formats of a scoring block give FORMAT: the descriptor, the operand pair, compatibility with FP32, or the hidden row
format (R60, R86, R125, R346). -/
def State.formatsBad (s : State) (t : Ticket) : Bool :=
  let a := t.b 0x42
  let w := t.desc.code
  Desc.formatBad s.profile.accumulation.toNat (t.blocks.take 64) || !(pairOk a w) ||
  (s.profile.accumulation == 1 && (a == 6 || w == 6)) || !(decide (4 ≤ t.b 0x43 ∧ t.b 0x43 ≤ 6))

/-- The weight region is not one that the partition may name (R138). -/
def State.weightRegionBad (s : State) (t : Ticket) : Bool :=
  t.b 0x40 != 0xFF && (decide (t.b 0x40 ≥ 64) || (s.region (t.b 0x40)).owner.toNat != t.part)

/-- The normaliser kind and epsilon (R168). -/
def Ticket.normBad (t : Ticket) : Bool := decide (t.b 0x41 > 2) || (t.b 0x41 != 0 && !(posFinite (t.fl 0x44)))

/-- The vocabulary map's ids rise strictly in column order (R162). -/
def State.mapAscending (s : State) (t : Ticket) : Bool :=
  if !t.desc.hasMap then true
  else if s.resident t then (s.region (t.b 0x40)).mapAscending
  else ascendingBy (fun a b => decide (a < b)) (t.desc.ids s.mem)

/-- A seed is imported in the command's partition (R277). -/
def State.seeded (s : State) (t : Ticket) : Bool := (s.part t.part).seed.isSome

/-! ### The selection block (R341 to R347) -/

/-- A reserved byte of the selection block is not zero (R10, R346, R347). -/
def Ticket.selectionBad (t : Ticket) : Bool :=
  let b := t.blocks
  !(zeroAt b 0x9B 0xA0) || !(zeroAt b 0xE0 0x100) ||
  match t.op with
  | .beam => !(zeroAt b 0xA1 0xA4) || !(zeroAt b 0xA8 0xE0)
  | .verify => !(zeroAt b 0xA2 0xA4) || !(zeroAt b (0xA4 + 4 * t.b 0xA1) 0xE0) || decide (t.b 0xA0 > 1)
  | .score => !(zeroAt b 0xA1 0xA8) || !(zeroAt b 0xB8 0xE0)
  | _ => !(zeroAt b 0xA0 0xE0)

/-- Companions that a command's entry must name (R341). -/
def Ticket.companions (t : Ticket) : Nat :=
  match t.op with
  | .beam => t.b 0xA0 - 1
  | .verify => t.b 0xA1
  | _ => 0

/-- An entry of the stream table gives FORMAT by its own fields (R341). -/
def Ticket.entryBad (t : Ticket) (e : StreamEnt) : Bool :=
  decide (e.flags > 3) || decide (e.id ≥ pow2 24) || decide (e.ncomp ≠ t.companions) || (e.ncomp == 0 && e.comp != 0)

/-- The stream table beyond the stream count is not zero (R341). -/
def Ticket.tableTailBad (t : Ticket) : Bool := !(allZero (t.blocks.drop (256 + 8 * t.streams)))

/-- A stream's own state gives FORMAT (R342, R343, R230). -/
def State.streamBad (s : State) (t : Ticket) (e : StreamEnt) : Bool :=
  let c := s.ctx e.ctx
  (t.op == .settle && (e.isNew || e.updates || c.summary.mark != .scored t.stepValue)) ||
  (!e.isNew && (!c.holds || c.id.toNat != e.id || decide (t.stepValue < c.nextStep.toNat)))

/-- An update record, or what it brings, gives FORMAT (R344, R345, R160, R164). -/
def State.updateBad (s : State) (t : Ticket) (p : Nat) : Bool :=
  let e := t.stream p
  let u := s.updateRec t p
  e.updates &&
  (updateFormatBad u || (urReplace u 0 && paramsFormatBad (s.host (urParamAddr u) 128)) ||
    (urReplace u 1 && penaltiesBad (penaltiesOf (s.host (urPenaltyAddr u) (5 * urPenalties u)) (urPenalties u))) ||
    (urReplace u 2 && biasBad (biasRaw (s.host (urBiasAddr u) (8 * urBiases u)) (urBiases u))))

/-- A row samples through top-p or min-p without top-k (R223, R287). -/
def cutsSampling (p : Bytes) : Bool := prSamples p && !(prTopK p) && (prTopP p || prMinP p)

/-- The commands that settle rows by filters (R155, R287). -/
def Op.settles : Op → Bool | .step => true | .settle => true | .verify => true | _ => false

/-- The command draws from Flurry under the partition key (R277). -/
def State.selectDraws (s : State) (t : Ticket) : Bool :=
  let samples := (s.allControls t).any (fun c => prSamples c.params)
  t.op == .beam || (t.op.keys && samples && s.profile.gumbelSrc == 0) || (t.op == .verify && t.b 0xA0 == 1 && samples)

/-- A selecting command ends with FORMAT. -/
def State.selectFormatBad (s : State) (t : Ticket) : Bool :=
  let cs := s.allControls t
  t.selectionBad || s.formatsBad t || t.tableTailBad || t.entries.any t.entryBad || t.entries.any (s.streamBad t) ||
  (upto t.streams).any (s.updateBad t) || (s.selectDraws t && !(s.seeded t)) ||
  (t.op.settles && s.profile.gumbelSrc == 1 && cs.any (fun c => cutsSampling c.params)) ||
  (t.op.settles && cs.any (fun c => prTopP c.params || prMinP c.params) && decide (t.f 0x80 8 % 4096 ≠ 0)) ||
  (t.op == .score && (decide (t.b 0x9A ≥ 64) || !(s.region (t.b 0x9A)).work || (s.region (t.b 0x9A)).owner == 0xFF)) ||
  (cs.any (fun c => !c.pens.isEmpty || !c.biases.isEmpty) && !(s.mapAscending t)) ||
  (t.op == .beam && decide (s.rowsAtLaunch t > t.b 0xA0))

/-- A context that a command names is not the partition's, or is named twice (R341). -/
def State.ctxsBad (s : State) (t : Ticket) : Bool :=
  let cs := t.namedCtxs
  cs.any (fun c => decide (c ≥ 256) || (s.ctx c).owner.toNat != t.part) || cs.eraseDups.length != cs.length

/-- Bytes that a SCORE's kept rows take (R231). -/
def Ticket.keptBytes (t : Ticket) : Nat := t.streams * t.desc.h * t.actFmt.bytes

/-- A selecting command ends with RANGE (R126, R138, R155, R159, R168, R217, R231, R235, R341, R344, R346, R347). -/
def State.selectRangeBad (s : State) (t : Ticket) : Bool :=
  let cs := s.allControls t
  let one := t.op == .beam || t.op == .verify
  !(decide (1 ≤ t.streams ∧ t.streams ≤ 256)) || (one && t.streams != 1) || s.ctxsBad t ||
  Desc.rangeBad (t.blocks.take 64) || s.weightRegionBad t || t.normBad || cs.any (fun c => paramsRangeBad c.params) ||
  (upto t.streams).any (fun p => (t.stream p).updates && updateRangeBad (s.updateRec t p)) ||
  (t.op.settles && cs.any (fun c => prTopP c.params || prMinP c.params) &&
    (decide (t.f 0x88 8 < 8 * t.desc.columns * t.streams) || decide (t.f 0x80 8 + t.f 0x88 8 > pow2 52))) ||
  (t.op == .beam && !(decide (2 ≤ t.b 0xA0 ∧ t.b 0xA0 ≤ 16))) ||
  (t.op == .verify && (!(decide (1 ≤ t.b 0xA1 ∧ t.b 0xA1 ≤ 15)) ||
    (upto (t.b 0xA1)).any (fun i => decide (t.f (0xA4 + 4 * i) 4 ≥ s.profile.vocab.toNat)))) ||
  (t.op == .score && (decide (t.b 0xA0 > 64) || (s.region (t.b 0x9A)).owner.toNat != t.part ||
    decide ((s.region (t.b 0x9A)).bytes < t.keptBytes)))

/-! ### The training block (R242 to R247, R348) -/

/-- δ is on. -/
def Ticket.distils (t : Ticket) : Bool := !(isZero32 (t.fl 0x8C))
/-- ε is on. -/
def Ticket.smooths (t : Ticket) : Bool := !(isZero32 (t.fl 0x88))

/-- The target id of token i (R246). -/
def State.target (s : State) (t : Ticket) (i : Nat) : Nat := leNat (s.host (t.f 0x60 8 + 4 * i) 4)
/-- Token i is ignored (R246). -/
def State.ignored (s : State) (t : Ticket) (i : Nat) : Bool := s.target t i == 0xFFFFFFFF

/-- The teacher block of token i as 64 (id, probability) entries (R246). -/
def State.teacher (s : State) (t : Ticket) (i : Nat) : List (Nat × F32) :=
  let b := s.host (t.f 0x68 8 + 512 * i) 512
  (upto 64).map (fun k => (field b (8 * k) 4, f32At b (8 * k + 4)))

/-- The valid entries of a teacher block (R246). -/
def validTeachers (l : List (Nat × F32)) : List (Nat × F32) := l.takeWhile (fun e => e.1 != 0xFFFFFFFF)

/-- A probability of a teacher entry is legal: in [0, 1] (R247). -/
def probOk (p : F32) : Bool := !(isNaN32 p) && fle 0 p && fle p 0x3F800000

/-- A teacher block gives FORMAT (R247). -/
def teacherBad (l : List (Nat × F32)) : Bool :=
  let v := validTeachers l
  !(ascendingBy (fun (a b : Nat × F32) => decide (a.1 < b.1)) v) || v.any (fun e => !(probOk e.2)) ||
  (l.drop v.length).any (fun e => e.1 != 0xFFFFFFFF || e.2 != 0)

/-- The loss record of token i (R256). -/
def State.lossRec (s : State) (t : Ticket) (i : Nat) : Bytes := s.host (t.f 0x70 8 + 32 * i) 32

/-- A loss record gives FORMAT (R257). -/
def State.lossRecBad (s : State) (t : Ticket) (i : Nat) : Bool :=
  let r := s.lossRec t i
  let st := byteAt r 0x14
  !(zeroAt r 0x16 0x20) || decide (byteAt r 0x15 > 3) || !(st == 0 || st == 2 || st == 3 || st == 0x10) ||
  bitAt (byteAt r 0x15) 0 != s.ignored t i

/-- The output code of dHidden or dW: BF16, FP32 or LW128, with the stochastic bit (R245). -/
def outCodeBad (b : Nat) : Bool :=
  !(b % 16 == 4 || b % 16 == 6 || b % 16 == 8) || decide (b ≥ 32) || (b % 16 == 8 && b / 16 != 0)

/-- The output format of an R245 byte. -/
def outFmt (b : Nat) : NumFmt := (NumFmt.ofCode (b % 16)).getD .fp32
/-- The stochastic bit of an R245 byte. -/
def outStoch (b : Nat) : Bool := bitAt b 4

/-- A LOSS or GRAD ends with FORMAT (R10, R60, R86, R125, R244, R247, R257, R266, R277, R348). -/
def State.trainFormatBad (s : State) (t : Ticket) : Bool :=
  let b := t.blocks
  let grad := t.op == .grad
  let n := if grad then min t.tokens 65536 else min t.tokens 64
  let w := t.desc.code
  !(zeroAt b 0x9E 0xA0) || !(zeroAt b 0xAC 0xB0) || !(zeroAt b 0xD8 0x100) ||
  (if grad then !(zeroAt b 0x9C 0x9D) || !(zeroAt b 0xA8 0xAC)
   else !(zeroAt b 0x94 0x98) || !(zeroAt b 0x99 0x9C) || !(zeroAt b 0x9D 0x9E) || !(zeroAt b 0xB0 0xD8)) ||
  s.formatsBad t ||
  (grad && (!((w == 4 || w == 5) && (t.b 0x42 == 4 || t.b 0x42 == 5)) ||
    decide (t.f 0xB8 8 % (outFmt (t.b 0x9B)).bytes ≠ 0) || decide (t.f 0xC0 8 % (outFmt (t.b 0x9B)).bytes ≠ 0) ||
    (s.profile.accumulation == 1 && t.b 0x99 == 6) || decide (t.b 0x9D ≥ 64) || !(s.region (t.b 0x9D)).work ||
    (s.region (t.b 0x9D)).owner == 0xFF ||
    ((outStoch (t.b 0x9A) || outStoch (t.b 0x9B)) && s.profile.srSrc == 0 && !(s.seeded t)) ||
    (upto n).any (s.lossRecBad t))) ||
  (t.distils && (upto n).any (fun i => teacherBad (s.teacher t i)))

/-- ε + δ ≤ 1 in exact arithmetic, each in [0, 1] (R245). -/
def weightsOk (eps delta : F32) : Bool :=
  !(isNaN32 eps) && !(isNaN32 delta) && fle 0 eps && fle 0 delta && finite32 eps && finite32 delta &&
  Dy.le ((dy32 eps).add (dy32 delta)) ⟨1, 0⟩

/-- Array passes of a gradient operand: 1 for BF16 and FP16, 3 for FP32 (R261). -/
def Ticket.gradPasses (t : Ticket) : Nat := if t.b 0x99 = 6 then 3 else 1

/-- A LOSS or GRAD ends with RANGE (R126, R138, R168, R242, R243, R245, R247, R261, R266, R348). -/
def State.trainRangeBad (s : State) (t : Ticket) : Bool :=
  let grad := t.op == .grad
  let n := t.tokens
  let cap := if grad then 65536 else 64
  let k := s.profile.dwChunk.toNat
  Desc.rangeBad (t.blocks.take 64) || s.weightRegionBad t || t.normBad || decide (n = 0 ∨ n > cap) ||
  decide (t.p0 + n > t.f 0x80 4) || !(capOk (t.fl 0x84)) || !(weightsOk (t.fl 0x88) (t.fl 0x8C)) || !(capOk (t.fl 0x90)) ||
  (!grad && s.ctxsBad t) ||
  (grad && (!(finite32 (t.fl 0x94)) || !(decide (4 ≤ t.b 0x99 ∧ t.b 0x99 ≤ 6)) || outCodeBad (t.b 0x9A) ||
    outCodeBad (t.b 0x9B) || decide (t.p0 % k ≠ 0) || !(decide ((t.p0 + n) % k = 0) || t.p0 + n == t.f 0x80 4) ||
    decide (s.profile.vocab.toNat * t.gradPasses > pow2 22) || (s.region (t.b 0x9D)).owner.toNat != t.part ||
    decide ((s.region (t.b 0x9D)).bytes < k * t.desc.h * 2 + k * t.desc.columns * 4 + 131072 * s.activeTiles.length))) ||
  (upto (min n cap)).any (fun i =>
    (!(s.ignored t i) && decide (s.target t i ≥ s.profile.vocab.toNat)) ||
    (t.distils && (validTeachers (s.teacher t i)).any (fun e => decide (e.1 ≥ s.profile.vocab.toNat))))

/-! ### The tensor block (R172, R177, R200, R267 to R270, R280, R349) -/

/-- A format that lanes may write: a short float or FP32 (R280, R349). -/
def floatFmt (f : NumFmt) : Bool := match f with | .u32 => false | .lw128 => false | .mxfp4 => false | _ => true

/-- A REDUCE ends with FORMAT. -/
def State.reduceFormatBad (s : State) (t : Ticket) : Bool :=
  let i := t.inT
  let o := t.outT
  let b := t.blocks
  i.formatBad false || o.formatBad true || i.fmt != .lw128 || i.dims != 3 || decide (t.b 0x90 % 16 ≠ o.code) ||
  decide (o.count ≠ i.size 0 * i.size 1) || decide (t.b 0x91 > 1) || !(zeroAt b 0x92 0x94) || !(zeroAt b 0x98 0x100) ||
  (o.fmt != .lw128 && !(zeroAt b 0x88 0x90)) || (outStoch (t.b 0x90) && s.profile.srSrc == 0 && !(s.seeded t))

/-- A REDUCE ends with RANGE (R172, R245, R268). -/
def State.reduceRangeBad (s : State) (t : Ticket) : Bool :=
  t.inT.rangeBad || t.outT.rangeBad || outCodeBad (t.b 0x90) ||
  decide (s.settings.groupSize.toNat * t.inT.size 2 * t.f 0x94 4 > pow2 22)

/-- A FUNC ends with FORMAT. -/
def State.funcFormatBad (s : State) (t : Ticket) : Bool :=
  let i := t.inT
  let o := t.outT
  let b := t.blocks
  let fid := t.b 0x90
  i.formatBad false || o.formatBad true || i.fmt == .u32 || i.fmt == .lw128 || !(floatFmt o.fmt) ||
  decide (i.count ≠ o.count) || decide (t.b 0x91 > 1) || !(zeroAt b 0x80 0x90) || !(zeroAt b 0x92 0x100) ||
  (if fid < 0x40 then !(builtinIds.contains fid) else (s.micro fid).isNone) ||
  (t.b 0x91 == 1 && s.profile.srSrc == 0 && !(s.seeded t))

/-- A FILL ends with FORMAT. -/
def State.fillFormatBad (s : State) (t : Ticket) : Bool :=
  let o := t.outT
  let b := t.blocks
  !(zeroAt b 0 0x40) || o.formatBad true || !(floatFmt o.fmt) || !(zeroAt b 0x80 0x90) || !(zeroAt b 0x91 0x94) ||
  !(zeroAt b 0x9C 0x100) || (s.profile.fillSrc == 0 && !(s.seeded t))

/-- A FILL ends with RANGE (R172, R280). -/
def Ticket.fillRangeBad (t : Ticket) : Bool :=
  let p1 := t.fl 0x94
  let p2 := t.fl 0x98
  t.outT.rangeBad || decide (t.b 0x90 > 1) || !(finite32 p1) || !(finite32 p2) ||
  (t.b 0x90 == 0 && (flt p2 p1 || !(finite32 (fsub p2 p1).v))) || (t.b 0x90 == 1 && flt p2 0)

/-- A DIGEST ends with FORMAT. -/
def Ticket.digestFormatBad (t : Ticket) : Bool :=
  t.inT.formatBad false || !(zeroAt t.blocks 0x40 0x80) || decide (t.f 0x80 8 % 8 ≠ 0) || !(zeroAt t.blocks 0x88 0x100)

/-! ### Weights and streams in store (R38, R39, R41, R135, R137) -/

/-- A LOADW ends with FORMAT (R125, R135, R349). -/
def State.loadwFormatBad (s : State) (t : Ticket) : Bool :=
  Desc.formatBad s.profile.accumulation.toNat (t.blocks.take 64) || !(zeroAt t.blocks 0x40 0x100) ||
  (decide (t.areaByte < 64) && (s.region t.areaByte).work && (s.region t.areaByte).owner != 0xFF)

/-- The region of the opcode area is not the partition's (R135, 12). -/
def State.areaRegionBad (s : State) (t : Ticket) : Bool :=
  decide (t.areaByte ≥ 64) || (s.region t.areaByte).owner.toNat != t.part

/-- A LOADW ends with RANGE (R126, R135). -/
def State.loadwRangeBad (s : State) (t : Ticket) : Bool :=
  Desc.rangeBad (t.blocks.take 64) || s.areaRegionBad t || decide (t.desc.footprint > (s.region t.areaByte).bytes)

/-- The stream image that a RESTORE reads. -/
def State.imageOf (s : State) (t : Ticket) : Bytes := s.host t.areaWord 65536

/-- A stream image fails a check of R39, for a partition. -/
def State.imageBad (s : State) (p : Nat) (im : Bytes) : Bool :=
  let np := field im 0x18 2
  let nb := field im 0x1A 2
  let nm := field im 0x1C 2
  let epoch := match (s.part p).seed with | some sd => sd.epoch.toNat | none => 0
  field im 0 4 != 0x33464C46 || field im 4 2 != 1 || crc32c (im.take 0xFFFC) != field im 0xFFFC 4 ||
  decide (byteAt im 6 > 7) || !(zeroAt im 0x0B 0x0C) || !(zeroAt im 0x16 0x18) || !(zeroAt im 0x1E 0x40) ||
  !(zeroAt im 0x70 0x80) || paramsFormatBad (slice im 0x80 128) || !(zeroAt im 0xE100 0xFFFC) ||
  decide (np > 8192) || decide (nb > 1024) || decide (nm > 16) ||
  !(allZero ((slice im 0x100 0x2000).drop (8 * nb))) || !(allZero ((slice im 0x2100 0xA000).drop (5 * np))) ||
  !(allZero ((slice im 0xC100 0x2000).drop (512 * nm))) ||
  penaltyIdsBad (penaltiesOf (slice im 0x2100 0xA000) np) || biasBad (biasRaw (slice im 0x100 0x2000) nb) ||
  (upto nm).any (fun i =>
    let b := slice im (0xC100 + 512 * i) 512
    decide (byteAt b 0 > 3) || !(zeroAt b 0x0E 0x20) || decide (field b 2 2 > 120) ||
    (upto 120).any (fun k => decide (field b (0x20 + 4 * k) 4 ≥ pow2 21))) ||
  byteAt im 7 != p || field im 0x0C 4 != epoch || slice im 0x40 48 != s.profileDigest

/-! ### The verdict (R338) -/

/-- The cross-check partner is not at the check port (R315). -/
def State.partnerBad (s : State) (t : Ticket) : Bool :=
  t.crossCheck && ((s.port t.checkPort).state != .up || (s.port t.checkPort).neighbour.toNat != t.partner)

/-- The command ends with FORMAT before launch. -/
def State.formatBad (s : State) (t : Ticket) : Bool :=
  t.commandBad || s.partnerBad t ||
  match t.op with
  | .loss => s.trainFormatBad t
  | .grad => s.trainFormatBad t
  | .reduce => s.reduceFormatBad t
  | .func => s.funcFormatBad t
  | .fill => s.fillFormatBad t
  | .digest => t.digestFormatBad
  | .loadw => s.loadwFormatBad t
  | .save => !(s.ctx t.areaByte).holds
  | .restore => s.imageBad t.part (s.imageOf t)
  | o => o.selects && s.selectFormatBad t

/-- The command ends with RANGE before launch. -/
def State.rangeBad (s : State) (t : Ticket) : Bool :=
  match t.op with
  | .loss => s.trainRangeBad t
  | .grad => s.trainRangeBad t
  | .reduce => s.reduceRangeBad t
  | .func => t.inT.rangeBad || t.outT.rangeBad
  | .fill => t.fillRangeBad
  | .digest => t.inT.rangeBad
  | .loadw => s.loadwRangeBad t
  | .evictw => s.areaRegionBad t
  | .save => s.ctxsBad t
  | .restore => s.ctxsBad t
  | o => o.selects && s.selectRangeBad t

/-- No figure of the directory runs the command (R334). -/
def State.scheduleBad (s : State) (t : Ticket) : Bool :=
  !(t.op.noFigure && t.figureField == 0) && (s.figureFor t).isNone

/-- The status with which a ticket ends before launch, the first that applies (R338). -/
def State.preLaunch (s : State) (t : Ticket) : Option Status :=
  if t.readError then some .unrecovered
  else if s.formatBad t then some .format
  else if s.rangeBad t then some .range
  else if s.scheduleBad t then some .scheduleFault
  else none

end Sys2Proof.Machine
end

