-- ==== Sys2Proof/Machine/Fetch.lean ====
section
/-! DEFINITION. What the block reads for a ticket before its launch (R141, R153, R330), the incoming banks (06), and the
hidden rows on the activation port (R170, R475, R461, R462). -/
namespace Sys2Proof.Machine

/-! ### Ranges to read -/

/-- One range, where it has bytes. -/
def rangeOf (base len : Nat) : List (Nat × Nat) := if len = 0 then [] else [(base, len)]

/-- A range whose base of zero names an absent input (R346). -/
def rangeAt (base len : Nat) : List (Nat × Nat) := if base = 0 then [] else rangeOf base len

/-- The operand blocks of a command (R331). A command whose opcode, block count or operand base ends it anyway has none
read. -/
def Ticket.blockRanges (t : Ticket) : List (Nat × Nat) :=
  if (Op.ofCode (byteAt t.cmd 0)).isNone || decide (t.operandBase % 256 ≠ 0) then []
  else rangeOf t.operandBase (256 * t.blockCount)

/-- The weight descriptor of a block gives neither FORMAT nor RANGE. -/
def State.descGood (s : State) (t : Ticket) : Bool :=
  !(Desc.formatBad s.profile.accumulation.toNat (t.blocks.take 64)) && !(Desc.rangeBad (t.blocks.take 64))

/-- The gain and bias vectors that the normaliser kind uses (R168). -/
def Ticket.vectorRanges (t : Ticket) : List (Nat × Nat) :=
  let h := 4 * t.desc.h
  if t.b 0x41 = 1 then rangeAt (t.f 0x48 8) h ++ rangeAt (t.f 0x50 8) h
  else if t.b 0x41 = 2 then rangeAt (t.f 0x48 8) h
  else []

/-- The mask slices of some rows (06). -/
def Ticket.maskRanges (t : Ticket) (rows : Nat) : List (Nat × Nat) := rangeAt (t.f 0x58 8) (rows * (t.desc.columns / 8))

/-- The vocabulary map of a shard that is not resident, for the check of R162. -/
def State.mapRanges (s : State) (t : Ticket) : List (Nat × Nat) :=
  if t.desc.hasMap && !(s.resident t) then rangeOf t.desc.map (4 * t.desc.columns) else []

/-- The positions of a command whose update-record flag is set (R341). -/
def Ticket.updatePositions (t : Ticket) : List Nat :=
  if t.op == .settle then [] else (upto (min 256 t.streams)).filter (fun p => (t.stream p).updates)

/-- The lists of a ticket whose operand blocks are read (R153). -/
def State.listRanges (s : State) (t : Ticket) : List (Nat × Nat) :=
  let o := t.op
  if decide (t.blockCount ≠ o.blocks t.streams) then []
  else if o.selects then
    (if s.descGood t then t.maskRanges (min 256 t.streams) ++ s.mapRanges t ++ (if o == .settle then [] else t.vectorRanges)
     else []) ++
    t.updatePositions.map (fun p => (t.f 0x60 8 + 32 * p, 32)) ++
    (if o == .score then (upto (min 256 t.streams)).flatMap (fun p => rangeOf (t.f 0xA8 8 + 256 * p) (4 * min 64 (t.b 0xA0)))
     else [])
  else if o == .loss || o == .grad then
    let n := min t.tokens (if o == .grad then 65536 else 64)
    (if s.descGood t then t.maskRanges n ++ t.vectorRanges else []) ++ rangeOf (t.f 0x60 8) (4 * n) ++
    (if t.distils then rangeOf (t.f 0x68 8) (512 * n) else []) ++ (if o == .grad then rangeOf (t.f 0x70 8) (32 * n) else [])
  else
    match o with
    | .restore => if t.areaWord % 64 = 0 then rangeOf t.areaWord 65536 else []
    | .dict => if byteAt t.cmd 0x33 = 1 then rangeOf t.areaWord (min 64 (field t.cmd 0x34 2)) else []
    | _ => []

/-- The records and lists that one update record names (R344). -/
def updateRanges (u : Bytes) : List (Nat × Nat) :=
  if updateFormatBad u || updateRangeBad u then []
  else
    (if urReplace u 0 then rangeOf (urParamAddr u) 128 else []) ++
    (if urReplace u 1 then rangeOf (urPenaltyAddr u) (5 * urPenalties u) else []) ++
    (if urReplace u 2 then rangeOf (urBiasAddr u) (8 * urBiases u) else [])

/-- The records that the update records of a ticket name. -/
def State.recordRanges (s : State) (t : Ticket) : List (Nat × Nat) :=
  if t.op.selects then t.updatePositions.flatMap (fun p => updateRanges (s.updateRec t p)) else []

/-! ### Banks -/

/-- The stream contexts whose incoming banks a ticket's lists use (06): those of its stream table. -/
def Ticket.bankCtxs (t : Ticket) : List Nat :=
  if t.op.selects && t.blockCount == t.op.blocks t.streams then (t.entries.map StreamEnt.ctx).eraseDups else []

/-- The incoming banks of a ticket are free, or already its own. -/
def State.banksFree (s : State) (t : Ticket) : Bool :=
  t.bankCtxs.all (fun c => (s.ctx c).bank.isNone || (s.ctx c).bank == some t.seq)

/-- Take the incoming banks for a ticket. -/
def State.takeBanks (s : State) (t : Ticket) : State :=
  t.bankCtxs.foldl (fun s c => s.modCtx c (fun x => { x with bank := some t.seq })) s

/-- Free the incoming banks that a ticket took: at its launch, or at its end before launch. -/
def State.freeBanks (s : State) (q : Nat) : State :=
  { s with ctxs := s.ctxs.map (fun (c : Ctx) => if c.bank = some q then { c with bank := none } else c) }

/-! ### Advancing a ticket's reads -/

/-- Enter a level of a ticket's reads and issue them. -/
def State.enterFetch (s : State) (t : Ticket) (lvl : Fetch) (ranges : List (Nat × Nat)) : State :=
  let s1 := s.modTicket t.seq (fun t => { t with fetch := lvl })
  ranges.foldl (fun (s : State) r => s.readRange (.ticket t.seq) r) s1

/-- The ring head: the first slot whose command the block has not read, or the tail (R330). -/
def State.moveHead (s : State) (p q : Nat) : State :=
  let waiting := s.tickets.find? (fun t => t.part == p && t.queue == q && t.fetch == .command)
  s.modPart p (fun part => { part with
    rings := vmod part.rings q (fun r => { r with head := match waiting with | some t => BitVec.ofNat 16 t.slot | none => r.tail }) })

/-- The address of a ticket's slot in its ring (R323). -/
def State.slotAddr (s : State) (t : Ticket) : Nat := (vget (s.part t.part).rings t.queue).base.toNat + 64 * t.slot

/-- The lists of every earlier ticket are requested, so that those of a ticket follow in ticket order (R153). -/
def State.listsTurn (s : State) (t : Ticket) : Bool :=
  s.tickets.all (fun x => decide (t.seq ≤ x.seq) || !(x.fetch == .command || x.fetch == .blocks))

/-- Take one step of a ticket's reads, once those in flight are answered. A read that failed ends the reading (R461). -/
def State.fetchStep (s : State) (t : Ticket) : State :=
  if !(s.readsFor t.seq).isEmpty || t.fetch == .done then s
  else if t.readError then (s.modTicket t.seq (fun t => { t with fetch := .done })).moveHead t.part t.queue
  else
    match t.fetch with
    | .command =>
      let cmd := s.host (s.slotAddr t) 64
      let t1 := { t with cmd := cmd }
      ((s.modTicket t.seq (fun t => { t with cmd := cmd })).enterFetch t1 .blocks t1.blockRanges).moveHead t.part t.queue
    | .blocks =>
      let n := match t.blockRanges with | [] => 0 | _ => 256 * t.blockCount
      let bs := s.host t.operandBase n
      let t1 := { t with blocks := bs }
      let s1 := s.modTicket t.seq (fun t => { t with blocks := bs })
      if s1.banksFree t1 && s1.listsTurn t then (s1.takeBanks t1).enterFetch t1 .lists (s1.listRanges t1) else s1
    | .lists => s.enterFetch t .records (s.recordRanges t)
    | .records => s.enterFetch t .done []
    | .done => s

/-- Take every step of a ticket's reads that nothing holds back: at most one for each level. -/
def State.fetchTicket : Nat → Nat → State → State
  | 0, _, s => s
  | n + 1, q, s => match s.ticket q with
    | some t => if t.run.isSome || t.fetch == .done then s else State.fetchTicket n q (s.fetchStep t)
    | none => s

/-- Advance the reads of every ticket, in ticket order (R153). -/
def State.pumpFetch (s : State) : State := (s.tickets.map Ticket.seq).foldl (fun s q => State.fetchTicket 5 q s) s

/-! ### Hidden rows (R170, R461, R462, R475) -/

/-- The ticket has received every hidden row that it takes. -/
def State.rowsFull (s : State) (t : Ticket) : Bool := !t.op.takesRows || decide (t.rows.length ≥ s.rowCount t)

/-- Bytes of the activation buffer (R170). -/
def actBufferBytes : Nat := 4194304

/-- The rows that the activation buffer takes for a ticket before its launch: one row pass (R170, R475). -/
def Ticket.passRows (t : Ticket) : Nat := max 1 (4194304 / max 1 t.rowBytes)

/-- The operand block of a ticket is read, so the block knows the rows it takes. -/
def Ticket.blocksRead (t : Ticket) : Bool := t.fetch != .command && t.fetch != .blocks

/-- The ticket whose row stands first on the activation port: the earliest that takes rows and has not received all of
them, once every earlier command is known (R475). A ticket that ended takes no more rows (log 29). -/
def State.rowTicket (s : State) : Option Ticket :=
  match s.tickets.find? (fun t => t.ended.isNone && (!t.blocksRead || !(s.rowsFull t))) with
  | some t => if t.blocksRead then some t else none
  | none => none

/-- A beam row's number of rows is known once the earlier commands on its stream have completed (R235). -/
def State.rowsKnown (s : State) (t : Ticket) : Bool :=
  t.run.isSome || t.op != .beam ||
  s.tickets.all (fun x => !(decide (x.seq < t.seq)) || x.part != t.part || x.namedCtxs.all (fun c => !(t.namedCtxs.contains c)))

/-- Rows of a launched ticket whose passes have ended, so that they have left the buffer (R170). -/
def State.rowsGone (s : State) (t : Ticket) : Nat :=
  match t.run with
  | none => 0
  | some r =>
    if r.phase != .launched || t.ended.isSome then t.rows.length
    else
      let ends := s.passStarts r (min t.passRows (s.rowCount t)) (s.rowCount t)
      min t.rows.length (sumNat ((ends.filter (fun e => decide (r.launchTick + r.moved + e.2.1 ≤ s.tick))).map (fun e => e.2.2)))

/-- Bytes of the activation buffer that the rows of every ticket take (R170, R475). -/
def State.rowsHeld (s : State) : Nat := sumNat (s.tickets.map (fun t => (t.rows.length - s.rowsGone t) * t.rowBytes))

/-- The buffer has room for the next row of a ticket: before launch its first row pass alone, and never more than the 4 MiB
that all tickets share (R170, R475). -/
def State.rowRoom (s : State) (t : Ticket) : Bool :=
  (t.run.isSome || decide (t.rows.length < t.passRows)) && decide (s.rowsHeld + t.rowBytes ≤ actBufferBytes)

/-- Deliver the row at the front of the activation port to its ticket, where the buffer takes it. -/
def State.takeRow (s : State) (row : Bytes × Bool) : Option State :=
  match s.rowTicket with
  | none => none
  | some t =>
    if !(s.rowsKnown t) || !(s.rowRoom t) then none
    else
      let badLen := decide (row.1.length ≠ t.rowBytes)
      let bad := !row.2 || badLen
      let a : ActRow := ⟨row.1, !row.2, badLen, if bad then ⟨false, 0, 0, 0⟩ else arrivalStats t.rowFmt row.1⟩
      let s1 := s.modTicket t.seq (fun t => { t with rows := t.rows ++ [a] })
      if !row.2 then some (if t.run.isSome then s1.endLaunch t.seq .unrecovered else s1)
      else if badLen then some (if t.run.isSome then s1.endLaunch t.seq .format else s1)
      else some s1

/-- Deliver the rows on the activation port while tickets take them, and give their credits back; the fuel is their number. -/
def State.pumpRows : Nat → State → State
  | 0, s => s
  | n + 1, s => match s.actIn with
    | [] => s
    | r :: l => match s.takeRow r with
      | some s1 => State.pumpRows n (({ s1 with actIn := l }).returnCredit .actIn)
      | none => s

/-- Advance reads and rows as far as they go. -/
def State.pumpIn (s : State) : State := let s1 := s.pumpFetch; State.pumpRows s1.actIn.length s1

end Sys2Proof.Machine
end

