-- ==== Sys2Proof/Machine/Launch.lean ====
section
/-! DEFINITION. When a ticket is eligible (R335, R15, R16, R353 to R356, R476), the order of launches (R336), the checks and
the effects of a launch (R338, R342 to R344, R229 to R231, R295, R322). -/
namespace Sys2Proof.Machine

/-! ### Order among tickets -/

/-- The ticket's command is read, or could not be. -/
def Ticket.cmdKnown (t : Ticket) : Bool := t.fetch != .command

/-- Tickets ahead of one in ticket order. -/
def State.earlier (s : State) (t : Ticket) : List Ticket := s.tickets.filter (fun x => decide (x.seq < t.seq))

/-- A FENCE's scope covers a ticket (R353, R350). -/
def Ticket.fences (x t : Ticket) : Bool :=
  x.op == .fence && x.part == t.part && (byteAt x.cmd 0x30 == 1 || x.queue == t.queue)

/-- R335 for the tickets of the same queue: each has launched, and WAITCOUNT, FENCE and DICT have completed. -/
def queueReady (x t : Ticket) : Bool :=
  x.part != t.part || x.queue != t.queue ||
  (x.run.isSome && !(x.op == .waitcount || x.op == .fence || x.op == .dict))

/-- The work areas whose kept rows a SETTLE may read in its avalanche pass (R227, R230). -/
def State.keptRegions (s : State) (t : Ticket) : List Nat :=
  if t.op == .settle then (upto 64).filter (fun r => match (s.region r).kept with
    | some k => k.ctxs.any (fun c => t.namedCtxs.contains c)
    | none => false)
  else []

/-- The regions that a ticket reads or writes (R16). -/
def State.regionsUsed (s : State) (t : Ticket) : List Nat := t.regionsNamed ++ s.keptRegions t

/-- An earlier ticket of the partition names no context of a ticket (R15), and uses no region that a LOADW or EVICTW orders
(R16). What an unread command names is not known yet. -/
def State.namesReady (s : State) (x t : Ticket) : Bool :=
  x.part != t.part || (t.namedCtxs.isEmpty && (s.regionsUsed t).isEmpty) ||
  (x.blocksRead && x.namedCtxs.all (fun c => !(t.namedCtxs.contains c)) &&
    (!(x.op == .loadw || x.op == .evictw || t.op == .loadw || t.op == .evictw) ||
      (s.regionsUsed x).all (fun r => !((s.regionsUsed t).contains r))))

/-- The rules of R353, R355 and R356 for an earlier ticket. -/
def scopeReady (x t : Ticket) : Bool :=
  (x.part != t.part || x.cmdKnown) && !(x.fences t) && !(t.fences x) &&
  !((t.op == .halt || t.op == .dict) && x.part == t.part)

/-- The peer-exchange rule of R335. -/
def peerReady (x t : Ticket) : Bool := !t.op.peer || (x.cmdKnown && (!x.op.peer || x.run.isSome))

/-- No launched DICT or HALT holds the partition's other tickets (R355, R356). -/
def holdsOthers (x t : Ticket) : Bool :=
  x.seq != t.seq && x.part == t.part && x.run.isSome && (x.op == .dict || x.op == .halt)

/-- A ticket may launch at this count apart from its inputs and the slots of running figures (R335). -/
def State.orderReady (s : State) (t : Ticket) : Bool :=
  t.run.isNone && t.ended.isNone && t.blocksRead && decide (t.launchField ≤ s.count.toNat) &&
  (s.earlier t).all (fun x => queueReady x t && s.namesReady x t && scopeReady x t && peerReady x t) &&
  s.tickets.all (fun x => !(holdsOthers x t)) && s.slices.all (fun c => c.tableGood)

/-- The inputs that a launch releases are in place (R21, R153; log 25). -/
def Ticket.inputsRead (t : Ticket) : Bool := t.fetch == .done

/-- The tick that a running figure imposes on another (R476). -/
def State.imposed (s : State) (x : Ticket) (f : Figure) : Nat :=
  match x.run with
  | none => 0
  | some r =>
    match r.figure.bind (fun i => s.figures.find? (fun g => g.id == i)) with
    | none => 0
    | some g =>
      let late := match r.suspendedAt with | some k => s.tick - k | none => 0
      r.launchTick + Config.followOffset g.image f.image s.activeTiles.length + r.moved + late

/-- The figure's first slots are free (R335, R476). -/
def State.slotsFree (s : State) (t : Ticket) : Bool :=
  match s.figureFor t with
  | none => true
  | some f => s.tickets.all (fun x => !x.running || decide (s.imposed x f ≤ s.tick))

/-! ### The effects of a launch -/

/-- The stream context at a position as the launch leaves it (R342 to R344). A new stream notes the accumulation mode in force, which
its image gives as flag 2 (R38; DESIGN CHOICE, log 77). -/
def State.launchStream (s : State) (t : Ticket) (p : Nat) : State :=
  let e := t.stream p
  let ctl := s.controls t p
  s.modCtx e.ctx (fun c =>
    let base := if e.isNew then
        { Ctx.emptyFor c.owner with holds := true, id := BitVec.ofNat 24 e.id, compat := s.profile.accumulation == 1 }
      else c
    { base with params := ctl.params, penalties := ctl.pens, biases := ctl.biases, nextStep := BitVec.ofNat 48 t.stepValue })

/-- Empty the row summaries of some contexts. -/
def State.emptySummaries (s : State) (cs : List Nat) : State :=
  cs.foldl (fun (s : State) c => s.modCtx c (fun x => { x with summary := RowSum.empty })) s

/-- Kept rows that a launch releases (R231). -/
def State.launchKept (s : State) (t : Ticket) : State :=
  let byCtx := match t.op with | .settle => [] | _ => t.namedCtxs
  let s1 := byCtx.foldl (fun (s : State) c => s.releaseKeptOf c) s
  match t.op with
  | .score => s1.releaseKept (t.b 0x9A)
  | .grad => s1.releaseKept (t.b 0x9D)
  | .evictw => s1.releaseKept t.areaByte
  | _ => s1

/-- What a launch does to the contexts and the region that a command names (R135, R136, R229 to R231, R342 to R344). -/
def State.launchCtxs (s : State) (t : Ticket) : State :=
  let s1 := s.launchKept t
  let s2 := if t.op.selects then (upto t.streams).foldl (fun (s : State) p => s.launchStream t p) s1 else s1
  let s3 := match t.op with
    | .settle => s2
    | _ => s2.emptySummaries t.namedCtxs
  let s4 := if t.op == .loadw then s3.modRegion t.areaByte (fun g => { g with state := .loading, descriptor := [] }) else s3
  s4.freeBanks t.seq

/-- The figure uses Serac or the Rime lanes (R376). -/
def Op.array (o : Op) : Bool :=
  match o with
  | .step => true | .score => true | .verify => true | .beam => true | .loss => true | .grad => true | .func => true
  | .fill => true | .digest => true | _ => false

/-- Results of a command before it has produced any. -/
def Result.start : Result :=
  { status := .ok, flags := 0, value := 0, digests := [], rows := 0, notOk := 0, avalanche := false, checkEqual := false,
    extra := 0 }

/-- The running figure of a launch (R357, R367). -/
def Running.start (fig : Option Figure) (tiles : Nat) (array streamed : Bool) (count : U64) (tick held : Nat) : Running :=
  { figure := fig.map Figure.id, urgent := (fig.map Figure.urgent).getD false, array := array, streamed := streamed,
    launchCount := count,
    launchTick := tick, length := (fig.map (fun f => f.declared tiles - f.allowance)).getD 0, moved := 0, retries := 0,
    held := held, holding := false, suspendedAt := none, phase := .launched, exch := none, rows := [], tops := [],
    setsOk := [], setsBad := [], refetches := [], lateSet := none, nd := 0, flurryErrors := [], pass := .idle, passAt := 0,
    posts := [], checkWaited := 0, result := Result.start }

/-- The bytes that a tensor can reach, for the reads of its command (R173; log 24). -/
def Tens.ranges (d : Tens) : List (Nat × Nat) :=
  if d.count = 0 then []
  else
    let e := d.extent
    rangeOf e.1.toNat (e.2 - e.1 + 1).toNat ++ (if d.gather then rangeOf d.ibase (4 * d.size d.gdim) else [])

/-- Read every set of an image, set n over channel n mod 4 (R140, R142). -/
def State.readSets (s : State) (q : Nat) (d : Desc) : State :=
  (upto d.sets).foldl (fun (s : State) n => s.readPieces n (.set q n) (d.setRanges n ++ [(d.crc + 4 * n, 4)])) s

/-- The reads that a launched figure issues for itself: tensors, window tops, and the sets of a shard that is not
resident (R140, R173, R267). -/
def State.launchReads (s : State) (t : Ticket) : State :=
  let rs := match t.op with
    | .reduce => t.inT.ranges ++ rangeOf (t.f 0x80 8) (2 * t.inT.size 1 * t.inT.size 2)
    | .func => t.inT.ranges
    | .digest => t.inT.ranges
    | _ => []
  let s1 := rs.foldl (fun (s : State) r => s.readRange (.ticket t.seq) r) s
  if t.op == .loadw || (t.op.takesRows && !(s.resident t)) then s1.readSets t.seq t.desc else s1

/-- An ABORT that names the launch waits in the table (R322). -/
def State.abortWaits (s : State) (t : Ticket) : Bool :=
  s.abortTable.any (fun e => e.part == t.part && e.opcode == t.op.code && e.groupSeq == t.groupSeq)

/-- A group command launches while a tree port is not up (R295). -/
def State.treeBroken (s : State) (t : Ticket) : Bool :=
  t.op.peer && s.settings.depth != 0 && s.treePorts.any (fun p => (s.port p).state != .up)

/-- A row of the ticket came with a parity error, or with a wrong length (R461, R462). -/
def Ticket.badRow (t : Ticket) : Option Status :=
  if t.rows.any (fun r => r.badParity) then some .unrecovered
  else if t.rows.any (fun r => r.badLength) then some .format
  else none

/-- Remember a group command that has launched or ended, so that a later ABORT that names it is not kept (R322). -/
def State.noteGroup (s : State) (t : Ticket) : State :=
  if t.op.peer && s.settings.depth != 0 then { s with groupDone := s.groupDone ++ [AbortEnt.mk t.part t.op.code t.groupSeq 0] } else s

/-- End a launch without sending ABORT of the member's own (R322; log 28). -/
def State.endQuietly (s : State) (q : Nat) (status : Status) : State :=
  ((s.openWritten q status.noResult).loadFails q).modTicket q (fun t => { t with
    ended := some (status, 0, match t.run with | some r => s.tick - r.launchTick | none => 0)
    run := t.run.map (fun r => { r with phase := .finished, exch := none, holding := false }) })

/-- Launch a ticket: its contexts, its figure and its reads; a launch that cannot go on ends at once (R295, R322, R461). -/
def State.launch (s : State) (t : Ticket) : State :=
  let fig := s.figureFor t
  let run := Running.start fig s.activeTiles.length t.op.array (t.op.scores && !(s.resident t)) s.count s.tick t.held
  let s1 := ((s.launchCtxs t).noteGroup t).modTicket t.seq (fun t => { t with run := some run })
  if s.abortWaits t then
    ({ s1 with abortTable := s1.abortTable.filter (fun e =>
      !(e.part == t.part && e.opcode == t.op.code && e.groupSeq == t.groupSeq)) }).endQuietly t.seq .unrecovered
  else if s.treeBroken t then s1.endLaunch t.seq .unrecovered
  else match t.badRow with
    | some st => s1.endLaunch t.seq st
    | none => s1.launchReads t

/-- A ticket ends before launch: its lists are discarded, and a group command sends ABORT (R321, R338). -/
def State.endBefore (s : State) (t : Ticket) (status : Status) : State :=
  let s1 := if t.op.peer && s.settings.depth != 0 then (s.sendAbort t status).noteGroup t else s
  (s1.freeBanks t.seq).finish t status 1 0

/-! ### Launching (R336) -/

/-- Launch order: ascending queue class, then ticket order (R336). -/
def launchLt (a b : Ticket) : Bool := decide (a.queue < b.queue) || (a.queue == b.queue && decide (a.seq < b.seq))

/-- The tickets that are eligible at this count, in launch order (R335, R336). -/
def State.eligible (s : State) : List Ticket := (sortBy launchLt s.tickets).filter (fun t => s.orderReady t && s.slotsFree t)

/-- What happens to the first eligible ticket whose lists are in place: it ends before launch or launches (R338). One whose
lists are late holds the later tickets of its class (R336, R153). -/
def State.launchOne (s : State) : Option State :=
  let el := s.eligible
  (el.find? (fun t => t.inputsRead && !(el.any (fun x => x.queue == t.queue && decide (x.seq < t.seq) && !x.inputsRead)))).map (fun t =>
    match s.preLaunch t with
    | some st => s.endBefore t st
    | none => s.launch t)

/-- Launch every ticket that may launch at this count; the fuel is the number of tickets. -/
def State.launchAll : Nat → State → State
  | 0, s => s
  | n + 1, s => match s.launchOne with
    | some s1 => State.launchAll n s1.pumpIn
    | none => s

/-- A ticket that could launch but for its lists holds one count under R21 (log 25). -/
def State.listHolds (s : State) : State :=
  let late := s.eligible.filter (fun t => !t.inputsRead)
  late.foldl (fun (s : State) t => (s.modTicket t.seq (fun t => { t with held := t.held + 1 })).bump .inputHolds 1) s

end Sys2Proof.Machine
end

