-- ==== Sys2Proof/Machine/Time.lean ====
section
/-! DEFINITION. The Pavane count (R357 to R360), the holds and waits that a count may bring (R21, R56, R302, R317, R318),
launches at a count, and preemption at frame boundaries (R376 to R379). -/
namespace Sys2Proof.Machine

/-! ### Release ticks of peer frames (R305, R307, R317) -/

/-- Children's frames are still expected for the segment being merged (R305). -/
def Exch.merging (e : Exch) : Bool := decide (e.segment < e.segments)

/-- The parent's frame is expected: a segment has gone up that has not come down (R305). -/
def Exch.descending (e : Exch) : Bool := decide (e.down < e.segment)

/-- The figure offset at which a segment begins (R307, R370). -/
def Exch.startOf (e : Exch) (seg : Nat) : Nat := e.starts.getD seg e.t0

/-- The figure offset of the earliest frame that an exchange waits for (R305, R307): from the children, or from the
parent. -/
def State.releaseOffset (s : State) (e : Exch) : Nat :=
  let big := s.settings.depth.toNat
  let d := s.memberDepth.toNat
  let up := e.startOf e.segment + (big - d) * e.slot - 64
  let dn := e.startOf e.down + (big + d) * e.slot - 64
  if e.merging && !e.need.isEmpty then (if e.descending then min up dn else up) else dn

/-- The ports whose frames an exchange waits for: its children for the segment being merged, and its parent for the segments
that have gone up (R305). -/
def State.awaited (s : State) (e : Exch) : List (Fin 4) :=
  (if e.merging then e.need else []) ++ (if e.descending then s.parentPort.toList else [])

/-- The release tick of the frame that an exchange waits for, after every delay of its figure. -/
def State.releaseTick (s : State) (r : Running) (e : Exch) : Nat := r.launchTick + r.moved + s.releaseOffset e

/-- A figure waits for a peer frame past its release tick (R317). -/
def State.peerLate (s : State) (r : Running) : Bool :=
  match r.exch with
  | some e => !(s.awaited e).isEmpty && decide (s.releaseTick r e ≤ s.tick)
  | none => false

/-- The release tick of the CHECK frame: 64 ticks before the end of the cross-check term (R56, R369; log 15). -/
def Running.checkRelease (r : Running) : Nat := r.launchTick + r.moved + (r.length + r.result.extra - 192)

/-- A frame of the ticket's exchange waits for a credit (R302). -/
def State.creditLate (s : State) (t : Ticket) : Bool :=
  ([0, 1, 2, 3] : List (Fin 4)).any (fun p =>
    (s.port p).backlog.any (fun f => f.part == t.part && f.opcode == t.op.code && f.groupSeq == t.groupSeq))

/-! ### Inputs (R21, R154) -/

/-- The release tick of the CHECK frame apart from the waits for it, from which its deadline counts (R56). -/
def Running.checkDueFrom (r : Running) : Nat := r.checkRelease - r.checkWaited

/-- A read of a set of the ticket's image is in flight. -/
def State.setsReading (s : State) (q : Nat) : Bool :=
  s.reads.any (fun r => match r.who with | .set x _ => x == q | _ => false)

/-- The sets of a shard that a launched figure streams and that have not passed their checks (R144), or of an image that a
LOADW has not received. -/
def State.setsMissing (s : State) (t : Ticket) (r : Running) : Bool :=
  if t.op == .loadw then s.setsReading t.seq
  else (t.op.takesRows || r.pass != .idle) && r.streamed && (upto t.desc.sets).any (fun n => !(r.setsOk.contains n))

/-- Data from outside the block that the engines of a launched figure need and do not have. -/
def State.inputsMissing (s : State) (t : Ticket) (r : Running) : Bool :=
  !(s.rowsFull t) || !(s.readsFor t.seq).isEmpty || s.setsMissing t r

/-- The bytes of the set that was late at its load tick are still missing (R21, R143). -/
def State.setLate (s : State) (t : Ticket) (r : Running) : Bool :=
  match r.lateSet with | some n => s.reads.any (fun x => x.who == .set t.seq n) | none => false

/-- The data that an engine row found missing, so that the figure holds, are still missing: a tensor, or an image that a LOADW
fetches (R21, R143). -/
def State.datumLate (s : State) (t : Ticket) : Bool :=
  !(s.readsFor t.seq).isEmpty || (t.op == .loadw && s.setsReading t.seq)

/-- Rows of a row pass are missing at their release tick, the first tick of the pass's normalisation (R21, R170). -/
def State.rowsLate (s : State) (t : Ticket) (r : Running) : Bool :=
  r.phase == .launched && t.op.takesRows &&
  decide (t.rows.length < sumNat (((s.passStarts r t.passRows (s.rowCount t)).filter (fun e =>
    decide (r.launchTick + r.moved + e.1 ≤ s.tick))).map (fun e => e.2.2)))

/-- A reread's bytes are later than its retry (R146). -/
def State.rereadLate (s : State) : Bool := match s.retries with | x :: _ => x.late | [] => false

/-- The figure holds at this count for an input, for a late reread, or for a write that the fabric has not accepted (R21,
R146, R154). -/
def State.holdsNow (s : State) (t : Ticket) (r : Running) : Bool :=
  r.suspendedAt.isNone &&
  (s.rowsLate t r || s.rereadLate || s.setLate t r ||
    (r.holding && (if r.phase == .finished then !(s.writesFor t.seq).isEmpty else s.datumLate t)))

/-- A figure's slot would coincide with one of an urgent figure that runs, so that it holds for this count (R377; log 32). -/
def State.shifted (s : State) (r : Running) : Bool :=
  !r.urgent && s.tickets.any (fun t => t.ended.isNone && match t.run with
    | some u => u.urgent && match s.imageOfRun u, s.imageOfRun r with
      | some a, some b => Config.slotsCoincide a b s.activeTiles.length (s.tick - u.launchTick - u.moved)
          (s.tick - r.launchTick - r.moved)
      | _, _ => false
    | none => false)

/-- What one count adds to a launched figure: a hold under R21, a preemption shift, a wait for a peer, for a CHECK frame, or
for a credit. Each moves the figure by 8 ticks and is counted in 0x7012, a shift in 0x7018.03 (R377). -/
def State.countWaits (s : State) (q : Nat) : State :=
  match s.launched q with
  | none => s
  | some (t, r) =>
    let move (f : Running → Running) : State := s.modRun q (fun r => { f r with moved := r.moved + 8 })
    if s.holdsNow t r then (move (fun r => { r with held := r.held + 1 })).bump .inputHolds 1
    else if r.suspendedAt.isSome then s
    else if s.shifted r then (move id).bump .preemptionShifts 1
    else if s.peerLate r then
      match r.exch with
      | some e =>
        if e.stalled then
          (move (fun r => { r with
            held := r.held + 1
            exch := r.exch.map (fun e => { e with stallCount := e.stallCount + 1, waited := e.waited + 8 }) })).bump .stalls 1
        else (move (fun r => { r with exch := r.exch.map (fun e => { e with waited := e.waited + 8 }) })).bump .peerWaits 1
      | none => s
    else if s.creditLate t then (move id).bump .creditWaits 1
    else if r.phase == .checking && decide (r.checkRelease ≤ s.tick) then
      (move (fun r => { r with checkWaited := r.checkWaited + 8 })).bump .checkWaits 1
    else s

/-! ### The count (R357, R359) -/

/-- PAV_ minus the local count, as a signed difference. -/
def pavDiff (pav count : U64) : Int := signed 64 (pav - count).toNat

/-- Saturate the input difference at ±127 (0x2406.02). -/
def diffByte (d : Int) : BitVec 8 := BitVec.ofInt 8 (max (-127) (min 127 d))

/-- The Sleet generators run: 64 words a tick in every slice (R284). -/
def State.runSleet (s : State) : State :=
  if !s.sleetRunning then s
  else { s with slices := s.slices.map (fun (c : Slice) => { c with sleet := sleetAdvance 512 c.sleet }) }

/-- Single-bit errors that reads in the course of commands have met and corrected during a count, which no row of the table brings:
a free number for each counter (0x7050.04, 0x7051.01, 0x7053.03; log 65). -/
def State.inlineCorrected (s : State) : State :=
  [Counter.accumulatorCorrections, .firnCorrections, .tableCorrections].foldl (fun (s : State) c =>
    let f := s.fresh; f.2.bump c (f.1.toNat % 65536)) s

/-- The local count advances to a value (R357, R359). -/
def State.setCount (s : State) (n pav : U64) : State :=
  let d := pavDiff pav n
  ({ s with
    count := n,
    tick := s.tick + 8,
    inputDiff := diffByte d,
    slipPending := s.slipPending || decide (d < -2 ∨ 2 < d),
    freshCompletions := 0,
    freshHealth := false }).runSleet.inlineCorrected

/-- The local count takes the value of PAV_ (R359). -/
def State.takeSlip (s : State) (pav : U64) : State :=
  (({ s with
    count := pav,
    tick := s.tick + 8,
    inputDiff := 0,
    slipPending := false,
    freshCompletions := 0,
    freshHealth := false }).runSleet.inlineCorrected).bump .slips 1

/-- A pending slip is taken at a count at which PAV_ is a multiple of 512 (R359). -/
def State.slipDue (s : State) (pav : U64) : Bool := s.slipPending && pav.toNat % 512 == 0

/-! ### Preemption (R376 to R379) -/

/-- An eligible class-0 ticket whose figure carries the urgent bit, apart from the slots of running figures (R376). -/
def State.urgentTicket (s : State) : Option Ticket :=
  (sortBy launchLt s.tickets).find? (fun t =>
    t.queue == 0 && s.orderReady t && t.inputsRead && (s.preLaunch t).isNone && ((s.figureFor t).map Figure.urgent).getD false)

/-- A figure uses Serac or the Rime lanes: an array figure after its fetch term, or one that scores its shard again (R227, R369,
R376). -/
def State.usesArray (s : State) (r : Running) : Bool :=
  (r.phase == .launched && r.array && decide (r.launchTick + r.moved + 96 ≤ s.tick)) ||
  (r.phase == .exchanging && match r.pass with | .scoring (_ :: _) => true | _ => false)

/-- A figure that a preemption suspends: it uses Serac or the Rime lanes (R376). -/
def State.suspendable (s : State) (t : Ticket) (r : Running) : Bool := t.running && r.active && !r.urgent && s.usesArray r

/-- An urgent figure runs, so that a second one does not preempt it (R376). -/
def State.urgentRuns (s : State) : Bool :=
  s.tickets.any (fun t => t.running && match t.run with | some r => r.urgent && r.phase == .launched | none => false)

/-- Preemption begins: every figure that uses Serac or the lanes is suspended, and the urgent ticket launches; with no
ticket eligible, or an urgent figure running, nothing happens (R376). -/
def State.preempt (s : State) : State :=
  match s.urgentTicket with
  | none => s
  | some t =>
    if s.urgentRuns then s
    else
      let any := s.tickets.any (fun x => match x.run with | some r => s.suspendable x r | none => false)
      let s1 := s.mapRuns (fun x r => if s.suspendable x r then { r with suspendedAt := some s.tick } else r)
      (if any then s1.bump .preemptions 1 else s1).launch t

/-- Once no retry holds the member, a preemption that was due at a boundary begins (R379). -/
def State.preemptAfter (s : State) : State :=
  if s.preemptDue && s.retries.isEmpty then ({ s with preemptDue := false }).preempt else s

end Sys2Proof.Machine
end

