-- ==== Sys2Proof/Machine/Exch.lean ====
section
/-! DEFINITION. The exchanges of a running figure (R304 to R307, R314): starting one, merging a frame, sending up and down,
and the end of a figure's work with its CHECK frame (R54, R316). -/
namespace Sys2Proof.Machine

/-- Exchange field values (R298). -/
def exRound1 : Nat := 1
def exRound2 : Nat := 2
def exTops : Nat := 3
def exWords : Nat := 4
def exCheck : Nat := 5

/-- A frame of a ticket's exchange (R298). -/
def State.exchFrame (s : State) (t : Ticket) (kind flags exchange gather segment : Nat) (payload : Bytes) : Frame :=
  { s.frameBase kind with
    flags := flags, part := t.part, opcode := t.op.code, exchange := exchange, gather := gather, groupSeq := t.groupSeq,
    segment := segment, payload := payload }

/-- The form of a ticket's payloads (R309). -/
def State.payForm (s : State) (t : Ticket) : PayForm :=
  { rows := s.rowCount t, len := s.topLenNow t, loss := t.op == .loss, teachers := if t.distils then 64 else 0 }

/-- A payload as it is sent: a row reported invalid carries the identity in every other field (R308). -/
def Payload.clean : Payload → Payload
  | .rows l => .rows (l.map cleanRow)
  | p => p

/-- Long words of a segment (R307, R313). -/
def State.segmentWords (s : State) : Nat := s.settings.hopPayload.toNat / 16

/-- Begin an exchange with the member's own summary (R305, R307). -/
def State.startExch (s : State) (q kind gather t0 slot : Nat) (own : Payload) : State :=
  let kids := if s.settings.depth = 0 then [] else s.childPorts
  let e : Exch :=
    { kind := kind, gather := gather, segment := 0, segments := 1, down := 0, t0 := t0, slot := slot, acc := own,
      need := kids, missing := false, finished := [], rest := [], starts := [t0], sizes := [], waited := 0, stalled := false,
      stallCount := 0 }
  s.modRun q (fun r => { r with phase := .exchanging, exch := some e, holding := false })

/-- The segments of some long words that are ready at an offset (R307): where each begins, no sooner than a slot after the
segment before it, and its size. -/
def segmentsFrom (n slot : Nat) (acc : List (Nat × Nat)) (t0 words : Nat) : List (Nat × Nat) :=
  (batches n words).foldl (fun (l : List (Nat × Nat)) v =>
    l ++ [(match l.getLast? with | some e => max t0 (e.1 + slot) | none => t0, v)]) acc

/-- Begin a long-word exchange of parts that become ready one after another, each an offset and its long words: the segments of
a part follow at once (R307, R370). -/
def State.startWords (s : State) (q slot : Nat) (parts : List (Nat × Nat)) (own : List LWord) : State :=
  let segs := parts.foldl (fun (l : List (Nat × Nat)) p => segmentsFrom s.segmentWords slot l p.1 p.2) []
  let n := (segs.map Prod.snd).headD 0
  let t0 := (segs.map Prod.fst).headD 0
  let e : Exch :=
    { kind := exWords, gather := 0, segment := 0, segments := segs.length, down := 0, t0 := t0, slot := slot,
      acc := .words (own.take n), need := if s.settings.depth = 0 then [] else s.childPorts, missing := false, finished := [],
      rest := own.drop n, starts := segs.map Prod.fst, sizes := segs.map Prod.snd, waited := 0, stalled := false, stallCount := 0 }
  s.modRun q (fun r => { r with phase := .exchanging, exch := some e, holding := false })

/-- The flags of a frame (R298): down-tree, summary missing, last segment. -/
def exchFlags (down missing last : Bool) : Nat := bit down 0 + bit missing 2 + bit last 3

/-- The frame is the last of a long-word sum (R298). -/
def Exch.lastOf (e : Exch) (seg : Nat) : Bool := e.kind == exWords && seg + 1 == e.segments

/-- Send a merged result on to the children (R305). -/
def State.sendDown (s : State) (t : Ticket) (e : Exch) (seg : Nat) (missing : Bool) (p : Payload) : State :=
  let f := s.exchFrame t ftExchange (exchFlags true missing (e.lastOf seg)) e.kind e.gather
    (if e.kind = exWords then seg else 0) (payloadBytes (s.payForm t) p.clean)
  if s.settings.depth = 0 then s else s.childPorts.foldl (fun (s : State) p => s.sendCredited p f) s

/-- Take the own words of the next segment (R307). -/
def State.nextSegment (s : State) (e : Exch) : Exch :=
  let e1 := { e with segment := e.segment + 1, waited := 0, stalled := false, stallCount := 0 }
  let n := e.sizes.getD e1.segment 0
  if e1.merging then
    { e1 with acc := .words (e.rest.take n), rest := e.rest.drop n, need := if s.settings.depth = 0 then [] else s.childPorts }
  else e1

/-- Keep what has come down of an exchange. -/
def Exch.keep (e : Exch) (p : Payload) : Exch :=
  match p with
  | .words l => { e with finished := e.finished ++ l, down := e.down + 1, waited := 0, stalled := false, stallCount := 0 }
  | _ => { e with acc := p, down := e.down + 1, waited := 0, stalled := false, stallCount := 0 }

/-- Every child of a segment is merged: the root sends the result down; any other member sends its summary up (R305). -/
def State.closeSegment (s : State) (t : Ticket) (e : Exch) : State :=
  let put (s : State) (e : Exch) : State := s.modRun t.seq (fun r => { r with exch := some e })
  match s.parentPort with
  | some p =>
    if s.settings.depth = 0 then
      let e1 := (s.nextSegment e).keep e.acc
      put s e1
    else
      let f := s.exchFrame t ftExchange (exchFlags false e.missing (e.lastOf e.segment)) e.kind e.gather
        (if e.kind = exWords then e.segment else 0) (payloadBytes (s.payForm t) e.acc.clean)
      put (s.sendCredited p f) (s.nextSegment e)
  | none =>
    let s1 := s.sendDown t e e.segment e.missing e.acc
    put s1 ((s1.nextSegment e).keep e.acc)

/-- The exchange is complete, with its merged payload (R305). -/
def Exch.result (e : Exch) : Option Payload :=
  if e.segments ≤ e.down then
    some (match e.acc with | .words _ => .words e.finished | p => p)
  else none

/-! ### The end of a figure's work -/

/-- The figure's own completion offset: its declared length without the retry allowance, moved by every delay and lengthened
by what was decided at run time (R367, R370; log 15). -/
def Running.offset (r : Running) : Nat := r.length + r.moved + r.result.extra

/-- The command's work is done. With the cross-check flag its CHECK frame goes out and it waits for the partner's (R54,
R316); otherwise its records follow at COMMAND_COMPLETION. -/
def State.finishRun (s : State) (q : Nat) : State :=
  match s.launched q with
  | none => s
  | some (t, r) =>
    if t.crossCheck then
      let pay := checkPayload (s.floeRecord t r r.result.status r.offset) r.result.status
      let s1 := s.modRun q (fun r => { r with phase := .checking, exch := none, holding := false, checkWaited := 0 })
      s1.sendCredited t.checkPort (s1.exchFrame t ftCheck 0 exCheck 0 0 pay)
    else s.modRun q (fun r => { r with phase := .finished, exch := none, holding := false })

/-- A command's figure has done its work with a result. -/
def State.finishWith (s : State) (q : Nat) (f : Result → Result) : State :=
  (s.modRun q (fun r => { r with result := f r.result })).finishRun q

/-- An engine row acts on a ticket of its own opcode whose figure is launched, runs and has done nothing yet. A tensor or an image
that has not arrived holds the figure; hidden rows and streamed sets have release ticks of their own (R21, R143). -/
def State.engine (s : State) (q : Nat) (o : Op) (f : Ticket → Running → Out) : Out :=
  s.awake fun s =>
    match s.launched q with
    | some (t, r) =>
      if t.op != o then .fault .noSuchTicket
      else if r.phase != .launched || r.suspendedAt.isSome then .next s
      else if s.inputsMissing t r then .next (if s.datumLate t then s.modRun q (fun r => { r with holding := true }) else s)
      else f t r
    | none => .fault .noSuchTicket

end Sys2Proof.Machine
end

