-- ==== Sys2Proof/Machine/Score.lean ====
section
/-! DEFINITION. Scoring the rows of a command: the normaliser and the cast (R168, R169), the array and the lanes (R158), the
row summaries (R205), and where the terms of a figure stand (R305, R369, R370). -/
namespace Sys2Proof.Machine

/-! ### Where the terms of a figure stand -/

/-- The combine of an array with fewer column groups than tiles (R108, R369). -/
def combineTerm (sh : Bytes) (tiles : Nat) : Nat := if ceilDiv (field sh 8 8) 32 < tiles then 64 else 0

/-- The figure offset at which round 1 begins (R370). -/
def State.round1At (s : State) (t : Ticket) (r : Running) : Nat :=
  if t.op == .settle then 96
  else
    let sh := s.figureShape r
    let n := s.activeTiles.length
    96 + passTerms sh n s.grade.lanes + combineTerm sh n + 160 + 256

/-- The payload bound of a figure's round 1 (R306). -/
def round1Bound (sh : Bytes) : Nat :=
  let rows := field sh 0x20 4
  if byteAt sh 0 = 8 then rows * (1232 + (if bitAt (byteAt sh 0x26) 1 then 512 else 0)) else rows * (1200 + 12 * field sh 0x28 2)

/-- The stretch of a round that carries at most some bytes (R306). -/
def State.stretch (s : State) (bound : Nat) : Nat := stretchOf bound s.settings.hopPayload.toNat

/-- The slot length of a round of stretch n (R305). -/
def State.slotOf (s : State) (n : Nat) : Nat := n * s.settings.hopBudget.toNat

/-! ### Rows -/

/-- The hidden rows of a command, normalised and cast, with the flags raised and the variance clamps (R82, R168, R169). -/
structure CastRows where
  rows : List CastRow
  normed : List (List F32)
  fl : U16
  clamps : Nat
  deriving DecidableEq, Repr, Inhabited

/-- Normalise and cast every hidden row of a command. -/
def State.castRows (s : State) (t : Ticket) : CastRows :=
  let ns := t.rows.map (s.normalise t)
  let cs := ns.map (fun n => castRow t.actFmt n.y)
  let clamps := (ns.filter NormRow.clamped).length
  { rows := cs.map Prod.fst, normed := ns.map NormRow.y,
    fl := orFlags (ns.map NormRow.fl) ||| orFlags (cs.map Prod.snd) ||| (if clamps = 0 then 0 else flVarClamp),
    clamps := clamps }

/-- Count the variance clamps of a command (0x7013). -/
def State.countClamps (s : State) (n : Nat) : State := if n = 0 then s else s.bump .varianceClamps n

/-- Columns of a shard that R130 masks, and their count for 0x7014. -/
def State.beyondCount (s : State) (cols : List Column) : Nat := (cols.filter (fun c => s.beyond c.id)).length

/-- Count the columns beyond the vocabulary, once for each command (R130), and give the flag they raise (R167). -/
def State.countBeyond (s : State) (cols : List Column) : State × U16 :=
  let n := s.beyondCount cols
  if n = 0 then (s, 0) else (s.bump .maskedRange n, flMaskedRange)

/-! ### The rows of a selecting command -/

/-- The draft token i of a VERIFY (R347). -/
def Ticket.draft (t : Ticket) (i : Nat) : Nat := t.f (0xA4 + 4 * i) 4

/-- The context of row i (R235, R238): a stream's own, or the first row's and the companions of a BEAM or VERIFY. -/
def Ticket.rowCtx (t : Ticket) (i : Nat) : Nat :=
  let one := t.op == .beam || t.op == .verify
  if one then (t.stream 0).ctx else (t.stream i).ctx

/-- The context whose summary serves row i (08). -/
def Ticket.rowSum (t : Ticket) (i : Nat) : Nat :=
  let one := t.op == .beam || t.op == .verify
  if one then (if i = 0 then (t.stream 0).ctx else (t.stream 0).comp + (i - 1)) else (t.stream i).ctx

/-- The stream position of row i. -/
def Ticket.rowPos (t : Ticket) (i : Nat) : Nat := if t.op == .beam || t.op == .verify then 0 else i

/-- The step value of row i (R203). -/
def Ticket.rowStep (t : Ticket) (i : Nat) : Nat := if t.op == .verify then (t.stepValue + i) % pow2 48 else t.stepValue

/-- A penalty list after the first i drafts, as R163 would leave it (R238). -/
def draftPens (update : Bool) (pens : List (Nat × Nat)) (drafts : List Nat) : List (Nat × Nat) :=
  if update then drafts.foldl (fun l u => (penaltyAfter l u).1) pens else pens

/-- The chain of row i (R158, R238). -/
def State.rowChain (s : State) (t : Ticket) (i : Nat) : Chain :=
  let c := s.ctx (t.rowCtx i)
  let pens := if t.op == .verify then draftPens (prUpdate c.params) c.penalties ((upto i).map t.draft) else c.penalties
  s.chain c.params pens c.biases

/-- Row i forms Gumbel keys (R203, R236). -/
def State.rowSamples (s : State) (t : Ticket) (i : Nat) : Bool := t.op.keys && prSamples (s.ctx (t.rowCtx i)).params

/-- How row i folds into its summary (R205, R210, R216). -/
def State.rowFold (s : State) (t : Ticket) (i : Nat) : FoldSpec :=
  { len := topLen t.op (t.b 0xA0) (s.ctx (t.rowCtx i)).params, columns := t.desc.columns, delta := s.profile.corniceMargin,
    infInvalid := false, draft := if t.op == .verify && decide (i < t.b 0xA1) then some (t.draft i) else none }

/-- The mask of row i (06). -/
def State.rowMask (s : State) (t : Ticket) (i : Nat) : Nat → Bool := s.maskBit (t.f 0x58 8) t.desc.columns (t.rowPos i)

/-- The scores of row i through its chain. -/
def State.rowScores (s : State) (t : Ticket) (cols : List Column) (row : CastRow) (i : Nat) : List Score × U16 :=
  s.scoreRow (s.arrayMode t) cols (s.rowChain t i) (s.rowMask t i) row

/-- Score row i into its summary, counting its ladder clamps and Sleet draws (R205, R207, R288). -/
def State.scoreInto (s : State) (t : Ticket) (cols : List Column) (row : CastRow) (i : Nat) : List Score × U16 × State :=
  let (scores, fl) := s.rowScores t cols row i
  let samples := s.rowSamples t i
  let id := (t.stream (t.rowPos i)).id
  let (toks, fl2, draws, s1) := s.keyRow (s.profile.gumbelSrc == 1) samples (s.partKey t.part) id (t.rowStep i) scores
  let sum := foldRow (s.rowFold t i) samples scores toks
  let n := clampCount toks
  let s2 := s1.modCtx (t.rowSum i) (fun c => { c with summary := sum })
  let s3 := if n = 0 then s2 else s2.bump .ladderClamps n
  let s4 := if draws = 0 then s3 else s3.countDraws t.seq draws
  (scores, fl ||| fl2, s4)

/-- A STEP, SETTLE or VERIFY that draws its Gumbel keys from Sleet sets the Sleet-used flag of each stream it names (R288). It
draws where one of its streams samples, which every member of a group sees alike (R40; log 67). -/
def State.markSleet (s : State) (t : Ticket) : State :=
  let cs := t.entries.map StreamEnt.ctx
  if t.op.settles && s.profile.gumbelSrc == 1 && cs.any (fun c => prSamples (s.ctx c).params) then
    cs.foldl (fun (s : State) c => s.modCtx c (fun x => { x with sleetUsed := true })) s
  else s

/-- Score every row of a selecting command; gives the scores of each row, the cast rows and the flags raised. -/
def State.scoreAll (s : State) (t : Ticket) : List (List Score) × CastRows × U16 × State :=
  let (d, m) := s.shard t
  let cols := d.cols m
  let cr := s.castRows t
  let (s1, fl) := (s.countClamps cr.clamps).countBeyond cols
  let out := (cr.rows.zip (upto cr.rows.length)).foldl (fun (acc : List (List Score) × U16 × State) e =>
    let (ls, f, st) := acc
    let (sc, f2, st2) := st.scoreInto t cols e.1 e.2
    (ls ++ [sc], f ||| f2, st2)) ([], cr.fl ||| fl, s1)
  (out.1, cr, out.2.1, out.2.2.leaveTiles t d m cr.rows)

/-- Add to the arithmetic flags of a command (R167). -/
def State.addFlags (s : State) (q : Nat) (fl : U16) : State := s.modRun q (fun r => { r with result := r.result.orFlags fl })

end Sys2Proof.Machine
end

