-- ==== Sys2Proof/Machine/Select.lean ====
section
/-! DEFINITION. Settling (R221 to R241): round 1 and round 2, the avalanche pass, the picks of STEP and SETTLE, the candidates of
BEAM, the walk of VERIFY, and their result records, log-probability entries and extensions. -/
namespace Sys2Proof.Machine

/-! ### Starting round 1 -/

/-- The stretch of round 1 of a launched figure (R306). -/
def State.round1Stretch (s : State) (r : Running) : Nat := s.stretch (round1Bound (s.figureShape r))

/-- A row of a selecting command before round 1. -/
def State.selRow (s : State) (t : Ticket) (i : Nat) : SelRow :=
  { index := i, pos := t.rowPos i, ctx := t.rowCtx i, sumCtx := t.rowSum i, step := t.rowStep i,
    draft := if t.op == .verify && decide (i < t.b 0xA1) then some (t.draft i) else none,
    merged := (s.ctx (t.rowSum i)).summary.row, boundary := none, entries := [], pair0 := KeyEnt.none, pair1 := KeyEnt.none,
    gathers := 0, decided := none, avalanche := false, withoutPeers := false }

/-- Begin round 1 with the member's row summaries (R216, R305). -/
def State.startRound1 (s : State) (t : Ticket) (r : Running) : State :=
  let rows := (upto (s.rowCount t)).map (s.selRow t)
  let s1 := s.modRun t.seq (fun r => { r with rows := rows })
  s1.startExch t.seq exRound1 0 (s.round1At t r) (s.slotOf (s.round1Stretch r)) (.rows (rows.map SelRow.merged))

/-! ### The avalanche pass (R227, R228) -/

/-- A floor exceeds a step. -/
def floorAbove (f : F32) (j : Int) : Bool := f != ninf32 && Dy.lt ⟨j, 0⟩ (dy32 f)

/-- The kept row of a stream that a SCORE left in its work area (R230, R231). -/
def State.keptRow (s : State) (ctx : Nat) : Option CastRow :=
  let holds (g : Region) : Bool := match g.kept with | some k => k.ctxs.contains ctx | none => false
  match s.regions.toList.find? holds with
  | some g => match g.kept with
    | some k =>
      let i := k.ctxs.findIdx (· == ctx)
      let n := k.width * k.fmt.bytes
      some (CastRow.ofBytes k.fmt (k.scales.getD i 0) (s.firn.load (g.addr + i * n) n))
    | none => none
  | none => none

/-- The cast row i of a command that scores again (R227): from the hidden rows, or from the kept rows of the SCORE. -/
def State.rescoreRow (s : State) (t : Ticket) (i : Nat) : Option CastRow :=
  if t.op == .settle then s.keptRow (t.rowCtx i) else (s.castRows t).rows[i]?

/-- Every entry of step j of row i, in rank order, with the flags of scoring it (R227, R167). The pass reproduces the first
scoring. -/
def State.collect (s : State) (t : Ticket) (cols : List Column) (i : Nat) (j : Int) : List (F32 × Nat) × U16 :=
  match s.rescoreRow t i with
  | none => ([], 0)
  | some row =>
    let sc := s.rowScores t cols row i
    let fin := (sc.1.filter (fun (x : Score) =>
      !x.masked && !(isNaN32 x.v) && x.v != ninf32 && x.v != pinf32 && stepOf x.v == j)).map (fun (x : Score) => (x.v, x.id))
    (mergeSortBy entLt 32 fin, sc.2)

/-- The bytes of a spill entry (R156). -/
def spillEntry (e : F32 × Nat) : Bytes := leBytes 8 (e.1.toNat + (e.2 % pow2 21) * pow2 32)

/-- The entry that eight spilled bytes hold (R156). -/
def readSpill (bs : Bytes) : F32 × Nat := (f32At bs 0, field bs 4 4 % pow2 21)

/-- The spill slot of row i: that of its stream position (R156). The rows of a VERIFY all have position 0 and share one; each is
written from its start (DESIGN CHOICE, log 31). -/
def Ticket.spillSlot (t : Ticket) (i : Nat) : Nat := t.f 0x80 8 + 8 * t.desc.columns * t.rowPos i

/-- Collect a row's step again, spill it in ascending id, and ask for the spilled entries back (R156, R227; log 31). -/
def State.collectRow (s : State) (t : Ticket) (cols : List Column) (i : Nat) (j : Int) : State :=
  let c := s.collect t cols i j
  let byId := mergeSortBy (fun (a b : F32 × Nat) => decide (a.2 < b.2)) 32 c.1
  let s1 := (s.modCtx (t.rowSum i) (fun x => { x with summary := { x.summary with collected := c.1 } })).addFlags t.seq c.2
  (s1.writeScratch t.seq (t.spillSlot i) (byId.flatMap spillEntry)).readRange (.ticket t.seq) (t.spillSlot i, 8 * c.1.length)

/-- Take the spilled entries of row i as they came back, in rank order (R156). -/
def State.takeSpill (s : State) (t : Ticket) (i : Nat) : State :=
  s.modCtx (t.rowSum i) (fun x => { x with summary := { x.summary with
    collected := mergeSortBy entLt 32 ((upto x.summary.collected.length).map (fun k =>
      readSpill (s.host (t.spillSlot i + 8 * k) 8))) } })

/-- The merged floor of a boundary row exceeds its boundary step, so that the row needs the avalanche path (R227). -/
def SelRow.past (x : SelRow) : Bool :=
  match x.boundary with
  | some b => (b.2.1 || b.2.2) && floorAbove x.merged.floor b.1
  | none => false

/-- The rows that this member scores again: those for which its own floor exceeds the boundary step too (R227). -/
def State.rowsAgain (s : State) (rows : List SelRow) : List Nat :=
  ((rows.zip (upto rows.length)).filter (fun e => e.1.past && match e.1.boundary with
    | some b => floorAbove (s.ctx e.1.sumCtx).summary.row.floor b.1
    | none => false)).map Prod.snd

/-- The avalanche pass of a command begins: every row that needs the path is marked, and a member with rows to score again
counts the command and each such row (R227, R228). A shard that is not resident is fetched again (R138). -/
def State.beginPass (s : State) (t : Ticket) (r : Running) : State :=
  let again := s.rowsAgain r.rows
  let term := avalancheTerm (s.figureShape r) s.activeTiles.length s.grade.lanes
  let s1 := if again.isEmpty then s
    else (s.bump .avalanchePasses 1).bump .avalancheRows (r.rows.filter SelRow.past).length
  let s2 := if !again.isEmpty && t.op == .settle then
      let d := s.shard t
      let c := s1.countBeyond (d.1.cols d.2)
      c.1.addFlags t.seq c.2
    else s1
  let s3 := s2.modRun t.seq (fun x => { x with
    rows := r.rows.map (fun x => if x.past then { x with avalanche := true } else x)
    result := { x.result with avalanche := true, extra := x.result.extra + term }
    pass := .scoring again, setsOk := if again.isEmpty then x.setsOk else [] })
  if r.streamed && !again.isEmpty then s3.readSets t.seq t.desc else s3

/-! ### Round 2 -/

/-- The entries of a boundary row's step that are not gathered yet, bounded by a gather (R306). -/
def SelRow.bound (x : SelRow) : Nat :=
  match x.boundary with
  | some b => min 4096 ((x.merged.at b.1).2 - x.entries.length)
  | none => 0

/-- The rows that still gather. -/
def SelRow.gathering (x : SelRow) : Bool := x.boundary.isSome && x.decided.isNone

/-- A member's part of a row's gather (R224, R312). -/
def State.gatherPart (s : State) (x : SelRow) : GatherRow :=
  let sum := (s.ctx x.sumCtx).summary
  let jb := match x.boundary with | some b => b.1 | none => 0
  let ps := if x.gathers = 0 then pairsAbove sum jb else []
  { pos := x.index, pair0 := ps.getD 0 KeyEnt.none, pair1 := ps.getD 1 KeyEnt.none,
    entries := stepEntries sum jb x.entries.getLast? }

/-- Begin a round-2 exchange for the rows that still gather (R224, R226, R306). A continued gather and a stretch beyond 1
lengthen the command (R370). -/
def State.startGather (s : State) (t : Ticket) (r : Running) (gather t0 : Nat) : State :=
  let rows := r.rows.filter SelRow.gathering
  let n := s.stretch (sumNat (rows.map (fun x => 32 + 8 * x.bound)))
  let hop := 2 * s.settings.depth.toNat * s.settings.hopBudget.toNat
  let more := if gather = 0 then (n - 1) * hop else n * hop + 128
  let s1 := if gather = 0 then s else s.bump .continuedGathers rows.length
  (s1.modRun t.seq (fun r => { r with result := { r.result with extra := r.result.extra + more } })).startExch t.seq exRound2 gather
    t0 (s.slotOf n) (.gather (rows.map s.gatherPart))

/-- The sets that a pass over a shard which is not resident still needs (R138, R144). -/
def Running.passWaits (r : Running) (d : Desc) : Bool := r.streamed && (upto d.sets).any (fun n => !(r.setsOk.contains n))

/-- One step of an avalanche pass that nothing holds back: a row scored again and spilled, its entries taken back, or round 2
(R156, R227). -/
def State.passStep (s : State) (t : Ticket) (r : Running) : Option State :=
  if r.phase != .exchanging then none
  else match r.pass with
    | .idle => none
    | .scoring [] => some ((s.modRun t.seq (fun r => { r with pass := .idle })).startGather t r 0 (r.passAt + r.result.extra))
    | .scoring (i :: rest) =>
      if r.passWaits t.desc then none
      else
        let d := s.shard t
        let jb := match (r.rows.getD i default).boundary with | some b => b.1 | none => 0
        some ((s.collectRow t (d.1.cols d.2) i jb).modRun t.seq (fun r => { r with pass := .reading i rest }))
    | .reading i rest =>
      if (s.readsFor t.seq).isEmpty then some ((s.takeSpill t i).modRun t.seq (fun r => { r with pass := .scoring rest }))
      else none

/-- The figure offset at which an exchange of one segment ends (R305). -/
def State.exchEnd (s : State) (e : Exch) : Nat := e.t0 + 2 * s.settings.depth.toNat * e.slot

/-- A row with the entries of a gather added, and its within-step count once it is decided (R225, R226). A gather that
brings nothing ends the row's gathering (R319). -/
def State.addGather (s : State) (missing : Bool) (x : SelRow) (g : GatherRow) : SelRow :=
  let p := (s.ctx x.ctx).params
  let ents := x.entries ++ g.entries
  let b := x.boundary.getD (0, false, false)
  let all := decide ((x.merged.at b.1).2 ≤ ents.length) || g.entries.isEmpty
  { x with
    entries := ents, gathers := x.gathers + 1, withoutPeers := x.withoutPeers || missing,
    pair0 := if x.gathers = 0 then g.pair0 else x.pair0, pair1 := if x.gathers = 0 then g.pair1 else x.pair1,
    decided := withinCount s.filuf2 p x.merged b ents all }

/-- Add the merged gathers to the rows that still gather, in order. -/
def State.addGathers (s : State) (missing : Bool) : List SelRow → List GatherRow → List SelRow
  | [], _ => []
  | x :: xs, gs =>
    if x.gathering then
      match gs with
      | g :: gs' => s.addGather missing x g :: s.addGathers missing xs gs'
      | [] => x :: s.addGathers missing xs []
    else x :: s.addGathers missing xs gs

/-! ### What a row settles to -/

/-- The outcome of a row. -/
structure RowOut where
  status : Status
  token : Option (Nat × F32)
  kept : Nat
  jb : Option Int
  inf : Bool
  deriving DecidableEq, Repr, Inhabited

/-- The candidate of a gathered entry, whose key Moraine forms itself (R204). -/
def State.entryCand (s : State) (part id step : Nat) (e : F32 × Nat) : KeyEnt :=
  ⟨(gumbelKey s.filuf2 (s.partKey part) id step e.2 e.1).v, e.2, e.1⟩

/-- The candidates of a boundary row: the pairs above the step, and the entries within it (R225). -/
def State.boundaryCands (s : State) (t : Ticket) (x : SelRow) : List KeyEnt :=
  let id := (t.stream x.pos).id
  ([x.pair0, x.pair1].filter (fun k => k.id != noId)) ++
    ((x.entries.take (x.decided.getD 0)).map (s.entryCand t.part id x.step))

/-- The first way a row settles, from its merged summary (R221). -/
def State.pickOf (s : State) (x : SelRow) : Pick :=
  settleRow s.filuf2 s.profile.filterOrder.toNat (s.ctx x.ctx).params x.merged

/-- No filter is on, so that the kept set is every finite token (R217, R218). -/
def unfiltered (p : Bytes) : Bool := !(prTopK p) && !(prTopP p) && !(prMinP p)

/-- |K| of a row, from the number that the merged ladder gives. Without a filter a member alone counts every finite token; in a
group round 1 carries the counts of the ladder window only (R209, R311; log 52). -/
def State.keptOf (s : State) (x : SelRow) (n : Nat) : Nat :=
  let p := (s.ctx x.ctx).params
  if s.settings.depth = 0 && prSamples p && unfiltered p && x.merged.infs == 0 then (s.ctx x.sumCtx).summary.finite else n

/-- Row flag [2] of a row: a score that R207 placed at an end of the ladder, on this member or as the merged maximum. Round 1
carries no such flag, so a clamped score of another member below the maximum is not seen (log 52). -/
def State.rowClamped (s : State) (x : SelRow) : Bool :=
  (s.ctx x.sumCtx).summary.clamped || (finite32 x.merged.maxS && fle 0x49000000 x.merged.maxS)

/-- What a row settles to once its exchanges are done (R221, R225, R228, R232). -/
def State.rowOut (s : State) (t : Ticket) (x : SelRow) : RowOut :=
  let done := if x.withoutPeers then .settledWithoutPeers else if x.avalanche then .okAvalanche else .ok
  match s.pickOf x with
  | .status st => ⟨st, none, 0, none, false⟩
  | .token k n inf => ⟨done, some (k.id, if inf then pinf32 else k.s), s.keptOf x n, none, inf⟩
  | .boundary jb _ _ =>
    let best := bestKey (s.boundaryCands t x)
    ⟨done, some (best.id, best.s), x.merged.countAbove jb + x.decided.getD 0, some jb, false⟩

/-- Row flags (R240). Bit 2 is of the scores that this member can know clamped: the round-1 record carries no clamp (DEDUCED, log
52). -/
def State.rowFlags (s : State) (x : SelRow) (o : RowOut) : Nat :=
  bit x.avalanche 0 + bit (decide (x.gathers > 1)) 1 + bit (s.rowClamped x) 2 + bit o.inf 3 +
  bit (x.withoutPeers && o.token.isSome) 4

/-- The F32 that a field of an empty or invalid row holds (R240). -/
def deadField (st : Status) : F32 := if st == .invalidRow then nan32 else ninf32

/-- The fields of a result record (R240). -/
structure ResultRec where
  status : Status
  flags : Nat
  pos : Nat
  id : Nat
  step : Nat
  token : Option Nat
  score : F32
  logp : F32
  lse : F32
  maxS : F32
  kept : Nat
  jb : Option Int
  gathers : Nat
  emitted : Nat
  accepted : Nat
  next : Nat
  deriving DecidableEq, Repr, Inhabited

/-- The 64 bytes of a result record (R240). -/
def ResultRec.bytes (r : ResultRec) : Bytes :=
  leBytes 1 r.status.code ++ leBytes 1 r.flags ++ leBytes 2 r.pos ++ leBytes 4 r.id ++ leBytes 8 r.step ++
  le32 (r.token.getD noId) ++ le32 r.score.toNat ++ le32 r.logp.toNat ++ le32 r.lse.toNat ++ le32 r.maxS.toNat ++ le32 r.kept ++
  le32 (match r.jb with | some j => unsigned 32 j | none => 0x80000000) ++ leBytes 2 r.gathers ++ leBytes 1 r.emitted ++
  leBytes 1 r.accepted ++ leBytes 8 r.next ++ leBytes 8 0

/-- Write a stream's result record (R240). -/
def State.putResult (s : State) (t : Ticket) (r : ResultRec) : State :=
  s.writeHost t.seq (t.f 0x68 8 + 64 * r.pos) r.bytes

/-- Write the log-probability entries of a row with a count above 0 (R234). -/
def State.putLogProbs (s : State) (t : Ticket) (pos : Nat) (words : List Nat) : State :=
  s.writeHost t.seq (t.f 0x70 8 + 168 * pos) (words.flatMap (leBytes 8))

/-- The 21 entries of a settled row (R234). -/
def State.rowWords (s : State) (x : SelRow) (token : Option (Nat × F32)) : List Nat :=
  lpEntries x.merged (prLog (s.ctx x.ctx).params) (token.map (fun k => (k.2, k.1)))

/-- Update a stream's penalty list after a token where its flag asks for it (R163). -/
def State.settleToken (s : State) (q ctx u : Nat) : State :=
  let c := s.ctx ctx
  if !(prUpdate c.params) then s
  else
    let r := penaltyAfter c.penalties u
    let s1 := s.modCtx ctx (fun c => { c with penalties := r.1 })
    if r.2 then (s1.bump .penaltyOverflows 1).addFlags q flListFull else s1

/-- Move a stream's next step on (R229, R237, R239). -/
def State.advanceStep (s : State) (ctx n : Nat) : State :=
  s.modCtx ctx (fun c => { c with nextStep := c.nextStep + BitVec.ofNat 48 n })

/-- Mark the summary of a context settled (R229). -/
def State.markSettled (s : State) (ctx step : Nat) : State :=
  s.modCtx ctx (fun c => { c with summary := { RowSum.empty with mark := .settled step } })

/-- Count rows settled without peers (R32, R319). -/
def State.countWithout (s : State) (q n : Nat) : State :=
  if n = 0 then s else (s.bump .settledWithoutPeers n).modRun q (fun r => { r with nd := r.nd + n })

/-! ### STEP and SETTLE -/

/-- The result record of a settled row of a STEP or SETTLE. -/
def State.stepRecord (s : State) (t : Ticket) (x : SelRow) (o : RowOut) : ResultRec :=
  let dead := deadField o.status
  { status := o.status, flags := s.rowFlags x o, pos := x.pos, id := (t.stream x.pos).id, step := t.stepValue,
    token := o.token.map Prod.fst,
    score := (o.token.map Prod.snd).getD dead,
    logp := match o.token with | some k => logProb x.merged k.2 | none => dead,
    lse := if o.token.isSome then x.merged.lse else dead, maxS := if o.token.isSome then x.merged.maxS else dead,
    kept := o.kept, jb := o.jb, gathers := x.gathers, emitted := if o.token.isSome then 1 else 0, accepted := 0,
    next := (s.ctx x.ctx).nextStep.toNat }

/-- Settle one row of a STEP or SETTLE: its context, its record and its log-probabilities (R229, R234, R240). -/
def State.settleOne (s : State) (t : Ticket) (x : SelRow) : State :=
  let o := s.rowOut t x
  let s1 := match o.token with
    | some k => (s.advanceStep x.ctx 1).settleToken t.seq x.ctx k.1
    | none => s
  let s2 := s1.putResult t (s1.stepRecord t x o)
  let n := prLog (s.ctx x.ctx).params
  let s3 := if n = 0 then s2 else s2.putLogProbs t x.pos (s.rowWords x o.token)
  let s4 := s3.countWithout t.seq (if x.withoutPeers && o.token.isSome then 1 else 0)
  s4.markSettled x.ctx t.stepValue

/-- The digests of a STEP (R48). -/
def State.stepDigests (s : State) (t : Ticket) (rows : List SelRow) : List U64 :=
  let outs := rows.map (fun x => (x, s.rowOut t x))
  let toks := outs.map (fun e => (e.1.pos, ((e.2.token.map Prod.fst).getD noId)))
  let lps := outs.flatMap (fun e =>
    if prLog (s.ctx e.1.ctx).params = 0 then []
    else ((s.rowWords e.1 e.2.token).zip (upto 21)).map (fun w => (e.1.pos * 21 + w.2, w.1)))
  let sts := outs.map (fun e => (e.1.pos, e.2.status.value))
  let dig (tag : Nat) (l : List (Nat × Nat)) : U64 := BitVec.ofNat 64 (digestOf tag l)
  [dig (t.f 0x90 4) toks, dig (t.f 0x94 4) lps, 0, dig 0xFFFFFFFF sts]

/-- Every row of a STEP or SETTLE settles (R221). -/
def State.settleRows (s : State) (t : Ticket) (r : Running) : State :=
  let outs := r.rows.map (s.rowOut t)
  let ds := s.stepDigests t r.rows
  let s1 := r.rows.foldl (fun (s : State) x => s.settleOne t x) s
  s1.finishWith t.seq (fun res => { res with
    digests := ds, rows := r.rows.length, notOk := countNotOk (outs.map RowOut.status) })

/-! ### BEAM (R235 to R237) -/

/-- A candidate of a BEAM: its total, tie key and parent beam, with the token that extends it, its log-probability, its score
and the row it came from. -/
structure Cand where
  total : F32
  tie : Nat
  parent : Nat
  token : Option Nat
  logp : F32
  score : F32
  row : Option SelRow
  deriving DecidableEq, Repr, Inhabited

/-- Candidate order (R236). -/
def Cand.lt (a b : Cand) : Bool :=
  flt b.total a.total || (!(flt a.total b.total) &&
    (decide (a.tie < b.tie) || (a.tie == b.tie && decide (a.parent < b.parent))))

/-- Beam record fields (08). -/
def beamFlags (b : Bytes) : Nat := byteAt b 0
/-- Cumulative log-probability. -/
def beamCum (b : Bytes) : F32 := f32At b 4

/-- The tie key of a candidate (R236). -/
def State.tieKey (s : State) (t : Ticket) (id b v : Nat) : Nat :=
  (draw (s.partKey t.part) 0x06 id t.stepValue (b * pow2 21 + v)).1

/-- The beams of a stream before a BEAM: a stream without beam state has beam 0 alone, live and empty (R235). -/
def Ctx.beamsNow (c : Ctx) : List Bytes := if c.beamValid then c.beams else [leBytes 1 1 ++ List.replicate 511 0]

/-- The candidates of one scored beam (R236); an invalid or empty row gives none (R237). -/
def State.beamCands (s : State) (t : Ticket) (beams : List Bytes) (b : Nat) (x : SelRow) : List Cand :=
  if x.merged.invalid || x.merged.masked then []
  else (x.merged.top.take (t.b 0xA0)).map (fun e =>
    let lp := logProb x.merged e.s
    ⟨(fadd (beamCum (beams.getD b [])) lp).v, s.tieKey t (t.stream 0).id b e.id, b, some e.id, lp, e.s, some x⟩)

/-- The candidates of the finished beams (R236). -/
def State.finishedCands (s : State) (t : Ticket) (beams : List Bytes) : List Cand :=
  ((beams.zip (upto beams.length)).filter (fun (e : Bytes × Nat) => beamFlags e.1 % 4 == 3)).map (fun (e : Bytes × Nat) =>
    ⟨beamCum e.1, s.tieKey t (t.stream 0).id e.2 0x1FFFFF, e.2, none, 0, 0, none⟩)

/-- The beam record of a candidate: its parent's, with the token appended (R236). -/
def Cand.record (c : Cand) (endTok : Nat) (parent : Bytes) : Bytes :=
  let hist := (upto (field parent 2 2)).map (fun i => field parent (0x20 + 4 * i) 4)
  let hist' := match c.token with
    | some v => let l := hist ++ [v % pow2 21]; l.drop (l.length - 120)
    | none => hist
  let fin := bitAt (beamFlags parent) 1 || (match c.token with | some v => endTok != noId && v == endTok | none => false)
  leBytes 1 (1 + bit fin 1) ++ leBytes 1 c.parent ++ leBytes 2 hist'.length ++ le32 c.total.toNat ++
  leBytes 8 ((field parent 8 6 + (if c.token.isSome then 1 else 0)) % pow2 48) ++ List.replicate 16 0 ++
  padTo 480 (hist'.flatMap (leBytes 4))

/-- An entry of the extension for BEAM (R241). -/
def beamExt (c : Cand) (flags : Nat) : Bytes :=
  le32 (c.token.getD noId) ++ le32 (match c.token with | some _ => c.logp.toNat | none => 0) ++ le32 c.total.toNat ++
  leBytes 1 c.parent ++ leBytes 1 flags ++ leBytes 2 0

/-- An unused entry of the extension (R241). -/
def unusedExt : Bytes := le32 noId ++ List.replicate 12 0

/-- |K| of a beam row: its infinities, or every finite token, as in `State.keptOf` (R218, R240; logs 30 and 52). -/
def State.beamKept (s : State) (x : SelRow) : Nat :=
  if x.merged.infs > 0 then x.merged.infs
  else if s.settings.depth = 0 then (s.ctx x.sumCtx).summary.finite else x.merged.count

/-- The result record of a BEAM (R237, R240; log 30). -/
def State.beamRecord (s : State) (t : Ticket) (rows : List SelRow) (first : Option Cand) (status : Status) : ResultRec :=
  let dead := deadField status
  let live := status == .ok || status == .settledWithoutPeers
  let x := first.bind Cand.row
  let m := x.map SelRow.merged
  let fl := rows.map (fun x => s.rowFlags x ⟨status, none, 0, none, false⟩)
  { status := status,
    flags := bit (fl.any (fun f => bitAt f 2)) 2 + bit ((m.map (fun r => decide (r.infs > 0))).getD false) 3 +
      bit (rows.any SelRow.withoutPeers && live) 4,
    pos := 0, id := (t.stream 0).id, step := t.stepValue, token := first.bind Cand.token,
    score := if live then (match first with | some c => if c.token.isSome then c.score else ninf32 | none => ninf32) else dead,
    logp := if live then (match first with | some c => if c.token.isSome then c.logp else ninf32 | none => ninf32) else dead,
    lse := if live then (m.map RowRec.lse).getD ninf32 else dead,
    maxS := if live then (m.map RowRec.maxS).getD ninf32 else dead,
    kept := (x.map (s.beamKept)).getD 0, jb := none, gathers := 0,
    emitted := if (first.bind Cand.token).isSome then 1 else 0, accepted := 0,
    next := (s.ctx (t.stream 0).ctx).nextStep.toNat }

/-- A BEAM extends its beams (R236, R237, R240, R241). Each beam row that settles without a peer is one event of R32,
whatever the status of the one record (DEDUCED, log 30). -/
def State.beamRows (s : State) (t : Ticket) (r : Running) : State :=
  let cx := (t.stream 0).ctx
  let c := s.ctx cx
  let w := t.b 0xA0
  let endTok := t.f 0xA4 4
  let beams := c.beamsNow
  let cands := ((c.scoredBeams.zip r.rows).flatMap (fun e => s.beamCands t beams e.1 e.2)) ++ s.finishedCands t beams
  let best := (mergeSortBy Cand.lt 32 cands).take w
  let recs := best.map (fun c => c.record endTok (beams.getD c.parent (List.replicate 512 0)))
  let all := recs ++ List.replicate (w - recs.length) (List.replicate 512 0)
  let without := r.rows.any SelRow.withoutPeers
  let status := if r.rows.any (fun x => x.merged.invalid) then Status.invalidRow
    else if cands.isEmpty then .emptyRow else if without then .settledWithoutPeers else .ok
  let s1 := (s.modCtx cx (fun c => { c with beams := all, beamValid := true })).advanceStep cx 1
  let s2 := s1.putResult t (s1.beamRecord t r.rows best.head? status)
  let ext := ((best.zip recs).map (fun e => beamExt e.1 (beamFlags e.2)) ++ List.replicate 16 unusedExt).take 16
  let s3 := s2.writeHost t.seq (t.f 0x78 8) ext.flatten
  let lpRow := (best.head?.bind Cand.row).orElse (fun _ => r.rows.head?)
  let s4 := match lpRow with
    | some x =>
      if prLog c.params = 0 then s3
      else s3.putLogProbs t 0 (s.rowWords x (best.head?.bind (fun c => c.token.map (fun v => (v, c.score)))))
    | none => s3
  let s5 := s4.countWithout t.seq (r.rows.filter (fun x => x.withoutPeers && !x.merged.invalid && !x.merged.masked)).length
  s5.finishWith t.seq (fun res => { res with rows := 1, notOk := countNotOk [status] })

/-! ### VERIFY (R238, R239) -/

/-- The kept set of a row as ratio mode needs it: its mass, whether the draft is in it with the draft's mass, and its highest
key apart from the draft (R238). -/
structure RatioSet where
  mass : Nat
  draftMass : Option Nat
  other : KeyEnt
  deriving DecidableEq, Repr, Inhabited

/-- The mass of one token alone (R213). -/
def RowRec.tokenMass (r : RowRec) (x : F32) : Nat := wTerm r.jTop (stepOf x) (massUnits x)

/-- The best candidate apart from a token. -/
def bestOther (d : Nat) (l : List KeyEnt) : KeyEnt := bestKey (l.filter (fun k => k.id != d))

/-- The kept set of a row for ratio mode (R238). -/
def State.ratioSet (s : State) (t : Ticket) (x : SelRow) (d : Nat) : RatioSet :=
  let r := x.merged
  let p := (s.ctx x.ctx).params
  let sd := r.captured
  let has := sd != ninf32
  match s.pickOf x with
  | .boundary jb _ _ =>
    let inside := x.entries.take (x.decided.getD 0)
    let mass := r.above (jb + 1) + wTerm r.jTop jb (sumNat (inside.map (fun e => massUnits e.1)))
    let isIn := has && (decide (stepOf sd > jb) || inside.any (fun e => e.2 == d))
    ⟨mass, if isIn then some (r.tokenMass sd) else none, bestOther d (s.boundaryCands t x)⟩
  | _ =>
    if prTopK p then
      let k := topKKept s.filuf2 s.profile.filterOrder.toNat p r
      ⟨setMass r.jTop (k.map TopEnt.s), if k.any (fun e => e.id == d) then some (r.tokenMass sd) else none,
        bestOther d (k.map TopEnt.cand)⟩
    else
      ⟨r.z, if has then some (r.tokenMass sd) else none,
        if r.g.id != d then r.g else bestOther d ([x.pair0, x.pair1] ++ r.top.map TopEnt.cand)⟩

/-- One position of the walk: a token emitted, whether it was an accepted draft, and whether the walk goes on. -/
structure WalkStep where
  token : Option (Nat × F32)
  accepted : Bool
  goOn : Bool
  deriving DecidableEq, Repr, Inhabited

/-- Walk one row of a VERIFY (R238, R239). -/
def State.walkRow (s : State) (t : Ticket) (x : SelRow) : WalkStep × State :=
  let o := s.rowOut t x
  match o.token with
  | none => (⟨none, false, false⟩, s)
  | some c =>
    match x.draft with
    | none => (⟨some c, false, false⟩, s)
    | some d =>
      let exact := t.b 0xA0 = 0 || x.merged.infs > 0 || !(prSamples (s.ctx x.ctx).params)
      if exact then (if c.1 = d then (⟨some c, true, true⟩, s) else (⟨some c, false, false⟩, s))
      else
        let k := s.ratioSet t x d
        let a := (draw (s.partKey t.part) 0x02 (t.stream 0).id x.step 0).1
        let u := 2 * (a / pow2 41) + 1
        let ok := match k.draftMass with
          | some w => decide (u * k.mass < w * pow2 24)
          | none => false
        if ok then (⟨some (d, x.merged.captured), true, true⟩, s)
        else if k.other.id = noId then (⟨some c, false, false⟩, s) else (⟨some (k.other.id, k.other.s), false, false⟩, s)

/-- Walk the rows of a VERIFY from the first; gives the steps taken with their rows (R238). -/
def State.walk (s : State) (t : Ticket) : List SelRow → List (WalkStep × SelRow) × State
  | [] => ([], s)
  | x :: xs =>
    let (w, s1) := s.walkRow t x
    if w.goOn then let r := s1.walk t xs; ((w, x) :: r.1, r.2) else ([(w, x)], s1)

/-- An entry of the extension for VERIFY (R241). -/
def verifyExt (x : SelRow) (k : Nat × F32) : Bytes := le32 k.1 ++ le32 (logProb x.merged k.2).toNat ++ List.replicate 8 0

/-- The result record of a VERIFY, over the rows its walk took (R239, R240; log 30). -/
def State.verifyRecord (s : State) (t : Ticket) (ws : List (WalkStep × SelRow)) : ResultRec :=
  let toks := ws.filterMap (fun e => e.1.token.map (fun k => (e.2, k)))
  let last := ws.getLast?
  let o := match last with | some e => s.rowOut t e.2 | none => ⟨.emptyRow, none, 0, none, false⟩
  let dead := o.token.isNone
  let df := deadField o.status
  let without := ws.any (fun e => e.2.withoutPeers && e.1.token.isSome)
  let av := ws.any (fun e => e.2.avalanche)
  { status := if dead then o.status else if without then .settledWithoutPeers else if av then .okAvalanche else .ok,
    flags := bit av 0 + bit (ws.any (fun e => decide (e.2.gathers > 1))) 1 +
      bit (ws.any (fun e => s.rowClamped e.2)) 2 + bit o.inf 3 + bit without 4,
    pos := 0, id := (t.stream 0).id, step := t.stepValue,
    token := toks.getLast?.map (fun e => e.2.1),
    score := match toks.getLast? with | some e => e.2.2 | none => df,
    logp := match toks.getLast? with | some e => logProb e.1.merged e.2.2 | none => df,
    lse := if dead then df else match last with | some e => e.2.merged.lse | none => df,
    maxS := if dead then df else match last with | some e => e.2.merged.maxS | none => df,
    kept := o.kept, jb := o.jb, gathers := match last with | some e => e.2.gathers | none => 0,
    emitted := toks.length, accepted := (ws.filter (fun e => e.1.accepted)).length,
    next := (s.ctx (t.stream 0).ctx).nextStep.toNat }

/-- A VERIFY walks its rows (R238 to R241). -/
def State.verifyRows (s : State) (t : Ticket) (r : Running) : State :=
  let cx := (t.stream 0).ctx
  let (ws, s0) := s.walk t r.rows
  let toks := ws.filterMap (fun e => e.1.token.map (fun k => (e.2, k)))
  let s1 := toks.foldl (fun (s : State) e => s.settleToken t.seq cx e.2.1) (s0.advanceStep cx toks.length)
  let rec' := s1.verifyRecord t ws
  let s2 := s1.putResult t rec'
  let ext := (toks.map (fun e => verifyExt e.1 e.2) ++ List.replicate 16 unusedExt).take 16
  let s3 := s2.writeHost t.seq (t.f 0x78 8) ext.flatten
  let n := prLog (s.ctx cx).params
  let s4 := match ws.getLast? with
    | some e => if n = 0 then s3 else s3.putLogProbs t 0 (s.rowWords e.2 e.1.token)
    | none => s3
  let s5 := s4.countWithout t.seq ((ws.filter (fun e => e.2.withoutPeers && e.1.token.isSome)).length)
  s5.finishWith t.seq (fun res => { res with rows := 1, notOk := countNotOk [rec'.status] })

/-! ### The ends of the exchanges -/

/-- All rows are decided: the command settles. -/
def State.settleAll (s : State) (q : Nat) : State :=
  match s.launched q with
  | none => s
  | some (t, r) =>
    match t.op with
    | .verify => s.verifyRows t r
    | .beam => s.beamRows t r
    | _ => s.settleRows t r

/-- A row of a VERIFY in ratio mode whose Gumbel maximum is its draft, with no filter: it needs the second highest key, which
its part of round 2 brings (R238; log 21). -/
def State.needsOther (s : State) (t : Ticket) (x : SelRow) : Bool :=
  let p := (s.ctx x.ctx).params
  t.op == .verify && t.b 0xA0 == 1 && prSamples p && unfiltered p && x.merged.infs == 0 && !x.merged.invalid && !x.merged.masked &&
  x.draft == some x.merged.g.id

/-- A row with its boundary step, where it has one (R223). A row that needs the second highest key alone joins round 2 below its
ladder, where no entry stands (log 21). -/
def State.markBoundary (s : State) (t : Ticket) (x : SelRow) : SelRow :=
  match s.pickOf x with
  | .boundary jb useP useM => { x with boundary := some (jb, useP, useM) }
  | _ => if s.needsOther t x then { x with boundary := some (recStep (x.merged.topRung.getD 0) 128, false, false) } else x

/-- Round 1 of a selecting command is complete (R221 to R228). -/
def State.round1Done (s : State) (t : Ticket) (r : Running) (e : Exch) (rows : List RowRec) : State :=
  let placed := (r.rows.zip rows).map (fun p => { p.1 with merged := p.2, withoutPeers := e.missing })
  let marked := if t.op == .beam then placed else placed.map (s.markBoundary t)
  let s1 := s.modRun t.seq (fun r => { r with rows := marked, exch := none, passAt := s.exchEnd e + 384 })
  if marked.all (fun x => x.boundary.isNone) then s1.settleAll t.seq
  else if marked.any SelRow.past then s1.beginPass t { r with rows := marked }
  else s1.startGather t { r with rows := marked } 0 (s.exchEnd e + 384 + r.result.extra)

/-- A round-2 exchange is complete: the rows that cannot yet be decided gather again (R226). -/
def State.round2Done (s : State) (t : Ticket) (r : Running) (e : Exch) (gs : List GatherRow) : State :=
  let rows := s.addGathers e.missing r.rows gs
  let s1 := s.modRun t.seq (fun r => { r with rows := rows, exch := none })
  if rows.all (fun x => !x.gathering) then s1.settleAll t.seq
  else s1.startGather t { r with rows := rows } (e.gather + 1) (s.exchEnd e + 128)

end Sys2Proof.Machine
end

