-- ==== Sys2Proof/Machine/Round.lean ====
section
/-! DEFINITION. Output rounding of tensor elements (R70, R72, R278, R279, R286), and writes whose areas may overlap (R175). -/
namespace Sys2Proof.Machine

/-- Something is cut off when `m * 2 ^ e` is rounded to a format (R72, R279). -/
def restOf (f : NumFmt) (m : Nat) (e : Int) : Bool :=
  let c := cutOf f m e
  decide (0 < c) && decide (m % pow2 c.toNat ≠ 0)

/-- The rounding rule of an element, with the Sleet outputs it takes: to nearest even, or stochastic with bits of Flurry
domain 0x03 under the tensor counter, or of a Sleet output that an inexact element takes (R72, R278, R279, R286). -/
def State.rndRule (s : State) (key : Nat × Nat) (stoch : Bool) (tag step i : Nat) (rest : Bool) : RoundRule × Nat × State :=
  let cap := s.profile.srCap.toNat
  if !stoch then (roundEven, 0, s)
  else if s.profile.srSrc = 0 then (roundStoch cap (fun w => roundingBits (drawTensor key 0x03 tag step i).1 w), 0, s)
  else if rest then let r := s.sleetDraw; (roundStoch cap (fun w => r.1 / pow2 (32 - w)), 1, r.2)
  else (roundEven, 0, s)

/-- Elements rounded so far: their bits (latest first), the flags raised, the Sleet outputs taken, and the state. -/
structure Rounded where
  bits : List Nat
  fl : U16
  draws : Nat
  st : State

/-- Round one finished long word to an output of R245 (R74, R268, R269). -/
def Rounded.addLW (a : Rounded) (key : Nat × Nat) (code tag step i : Nat) (w : LWord) (top : Int) : Rounded :=
  if outFmt code == .lw128 then
    { a with bits := unsigned 128 ((lwMarker w.sp).getD w.i) :: a.bits,
             fl := a.fl ||| (if w.sp.inv || (w.sp.pinf && w.sp.ninf) then flInvalid else 0) }
  else
    let rest := w.sp == Spec.none && restOf (outFmt code) w.i.natAbs (top - 104)
    let (rule, n, s1) := a.st.rndRule key (outStoch code) tag step i rest
    let r := lwOut rule (outFmt code) w top
    { bits := r.bits :: a.bits, fl := a.fl ||| r.flags, draws := a.draws + n, st := s1 }

/-- Round numbered long words that share a top. -/
def State.roundLWs (s : State) (key : Nat × Nat) (code tag step : Nat) (top : Int) (els : List (Nat × LWord)) : Rounded :=
  let r := els.foldl (fun (a : Rounded) (e : Nat × LWord) => a.addLW key code tag step e.1 e.2 top) ⟨[], 0, 0, s⟩
  { r with bits := r.bits.reverse }

/-- The digest of elements in an output format (R46). -/
def digestFmt (f : NumFmt) (tag : Nat) (els : List (Nat × Nat)) : Nat :=
  if f == .lw128 then digestLW tag els else digestOf tag els

/-! ### Areas that overlap (R175, R264) -/

/-- Two byte ranges meet. -/
def rangesMeet (a b : Nat × Nat) : Bool := decide (a.1 < b.1 + b.2 ∧ b.1 < a.1 + a.2 ∧ 0 < a.2 ∧ 0 < b.2)

/-- Write one element; where its place overlaps another area its value is undefined (R175). -/
def State.putElem (s : State) (q addr sz bits : Nat) (clash : Bool) : State :=
  if clash then let r := s.openBytes sz; r.2.writeHost q addr r.1 else s.writeHost q addr (leBytes sz bits)

/-- Write consecutive elements; those whose places meet another area get undefined values (R264). -/
def State.putElems (s : State) (q addr sz : Nat) (els : List Nat) (others : List (Nat × Nat)) : State :=
  let near := others.filter (rangesMeet (addr, sz * els.length))
  if near.isEmpty then s.writeHost q addr (els.flatMap (leBytes sz))
  else (els.zip (upto els.length)).foldl (fun (s : State) e =>
    s.putElem q (addr + sz * e.2) sz e.1 (near.any (rangesMeet (addr + sz * e.2, sz)))) s

/-- Count the Sleet outputs and the flags of rounded elements. -/
def Rounded.settle (a : Rounded) (q : Nat) : State := (a.st.countDraws q a.draws).addFlags q a.fl

end Sys2Proof.Machine
end

