-- ==== Sys2Proof/Machine/Loss.lean ====
section
/-! DEFINITION. LOSS (R242 to R256): the row summaries and their extensions, the loss of a row, and the loss tensor. -/
namespace Sys2Proof.Machine

/-! ### Training parameters -/

/-- ⌈log₂ n⌉ of a positive number. -/
def ceilLog2 (n : Nat) : Nat := Nat.log2 (2 * n - 1)

/-- The global column exponent e_g (R245). -/
def Ticket.eg (t : Ticket) : Int := signed 8 (t.b 0x98)

/-- The hard weight h := (1 − ε) − δ, a negative result replaced by +0 (R245). -/
def hardWeight (eps delta : F32) : F32 :=
  let h := (fsub (fsub 0x3F800000 eps).v delta).v
  if flt h 0 then 0 else h

/-- A column metadata byte of a resident shard exceeds e_g (R246). -/
def State.egBroken (s : State) (t : Ticket) : Bool :=
  let (d, m) := s.shard t
  (upto d.sets).any (fun n => !(d.egOk m n t.eg))

/-- A metadata mismatch found by a launched command: it ends with FORMAT and sends ABORT (R144, R246). -/
def State.mismatch (s : State) (q : Nat) : State := (s.bump .metadataMismatches 1).endLaunch q .format

/-! ### What each member builds (R249 to R252) -/

/-- The word of a token id: 2^32 plus the score's pattern where this member holds the id (R250). -/
def wordOf (scores : List Score) (v : Nat) : U64 :=
  match scores.find? (fun x => x.id == v) with
  | some x => BitVec.ofNat 64 (pow2 32 + (if x.masked then 0xFF800000 else x.v.toNat))
  | none => 0

/-- The window top U_i of the score sum (R252). -/
def sumTop (eh eg : Int) (h : Nat) (c : F32) : Int :=
  let u := eh + eg + 3 + Int.ofNat (ceilLog2 h)
  if isZero32 c then u else min u (maxExp [dec32 c] + 1)

/-- The score sum of a row (R252). -/
def scoreSum (top : Int) (scores : List Score) : LWord :=
  ⟨sumInt ((scores.filter (fun x => !x.masked && finite32 x.v)).map (fun x => (dy32 x.v).floorAt (top - 104))), Spec.none⟩

/-- The LOSS extension of a row (R249). -/
def State.lossExt (s : State) (t : Ticket) (i : Nat) (row : CastRow) (scores : List Score) : LossRow :=
  let v := validTeachers (s.teacher t i)
  { count := (scores.filter (fun x => !x.masked && finite32 x.v)).length,
    target := wordOf scores (s.target t i),
    sum := if t.smooths then scoreSum (sumTop (maxExp row.vals) t.eg t.desc.h (t.fl 0x84)) scores else LWord.zero,
    teacher := if t.distils then (v.map (fun (e : Nat × F32) => wordOf scores e.1) ++ List.replicate 64 0).take 64 else [] }

/-- The extension of a row that reports nothing (R308). -/
def Ticket.noExt (t : Ticket) : LossRow := ⟨0, 0, LWord.zero, if t.distils then List.replicate 64 0 else []⟩

/-- The summary of row i of a LOSS (R249, R251); an ignored token's scores enter no structure. -/
def State.lossSummary (s : State) (t : Ticket) (i : Nat) (row : CastRow) (scores : List Score) : RowSum × Nat :=
  if s.ignored t i then ({ RowSum.empty with row := { RowRec.empty with loss := some t.noExt } }, 0)
  else
    let toks := (s.keyRow false false (0, 0) 0 0 scores).1
    let fs : FoldSpec := { len := 1, columns := t.desc.columns, delta := s.profile.corniceMargin, infInvalid := true, draft := none }
    let sum := foldRow fs false scores toks
    let ext := if sum.row.invalid then t.noExt else s.lossExt t i row scores
    ({ sum with row := { sum.row with loss := some ext } }, clampCount toks)

/-- Cast rows of a command with their scores under its training chain, and the flags raised (R158, R249). -/
def State.trainScores (s : State) (t : Ticket) : List (CastRow × List Score) × U16 × State :=
  let (d, m) := s.shard t
  let cols := d.cols m
  let cr := s.castRows t
  let (s1, fl) := (s.countClamps cr.clamps).countBeyond cols
  let out := (cr.rows.zip (upto cr.rows.length)).map (fun e =>
    (e.1, s.scoreRow (s.arrayMode t) cols (s.trainChain t) (s.maskBit (t.f 0x58 8) d.columns e.2) e.1))
  (out.map (fun e => (e.1, e.2.1)), cr.fl ||| fl ||| orFlags (out.map (fun e => e.2.2)), s1.leaveTiles t d m cr.rows)

/-- A LOSS scores its tokens into its companions and begins round 1 (R249, R216, R305). -/
def State.lossScore (s : State) (t : Ticket) (r : Running) : State :=
  let (rows, fl, s1) := s.trainScores t
  let sums := (rows.zip (upto rows.length)).map (fun e => s.lossSummary t e.2 e.1.1 e.1.2)
  let s2 := (sums.zip (upto sums.length)).foldl (fun (s : State) e =>
    s.modCtx (t.b 0x9C + e.2) (fun c => { c with summary := e.1.1 })) s1
  let n := sumNat (sums.map Prod.snd)
  let s3 := (if n = 0 then s2 else s2.bump .ladderClamps n).addFlags t.seq fl
  s3.startExch t.seq exRound1 0 (s.round1At t r) (s.slotOf (s.round1Stretch r)) (.rows (sums.map (fun e => e.1.row)))

/-! ### The loss of a row (R254) -/

/-- The members that hold an id, and its score (R250). -/
def holders (w : U64) : Nat := w.toNat / pow2 32
/-- The score that a word carries. -/
def wordScore (w : U64) : F32 := BitVec.ofNat 32 w.toNat

/-- A word whose id is not held once, or is masked (R254). -/
def wordBad (w : U64) : Bool := holders w != 1 || wordScore w == ninf32

/-- The status of a non-ignored row after round 1 (R254). -/
def lossStatus (r : RowRec) (e : LossRow) (teachers : List (Nat × F32)) : Status :=
  if r.invalid then .invalidRow
  else if r.masked then .emptyRow
  else if wordBad e.target then .range
  else if (teachers.zip e.teacher).any (fun p => flt 0 p.1.2 && wordBad p.2) then .range
  else .ok

/-- acc + w × x. -/
def accTerm (acc w x : F32) : F32 := (fadd acc (fmul w x).v).v

/-- The loss of an OK row (R254). -/
def lossValue (h eps delta z lse mu sy : F32) (ts : List (F32 × F32)) : F32 :=
  let a1 := if isZero32 h then 0 else accTerm 0 h (fsub lse sy).v
  let a2 := if isZero32 eps then a1 else accTerm a1 eps (fsub lse mu).v
  let a3 := ts.foldl (fun acc p => if flt 0 p.1 then accTerm acc (fmul delta p.1).v (fsub lse p.2).v else acc) a2
  if isZero32 z then a3 else accTerm a3 z (fmul lse lse).v

/-- A loss record (R256). -/
structure LossRec where
  loss : F32
  lse : F32
  target : F32
  mean : F32
  count : Nat
  status : Status
  flags : Nat
  deriving DecidableEq, Repr, Inhabited

/-- The 32 bytes of a loss record (R256). -/
def LossRec.bytes (r : LossRec) : Bytes :=
  le32 r.loss.toNat ++ le32 r.lse.toNat ++ le32 r.target.toNat ++ le32 r.mean.toNat ++ le32 r.count ++
  leBytes 1 r.status.code ++ leBytes 1 r.flags ++ List.replicate 10 0

/-- Evaluate token i from its merged row, with the flags of rounding its mean score (R73, R253, R254, R256). Flag [1] is set by
a clamped score of this member or by the merged maximum (log 52). -/
def State.lossRow (s : State) (t : Ticket) (i : Nat) (row : CastRow) (clamped : Bool) (r : RowRec) : LossRec × U16 :=
  if s.ignored t i then (⟨0, 0, 0, 0, 0, .ok, 1⟩, 0)
  else
    let e := r.loss.getD t.noExt
    let ts := validTeachers (s.teacher t i)
    let st := lossStatus r e (if t.distils then ts else [])
    let live := st == .ok || st == .range
    let mean := if t.smooths && live then quot32 e.sum.i e.count (sumTop (maxExp row.vals) t.eg t.desc.h (t.fl 0x84) - 104)
      else R32.pure (if t.smooths then nan32 else 0)
    let mu := mean.v
    let high := finite32 r.maxS && fle 0x49000000 r.maxS
    let delta := t.fl 0x8C
    let terms := if t.distils then (ts.zip e.teacher).map (fun p => (p.1.2, wordScore p.2)) else []
    let loss := if st == .ok then
        lossValue (hardWeight (t.fl 0x88) delta) (t.fl 0x88) delta (t.fl 0x90) r.lse mu (wordScore e.target) terms
      else nan32
    ({ loss := loss, lse := r.lse,
       target := if r.invalid || holders e.target != 1 then nan32 else wordScore e.target,
       mean := mu, count := e.count, status := st, flags := bit (clamped || high) 1 }, mean.fl)

/-- The digests of a LOSS (R48). -/
def Ticket.lossDigests (t : Ticket) (recs : List LossRec) : List U64 :=
  let dig (tag : Nat) (f : LossRec → Nat) : U64 :=
    BitVec.ofNat 64 (digestOf tag ((recs.zip (upto recs.length)).map (fun e => (t.p0 + e.2, f e.1))))
  [dig (t.f 0xA0 4) (fun r => r.loss.toNat), dig (t.f 0xA4 4) (fun r => r.lse.toNat),
    dig (t.f 0xA8 4) (fun r => r.target.toNat), dig 0xFFFFFFFF (fun r => r.status.value)]

/-- Round 1 of a LOSS is complete: every row is evaluated and the loss tensor written (R254, R256). -/
def State.lossDone (s : State) (t : Ticket) (rows : List RowRec) : State :=
  let cast := (s.castRows t).rows
  let outs := ((cast.zip rows).zip (upto rows.length)).map (fun e =>
    s.lossRow t e.2 e.1.1 (s.ctx (t.b 0x9C + e.2)).summary.clamped (cleanRow e.1.2))
  let recs := outs.map Prod.fst
  let s1 := (recs.zip (upto recs.length)).foldl (fun (s : State) e =>
    s.writeHost t.seq (t.f 0x70 8 + 32 * e.2) e.1.bytes) s
  (s1.addFlags t.seq (orFlags (outs.map Prod.snd))).finishWith t.seq (fun res => { res with
    digests := t.lossDigests recs, rows := recs.length, notOk := countNotOk (recs.map LossRec.status) })

/-- The work of a LOSS: score the tokens; the records follow when round 1 ends (09). -/
def State.doLoss (s : State) (t : Ticket) (r : Running) : State :=
  if t.smooths && !r.streamed && s.egBroken t then s.mismatch t.seq else s.lossScore t r

end Sys2Proof.Machine
end

