-- ==== Sys2Proof/Machine/Grad.lean ====
section
/-! DEFINITION. GRAD (R257 to R266): the gradient of a row, the products dHidden and dW, their outputs and digests. -/
namespace Sys2Proof.Machine

/-- E of one value, with E(0) = −128 (R61, R260). -/
def exp32 (x : F32) : Int := maxExp [dec32 x]

/-! ### The gradient of a row (R257 to R260) -/

/-- The row status that a loss record holds (R257). -/
def recStatus (code : Nat) : Status :=
  if code = 2 then .emptyRow else if code = 3 then .invalidRow else if code = 0x10 then .range else .ok

/-- The row status of token i in GRAD: its record's, and OK for an ignored token (R257). -/
def State.gradStatus (s : State) (t : Ticket) (i : Nat) : Status :=
  if s.ignored t i then .ok else recStatus (byteAt (s.lossRec t i) 0x14)

/-- The token forms a gradient: its record is OK and it is not ignored (R257). -/
def State.gradLive (s : State) (t : Ticket) (i : Nat) : Bool := !(s.ignored t i) && byteAt (s.lossRec t i) 0x14 == 0

/-- The gradient of one row: g_v of every column, γ_i, and the flags raised. -/
structure GRow where
  g : List F32
  gamma : Int
  live : Bool
  fl : U16
  deriving DecidableEq, Repr, Inhabited

/-- What R258 forms once per row. -/
structure GradTerms where
  filuf2 : Bool
  h : F32
  base : F32
  a : F32
  lse : F32
  delta : F32
  sigma : F32
  target : Nat
  teachers : List (Nat × F32)
  deriving DecidableEq, Repr, Inhabited

/-- a := 1 + 2·z·LSE (R258). -/
def gradFactor (z lse : F32) : R32 :=
  if isZero32 z then R32.pure 0x3F800000
  else ((fmul z lse).bind (fun q => fadd q q)).bind (fun q => fadd 0x3F800000 q)

/-- t of a column (R258). -/
def gradTarget (k : GradTerms) (v : Nat) : R32 :=
  let t1 := if v = k.target then fadd k.base k.h else R32.pure k.base
  match k.teachers.find? (fun e => e.1 == v && flt 0 e.2) with
  | some e => let w := fmul k.delta e.2; let t2 := t1.bind (fun x => fadd x w.v); ⟨t2.v, t2.fl ||| w.fl⟩
  | none => t1

/-- g_v of an unmasked column (R258). -/
def gradElem (k : GradTerms) (v : Nat) (sc : F32) : R32 :=
  let t := gradTarget k v
  let e := (fsub sc k.lse).bind (builtin32 k.filuf2 0x01)
  let r := if k.a = 0x3F800000 then e else e.bind (fun x => fmul k.a x)
  let g := (r.bind (fun x => fsub x t.v)).bind (fun x => fmul k.sigma x)
  ⟨g.v, g.fl ||| t.fl⟩

/-- The terms of token i and the flags of forming them (R258). -/
def State.gradTerms (s : State) (t : Ticket) (i : Nat) : GradTerms × U16 :=
  let r := s.lossRec t i
  let lse := f32At r 4
  let base := if t.smooths then fdiv (t.fl 0x88) (nat32 (field r 0x10 4)).v else R32.pure 0
  let a := gradFactor (t.fl 0x90) lse
  ({ filuf2 := s.filuf2, h := hardWeight (t.fl 0x88) (t.fl 0x8C), base := base.v, a := a.v, lse := lse, delta := t.fl 0x8C,
     sigma := t.fl 0x94, target := s.target t i,
     teachers := if t.distils then validTeachers (s.teacher t i) else [] }, base.fl ||| a.fl)

/-- The gradient of token i (R257 to R260). -/
def State.gradRow (s : State) (t : Ticket) (i : Nat) (scores : List Score) : GRow :=
  if s.gradLive t i then
    let (k, fl) := s.gradTerms t i
    let gs := scores.map (fun x => if x.masked then R32.pure 0 else gradElem k x.id x.v)
    ⟨gs.map R32.v, exp32 k.sigma + max (exp32 k.a) 0 + 3, true, fl ||| flagsOf gs⟩
  else ⟨scores.map (fun _ => 0), exp32 (t.fl 0x94) + 3, false, 0⟩

/-- A row whose record is OK holds a NaN or an unmasked +∞, so the loss tensor is not of these inputs (R258). -/
def State.lossForeign (s : State) (t : Ticket) (i : Nat) (scores : List Score) : Bool :=
  s.gradLive t i && scores.any (fun x => !x.masked && (isNaN32 x.v || x.v == pinf32))

/-! ### The operands (R259) -/

/-- A g_v as it enters the array (R259). -/
def gOperand (f : NumFmt) (g : F32) : FVal × U16 :=
  if f == .fp32 then (dec32 g, 0) else let r := fromF32 roundEven f g; (decodeF f r.bits, r.flags)

/-- A token as the products take it: its cast row, its gradient operands and their exponents. -/
structure GTok where
  index : Nat
  ys : List FVal
  gs : List FVal
  gamma : Int
  live : Bool
  deriving DecidableEq, Repr, Inhabited

/-- The gradient operand format (R245). -/
def Ticket.gFmt (t : Ticket) : NumFmt := (NumFmt.ofCode (t.b 0x99)).getD .fp32

/-- The tokens of a GRAD with their operands, and the flags raised. -/
def State.gradToks (s : State) (t : Ticket) (rows : List (CastRow × List Score)) : List GTok × U16 :=
  let out := (rows.zip (upto rows.length)).map (fun (e : (CastRow × List Score) × Nat) =>
    let g := s.gradRow t e.2 e.1.2
    let ops := g.g.map (gOperand t.gFmt)
    ((⟨e.2, e.1.1.vals, ops.map Prod.fst, g.gamma, g.live⟩ : GTok), g.fl ||| orFlags (ops.map Prod.snd)))
  (out.map Prod.fst, orFlags (out.map Prod.snd))

/-- Add g × xs to long words, element by element. -/
def addScaled (top : Int) (f32 : Bool) (acc : List LWord) (g : FVal) (xs : List FVal) : List LWord :=
  (acc.zip xs).map (fun p => p.1.add (mulLW top f32 false false g p.2))

/-- The window top of a token's dHidden (R261, R264). -/
def Ticket.hiddenTop (t : Ticket) (gamma : Int) : Int := gamma + t.eg + 2

/-- A member's part of the dHidden of a token (R261). -/
def Ticket.hiddenWords (t : Ticket) (cols : List Column) (k : GTok) : List LWord :=
  (k.gs.zip cols).foldl (fun acc e => addScaled (t.hiddenTop k.gamma) (t.gFmt == .fp32) acc e.1 e.2.vals)
    (List.replicate t.desc.h LWord.zero)

/-! ### dW (R263 to R265) -/

/-- The tokens of local chunk m that enter its products (R263). -/
def State.chunkToks (s : State) (m : Nat) (toks : List GTok) : List GTok :=
  toks.filter (fun k => k.live && k.index / s.profile.dwChunk.toNat == m)

/-- The window top of a chunk (R263). -/
def chunkTop (ks : List GTok) : Int :=
  match ks with
  | [] => 0
  | k :: l => l.foldl (fun a x => max a (maxExp x.ys)) (maxExp k.ys) + l.foldl (fun a x => max a x.gamma) k.gamma + 2

/-- The long words of row j of a chunk (R263). -/
def Ticket.chunkWords (t : Ticket) (top : Int) (ks : List GTok) (j : Nat) : List LWord :=
  ks.foldl (fun acc k => addScaled top (t.gFmt == .fp32) acc (k.gs.getD j default) k.ys) (List.replicate t.desc.h LWord.zero)

/-- The first address of row j of local chunk m (R264). -/
def Ticket.dwAddr (t : Ticket) (m j : Nat) : Nat := t.f 0xB0 8 + m * t.f 0xB8 8 + j * t.f 0xC0 8

/-- The areas that a GRAD writes besides the activation port: dW rows, dW tops and dHidden tops (R264). -/
def State.gradOuts (s : State) (t : Ticket) : List (Nat × Nat) :=
  let fw := outFmt (t.b 0x9B)
  let chunks := ceilDiv t.tokens s.profile.dwChunk.toNat
  (upto chunks).flatMap (fun m => (upto t.desc.columns).map (fun j => (t.dwAddr m j, t.desc.h * fw.bytes))) ++
  (if fw == .lw128 then [(t.f 0xC8 8, 2 * chunks)] else []) ++
  (if outFmt (t.b 0x9A) == .lw128 then [(t.f 0xD0 8, 2 * t.tokens)] else [])

/-- The areas that a GRAD reads: its lists, and the image that it streams. -/
def State.gradIns (s : State) (t : Ticket) : List (Nat × Nat) :=
  let d := t.desc
  s.listRanges t ++ (if s.resident t then [] else
    [(d.elem, d.sets * d.setBytes), (d.scale, d.sets * d.scaleBytes), (d.mdata, 32 * d.groups), (d.crc, 4 * d.sets),
      (d.map, if d.hasMap then 128 * d.groups else 0)])

/-- Every area of a GRAD but one of those it writes. -/
def State.gradOthers (s : State) (t : Ticket) (own : Nat × Nat) : List (Nat × Nat) :=
  (s.gradOuts t).erase own ++ s.gradIns t

/-- Write one row of dW and give its digest elements, with the flags and draws counted (R264, R265). -/
def State.dwRow (s : State) (t : Ticket) (m : Nat) (top : Int) (ks : List GTok) (j id : Nat) : List (Nat × Nat) × State :=
  let code := t.b 0x9B
  let sz := (outFmt code).bytes
  let h := t.desc.h
  let tag := (t.f 0xA4 4 + (t.p0 / s.profile.dwChunk.toNat + m)) % pow2 32
  let ws := t.chunkWords top ks j
  let r := s.roundLWs (s.partKey t.part) code tag t.stepValue top ((upto h).map (fun k => id * h + k) |>.zip ws)
  let own := (t.dwAddr m j, h * sz)
  (((upto h).map (fun k => id * h + k)).zip r.bits,
    (r.settle t.seq).putElems t.seq own.1 sz r.bits (s.gradOthers t own))

/-- Form and write dW of local chunk m; gives its digest (R263 to R265). -/
def State.dwChunk (s : State) (t : Ticket) (ids : List Nat) (toks : List GTok) (m : Nat) : Nat × State :=
  let ks := s.chunkToks m toks
  let top := chunkTop ks
  let tag := (t.f 0xA4 4 + (t.p0 / s.profile.dwChunk.toNat + m)) % pow2 32
  let fw := outFmt (t.b 0x9B)
  let out := (ids.zip (upto ids.length)).foldl (fun (acc : Nat × State) (e : Nat × Nat) =>
    let r := acc.2.dwRow t m top ks e.2 e.1
    ((acc.1 + digestFmt fw tag r.1) % m64, r.2)) (0, s)
  if fw == .lw128 then
    (out.1, out.2.putElems t.seq (t.f 0xC8 8 + 2 * m) 2 [unsigned 16 top]
      (s.gradOthers t (t.f 0xC8 8, 2 * ceilDiv t.tokens s.profile.dwChunk.toNat)))
  else out

/-- Form and write dW of every chunk; gives the digest of slot 1 (R265). -/
def State.dwAll (s : State) (t : Ticket) (ids : List Nat) (toks : List GTok) : Nat × State :=
  (upto (ceilDiv t.tokens s.profile.dwChunk.toNat)).foldl (fun (acc : Nat × State) m =>
    let r := acc.2.dwChunk t ids toks m
    ((acc.1 + r.1) % m64, r.2)) (0, s)

/-! ### The dHidden exchange (R262, R370) -/

/-- When each batch's dHidden is complete, and its long words (R106, R370): the batches of the figure set the ticks, those of the
command the words (R365; log 27). -/
def State.gradParts (s : State) (t : Ticket) (r : Running) : List (Nat × Nat) :=
  let sh := s.figureShape r
  let rows := max t.tokens (field sh 0x20 4)
  let n := max 1 s.activeTiles.length
  let p := if byteAt sh 0x27 = 6 then 3 else 1
  let norm := sumNat ((batches (shapePass sh) rows).map (fun v => max 64 (8 * v)))
  let each := (1 + 2 * p) * ceilDiv (ceilDiv (field sh 8 8) 32) n * shSets sh
  let bs := batches 64 rows
  ((batches 64 t.tokens).zip (upto bs.length)).map (fun e =>
    (96 + norm + each * sumNat ((bs.take (e.2 + 1)).map (max 32)) + 72 + 160, e.1 * t.desc.h))

/-- No element of a transposed set exceeds the largest column metadata byte of the shard, which is the exponent of every
transposed column (R98, R99). -/
def Desc.transposedOk (d : Desc) (m : Memory) : Bool :=
  let top := (upto d.groups).foldl (fun a g => (upto 32).foldl (fun a c => max a (d.metaOf m g c)) a) (-128)
  (upto d.sets).all (fun n => (upto 32).all (fun c => match d.setExp m n c with | some e => decide (e ≤ top) | none => true))

/-- A GRAD forms its gradient, writes dW and begins the exchange of dHidden (R257 to R265). -/
def State.gradProducts (s : State) (t : Ticket) (r : Running) (rows : List (CastRow × List Score)) (fl : U16) : State :=
  let (d, m) := s.shard t
  let cols := d.cols m
  let (toks, fl2) := s.gradToks t rows
  let out := s.dwAll t (cols.map Column.id) toks
  let s1 := (out.2.addFlags t.seq (fl ||| fl2)).modRun t.seq (fun r => { r with
    tops := toks.map (fun k => t.hiddenTop k.gamma)
    result := { r.result with digests := [0, BitVec.ofNat 64 out.1, 0, 0] } })
  s1.startWords t.seq s.settings.hopBudget.toNat (s1.gradParts t r) (toks.flatMap (t.hiddenWords cols))

/-- One row of dHidden: rounded, sent on the activation port (R262, R265). Gives its digest elements. -/
def State.hiddenRow (s : State) (t : Ticket) (i : Nat) (top : Int) (ws : List LWord) : List (Nat × Nat) × State :=
  let code := t.b 0x9A
  let h := t.desc.h
  let ix := (upto h).map (fun k => (t.p0 + i) * h + k)
  let r := s.roundLWs (s.partKey t.part) code (t.f 0xA0 4) t.stepValue top (ix.zip ws)
  let s1 := (r.settle t.seq).sendAct t.seq (r.bits.flatMap (leBytes (outFmt code).bytes))
  let s2 := if outFmt code == .lw128 then
      s1.putElems t.seq (t.f 0xD0 8 + 2 * i) 2 [unsigned 16 top] (s.gradOthers t (t.f 0xD0 8, 2 * t.tokens))
    else s1
  (ix.zip r.bits, s2)

/-- The exchange of dHidden is complete: every row is rounded and sent, and the command has its result (R262, R265, R48). -/
def State.gradDone (s : State) (t : Ticket) (r : Running) (ws : List LWord) : State :=
  let h := t.desc.h
  let fh := outFmt (t.b 0x9A)
  let tag := t.f 0xA0 4
  let out := ((r.tops.zip (chunksOf h ws.length ws)).zip (upto r.tops.length)).foldl
    (fun (acc : Nat × State) (e : (Int × List LWord) × Nat) =>
      let x := acc.2.hiddenRow t e.2 e.1.1 e.1.2
      ((acc.1 + digestFmt fh tag x.1) % m64, x.2)) (0, s)
  let sts := (upto t.tokens).map (s.gradStatus t)
  let d3 := digestOf 0xFFFFFFFF ((sts.zip (upto sts.length)).map (fun (e : Status × Nat) => (t.p0 + e.2, e.1.value)))
  out.2.finishWith t.seq (fun res => { res with
    digests := [BitVec.ofNat 64 out.1, res.digests.getD 1 0, 0, BitVec.ofNat 64 d3],
    rows := t.tokens, notOk := countNotOk sts })

/-- The work of a GRAD: score again, form the gradient and its products (09). -/
def State.doGrad (s : State) (t : Ticket) (r : Running) : State :=
  if !r.streamed && s.egBroken t then s.mismatch t.seq
  else
    let (rows, fl, s1) := s.trainScores t
    if (rows.zip (upto rows.length)).any (fun (e : (CastRow × List Score) × Nat) => s.lossForeign t e.2 e.1.2) then
      s1.endLaunch t.seq .format
    else if !((s.shard t).1.transposedOk (s.shard t).2) then s1.mismatch t.seq
    else s1.gradProducts t r rows fl

end Sys2Proof.Machine
end

