-- ==== Sys2Proof/Machine/Tensor.lean ====
section
/-! DEFINITION. REDUCE (R267 to R270), FUNC (R177, R199 to R201), FILL (R280 to R283) and DIGEST (R46, R349). -/
namespace Sys2Proof.Machine

/-! ### Elements of tensors (R171 to R175) -/

/-- Two descriptors alias element for element (R175). -/
def Tens.alias (a b : Tens) : Bool :=
  a.base == b.base && a.code == b.code && a.sizes == b.sizes && a.strides == b.strides && !a.gather && !b.gather

/-- The places of a tensor's elements; one whose index lies beyond the limit has none (R174). -/
def State.places (s : State) (d : Tens) : List (Nat × Nat) :=
  (upto d.count).map (fun i => match d.addr s.mem i with | some a => (a, d.fmt.bytes) | none => (0, 0))

/-- The places that element i of a list overlaps in another list, apart from entry i where the two alias. -/
def overlapsOther (i : Nat) (p : Nat × Nat) (l : List (Nat × Nat)) (skip : Bool) : Bool :=
  (l.zip (upto l.length)).any (fun e => !(skip && e.2 == i) && rangesMeet p e.1)

/-- The ranges of two tensors are apart, gathered index vector included. -/
def tensApart (d o : Tens) : Bool := d.ranges.all (fun a => o.ranges.all (fun b => !(rangesMeet a b)))

/-- The bits of the elements of an input tensor; an element that an output overlaps in any other way than element for
element has an undefined value (R174, R175; log 33). -/
def State.inBits (s : State) (d : Tens) (out : Option Tens) : List Nat × State :=
  let plain := (upto d.count).map (d.get s.mem)
  match out with
  | none => (plain, s)
  | some o =>
    if tensApart d o then (plain, s)
    else
      let op := s.places o
      let r := ((plain.zip (s.places d)).zip (upto d.count)).foldl (fun (acc : List Nat × State) e =>
        if overlapsOther e.2 e.1.2 op (d.alias o) then
          let f := acc.2.openBytes d.fmt.bytes
          (leNat f.1 :: acc.1, f.2)
        else (e.1.1 :: acc.1, acc.2)) ([], s)
      (r.1.reverse, r.2)

/-- The elements of an output tensor whose places overlap another element's, or a place that the command reads: of its input
tensor, its index vector, or another operand. -/
def State.outClash (s : State) (o : Tens) (inp : Option Tens) (others : List (Nat × Nat)) : List Bool :=
  let op := s.places o
  let reads := match inp with
    | some d => if tensApart d o then [] else s.places d
    | none => []
  let ix := match inp with
    | some d => if d.gather then rangeOf d.ibase (4 * d.size d.gdim) else []
    | none => []
  let al := match inp with | some d => d.alias o | none => false
  (op.zip (upto op.length)).map (fun e =>
    overlapsOther e.2 e.1 op true || overlapsOther e.2 e.1 reads al || (ix ++ others).any (rangesMeet e.1))

/-- Write elements of an output tensor (R175); `els` are (linear index, bits). -/
def State.putTensor (s : State) (q : Nat) (o : Tens) (inp : Option Tens) (els : List (Nat × Nat))
    (others : List (Nat × Nat) := []) : State :=
  let clash := s.outClash o inp others
  els.foldl (fun (s : State) e => s.putElem q ((o.addr s.mem e.1).getD 0) o.fmt.bytes e.2 (clash.getD e.1 false)) s

/-! ### REDUCE (R267 to R270) -/

/-- The top of row r of addend a (R349). -/
def State.reduceTop (s : State) (t : Ticket) (r a : Nat) : Int :=
  signed 16 (leNat (s.host (t.f 0x80 8 + 2 * (a * t.inT.size 1 + r)) 2))

/-- The top tensor that a REDUCE reads (R267, R349). -/
def Ticket.topRange (t : Ticket) : List (Nat × Nat) := rangeOf (t.f 0x80 8) (2 * t.inT.size 1 * t.inT.size 2)

/-- Each row's largest local top (R268). -/
def State.reduceTops (s : State) (t : Ticket) : List Int :=
  (upto (t.inT.size 1)).map (fun r => (upto (t.inT.size 2)).foldl (fun m a => max m (s.reduceTop t r a)) (-32768))

/-- The figure offset at which the top maximum begins (R370). -/
def State.reduceAt (s : State) (r : Running) : Nat := 96 + field (s.figureShape r) 0x16 2

/-- The figure offset at which the long-word exchange begins (R370). -/
def State.reduceSumAt (s : State) (t : Ticket) (e : Exch) : Nat :=
  e.t0 + 2 * s.settings.depth.toNat * e.slot + ceilDiv (16 * t.inT.count) 1920

/-- The work of a REDUCE: the tops of its rows go into the top maximum (R268). -/
def State.doReduce (s : State) (t : Ticket) (r : Running) : State :=
  s.startExch t.seq exTops 0 (s.reduceAt r) (s.slotOf (s.stretch (2 * t.inT.size 1))) (.tops (s.reduceTops t))

/-- The local sum of one element under its row's common top (R67, R268, R269). -/
def State.reduceElem (s : State) (t : Ticket) (bits : List Nat) (top : Int) (r e : Nat) : LWord :=
  let n := t.inT.size 0
  let rows := t.inT.size 1
  (upto (t.inT.size 2)).foldl (fun acc a =>
    acc.add (lwShift (lwRead (leBytes 16 (bits.getD (e + n * (r + rows * a)) 0))) (s.reduceTop t r a) top)) LWord.zero

/-- The top maximum of a REDUCE is complete: the addends are shifted and summed, and the long-word exchange begins (R268). -/
def State.reduceSums (s : State) (t : Ticket) (e : Exch) (tops : List Int) : State :=
  let (bits, s1) := s.inBits t.inT (some t.outT)
  let ws := (tops.zip (upto tops.length)).flatMap (fun p =>
    (upto (t.inT.size 0)).map (fun k => s.reduceElem t bits p.1 p.2 k))
  (s1.modRun t.seq (fun r => { r with tops := tops })).startWords t.seq s.settings.hopBudget.toNat
    [(s.reduceSumAt t e, ws.length)] ws

/-- The member writes row r (R270). -/
def State.reduceWrites (s : State) (t : Ticket) (r : Nat) : Bool :=
  t.b 0x91 == 0 || r * s.settings.groupSize.toNat / max 1 (t.inT.size 1) == s.settings.memberId.toNat

/-- Write one row of a REDUCE (R268, R269). -/
def State.reduceRow (s : State) (t : Ticket) (r : Nat) (top : Int) (ws : List LWord) : State :=
  if !(s.reduceWrites t r) then s
  else
    let code := t.b 0x90
    let n := t.inT.size 0
    let ix := (upto n).map (fun k => r * n + k)
    let x := s.roundLWs (s.partKey t.part) code t.outT.tag t.stepValue top (ix.zip ws)
    let s1 := (x.settle t.seq).putTensor t.seq t.outT (some t.inT) (ix.zip x.bits) t.topRange
    if outFmt code == .lw128 then s1.writeHost t.seq (t.f 0x88 8 + 2 * r) (leBytes 2 (unsigned 16 top)) else s1

/-- The long-word exchange of a REDUCE is complete (R268). -/
def State.reduceDone (s : State) (t : Ticket) (r : Running) (ws : List LWord) : State :=
  let n := t.inT.size 0
  let s1 := ((r.tops.zip (upto r.tops.length))).foldl (fun (s : State) e =>
    s.reduceRow t e.2 e.1 ((ws.drop (e.2 * n)).take n)) s
  let st : Status := if t.inT.outOfLimit s.mem then .range else .ok
  s1.finishWith t.seq (fun res => { res with status := st })

/-! ### FUNC (R177 to R184, R199) -/

/-- The micro-program of a function id with the overlays it refers to, in reference order (R195). -/
def State.program (s : State) (fid : Nat) : Option (MicroProg × List Overlay) :=
  (s.micro fid).map (fun p => (p, (upto p.refs).map (fun k =>
    Overlay.mk ((s.overlays.find? (fun o => sha384 o == p.refDigest k)).getD []))))

/-- One element of FUNC: the function of an FP32 argument, rounded once to the output format (R180, R199, R279). -/
def Rounded.addFunc (a : Rounded) (prog : Option (MicroProg × List Overlay)) (fid : Nat) (f : NumFmt)
    (key : Nat × Nat) (stoch : Bool) (tag step i : Nat) (x : F32) : Rounded :=
  match prog with
  | some p =>
    let y := microEval p.1 p.2 x
    let d := dy32 y.v
    let (rule, n, s1) := a.st.rndRule key stoch tag step i (restOf f d.m.natAbs d.e)
    let r := fromF32 rule f y.v
    { bits := r.bits :: a.bits, fl := a.fl ||| y.fl ||| r.flags, draws := a.draws + n, st := s1 }
  | none =>
    let fil := a.st.filuf2
    let d := if fid = 0 then dy32 x else tableValue (genOf fil fid) fid (dy32 x)
    let rest := (specialArg fid f x).isNone && restOf f d.m.natAbs d.e
    let (rule, n, s1) := a.st.rndRule key stoch tag step i rest
    let r := builtin fil fid stoch rule f x
    { bits := r.bits :: a.bits, fl := a.fl ||| r.flags, draws := a.draws + n, st := s1 }

/-- The work of a FUNC: a function of every element of the input tensor, in linear order (07). -/
def State.doFunc (s : State) (t : Ticket) : State :=
    let (bits, s0) := s.inBits t.inT (some t.outT)
    let prog := s.program (t.b 0x90)
    let r := (bits.zip (upto bits.length)).foldl (fun (a : Rounded) (e : Nat × Nat) =>
      a.addFunc prog (t.b 0x90) t.outT.fmt (s.partKey t.part) (t.b 0x91 == 1) t.outT.tag t.stepValue e.2
        (toF32 t.inT.fmt e.1)) ⟨[], 0, 0, s0⟩
    let els := (upto bits.length).zip r.bits.reverse
    let st : Status := if t.inT.outOfLimit s.mem then .range else .ok
    ((r.settle t.seq).putTensor t.seq t.outT (some t.inT) els).finishWith t.seq (fun res => { res with status := st })

/-! ### FILL (R280 to R283, R286) -/

/-- A normal value of a Box–Muller pair (R282): `turn` selects cos or sin. -/
def boxMuller (filuf2 : Bool) (u1 u2 : F32) (cosine : Bool) : R32 :=
  let rad := ((builtin32 filuf2 0x03 u1).bind (fun l => fmul 0xC0000000 l)).bind (builtin32 filuf2 0x09)
  let c := builtin32 filuf2 (if cosine then 0x21 else 0x20) u2
  let z := rad.bind (fun r => fmul r c.v)
  ⟨z.v, z.fl ||| c.fl⟩

/-- The unscaled value of element i of a fill under Flurry (R281, R282). -/
def fillFlurry (filuf2 : Bool) (normal inverse : Bool) (key : Nat × Nat) (tag step i : Nat) : R32 :=
  if !normal then R32.pure (uniformU (drawTensor key 0x04 tag step i).1)
  else if inverse then builtin32 filuf2 0x1A (uniformV (drawTensor key 0x05 tag step i).1)
  else
    let d := drawTensor key 0x05 tag step (i / 2)
    boxMuller filuf2 (uniformV d.1) (uniformU d.2) (i % 2 == 0)

/-- The unscaled value of an element under Sleet, with the outputs it takes (R286). -/
def State.fillSleet (s : State) (normal inverse : Bool) : R32 × Nat × State :=
  let (a, s1) := s.sleetDraw
  if !normal then (R32.pure (sleetU a), 1, s1)
  else if inverse then (builtin32 s.filuf2 0x1A (sleetV a), 1, s1)
  else
    let (b, s2) := s1.sleetDraw
    (boxMuller s.filuf2 (sleetV a) (sleetU b) true, 2, s2)

/-- One element of FILL (R281 to R283). -/
def Rounded.addFill (a : Rounded) (t : Ticket) (key : Nat × Nat) (i : Nat) : Rounded :=
  let normal := t.b 0x90 == 1
  let inverse := a.st.profile.normalMethod == 1
  let (u, n, s1) := if a.st.profile.fillSrc == 1 then a.st.fillSleet normal inverse
    else (fillFlurry a.st.filuf2 normal inverse key t.outT.tag t.stepValue i, 0, a.st)
  let p1 := t.fl 0x94
  let p2 := t.fl 0x98
  let d := if normal then R32.pure p2 else fsub p2 p1
  let y := u.bind (fun z => ffma z d.v p1)
  let r := fromF32 roundEven t.outT.fmt y.v
  { bits := r.bits :: a.bits, fl := a.fl ||| y.fl ||| d.fl ||| r.flags, draws := a.draws + n, st := s1 }

/-- The work of a FILL: random values into the output tensor (10). -/
def State.doFill (s : State) (t : Ticket) : State :=
    let r := (upto t.outT.count).foldl (fun (a : Rounded) i => a.addFill t (s.partKey t.part) i) ⟨[], 0, 0, s⟩
    ((r.settle t.seq).putTensor t.seq t.outT none ((upto t.outT.count).zip r.bits.reverse)).finishWith t.seq id

/-! ### DIGEST (R46, R47, R349) -/

/-- The digest of a tensor under its tag. -/
def State.tensorDigest (s : State) (d : Tens) : Nat :=
  digestFmt d.fmt d.tag ((upto d.count).map (fun i => (i, d.get s.mem i)))

/-- The work of a DIGEST: D of the tensor, written at the digest address and in the completion record (R349). -/
def State.doDigest (s : State) (t : Ticket) : State :=
    let v := s.tensorDigest t.inT
    let st : Status := if t.inT.outOfLimit s.mem then .range else .ok
    (s.writeHost t.seq (t.f 0x80 8) (leBytes 8 v)).finishWith t.seq (fun res =>
      { res with status := st, value := BitVec.ofNat 64 v })

end Sys2Proof.Machine
end

