-- ==== Sys2Proof/Machine/Pump.lean ====
section
/-! DEFINITION. The frames that wait in the receive queues, and the progress of exchanges (R304, R305, R307, R316 to R320):
which frame a member expects, merging it, passing it over, and what follows a completed exchange. -/
namespace Sys2Proof.Machine

/-! ### What an exchange leads to -/

/-- The rest of a command once an exchange is complete (R314). -/
def State.exchDone (s : State) (t : Ticket) (r : Running) (e : Exch) (p : Payload) : State :=
  match p with
  | .rows l => if t.op == .loss then s.lossDone t l else s.round1Done t r e l
  | .gather l => s.round2Done t r e l
  | .tops l => s.reduceSums t e l
  | .words l => if t.op == .grad then s.gradDone t r l else s.reduceDone t r l

/-- An exchange waits for a frame on a link that is not up (R303). -/
def State.linkLost (s : State) (e : Exch) : Bool := (s.awaited e).any (fun p => (s.port p).state != .up)

/-- Take one step of a running exchange that needs no further frame: close a merged segment, or go on from the result. One
that waits on a link that is down ends its launch (R303; log 38). -/
def State.exchStep (s : State) (t : Ticket) (r : Running) : Option State :=
  match r.exch with
  | none => s.passStep t r
  | some e =>
    if r.phase != .exchanging then none
    else if s.linkLost e then some (s.endLaunch t.seq .unrecovered)
    else if e.merging && e.need.isEmpty then some (s.closeSegment t e)
    else e.result.map (s.exchDone t r e)

/-! ### Which frame is expected (R304) -/

/-- A launched figure still expects a frame on a port: of its exchanges on a tree port, or its CHECK frame. -/
def State.expects (s : State) (p : Fin 4) (t : Ticket) : Bool :=
  t.running &&
  ((s.groupOpen t && s.isTree p) ||
    (t.crossCheck && t.checkPort == p && match t.run with | some r => r.phase != .finished | none => false))

/-- Launch order of running figures. -/
def runsBefore (a b : Ticket) : Bool :=
  match a.run, b.run with
  | some x, some y => decide (x.launchTick < y.launchTick) || (x.launchTick == y.launchTick && decide (a.seq < b.seq))
  | _, _ => false

/-- The ticket whose frame a port carries next (R304). -/
def State.nextOn (s : State) (p : Fin 4) : Option Ticket := (sortBy runsBefore (s.tickets.filter (s.expects p))).head?

/-- The figure offset of the frame that an exchange expects on a port (R305, R307). -/
def State.frameOffset (s : State) (e : Exch) (p : Fin 4) : Nat :=
  let big := s.settings.depth.toNat
  let d := s.memberDepth.toNat
  let parent := s.parentPort == some p
  (if parent then e.startOf e.down + (big + d) * e.slot else e.startOf e.segment + (big - d) * e.slot) - 64

/-- The segment that an exchange expects on a port. -/
def State.segmentOn (s : State) (e : Exch) (p : Fin 4) : Nat := if s.parentPort == some p then e.down else e.segment

/-- A payload of the length that the expected frame carries. -/
def State.patternOn (s : State) (e : Exch) (p : Fin 4) : Payload :=
  match e.acc with
  | .words _ => .words (List.replicate (e.sizes.getD (s.segmentOn e p) 0) LWord.zero)
  | x => x

/-- Top-list lengths of the rows of a command (R210, R308). -/
def State.mergeLens (s : State) (t : Ticket) : List Nat :=
  (upto (s.rowCount t)).map (fun i => if t.op == .loss then 0 else (s.rowFold t i).len)

/-! ### Taking the frame at the head of a port's queue -/

/-- Take the head of a port's receive queue: its entry is free again, and its credit goes back (R302). -/
def State.popFrame (s : State) (p : Fin 4) : State :=
  s.modPort p (fun pt => { pt with rxq := pt.rxq.drop 1, owed := pt.owed + 1 })

/-- A sequence fault ends the expected launch, counts and sends ABORT (R304). -/
def State.sequenceFault (s : State) (p : Fin 4) (t : Ticket) : State :=
  let s1 := ((s.popFrame p).bump .sequenceFaults 1).logError .block .reel p.val 0xFF .ended (some t.seq)
  let s2 := if s1.groupOpen t then s1 else s1.sendAbort t .unrecovered
  (s2.endLaunch t.seq .unrecovered).linkFault p (some t.seq)

/-- The frame is the one that a ticket's exchange expects on a port (R304). -/
def State.frameFits (s : State) (p : Fin 4) (t : Ticket) (e : Exch) (f : Frame) : Bool :=
  f.kind == ftExchange && f.part == t.part && f.groupSeq == t.groupSeq && f.exchange == e.kind && f.gather == e.gather &&
  f.segment == s.segmentOn e p

/-- Merge an expected frame: a child's into the summary of the subtree, the parent's as the merged result (R305, R308). -/
def State.mergeFrame (s : State) (p : Fin 4) (t : Ticket) (e : Exch) (f : Frame) (pay : Payload) : State :=
  let lack := bitAt f.flags 2
  let s1 := s.popFrame p
  if s.parentPort == some p then
    let seg := e.down
    let e1 := { e.keep pay with missing := e.missing || lack }
    (s1.sendDown t e seg lack pay).modRun t.seq (fun r => { r with exch := some e1 })
  else
    let e1 := { e with
      acc := Payload.merge (s.mergeLens t) e.acc pay, need := e.need.erase p, missing := e.missing || lack }
    s1.modRun t.seq (fun r => { r with exch := some e1 })

/-- Compare the partner's CHECK frame with the own one (R54, R316). -/
def State.takeCheck (s : State) (p : Fin 4) (t : Ticket) (r : Running) (f : Frame) : State :=
  let own := checkPayload (s.floeRecord t r r.result.status r.offset) r.result.status
  let s1 := s.popFrame p
  if f.payload == own then
    (s1.postAll t.seq).modRun t.seq (fun r => { r with phase := .finished, result := { r.result with checkEqual := true } })
  else (s1.bump .checkMismatches 1).endLaunch t.seq .unrecovered

/-- A frame that the member passed over (R320). -/
def State.passedOver (s : State) (p : Fin 4) (f : Frame) : Option Passed :=
  s.passed.find? (fun x => x.port == p && x.part == f.part && x.opcode == f.opcode && x.groupSeq == f.groupSeq &&
    x.exchange == f.exchange && x.gather == f.gather && x.segment == f.segment)

/-- Take the frame at the head of a port's queue, where its time has come (R19, R304, R320). -/
def State.takeFrame (s : State) (p : Fin 4) : Option State :=
  match (s.port p).rxq with
  | [] => none
  | f :: _ =>
    match s.passedOver p f with
    | some x => some ((({ s with passed := s.passed.erase x }).popFrame p).bump .framesDiscarded 1)
    | none =>
      match s.nextOn p with
      | none => none
      | some t =>
        match t.run with
        | none => none
        | some r =>
          if r.phase == .checking && t.crossCheck && t.checkPort == p then
            if decide (s.tick < r.checkRelease) then none
            else if f.kind == ftCheck && f.part == t.part && f.groupSeq == t.groupSeq && f.exchange == exCheck && f.gather == 0 &&
                f.segment == 0 then some (s.takeCheck p t r f)
            else some (s.sequenceFault p t)
          else
            match r.exch with
            | none => none
            | some e =>
              if !((s.awaited e).contains p) || decide (s.tick < r.launchTick + r.moved + s.frameOffset e p) then none
              else if !(s.frameFits p t e f) then some (s.sequenceFault p t)
              else
                match readPayload (s.payForm t) (s.patternOn e p) f.payload with
                | some pay => some (s.mergeFrame p t e f pay)
                | none => some ((s.popFrame p).bump .framesDiscarded 1)

/-! ### As far as it goes -/

/-- The first step that some exchange or queue can take. -/
def State.pumpOne (s : State) : Option State :=
  let runs := (sortBy runsBefore (s.tickets.filter Ticket.running)).filterMap (fun t => t.run.bind (s.exchStep t))
  match runs with
  | x :: _ => some x
  | [] => ([0, 1, 2, 3] : List (Fin 4)).findSome? s.takeFrame

/-- Take every step that exchanges and queues can take, at most the fuel. -/
def State.pumpAll : Nat → State → State
  | 0, s => s
  | n + 1, s => match s.pumpOne with
    | some s1 => State.pumpAll n s1
    | none => s

/-- More steps than any sequence of frames and segments takes. -/
def pumpFuel : Nat := 0x1000000

/-- Let exchanges and receive queues progress as far as they go. -/
def State.pump (s : State) : State := State.pumpAll pumpFuel s

/-! ### Late peers (R317 to R319, R56) -/

/-- The commands whose exchanges fall under the settle policy (R314). -/
def Op.policy (o : Op) : Bool := match o with | .step => true | .settle => true | .verify => true | .beam => true | _ => false

/-- The peer deadline of the frame that an exchange waits for has come (R317). -/
def State.peerDue (s : State) (r : Running) (e : Exch) : Bool :=
  !(s.awaited e).isEmpty && decide (s.releaseTick r e - e.waited + s.settings.peerGrace.toNat ≤ s.tick)

/-- Pass over the frames that an exchange waits for (R319). -/
def State.passOver (s : State) (t : Ticket) (e : Exch) : State :=
  let note (seg : Nat) (p : Fin 4) : Passed := ⟨p, t.part, t.op.code, t.groupSeq, e.kind, e.gather, seg⟩
  if e.merging && !e.need.isEmpty then
    ({ s with passed := s.passed ++ e.need.map (note e.segment) }).modRun t.seq (fun r => { r with
      exch := some { e with need := [], missing := true } })
  else
    let s1 := { s with passed := s.passed ++ s.parentPort.toList.map (note e.down) }
    (s1.sendDown t e e.down true e.acc).modRun t.seq (fun r => { r with
      exch := some { e with missing := true, down := e.down + 1, waited := 0, stalled := false, stallCount := 0 } })

/-- PEER_DEADLINE: a frame that is missing at its peer deadline is passed over under SETTLE_WITHOUT, else waited for further
(R318, R319). -/
def execPeerDeadline (ticket : Nat) (s : State) : Out :=
  s.awake fun s =>
    match s.launched ticket with
    | none => .fault .noSuchTicket
    | some (t, r) =>
      match r.exch with
      | none => .next s
      | some e =>
        if !(s.peerDue r e) || e.stalled then .next s
        else if t.op.policy && (s.part t.part).settleWithout then .next (s.passOver t e).pump
        else .next (s.modRun ticket (fun r => { r with exch := some { e with stalled := true } }))

/-- STALL_LIMIT: a wait beyond the peer deadline reaches the stall limit, and the launch ends (R318, R255). -/
def execStallLimit (ticket : Nat) (s : State) : Out :=
  s.awake fun s =>
    match s.launched ticket with
    | none => .fault .noSuchTicket
    | some (_, r) =>
      match r.exch with
      | none => .next s
      | some e =>
        let lim := s.settings.stallLimit.toNat
        if e.stalled && decide (lim ≠ 0 ∧ lim ≤ e.stallCount) then .next (s.endLaunch ticket .unrecovered).pump
        else .next s

/-- The check deadline of a command has come (R56). -/
def State.checkDue (s : State) (t : Ticket) (r : Running) : Bool :=
  if t.deadline ≠ 0 then decide (t.deadline ≤ s.count.toNat)
  else decide (r.checkDueFrom + s.settings.peerGrace.toNat + 8 * s.settings.stallLimit.toNat ≤ s.tick)

/-- CHECK_DEADLINE: the CHECK frame has not arrived, and the command ends with UNRECOVERED (R56). -/
def execCheckDeadline (ticket : Nat) (s : State) : Out :=
  s.awake fun s =>
    match s.launched ticket with
    | none => .fault .noSuchTicket
    | some (t, r) =>
      if r.phase == .checking && s.checkDue t r then
        .next ((s.bump .checkMisses 1).endLaunch ticket .unrecovered).pump
      else .next s

end Sys2Proof.Machine
end

