-- ==== Sys2Proof/Machine/Dict.lean ====
section
/-! DEFINITION. The object dictionary: its objects with their types, access and values (R399 to R412 and the object tables
of every chapter), and the rules of a write (R403 to R405, R414). -/
namespace Sys2Proof.Machine

/-! ### Objects -/

/-- The types of R401. -/
inductive OTyp where
  | bool | u8 | u16 | u32 | u64 | i8 | f32 | octets | text
  deriving DecidableEq, Repr, Inhabited

/-- The type code (R401). -/
def OTyp.code : OTyp → Nat
  | .bool => 1 | .u8 => 2 | .u16 => 3 | .u32 => 4 | .u64 => 5 | .i8 => 6 | .f32 => 8 | .octets => 0x0A | .text => 0x0B

/-- The access attributes of R402. -/
inductive OAcc where
  | const | ro | rw | rwIdle | wo | event
  deriving DecidableEq, Repr, Inhabited

/-- The access code (R402). -/
def OAcc.code : OAcc → Nat | .const => 1 | .ro => 2 | .rw => 3 | .rwIdle => 4 | .wo => 5 | .event => 6

/-- The classes of R406. -/
inductive OCls where
  | b | t | n
  deriving DecidableEq, Repr, Inhabited

/-- The class code of DESCRIBE (R419). -/
def OCls.code : OCls → Nat | .b => 1 | .t => 2 | .n => 3

/-- A sub-index: its type, size, access, class and present value. -/
structure Obj where
  typ : OTyp
  size : Nat
  acc : OAcc
  cls : OCls
  value : Unit → Bytes

/-- A number of `n` bytes. -/
def onum (t : OTyp) (n : Nat) (a : OAcc) (c : OCls) (v : Nat) : Obj := ⟨t, n, a, c, fun _ => leBytes n v⟩
/-- A U8. -/
def ou8 (a : OAcc) (c : OCls) (v : Nat) : Obj := onum .u8 1 a c v
/-- A U16. -/
def ou16 (a : OAcc) (c : OCls) (v : Nat) : Obj := onum .u16 2 a c v
/-- A U32. -/
def ou32 (a : OAcc) (c : OCls) (v : Nat) : Obj := onum .u32 4 a c v
/-- A U64. -/
def ou64 (a : OAcc) (c : OCls) (v : Nat) : Obj := onum .u64 8 a c v
/-- A BOOL. -/
def obool (a : OAcc) (v : Bool) : Obj := onum .bool 1 a .n (bit v 0)
/-- Read-only octets of class N. -/
def ooct (a : OAcc) (n : Nat) (v : Unit → Bytes) : Obj := ⟨.octets, n, a, .n, v⟩
/-- A text constant. -/
def otext (cs : List Nat) : Obj := ⟨.text, 16, .const, .n, fun _ => padTo 16 (ascii cs)⟩
/-- An object with several values: its sub-index 0 counts them (R399). -/
def omany (l : List Obj) : List Obj := ou8 .const .n l.length :: l
/-- A U64 counter. -/
def State.octr (s : State) (c : Counter) : Obj := ou64 .ro .n (s.counter c).toNat
/-- A sum of counters. -/
def State.osum (s : State) (l : List Counter) : Obj :=
  ou64 .ro .n ((l.foldl (fun (a : U64) c => a + s.counter c) 0).toNat)

/-! ### Values -/

/-- Vendor, product and variant texts (0x1000). -/
def textVendor : List Nat := [0x4E, 0x79, 0x6D, 0x72, 0x75, 0x6E]
def textProduct : List Nat := [0x46, 0x69, 0x6C, 0x75, 0x66, 0x2D, 0x33]
def Grade.variant (g : Grade) : List Nat :=
  [0x4E, 0x59, 0x4D, 0x2D, 0x46, 0x4C, 0x46, 0x33, 0x2D] ++ [match g with | .a => 0x41 | .b => 0x42 | .c => 0x43]

/-- The pin mismatch of R120. -/
def State.pinMismatch (s : State) : Bool :=
  s.tileNos.any (fun i => decide ((s.tile i).force.toNat / 16384 % 2 = 1)) &&
  s.tileNos.any (fun i => decide ((s.tile i).entry.toNat ≥ 0x8000) && (s.tile i).force != 0xC000)

/-- Degraded regions (0x6000.04). -/
def State.degradedMap (s : State) : Nat := sumNat ((upto 64).map (fun r => bit ((s.region r).state = .degraded) r))

/-- A Firn bank has no spare word (R396 [10]). -/
def State.sparesGone (s : State) : Bool := (upto 256).any (fun b => vget s.bankSpares b == 0)

/-- A tree port is not up after bring-up began (R396 [8]). -/
def State.treeDown (s : State) : Bool :=
  (s.startup == .ready || s.startup == .run || (s.startup == .whiteout && s.linksBegun)) &&
  s.treePorts.any (fun p => (s.port p).state != .up)

/-- The health word (R396). -/
def State.health (s : State) : Nat :=
  bit (s.startup == .whiteout) 31 + bit (s.reasons != 0) 30 + bit s.pinMismatch 29 + bit s.block.current.isSome 28 +
  s.activeTiles.length * 65536 + sumNat ((upto 4).map (fun i => bit (s.sliceOf i).fault (12 + i))) +
  bit (s.degradedMap != 0) 11 + bit s.sparesGone 10 + bit s.tableReloaded 9 + bit s.treeDown 8 + s.sparesInUse

/-- A loaded figure's entry (0x8030). -/
def State.figureEntry (s : State) (f : Figure) : Bytes :=
  padTo 64 (leBytes 2 f.id ++ leBytes 2 0 ++ leBytes 4 (f.declared s.activeTiles.length) ++ f.shape)

/-- Loaded figures in ascending id. -/
def State.figureList (s : State) : List Figure := sortBy (fun a b => decide (a.id < b.id)) s.figures

/-- The digest of a built-in table as its object gives it (0x8000, 0x8001). -/
def romDigest (gen fid : Nat) : Bytes :=
  let present := if gen = 0 then builtinIds.contains fid && fid != 0x21 else filuf2Ids.contains fid
  if present then sha384 (romFile gen fid) else List.replicate 48 0

/-- Role lockouts (0x5005.02, R431). -/
def State.lockouts (s : State) : Nat := sumNat ((upto 3).map (fun i => bit (decide (vget s.vault.failedProofs i ≥ 16)) i))

/-- The objects of a partition's rings (0x3040). -/
def Partition.ringObjs (q : Partition) : List Obj :=
  omany ((upto 4).map (fun i => ou64 .rwIdle .t (vget q.rings i).base.toNat) ++
    (upto 4).map (fun i => ou8 .rwIdle .t (vget q.rings i).size.toNat) ++
    (upto 4).map (fun i => ou16 .ro .n (vget q.rings i).head.toNat) ++
    (upto 4).map (fun i => ou16 .ro .n (vget q.rings i).tail.toNat))

/-- The four objects of an output ring (0x3080). -/
def OutRing.objs (r : OutRing) : List Obj :=
  [ou64 .rwIdle .t r.base.toNat, ou8 .rwIdle .t r.size.toNat, ou32 .ro .n r.write.toNat, ou32 .rw .n r.read.toNat]

/-- The identity and management objects (R412). -/
def State.idObjs (s : State) (i : Nat) : Option (List Obj) :=
  match i with
  | 0x1000 => some (omany [otext textVendor, otext textProduct, ou8 .const .n s.grade.code,
      ou8 .const .n (match s.stepping with | .a0 => 0xA0 | .b0 => 0xB0), otext s.grade.variant,
      ou8 .const .n s.grade.slices, ou8 .const .n s.grade.tiles, ou16 .const .n s.grade.lanes,
      ou16 .const .n s.grade.pages, ou16 .const .n 1])
  | 0x1100 => some (omany [ou8 .const .n 1, ou16 .const .n 1024, ou8 .const .n 4, ou16 .rw .n s.settings.idleLimit.toNat])
  | 0x1101 => some (omany [ou64 .rw .n s.settings.completionEvents.toNat, obool .rw s.settings.healthEvents])
  | 0x1102 => some (omany [ou64 .event .n s.pendingCompletions.toNat, obool .event s.pendingHealth])
  | _ => none

/-- The profile and its digest (R407, R408). -/
def State.profileObjs (s : State) (i : Nat) : Option (List Obj) :=
  let p := s.profile
  match i with
  | 0x2000 => some [ou32 .rwIdle .b p.vocab.toNat]
  | 0x2001 => some (omany [ou8 .rwIdle .b p.accumulation.toNat, ou8 .rwIdle .b p.fp32Passes.toNat])
  | 0x2002 => some [ou8 .rwIdle .b p.compatSlices.toNat]
  | 0x2003 => some [ou8 .rwIdle .b p.tableGen.toNat]
  | 0x2010 => some [onum .f32 4 .rwIdle .b p.corniceMargin.toNat]
  | 0x2011 => some [ou8 .rwIdle .b p.filterOrder.toNat]
  | 0x2020 => some [ou16 .rwIdle .b p.dwChunk.toNat]
  | 0x2030 => some [ou8 .rwIdle .b p.srCap.toNat]
  | 0x2031 => some (omany [ou8 .rwIdle .b p.gumbelSrc.toNat, ou8 .rwIdle .b p.srSrc.toNat, ou8 .rwIdle .b p.fillSrc.toNat])
  | 0x2040 => some [ou8 .rwIdle .b p.normalMethod.toNat]
  | 0x23FF => some [ooct .ro 48 (fun _ => s.profileDigest)]
  | _ => none

/-- The timing objects 0x2400 to 0x2406. -/
def State.timingObjs (s : State) (i : Nat) : Option (List Obj) :=
  let t := s.settings
  match i with
  | 0x2400 => some [ou16 .const .n 512]
  | 0x2401 => some [ou16 .rwIdle .t t.hopBudget.toNat]
  | 0x2402 => some (omany ((upto 64).map (fun p => ou8 .rwIdle .t (bit (s.part p).settleWithout 0))))
  | 0x2403 => some [ou16 .rwIdle .t t.driftBudget.toNat]
  | 0x2404 => some [ou16 .rwIdle .t t.peerGrace.toNat]
  | 0x2405 => some [ou32 .rwIdle .t t.stallLimit.toNat]
  | 0x2406 => some (omany [ou64 .ro .n s.count.toNat, onum .i8 1 .ro .n s.inputDiff.toNat,
      ou8 .ro .n (if !s.countLoaded then 0 else if s.slipPending then 2 else 1)])
  | _ => none

/-- The objects of a region (R133). -/
def Region.objs (g : Region) : List Obj :=
  omany [ou8 .rwIdle .t g.owner.toNat, ou16 .rwIdle .t g.base.toNat, ou16 .rwIdle .t g.pages.toNat,
    ou8 .rwIdle .t (bit g.work 0), ou8 .ro .n g.state.code]

/-- The objects of a stream context (R340). -/
def Ctx.objs (c : Ctx) : List Obj :=
  omany [ou8 .rw .t c.owner.toNat, ou8 .ro .n (bit c.holds 0), ou32 .ro .n c.id.toNat]

/-- The partitions, regions and contexts (0x3000 to 0x34FF). -/
def State.partObjs (s : State) (i : Nat) : Option (List Obj) :=
  if 0x3000 ≤ i ∧ i < 0x3040 then
    let q := s.part (i - 0x3000)
    some (omany [ou8 .rw .n q.state.code, ou16 .rwIdle .t q.quota.toNat, ou16 .ro .n (s.heldTickets (i - 0x3000))])
  else if 0x3040 ≤ i ∧ i < 0x3080 then some (s.part (i - 0x3040)).ringObjs
  else if 0x3080 ≤ i ∧ i < 0x30C0 then
    some (omany ((s.part (i - 0x3080)).comp.objs ++ (s.part (i - 0x3080)).floe.objs))
  else if 0x3300 ≤ i ∧ i < 0x3340 then some (s.region (i - 0x3300)).objs
  else if 0x3400 ≤ i ∧ i < 0x3500 then some (s.ctx (i - 0x3400)).objs
  else none

/-- The Reel objects (R293). -/
def State.reelObjs (s : State) (i : Nat) : Option (List Obj) :=
  let t := s.settings
  if i = 0x4000 then
    some (omany [ou16 .rwIdle .t t.memberId.toNat, ou16 .rwIdle .t t.groupSize.toNat, ou8 .rwIdle .t t.depth.toNat,
      ou8 .rwIdle .t t.parentPort.toNat, ou8 .rwIdle .t t.childPorts.toNat, ou32 .rwIdle .t t.groupTag.toNat,
      ou32 .rwIdle .t t.hopPayload.toNat, ou8 .ro .n s.memberDepth.toNat])
  else if 0x4001 ≤ i ∧ i ≤ 0x4004 then
    let p := s.port ⟨(i - 0x4001) % 4, Nat.mod_lt _ (by decide)⟩
    some (omany [ou16 .rwIdle .t p.rate.toNat, ou8 .ro .n p.state.code, ou16 .ro .n p.neighbour.toNat,
      ou32 .ro .n p.neighbourTag.toNat])
  else none

/-- The Vault's objects (R451). -/
def State.vaultObjs (s : State) (i : Nat) : Option (List Obj) :=
  let v := s.vault
  match i with
  | 0x5000 => some (omany [ou8 .ro .n v.state.code, ou32 .ro .n v.failures.toNat, ou8 .ro .n v.sessions.length])
  | 0x5001 => some (omany ((upto 64).map (fun p =>
      ou32 .ro .n (match (s.part p).seed with | some sd => sd.epoch.toNat | none => 0))))
  | 0x5002 => some [ou64 .ro .n (sumNat ((upto 64).map (fun p => bit (s.part p).seed.isSome p)))]
  | 0x5003 => some (omany ((upto 4).map (fun k => ooct .ro 16 (fun _ =>
      let key := vget v.verifyKeys k
      if key.isEmpty then List.replicate 16 0 else keyId key))))
  | 0x5004 => some [ooct .ro 16 (fun _ => v.auditId)]
  | 0x5005 => some (omany [s.octr .sessionsOpened, ou8 .ro .n s.lockouts, s.octr .seedImports, s.octr .seedImportFailures,
      s.octr .checkpointsSigned, s.octr .imageRefusals, ou8 .ro .n (bit v.tests.repFailed 0 + bit v.tests.propFailed 1),
      s.octr .drbgReseeds])
  | _ => none

/-- Health, sparing and the error log (R119, R396, R397). -/
def State.healthObjs (s : State) (i : Nat) : Option (List Obj) :=
  match i with
  | 0x6000 => some (omany [ou32 .ro .n s.health, ou8 .ro .n s.whiteoutCause.toNat, ou64 .ro .n s.whiteoutCount.toNat,
      ou64 .ro .n s.degradedMap])
  | 0x6001 => some (omany [obool .ro (s.reasons != 0), ou8 .ro .n s.reasons.toNat])
  | 0x6002 => some (omany (s.tileNos.map (fun t => ou16 .rwIdle .t (s.tile t).pinned.toNat)))
  | 0x6003 => some (omany (s.tileNos.map (fun t => ou16 .ro .n (s.tile t).live.toNat)))
  | 0x6010 => some (omany (ou32 .ro .n s.logWritten.toNat :: (upto 16).map (fun k => ooct .ro 32 (fun _ => vget s.log k))))
  | _ => none

/-- The counters of R372 and R374 (0x7011, 0x7012). -/
def retryCounters : List Counter :=
  [.retryTile, .retryColumn, .retryFirn, .retryDrift, .retryFrame, .retryGenerator]
def heldCounters : List Counter := [.inputHolds, .peerWaits, .stalls, .checkWaits, .creditWaits]

/-- The counters' index lists, each without its sub-index 0 and its totals. -/
def State.counterObjs (s : State) (i : Nat) : Option (List Obj) :=
  let many (l : List Counter) : Option (List Obj) := some (omany (l.map s.octr))
  match i with
  | 0x7010 => some (omany (ou64 .ro .n s.ndTotal.toNat :: [Counter.sleetDraws, .settledWithoutPeers, .sleetReseeds].map s.octr))
  | 0x7011 => some (omany (s.osum retryCounters :: retryCounters.map s.octr))
  | 0x7012 => some (omany (s.osum heldCounters :: (heldCounters ++ [Counter.deadlineStalls]).map s.octr))
  | 0x7013 => some [s.octr .varianceClamps]
  | 0x7014 => some [s.octr .maskedRange]
  | 0x7015 => some [s.octr .penaltyOverflows]
  | 0x7016 => many [.flurryMismatches, .sleetParity]
  | 0x7017 => some [s.octr .busyDoorbells]
  | 0x7018 => many [.slips, .preemptions, .preemptionShifts]
  | 0x7019 => many [.badFrames, .authFailures]
  | 0x7020 => many [.avalanchePasses, .avalancheRows]
  | 0x7021 => some [s.octr .ladderClamps]
  | 0x7022 => some [s.octr .continuedGathers]
  | 0x7030 => many [.checkMismatches, .checkMisses]
  | 0x7040 => many [.framesSent, .crcFailures, .resends, .framesDiscarded, .linkDowns, .sequenceFaults, .abortsOriginated,
      .abortsReceived]
  | 0x7050 => many [.cellResidue, .registerParity, .accumulatorResidue, .accumulatorCorrections, .accumulatorUncorrectable,
      .rowsBypassed, .tilesDisabled]
  | 0x7051 => many [.firnCorrections, .firnWeight, .backgroundRereads, .wordsRetired, .firnWork, .regionsDegraded, .scrubPasses]
  | 0x7052 => many [.driftCrc, .byteParity, .metadataMismatches]
  | 0x7053 => many [.laneMismatches, .moraineMismatches, .tableCorrections, .tableReloads, .contextsEmptied]
  | 0x7054 => many [.tileEscalations, .sliceEscalations, .hostEscalations, .tileOverflows, .sliceOverflows, .scheduleFaults]
  | _ => none

/-- Tables, micro-programs, figures and intakes (0x8000 to 0x8040). -/
def State.tableObjs (s : State) (i : Nat) : Option (List Obj) :=
  match i with
  | 0x8000 => some (omany ((upto 63).map (fun k => ooct .const 48 (fun _ => romDigest 0 (k + 1)))))
  | 0x8001 => some (omany ((upto 63).map (fun k => ooct .const 48 (fun _ => romDigest 1 (k + 1)))))
  | 0x8002 => some (omany ((upto 8).map (fun k => ooct .ro 48 (fun _ =>
      match s.overlays[k]? with | some f => sha384 f | none => List.replicate 48 0))))
  | 0x8010 => some (omany ((upto 192).map (fun k => ooct .ro 48 (fun _ =>
      match s.micros.find? (fun m => field m 6 1 == k + 0x40) with | some m => sha384 m | none => List.replicate 48 0))))
  | 0x8020 => some [ooct .const 48 (fun _ => leBytes 48 Config.knownAnswerDigest.toNat)]
  | 0x8030 => some (ou8 .ro .n s.figures.length :: s.figureList.map (fun f => ooct .ro 64 (fun _ => s.figureEntry f)))
  | 0x8031 => some [ou32 .ro .n (sumNat (s.figures.map (fun f => f.image.length)))]
  | 0x8040 => some (omany (List.replicate 3 (ooct .wo Config.intakeSize.toNat (fun _ => []))))
  | _ => none

/-- The object at an index: its sub-indices from 0 upward, none where no object exists (R399, R400, R411). -/
def State.object (s : State) (i : Nat) : Option (List Obj) :=
  if i < 0x2000 then s.idObjs i
  else if i < 0x2400 then s.profileObjs i
  else if i < 0x3000 then s.timingObjs i
  else if i < 0x4000 then s.partObjs i
  else if i < 0x5000 then s.reelObjs i
  else if i < 0x6000 then s.vaultObjs i
  else if i < 0x7000 then s.healthObjs i
  else if i < 0x8000 then s.counterObjs i
  else s.tableObjs i

/-! ### Reading -/

/-- A read takes its effect on the object: an EVENT sub-index clears the bits it returned, but for those set at this count
(R402, R413). -/
def State.readEffect (s : State) (i sub : Nat) : State :=
  if i = 0x1102 then
    if sub = 1 then { s with pendingCompletions := s.pendingCompletions &&& s.freshCompletions }
    else if sub = 2 then { s with pendingHealth := s.pendingHealth && s.freshHealth } else s
  else s

/-! ### The idle test (R403, R134) -/

/-- An owner byte's partition is idle; 0xFF names none. -/
def State.ownerIdle (s : State) (o : Nat) : Bool := decide (o ≥ 64) || s.partIdle o

/-- The partitions that a write needs idle are idle (R403, R134). A DICT counts its own partition as idle (R356). -/
def State.writeIdle (s : State) (i sub v : Nat) : Bool :=
  if i = 0x2402 then s.partIdle (sub - 1)
  else if 0x3000 ≤ i ∧ i < 0x30C0 then s.partIdle (i % 64)
  else if 0x3300 ≤ i ∧ i < 0x3340 then
    s.ownerIdle (s.region (i - 0x3300)).owner.toNat && (sub != 1 || s.ownerIdle v)
  else s.allIdle

/-! ### Writing -/

/-- Legal values of the class B objects (R408). -/
def Profile.put (p : Profile) (i sub v : Nat) : Option Profile :=
  match i, sub with
  | 0x2000, 0 => if 1 ≤ v ∧ v ≤ 2097152 then some { p with vocab := BitVec.ofNat 32 v } else none
  | 0x2001, 1 => if v ≤ 1 then some { p with accumulation := BitVec.ofNat 8 v } else none
  | 0x2001, 2 => if v ≤ 1 then some { p with fp32Passes := BitVec.ofNat 8 v } else none
  | 0x2002, 0 => if 1 ≤ v ∧ v ≤ 64 then some { p with compatSlices := BitVec.ofNat 8 v } else none
  | 0x2003, 0 => if v ≤ 1 then some { p with tableGen := BitVec.ofNat 8 v } else none
  | 0x2010, 0 => if posFinite (BitVec.ofNat 32 v) || v == 0x7F800000 then some { p with corniceMargin := BitVec.ofNat 32 v } else none
  | 0x2011, 0 => if v ≤ 1 then some { p with filterOrder := BitVec.ofNat 8 v } else none
  | 0x2020, 0 => if v % 64 = 0 ∧ 64 ≤ v ∧ v ≤ 4096 then some { p with dwChunk := BitVec.ofNat 16 v } else none
  | 0x2030, 0 => if 1 ≤ v ∧ v ≤ 24 then some { p with srCap := BitVec.ofNat 8 v } else none
  | 0x2031, 1 => if v ≤ 1 then some { p with gumbelSrc := BitVec.ofNat 8 v } else none
  | 0x2031, 2 => if v ≤ 1 then some { p with srSrc := BitVec.ofNat 8 v } else none
  | 0x2031, 3 => if v ≤ 1 then some { p with fillSrc := BitVec.ofNat 8 v } else none
  | 0x2040, 0 => if v ≤ 1 then some { p with normalMethod := BitVec.ofNat 8 v } else none
  | _, _ => none

/-- A write to the profile: the digest is formed again (R407). -/
def State.writeProfile (s : State) (i sub v : Nat) : Option State :=
  (s.profile.put i sub v).map (fun p => { s with profile := p, profileDigest := p.digest })

/-- A multiple of `m` from `lo` to `hi`. -/
def stepRange (m lo hi v : Nat) : Bool := v % m == 0 && decide (lo ≤ v ∧ v ≤ hi)

/-- A write to the timing objects. -/
def State.writeTiming (s : State) (i sub v : Nat) : Option State :=
  let put (ok : Bool) (f : Settings → Settings) : Option State := if ok then some { s with settings := f s.settings } else none
  match i with
  | 0x2401 => put (stepRange 8 128 8192 v) (fun t => { t with hopBudget := BitVec.ofNat 16 v })
  | 0x2402 => if v ≤ 1 then some (s.modPart (sub - 1) (fun q => { q with settleWithout := v == 1 })) else none
  | 0x2403 => put (stepRange 8 256 1024 v) (fun t => { t with driftBudget := BitVec.ofNat 16 v })
  | 0x2404 => put (stepRange 8 0 32768 v) (fun t => { t with peerGrace := BitVec.ofNat 16 v })
  | 0x2405 => put true (fun t => { t with stallLimit := BitVec.ofNat 32 v })
  | _ => none

/-- A write to the management objects. -/
def State.writeMgt (s : State) (i sub v : Nat) : Option State :=
  match i, sub with
  | 0x1100, 4 => if 10 ≤ v ∧ v ≤ 3600 then some { s with settings := { s.settings with idleLimit := BitVec.ofNat 16 v } } else none
  | 0x1101, 1 => some { s with settings := { s.settings with completionEvents := BitVec.ofNat 64 v } }
  | 0x1101, 2 => if v ≤ 1 then some { s with settings := { s.settings with healthEvents := v == 1 } } else none
  | _, _ => none

/-- A partition closes: its kept rows are released (R326, R231). -/
def State.closePart (s : State) (p : Nat) : State :=
  (s.releaseKeptPart p).modPart p (fun q => { q with state := .closed, waiting := .nothing })

/-- A write to a partition's state: what it does, or none where it is refused (R326). A write that waits for a checkpoint
leaves `waiting` set. -/
def State.writeState (s : State) (p v : Nat) : Option State :=
  let q := s.part p
  if q.waiting ≠ .nothing then none
  else match q.state, v with
  | .closed, 1 =>
    if q.comp.size = 0 ∨ q.floe.size = 0 ∨ ¬ (s.startup = .ready ∨ s.startup = .run) then none else some (s.genesisDue p)
  | .opened, 0 =>
    if !(s.partIdle p) then none
    else some ((s.checkpointDue p .closed none).modPart p (fun q => { q with waiting := .closeWrite }))
  | .halted, 1 => some (s.modPart p (fun q => { q with state := .opened }))
  | .halted, 0 =>
    if q.unsigned.isEmpty then some (s.closePart p)
    else some ((s.checkpointDue p .closed none).modPart p (fun q => { q with waiting := .closeWrite }))
  | _, _ => none

/-- A legal ring base (R323). -/
def baseOk (v : Nat) : Bool := v % 4096 == 0 && decide (v < pow2 52)

/-- A write to a command ring (R323): base or size, with the indices set to zero. -/
def Partition.putRing (q : Partition) (sub v : Nat) : Option Partition :=
  let i := (sub - 1) % 4
  if 1 ≤ sub ∧ sub ≤ 4 then
    if baseOk v then some { q with rings := vmod q.rings i (fun r => { r with base := BitVec.ofNat 64 v, head := 0, tail := 0 }) }
    else none
  else if 5 ≤ sub ∧ sub ≤ 8 then
    if v = 0 ∨ (4 ≤ v ∧ v ≤ 16) then
      some { q with rings := vmod q.rings i (fun r => { r with size := BitVec.ofNat 8 v, head := 0, tail := 0 }) }
    else none
  else none

/-- A read index may take a value (R324). -/
def OutRing.readOk (r : OutRing) (v : Nat) : Bool :=
  let lead := (r.write - BitVec.ofNat 32 v).toNat
  decide (lead ≤ r.slots ∧ lead ≤ r.lead)

/-- A write to an output ring (R323, R324). -/
def OutRing.put (r : OutRing) (sub lo hi v : Nat) : Option OutRing :=
  match sub with
  | 1 => if baseOk v then some { r with base := BitVec.ofNat 64 v, write := 0, read := 0 } else none
  | 2 => if lo ≤ v ∧ v ≤ hi then some { r with size := BitVec.ofNat 8 v, write := 0, read := 0 } else none
  | 4 => if r.readOk v then some { r with read := BitVec.ofNat 32 v } else none
  | _ => none

/-- A write to 0x3080 + p. -/
def Partition.putOut (q : Partition) (sub v : Nat) : Option Partition :=
  if sub ≤ 4 then (q.comp.put sub 4 16 v).map (fun r => { q with comp := r })
  else (q.floe.put (sub - 4) 5 20 v).map (fun r => { q with floe := r })

/-- Page ranges of two regions meet. -/
def Region.meets (a b : Region) : Bool :=
  decide (a.base.toNat < b.base.toNat + b.pages.toNat ∧ b.base.toNat < a.base.toNat + a.pages.toNat)

/-- A region object may take a value: at least one page, within the grade's pages, meeting no other defined region (R133,
R134). -/
def State.regionOk (s : State) (r : Nat) (g : Region) : Bool :=
  g.owner == 0xFF || (decide (1 ≤ g.pages.toNat ∧ g.base.toNat + g.pages.toNat ≤ s.grade.pages) &&
    (upto 64).all (fun k => k == r || (s.region k).owner == 0xFF || !(g.meets (s.region k))))

/-- A write to a region object (R133, R134). -/
def State.writeRegion (s : State) (r sub v : Nat) : Option State :=
  let g := s.region r
  let new : Option Region := match sub with
    | 1 => if v < 64 ∨ v = 255 then some { g with owner := BitVec.ofNat 8 v } else none
    | 2 => some { g with base := BitVec.ofNat 16 v }
    | 3 => some { g with pages := BitVec.ofNat 16 v }
    | 4 => if v ≤ 1 then some { g with work := v == 1 } else none
    | _ => none
  if g.state != .empty then none
  else match new with
    | some n => if s.regionOk r n then some (s.modRegion r (fun _ => n)) else none
    | none => none

/-- A write to a context's owner; a change empties the context (R340, R231). -/
def State.writeCtx (s : State) (c v : Nat) : Option State :=
  if ¬ (v < 64 ∨ v = 255) then none
  else if !(s.ownerIdle (s.ctx c).owner.toNat) || !(s.ownerIdle v) then none
  else if (s.ctx c).owner.toNat = v then some s
  else some ((s.releaseKeptOf c).modCtx c (fun _ => Ctx.emptyFor (BitVec.ofNat 8 v)))

/-- A write to the partitions, regions and contexts. -/
def State.writePart (s : State) (i sub v : Nat) : Option State :=
  let p := i % 64
  if 0x3000 ≤ i ∧ i < 0x3040 then
    if sub = 1 then s.writeState p v
    else if 1 ≤ v ∧ v ≤ 512 then some (s.modPart p (fun q => { q with quota := BitVec.ofNat 16 v })) else none
  else if 0x3040 ≤ i ∧ i < 0x3080 then ((s.part p).putRing sub v).map (fun q => s.modPart p (fun _ => q))
  else if 0x3080 ≤ i ∧ i < 0x30C0 then ((s.part p).putOut sub v).map (fun q => s.modPart p (fun _ => q))
  else if 0x3300 ≤ i ∧ i < 0x3340 then s.writeRegion p sub v
  else if 0x3400 ≤ i ∧ i < 0x3500 then s.writeCtx (i - 0x3400) v
  else none

/-- Begin bring-up on every port whose rate is not zero; the others are unused (R293, R294). Before READY no port sends. -/
def State.renewLinks (s : State) : State :=
  let live := s.startup == .ready || s.startup == .run
  ([0, 1, 2, 3] : List (Fin 4)).foldl (fun (s : State) p =>
    let pt := s.port p
    let s1 := s.modPort p (fun pt => { pt.bringUp with
      state := if pt.rate = 0 || !live then .unused else .bringUp, neighbour := 0xFFFF, neighbourTag := 0 })
    if pt.rate = 0 || !live then s1 else s1.sendHello p)
    { s with memberDepth := if s.settings.parentPort = 0xFF && live then 0 else 0xFF }

/-- Legal values of the group objects (R293). -/
def Settings.putReel (t : Settings) (sub v : Nat) : Option Settings :=
  match sub with
  | 1 => if v < t.groupSize.toNat then some { t with memberId := BitVec.ofNat 16 v } else none
  | 2 => if 1 ≤ v ∧ v ≤ 16384 then some { t with groupSize := BitVec.ofNat 16 v } else none
  | 3 => if v ≤ 15 then some { t with depth := BitVec.ofNat 8 v } else none
  | 4 => if v ≤ 3 ∨ v = 255 then some { t with parentPort := BitVec.ofNat 8 v } else none
  | 5 =>
    let bits := sumNat ((upto 4).map (fun p => bit (bitAt v p) 0))
    if v ≥ 16 ∨ (t.parentPort.toNat < 4 ∧ (bitAt v t.parentPort.toNat || decide (bits > 3))) then none
    else some { t with childPorts := BitVec.ofNat 8 v }
  | 6 => some { t with groupTag := BitVec.ofNat 32 v }
  | 7 => if stepRange 64 4096 1048576 v then some { t with hopPayload := BitVec.ofNat 32 v } else none
  | _ => none

/-- A write to the Reel objects; it renews bring-up on every port (R293). -/
def State.writeReel (s : State) (i sub v : Nat) : Option State :=
  if i = 0x4000 then (s.settings.putReel sub v).map (fun t => ({ s with settings := t }).renewLinks)
  else if sub = 1 ∧ (v = 0 ∨ stepRange 16 16 256 v) then
    some ((s.modPort ⟨(i - 0x4001) % 4, Nat.mod_lt _ (by decide)⟩ (fun p => { p with rate := BitVec.ofNat 16 v })).renewLinks)
  else none

/-- A write to a pinned entry (R119, R120): from READY on it is in force at once. With no active tile the block enters
Whiteout (R124). -/
def State.writePin (s : State) (sub v : Nat) : Option State :=
  if v % 16384 ≠ 0 then none
  else
    let live := s.startup == .ready || s.startup == .run
    let s1 := s.modTile (sub - 1) (fun t =>
      { t with pinned := BitVec.ofNat 16 v, force := if live then BitVec.ofNat 16 v else t.force })
    some (if live && s1.activeTiles.isEmpty then s1.enterWhiteout 2 else s1)

/-- The effect of a write whose value and state are checked by the object's own rule; none where it is refused (R405). -/
def State.writeObject (s : State) (i sub v : Nat) : Option State :=
  if i < 0x2000 then s.writeMgt i sub v
  else if i < 0x2400 then s.writeProfile i sub v
  else if i < 0x3000 then s.writeTiming i sub v
  else if i < 0x4000 then s.writePart i sub v
  else if i < 0x5000 then s.writeReel i sub v
  else if i = 0x6002 then s.writePin sub v
  else none

/-! ### DICT (R356, R414) -/

/-- The objects that DICT may write for a partition (R414). -/
def dictWritable (p i sub : Nat) : Bool := (i == 0x3080 + p && (sub == 4 || sub == 8)) || (i == 0x2402 && sub == p + 1)

/-- A DICT read: its value, where the access is allowed (R356). -/
def State.dictRead (s : State) (i sub len : Nat) : Option Bytes :=
  match (s.object i).bind (fun l => l[sub]?) with
  | some o => if o.acc = .wo ∨ o.size ≠ len then none else some (o.value ())
  | none => none

/-- A DICT write: its effect, where it is allowed (R356, R414). -/
def State.dictWrite (s : State) (p i sub : Nat) (v : Bytes) : Option State :=
  match (s.object i).bind (fun l => l[sub]?) with
  | some o => if !(dictWritable p i sub) || o.size != v.length then none else s.writeObject i sub (leNat v)
  | none => none

/-- DICT: one read or write of the dictionary; any access it may not make ends it with RANGE and no effect (R356). -/
def execDict (ticket : Nat) (s : State) : Out :=
  s.engine ticket .dict fun t _ =>
    let i := field t.cmd 0x30 2
    let sub := byteAt t.cmd 0x32
    let len := field t.cmd 0x34 2
    let failed : State := s.finishWith t.seq (fun r => { r with status := .range })
    let done (s : State) : State := s.finishWith t.seq (fun r => { r with value := BitVec.ofNat 64 len })
    if byteAt t.cmd 0x33 = 1 then
      match s.dictWrite t.part i sub (s.host t.areaWord len) with
      | some s1 => .next (done s1)
      | none => .next failed
    else
      match s.dictRead i sub len with
      | some v => .next (done ((s.readEffect i sub).writeHost t.seq t.areaWord v))
      | none => .next failed

end Sys2Proof.Machine
end

