-- ==== Sys2Proof/Machine/Sets.lean ====
section
/-! DEFINITION. A set of a weight image that has arrived and is checked (R129, R62, R144, R145): refetches, and the end of
the command that brought it. -/
namespace Sys2Proof.Machine

/-- Refetches of a set that the command has made (R144). -/
def Running.refetched (r : Running) (n : Nat) : Nat := ((r.refetches.find? (fun e => e.1 == n)).map Prod.snd).getD 0

/-- Count a refetch of a set (R144). -/
def Running.addRefetch (r : Running) (n : Nat) : Running :=
  { r with refetches := (n, r.refetched n + 1) :: r.refetches.filter (fun e => e.1 != n) }

/-- Fetch a set again: every figure holds for the retry (R144, R372). -/
def State.refetchSet (s : State) (t : Ticket) (n : Nat) : State :=
  let s1 := s.startRetry ⟨.driftRefetch, s.rereadLen, none, none, 0, false, false⟩
  (s1.requestSet (.set t.seq n) t.desc n).modRun t.seq (fun r =>
    { r.addRefetch n with lateSet := none, setsBad := r.setsBad.filter (· != n) })

/-- A set failed its CRC: it is refetched, at most twice in a command, and its third failure ends the command with
UNRECOVERED (R144; log 46). -/
def State.badSet (s : State) (t : Ticket) (r : Running) (n : Nat) (kind : ErrKind) : State :=
  let s1 := s.bump .driftCrc 1
  if r.refetched n < 2 then (s1.logError .block kind 0xFF 0xFF .retried (some t.seq)).refetchSet t n
  else (s1.logError .block kind 0xFF 0xFF .ended (some t.seq)).endLaunch t.seq .unrecovered

/-- A set failed its metadata or padding check: the command ends with FORMAT (R144), a LOADW after two refetches (R135). A
metadata mismatch is counted in 0x7052.03. -/
def State.badMeta (s : State) (t : Ticket) (r : Running) (n : Nat) (counted : Bool) : State :=
  if t.op == .loadw && decide (r.refetched n < 2) then s.refetchSet t n
  else if counted then s.mismatch t.seq
  else s.endLaunch t.seq .format

/-- The verdict on a set that has arrived; a byte-parity error on the way counts as a CRC failure (R145, R461). -/
def State.setVerdict (s : State) (t : Ticket) (r : Running) (n : Nat) (eg : Option Int) : SetVerdict :=
  if r.setsBad.contains n then .badCrc else t.desc.check s.mem n eg

/-- The verdict on a set that has arrived takes its effect (R144). -/
def State.judgeSet (s : State) (t : Ticket) (r : Running) (n : Nat) (v : SetVerdict) : State :=
  match v with
  | .good => s.modRun t.seq (fun r => { r with lateSet := none, setsOk := n :: r.setsOk.filter (· != n) })
  | .badCrc => s.badSet t r n .driftCrc
  | .badPad => s.badMeta t r n false
  | .badFormat => s.badMeta t r n true

end Sys2Proof.Machine
end

