-- ==== Sys2Proof/Machine/Engines.lean ====
section
/-! DEFINITION. The opcode rows: what the engines do with a launched command (R333). Each row acts on a ticket whose figure
is launched; what needs a peer goes on in `State.pump` as the frames arrive. -/
namespace Sys2Proof.Machine

/-! ### Scoring and selection -/

/-- Score every row, and begin Reel round 1 (R221). -/
def State.doSelect (s : State) (t : Ticket) (r : Running) : State :=
  let o := s.scoreAll t
  (((o.2.2.2.addFlags t.seq o.2.2.1).markSleet t).startRound1 t r).pump

/-- The scores that a SCORE member holds among the ids requested for stream p, at their places (R347). -/
def State.scoreOutputs (s : State) (t : Ticket) (p : Nat) (scores : List Score) : State :=
  (upto (t.b 0xA0)).foldl (fun (s : State) i =>
    let id := leNat (s.host (t.f 0xA8 8 + 256 * p + 4 * i) 4)
    match scores.find? (fun x => x.id == id) with
    | some x => s.writeHost t.seq (t.f 0xB0 8 + 256 * p + 4 * i)
        (leBytes 4 (if x.masked then 0xFF800000 else x.v.toNat))
    | none => s) s

/-- The rows a SCORE keeps, at the start of its work area (R230, R231). -/
def State.keepRows (s : State) (t : Ticket) (rows : List CastRow) : State :=
  let g := s.region (t.b 0x9A)
  let k : Kept := ⟨t.entries.map StreamEnt.ctx, t.stepValue, t.actFmt, t.desc.h, rows.map CastRow.scale⟩
  ({ s with firn := s.firn.store g.addr (rows.flatMap CastRow.bytes) }).modRegion (t.b 0x9A) (fun (g : Region) =>
    { g with state := if g.state = RegionState.degraded then .degraded else .resident, kept := some k })

/-- The work of a SCORE: every row summary is marked scored under the command's step, the cast rows are kept, and the
requested scores are written (R230, R231, R347). -/
def State.doScore (s : State) (t : Ticket) : State :=
  let o := s.scoreAll t
  let s1 := o.2.2.2.addFlags t.seq o.2.2.1
  let s2 := (t.entries.map StreamEnt.ctx).foldl (fun (s : State) c =>
    s.modCtx c (fun x => { x with summary := { x.summary with mark := .scored t.stepValue } })) s1
  let s3 := s2.keepRows t o.2.1.rows
  let s4 := (o.1.zip (upto o.1.length)).foldl (fun (s : State) (e : List Score × Nat) => s.scoreOutputs t e.2 e.1) s3
  s4.finishWith t.seq id

/-- NOP: fetch and result only (R333). -/
def execNop (ticket : Nat) (s : State) : Out :=
  s.engine ticket .nop fun t _ => .next (s.finishWith t.seq id)

/-- STEP: score, then the rounds that settle one token per stream (R221 to R229). -/
def execStep (ticket : Nat) (s : State) : Out :=
  s.engine ticket .step fun t r => .next (s.unlessStale t r (s.doSelect t r))

/-- SCORE (R230, R231, R347). -/
def execScore (ticket : Nat) (s : State) : Out :=
  s.engine ticket .score fun t r => .next (s.unlessStale t r (s.doScore t))

/-- SETTLE: both rounds from the scored summaries (R230). -/
def execSettle (ticket : Nat) (s : State) : Out :=
  s.engine ticket .settle fun t r => .next (s.unlessStale t r ((s.markSleet t).startRound1 t r).pump)

/-- VERIFY: score a stream's draft rows, then the rounds (R238 to R241). -/
def execVerify (ticket : Nat) (s : State) : Out :=
  s.engine ticket .verify fun t r => .next (s.unlessStale t r (s.doSelect t r))

/-- BEAM: score every beam, then round 1 (R235 to R237, R240, R241). -/
def execBeam (ticket : Nat) (s : State) : Out :=
  s.engine ticket .beam fun t r => .next (s.unlessStale t r (s.doSelect t r))

/-! ### Training and tensors -/

/-- LOSS: score a token tile, merge its ladders and write the loss records (R242 to R256). -/
def execLoss (ticket : Nat) (s : State) : Out :=
  s.engine ticket .loss fun t r => .next (s.unlessStale t r (s.doLoss t r).pump)

/-- GRAD: score a chunk again, form dW and exchange dHidden (R257 to R266). -/
def execGrad (ticket : Nat) (s : State) : Out :=
  s.engine ticket .grad fun t r => .next (s.unlessStale t r (s.doGrad t r).pump)

/-- REDUCE: the top maximum, then the sums of the addends (R267 to R270). -/
def execReduce (ticket : Nat) (s : State) : Out :=
  s.engine ticket .reduce fun t r => .next (s.doReduce t r).pump

/-- FUNC: a function of every element of a tensor (R177, R199 to R201, R349). -/
def execFunc (ticket : Nat) (s : State) : Out :=
  s.engine ticket .func fun t _ => .next (s.doFunc t)

/-- FILL: a tensor of random values (R280 to R283). -/
def execFill (ticket : Nat) (s : State) : Out :=
  s.engine ticket .fill fun t _ => .next (s.doFill t)

/-- DIGEST (R46, R349). -/
def execDigest (ticket : Nat) (s : State) : Out :=
  s.engine ticket .digest fun t _ => .next (s.doDigest t)

/-! ### Firn -/

/-- The image as Firn holds it: element, scale, metadata, map and CRC areas end to end (R127, 05). -/
def Desc.imageBytes (d : Desc) (m : Memory) : Bytes :=
  m.load d.elem (d.sets * d.setBytes) ++ m.load d.scale (d.sets * d.scaleBytes) ++ m.load d.mdata (32 * d.groups) ++
  (if d.hasMap then m.load d.map (128 * d.groups) else []) ++ m.load d.crc (4 * d.sets)

/-- The column ids of a shard ascend, as the list rules of R162 ask of a map. -/
def Desc.ascending (d : Desc) (m : Memory) : Bool := ascendingBy (fun a b => decide (a < b)) (d.ids m)

/-- Every set passed: the image is in Firn and the region resident, with its descriptor recorded (R135). -/
def State.loadDone (s : State) (t : Ticket) : State :=
  let d := t.desc
  let a := (s.region t.areaByte).addr
  let s1 := { s with firn := s.firn.store a (d.imageBytes s.mem) }
  (s1.modRegion t.areaByte (fun g => { g with
    state := .resident, descriptor := t.blocks.take 64, mapAscending := d.ascending s.mem })).finishWith t.seq id

/-- The first set of an image that fails a check and the check it fails (R135, R129, R62). -/
def State.firstBad (s : State) (t : Ticket) (r : Running) : Option (Nat × SetVerdict) :=
  ((upto t.desc.sets).map (fun n => (n, s.setVerdict t r n none))).find? (fun e => e.2 != .good)

/-- LOADW: check every set; a set that fails is refetched, at most twice, and a third failure ends the command (R135). -/
def execLoadw (ticket : Nat) (s : State) : Out :=
  s.engine ticket .loadw fun t r =>
    match s.firstBad t r with
    | none => .next (s.loadDone t)
    | some (n, v) => .next (s.judgeSet t r n v)

/-- EVICTW: zero every page of the region, and set it empty (R137). -/
def execEvictw (ticket : Nat) (s : State) : Out :=
  s.engine ticket .evictw fun t _ =>
    let g := s.region t.areaByte
    let s1 := { s with firn := s.firn.store g.addr (List.replicate g.bytes 0) }
    .next ((s1.modRegion t.areaByte (fun g => { g with state := .empty, descriptor := [] })).finishWith t.seq id)

/-! ### Stream images (R38 to R42) -/

/-- A bias list entry of an image (R38). -/
def biasEntry (e : Nat × F32) : Bytes := leBytes 4 e.1 ++ leBytes 4 e.2.toNat

/-- A penalty list entry of an image (R38). -/
def penaltyEntry (e : Nat × Nat) : Bytes := leBytes 3 e.1 ++ leBytes 2 e.2

/-- The 65,536-byte image of a stream context (R38). Its seed epoch is the partition's at the SAVE, a context holding none
(DESIGN CHOICE, log 77). -/
def State.streamImage (s : State) (p : Nat) (c : Ctx) : Bytes :=
  let epoch := match (s.part p).seed with | some sd => sd.epoch.toNat | none => 0
  let beams := if c.beamValid then c.beams else []
  let body := leBytes 4 0x33464C46 ++ leBytes 2 1 ++
    leBytes 1 (bit c.sleetUsed 0 + bit c.beamValid 1 + bit c.compat 2) ++ leBytes 1 p ++
    leBytes 4 c.id.toNat ++ leBytes 4 epoch ++ leBytes 8 c.nextStep.toNat ++
    leBytes 2 c.penalties.length ++ leBytes 2 c.biases.length ++ leBytes 2 beams.length ++ List.replicate 34 0 ++
    s.profileDigest ++ List.replicate 16 0 ++ padTo 128 c.params ++
    padTo 0x2000 (c.biases.flatMap biasEntry) ++ padTo 0xA000 (c.penalties.flatMap penaltyEntry) ++
    padTo 0x2000 beams.flatten ++ List.replicate 0x1EFC 0
  body ++ leBytes 4 (crc32c body)

/-- SAVE: write the context's image (R38, R230). -/
def execSave (ticket : Nat) (s : State) : Out :=
  s.engine ticket .save fun t _ =>
    let im := s.streamImage t.part (s.ctx t.areaByte)
    .next ((s.writeHost t.seq t.areaWord im).finishWith t.seq id)

/-- The context that an image holds (R38). -/
def ctxOfImage (owner : Byte) (im : Bytes) : Ctx :=
  { Ctx.emptyFor owner with
    holds := true, id := BitVec.ofNat 24 (field im 8 3), params := slice im 0x80 128,
    penalties := penaltiesOf (slice im 0x2100 0xA000) (field im 0x18 2),
    biases := biasForm (biasRaw (slice im 0x100 0x2000) (field im 0x1A 2)),
    beams := (upto (field im 0x1C 2)).map (fun i => slice im (0xC100 + 512 * i) 512),
    nextStep := BitVec.ofNat 48 (field im 0x10 6),
    sleetUsed := bitAt (byteAt im 6) 0, beamValid := bitAt (byteAt im 6) 1, compat := bitAt (byteAt im 6) 2 }

/-- RESTORE: load the context from its image; an image whose stream used Sleet re-seeds every generator (R39, R42). -/
def execRestore (ticket : Nat) (s : State) : Out :=
  s.engine ticket .restore fun t _ =>
    let im := s.imageOf t
    let s1 := s.modCtx t.areaByte (fun c => ctxOfImage c.owner im)
    let s2 := if bitAt (byteAt im 6) 0 then
        (s1.seedSleet.bump .sleetReseeds 1).modRun t.seq (fun r => { r with nd := r.nd + 1 })
      else s1
    .next (s2.finishWith t.seq id)

/-! ### Waits, fences and halts (R353 to R355) -/

/-- WAITCOUNT completes at the first count at or after its own; before it, it waits (R354). -/
def execWaitcount (ticket : Nat) (s : State) : Out :=
  s.engine ticket .waitcount fun t _ =>
    if s.count.toNat < t.areaWord then .next s else .next (s.finishWith t.seq id)

/-- FENCE completes at once (R353). -/
def execFence (ticket : Nat) (s : State) : Out :=
  s.engine ticket .fence fun t _ => .next (s.finishWith t.seq id)

/-- A later ticket of a halting partition completes with UNRECOVERED, cancelled by HALT (R355). One that has launched and still
works ends there, and its record follows as any other's; one that has done its work completes (R352; log 28). -/
def State.cancelTicket (s : State) (q : Nat) : State :=
  match s.ticket q with
  | none => s
  | some t =>
    match t.run with
    | none => (s.freeBanks q).finish t .unrecovered 2 0
    | some r =>
      if r.phase == .finished then s
      else (s.endLaunch q .unrecovered).modTicket q (fun t => { t with ended := t.ended.map (fun e => (e.1, 2, e.2.2)) })

/-- HALT: later tickets of the partition are cancelled and the partition is halted. The checkpoint falls due at its
COMMAND_COMPLETION, after the records of the other tickets (R355, R50). -/
def execHalt (ticket : Nat) (s : State) : Out :=
  s.engine ticket .halt fun t _ =>
    let later := (s.tickets.filter (fun x => x.part == t.part && decide (x.seq > t.seq))).map Ticket.seq
    let s1 := later.foldl (fun (s : State) q => s.cancelTicket q) s
    let s2 := (s1.releaseKeptPart t.part).modPart t.part (fun p => { p with state := .halted })
    .next (s2.finishWith t.seq id)

end Sys2Proof.Machine
end

