-- ==== Sys2Proof/Machine/ErrorRows.lean ====
section
/-! DEFINITION. The error rows: what each check that fails does (R115 to R119, R144 to R151, R289, R290, R381 to R389), and
the end of a retry (R373). -/
namespace Sys2Proof.Machine

/-- An error row: nothing happens in reset, and in Whiteout errors are neither handled nor logged (R392). -/
def State.onError (s : State) (f : State → Out) : Out :=
  s.awake fun s => if s.startup == .whiteout then .next s else f s

/-! ### Tiles -/

/-- A physical row of a tile whose checks are enabled: the tile is active and the row not bypassed (R118). -/
def State.rowChecked (s : State) (n row : Nat) : Bool :=
  decide (n < s.grade.tiles ∧ row < 33) && !(s.tile n).disabled && (s.tile n).entry.toNat % 64 != row

/-- An active tile. -/
def State.tileActive (s : State) (n : Nat) : Bool := decide (n < s.grade.tiles) && !(s.tile n).disabled

/-- The sums of a column are pending until the tile-load retry (R115). -/
def State.pendColumn (s : State) (tile col : Nat) : State :=
  s.modTile tile (fun t => { t with pendCols := if t.pendCols.contains col then t.pendCols else t.pendCols ++ [col] })

/-- A cell's register in the set in use has lost a bit (R93). -/
def State.spoilCell (s : State) (tile row col : Nat) : State :=
  s.modTile tile (fun t => { t with active := t.active.spoil row col })

/-- CELL_RESIDUE_ERROR (R92, R115, R384). -/
def execCellResidueError (tile row col : Nat) (use : Sys2Proof.ArrayUse) (s : State) : Out :=
  s.onError fun s =>
    if !(s.rowChecked tile row) then .next s
    else
      .next (((s.bump .cellResidue 1).pendColumn tile col).hit (.tile tile) .cellResidue (.cell row col) tile row use.ticket
        use.work)

/-- REGISTER_PARITY_ERROR (R93, R115, R384). -/
def execRegisterParityError (tile row col : Nat) (use : Sys2Proof.ArrayUse) (s : State) : Out :=
  s.onError fun s =>
    if !(s.rowChecked tile row) then .next s
    else
      .next ((((s.bump .registerParity 1).pendColumn tile col).spoilCell tile row col).hit (.tile tile) .registerParity
        (.cell row col) tile row use.ticket use.work)

/-- ACCUMULATOR_RESIDUE_ERROR of a bank (R105, R115, R384). -/
def execAccumulatorResidueError (bank : Sys2Proof.AccBank) (use : Sys2Proof.ArrayUse) (s : State) : Out :=
  s.onError fun s =>
    if !(s.tileActive bank.tile) then .next s
    else
      .next (((s.bump .accumulatorResidue 1).pendColumn bank.tile (bank.bank % 32)).hit (.tile bank.tile) .accResidue
        (.accumulator (bank.bank % 32)) bank.tile 0xFF use.ticket use.work)

/-- ACCUMULATOR_UNCORRECTABLE in a bank (R105, R116, R384). -/
def execAccumulatorUncorrectable (bank : Sys2Proof.AccBank) (use : Sys2Proof.ArrayUse) (s : State) : Out :=
  s.onError fun s =>
    if !(s.tileActive bank.tile) then .next s
    else
      .next ((s.bump .accumulatorUncorrectable 1).hit (.tile bank.tile) .accUncorrectable (.accumulator (bank.bank % 32))
        bank.tile 0xFF use.ticket use.work)

/-! ### Lanes, Moraine and the generators -/

/-- The resource, unit and detail of a mismatch of a lane, or of the rounding stage of a tile (R382, R384; log 70). -/
def mismatchUnit (slice : Nat) : Sys2Proof.LaneUnit → Resource × Nat × Nat
  | .lane n => (.lane n, slice, n)
  | .rounding tile => (.rounding tile, tile, 0xFF)

/-- LANE_MISMATCH: a column-group retry in a figure that scores, else the command ends (R382, R384). -/
def execLaneMismatch (slice : Nat) (unit : Sys2Proof.LaneUnit) (use : Sys2Proof.LaneUse) (ticket : Option Nat)
    (s : State) : Out :=
  s.onError fun s =>
    let m := mismatchUnit (slice % 4) unit
    let (scoring, work) := match use with | .scoring w => (true, w) | .other => (false, noWork)
    .next ((s.bump .laneMismatches 1).detect (.slice (slice % 4))
      ⟨.laneMismatch, m.1, m.2.1, m.2.2, s.victim ticket, 0, 0, scoring, s.count, work⟩)

/-- MORAINE_MISMATCH: the command ends (R382, R384). -/
def execMoraineMismatch (ticket : Option Nat) (s : State) : Out :=
  s.onError fun s => .next ((s.bump .moraineMismatches 1).hit .block .moraineMismatch .moraine 0xFF 0xFF ticket)

/-- FLURRY_MISMATCH: a generator retry; a second one of the same unit in the command ends it, by escalation to the block for
a slice's unit (R289, R384). -/
def execFlurryMismatch (unit : Sys2Proof.FlurryUnit) (ticket : Option Nat) (s : State) : Out :=
  s.onError fun s =>
    let s1 := s.bump .flurryMismatches 1
    match unit with
    | .slice n =>
      let e : Err := ⟨.flurryMismatch, .flurry, n % 4, 0xFF, s.victim ticket, 0, 0, false, s.count, noWork⟩
      if s1.flurrySecond e then .next (s1.escalate (.slice (n % 4)) e) else .next (s1.detect (.slice (n % 4)) e)
    | .moraine => .next (s1.hit .block .flurryMismatch .moraineFlurry 0xFF 0xFF ticket)

/-- SLEET_PARITY_ERROR: the slice's generator is re-seeded at once, whatever its handler does (R290). -/
def execSleetParityError (slice : Nat) (s : State) : Out :=
  s.onError fun s =>
    if !s.sleetRunning || decide (slice ≥ s.grade.slices) then .next s
    else .next ((s.bump .sleetParity 1).perform none (.slice slice)
      ⟨.sleetParity, .sleet, slice, 0xFF, none, 0, 0, false, s.count, noWork⟩).1

/-! ### Firn -/

/-- A region whose words figures read: it holds a shard, or has held one and is degraded (R146, R149). -/
def State.holdsShard (s : State) (r : Nat) : Bool :=
  !(s.region r).work && ((s.region r).state == .resident || (s.region r).state == .degraded)

/-- FIRN_UNCORRECTABLE_WEIGHT: a reread of the set from its master copy (R146). -/
def execFirnUncorrectableWeight (region set bank : Nat) (ticket : Option Nat) (s : State) : Out :=
  s.onError fun s =>
    if !(s.holdsShard region) || decide (set ≥ (s.regionDesc region).sets) then .next s
    else .next ((s.bump .firnWeight 1).detect .block
      ⟨.firnWeight, .bank (bank % 256), bank % 256 / 8, region, s.victim ticket, region, set, false, s.count, noWork⟩)

/-- FIRN_UNCORRECTABLE_WORK_AREA: the command that owns the work area ends (R150). -/
def execFirnUncorrectableWorkArea (region bank : Nat) (ticket : Option Nat) (s : State) : Out :=
  s.onError fun s =>
    if !(s.region region).work then .next s
    else .next ((s.bump .firnWork 1).hit .block .firnWork (.bank (bank % 256)) (bank % 256 / 8) region ticket)

/-- The bytes fetched for a set pass both comparisons of R145: the master copy's CRC entry and the one recorded in Firn. -/
def State.rereadOk (s : State) (region set : Nat) : Bool :=
  let d := s.regionDesc region
  let f := d.inFirn (s.region region).addr
  d.crcOk s.mem set && s.mem.load (d.crc + 4 * set) 4 == s.firn.load (f.crc + 4 * set) 4

/-- Write a reread set back into its region (R146). -/
def State.writeBack (s : State) (region set : Nat) : State :=
  let d := s.regionDesc region
  let f := d.inFirn (s.region region).addr
  { s with firn := ((d.setRanges set).zip (f.setRanges set)).foldl (fun (m : Memory) (p : (Nat × Nat) × (Nat × Nat)) =>
      m.store p.2.1 (s.mem.load p.1.1 p.1.2)) s.firn }

/-- A word still fails after its write-back: it is retired (R148). -/
def State.stillBad (s : State) (kind : ErrKind) (bank region : Nat) (ticket : Option Nat) (stillFails : Bool) : State :=
  if stillFails then s.retireWord kind bank region ticket else s

/-- The read answers that a reread waits for. -/
def State.rereading (s : State) (who : ReadFor) : Bool := s.reads.any (fun r => r.who == who)

/-- A tile-load retry has loaded its tile's sets again (R115). -/
def State.retryReloads (s : State) (r : Retry) : State :=
  match r.kind, r.err with
  | .tileLoad, some e => s.modTile e.unit Tile.reload
  | _, _ => s

/-- A retry is over: the next one goes on, its handler takes the next error, and a preemption that waited for the end of the
retries begins (R374, R379, R385). -/
def State.popRetry (s : State) (r : Retry) : State :=
  let s1 := { s with retries := s.retries.tail }.retryReloads r
  (match r.level with | some l => s1.release l | none => s1).settleHandlers.preemptAfter

/-- The end of a Firn reread (R146, R147): the set is written back; a CRC failure repeats the reread once, and a second ends
the command and degrades the region. -/
def State.endReread (s : State) (r : Retry) (e : Err) (stillFails : Bool) : State :=
  if !r.bad && s.rereadOk e.region e.set then
    ((s.writeBack e.region e.set).stillBad .firnWeight e.bank e.region e.ticket stillFails).popRetry r
  else
    let s1 := s.bump .driftCrc 1
    if r.attempt = 0 then
      let s2 := s1.logError .block .driftCrc 0xFF e.region .retried e.ticket
      let s3 := { s2 with retries := s2.retries.tail }.startRetry { r with attempt := 1, late := false, bad := false }
      let s4 := { s3 with retries := { r with attempt := 1, late := false, bad := false } :: s3.retries.dropLast }
      s4.requestSet (.reread e.region e.set) (s4.regionDesc e.region) e.set
    else
      let s2 := (s1.logError .block .driftCrc 0xFF e.region .ended e.ticket).endLaunch? e.ticket .unrecovered
      ((s2.degrade e.region).logError .block .driftCrc 0xFF e.region .degraded e.ticket).popRetry r

/-- RETRY_END: the first retry's length is over (R373, R374). A Firn reread whose bytes are still missing goes on holding in
whole counts (R146). -/
def execRetryEnd (stillFails : Bool) (s : State) : Out :=
  s.onError fun s =>
    match s.retries with
    | [] => .next s
    | r :: rest =>
      match r.kind, r.err with
      | .firnReread, some e =>
        if s.rereading (.reread e.region e.set) then .next { s with retries := { r with late := true } :: rest }
        else .next (s.endReread r e stillFails)
      | _, _ => .next (s.popRetry r)

/-! ### The scrub (R151) -/

/-- The words of a region that the scrub visits, as first word and end (R151): a work area whatever its state reads (DEDUCED,
log 79). -/
def Region.scrubRange (g : Region) : Nat × Nat :=
  let on := g.owner != 0xFF && (g.work || g.state == .resident || g.state == .degraded)
  if on then (g.base.toNat * 2048, (g.base.toNat + g.pages.toNat) * 2048) else (0, 0)

/-- The first word at or after `w` that the scrub visits, with its region. -/
def State.scrubNext (s : State) (w : Nat) : Option (Nat × Nat) :=
  (upto 64).foldl (fun (best : Option (Nat × Nat)) r =>
    let (lo, hi) := (s.region r).scrubRange
    let x := max w lo
    if x < hi then
      match best with
      | some (b, _) => if x < b then some (x, r) else best
      | none => some (x, r)
    else best) none

/-- The set of a shard whose image holds a byte of its region, where one does. -/
def Desc.setAt (d : Desc) (off : Nat) : Option Nat :=
  let f := d.inFirn 0
  if off < f.scale then some (off / max 1 d.setBytes)
  else if off < f.mdata then some ((off - f.scale) / max 1 d.scaleBytes)
  else if off < f.mdata + 32 * d.groups then some ((off - f.mdata) / 32 * d.setsPer)
  else if off < f.crc then some ((off - f.map) / 128 * d.setsPer)
  else if off < f.crc + 4 * d.sets then some ((off - f.crc) / 4)
  else none

/-- The running command that uses a work area (R150). -/
def State.workOwner (s : State) (region : Nat) : Option Nat :=
  (s.tickets.find? (fun t => t.running &&
    ((t.op == .grad && t.b 0x9D == region) || (t.op == .score && t.b 0x9A == region)))).map Ticket.seq

/-- The set whose bytes hold a word of a region; a word of none gives a number past the last set. -/
def State.setOfWord (s : State) (w region : Nat) : Nat :=
  let d := s.regionDesc region
  (d.setAt (32 * w - (s.region region).addr)).getD d.sets

/-- The scrub found an uncorrectable word: the block's handler takes it, with a background reread in a weight region and the
end of its command in a work area (R150, R151, R384). -/
def State.scrubBad (s : State) (w region : Nat) : State :=
  let bank := w % 256
  let work := (s.region region).work
  let e : Err := ⟨.firnScrub, .bank bank, bank / 8, region, if work then s.workOwner region else none, region,
    s.setOfWord w region, false, s.count, noWork⟩
  (if work then s.bump .firnWork 1 else s).detect .block e

/-- Where the scrub reads: the next word it visits and its region, with a finished pass counted when it starts again from
word 0 (R151). -/
def State.scrubAt (s : State) : Option (Nat × Nat × State) :=
  match s.scrubNext s.scrub with
  | some (w, r) => some (w, r, s)
  | none => (s.scrubNext 0).map (fun p => (p.1, p.2, s.bump .scrubPasses 1))

/-- SCRUB_READ: the scrub reads the next word in ascending address; past the last, a pass is complete (R151). -/
def execScrubRead (found : Sys2Proof.ScrubFound) (s : State) : Out :=
  s.onError fun s =>
    match s.scrubAt with
    | none => .next { s with scrub := 0 }
    | some (w, r, s1) =>
      let s2 := { s1 with scrub := w + 1 }
      match found with
      | .good => .next s2
      | .corrected still => .next ((s2.bump .firnCorrections 1).stillBad .firnScrub (w % 256) r none still)
      | .uncorrectable => .next (s2.scrubBad w r)

/-- A background reread is over, and the block's handler takes its next error (R384, R385). -/
def State.endBackground (s : State) (b : Background) : State :=
  let s1 := { s with background := s.background.filter (fun x => x != b) }
  match s1.block.current with
  | some e => if e.kind == .firnScrub && e.region == b.region && e.set == b.set then s1.release .block else s1
  | none => s1

/-- BACKGROUND_REREAD_DONE: the set is restored in Firn; a CRC failure repeats the reread once, and a second degrades the
region (R147, R151). -/
def execBackgroundRereadDone (region set : Nat) (stillFails : Bool) (s : State) : Out :=
  s.onError fun s =>
    match s.background.find? (fun b => b.region == region && b.set == set) with
    | none => .next s
    | some b =>
      if s.rereading (.background region set) then .next s
      else
        if !(s.holdsShard region) then .next (s.endBackground b)
        else if !b.bad && s.rereadOk region set then
          .next (((s.writeBack region set).stillBad .firnScrub b.bank region none stillFails).endBackground b)
        else
          let s2 := s.bump .driftCrc 1
          if b.attempt = 0 then
            let s3 := s2.logError .block .driftCrc 0xFF region .retried none
            .next (({ s3 with background := s3.background.map (fun x =>
              if x == b then { b with attempt := 1, bad := false } else x) }).requestSet (.background region set)
                (s3.regionDesc region) set)
          else .next (((s2.degrade region).logError .block .driftCrc 0xFF region .degraded none).endBackground b)

/-! ### Tables, contexts, crossings -/

/-- TABLE_MEMORY_ERROR: the command ends, launches wait from now on and the slice's copy is rewritten (R388). -/
def execTableMemoryError (slice : Nat) (_mem : Sys2Proof.TableMem) (ticket : Option Nat) (s : State) : Out :=
  s.onError fun s => .next ((s.modSlice (slice % 4) (fun c => { c with tableGood := false })).hit .block .tableWord
    (.table (slice % 4)) (slice % 4) 0xFF ticket)

/-- The block's handler rewrites a slice's copy (R384, R388). -/
def State.rewrites (s : State) (slice : Nat) : Bool :=
  decide (slice < 4) && !(s.sliceOf slice).tableGood &&
  match s.block.current with | some e => e.resource == .table slice | none => false

/-- TABLE_RELOAD_DONE: the copy verifies and launches may proceed; with no copy that verifies the block enters Whiteout
(R388). -/
def execTableReloadDone (slice : Nat) (verified : Bool) (s : State) : Out :=
  s.onError fun s =>
    if !(s.rewrites slice) then .next s
    else if !verified then .next ((s.logError .block .tableWord slice 0xFF .whiteout none).enterWhiteout 5)
    else
      let s1 := (s.modSlice slice (fun c => { c with tableGood := true })).bump .tableReloads 1
      .next (({ s1 with tableReloaded := true }.logError .block .tableWord slice 0xFF .reloaded none).release .block)

/-- CONTEXT_MEMORY_ERROR: the context is emptied and the command that uses it ends (R389). -/
def execContextMemoryError (ctx : Nat) (ticket : Option Nat) (s : State) : Out :=
  s.onError fun s => .next (s.hit .block .contextWord (.context (ctx % 256)) (ctx % 256) 0xFF ticket)

/-- CROSSING_DATUM_LATE: the command ends with SCHEDULE_FAULT (R20). -/
def execCrossingDatumLate (ticket : Nat) (s : State) : Out :=
  s.onError fun s =>
    match s.launched ticket with
    | none => .fault .noSuchTicket
    | some _ => .next ((s.bump .scheduleFaults 1).hit .block .scheduleFault .crossing 0xFF 0xFF (some ticket))

/-! ### Streamed sets and byte parity (R144, R145) -/

/-- The bound of R246 that a set must meet, for the commands that make that check. -/
def Ticket.egBound (t : Ticket) : Option Int :=
  if t.op == .grad || (t.op == .loss && t.smooths) then some t.eg else none

/-- STREAMED_SET_CHECK: the checks of a set are decided at the tick its load begins (R144). A set whose bytes have not all
arrived is late, and the figure holds (R21). -/
def execStreamedSetCheck (ticket set : Nat) (s : State) : Out :=
  s.onError fun s =>
    match s.launched ticket with
    | none => .fault .noSuchTicket
    | some (t, r) =>
      if !r.streamed || t.op == .loadw || (t.op == .settle && r.pass == .idle) || decide (set ≥ t.desc.sets) ||
        r.setsOk.contains set then .next s
      else if s.rereading (.set ticket set) then .next (s.modRun ticket (fun r => { r with lateSet := some set }))
      else .next (s.judgeSet t r set (s.setVerdict t r set t.egBound))

/-- The bytes in staging of a set that is reread, with no command, are bad: the reread meets a CRC failure (R145, R147). -/
def State.spoilReread (s : State) (n : Nat) : State :=
  if s.retries.any (fun r => match r.err with | some e => r.kind == .firnReread && e.set == n | none => false) then
    { s with retries := s.retries.map (fun r => match r.err with
        | some e => if r.kind == .firnReread && e.set == n then { r with bad := true } else r
        | none => r) }
  else if s.background.any (fun b => b.set == n) then
    { s with background := s.background.map (fun b => if b.set == n then { b with bad := true } else b) }
  else s.logError .block .byteParity 0xFF 0xFF .retried none

/-- A parity error in the split buffer: its tile-load retry reads the FP32 set again, from staging where the figure streams its
shard, else from Firn (R110, R115). The error is of the physical row the entry feeds, and the resource is that row's entry of the
buffer, written as column 32 (DESIGN CHOICE, log 78). -/
def State.splitBad (s : State) (tile row : Nat) (work : Sys2Proof.ArrayWork) (ticket : Option Nat) : State :=
  if s.tileActive tile then
    (s.modTile tile (fun t => { t with split := t.split.spoil })).hit (.tile tile) .byteParity (.cell row 32) tile row ticket work
  else s

/-- A byte-parity error on a path that no row of R145 turns into a retry ends the command it names (log 36). -/
def State.parityEnds (s : State) (ticket : Option Nat) : State :=
  (s.logError .block .byteParity 0xFF 0xFF .ended ticket).endLaunch? ticket .unrecovered

/-- BYTE_PARITY_ERROR: in staging or on the load path a CRC failure of the set, in the split buffer a tile-load retry (R145,
R110). -/
def execByteParityError (path : Sys2Proof.ParityPath) (ticket : Option Nat) (s : State) : Out :=
  s.onError fun s =>
    let s1 := s.bump .byteParity 1
    let asSet (n : Nat) : Out := match (s.victim ticket).bind s1.launched with
      | some (t, r) => .next ((s1.modRun t.seq (fun r => { r with setsOk := r.setsOk.filter (· != n) })).badSet t r n .byteParity)
      | none => .next (s1.spoilReread n)
    match path with
    | .staging n => asSet n
    | .loadPath n => asSet n
    | .splitBuffer tile row work => .next (s1.splitBad tile row work ticket)
    | .other => .next (s1.parityEnds (s.victim ticket))

end Sys2Proof.Machine
end

