-- ==== Sys2Proof/Machine/HostPort.lean ====
section
/-! DEFINITION. The command port, the memory channels and the activation port: doorbells and tickets (R327 to R330, R460),
completions and checkpoints (R351, R352, R443), read responses, acknowledgements and hidden rows (R459, R461, R475). -/
namespace Sys2Proof.Machine

/-- READY and RUN follow the partitions: RUN while one is not closed (R469). -/
def State.followParts (s : State) : State :=
  if s.startup = .ready ∨ s.startup = .run then
    { s with startup := if s.parts.toList.all (fun p => p.state == .closed) then .ready else .run }
  else s

/-! ### Doorbells (R327 to R329, R460) -/

/-- The fields of a doorbell (R327). -/
def dbPart (b : BitVec 64) : Nat := bitsAt b.toNat 5 0
def dbQueue (b : BitVec 64) : Nat := bitsAt b.toNat 7 6
def dbTail (b : BitVec 64) : Nat := bitsAt b.toNat 47 32
def dbReserved (b : BitVec 64) : Bool := bitsAt b.toNat 63 48 != 0 || bitsAt b.toNat 31 8 != 0

/-- Commands that a doorbell adds (R327). -/
def dbCount (r : Ring) (tail : Nat) : Nat := (tail + r.slots - r.tail.toNat) % max 1 r.slots

/-- The status of a doorbell (R328). -/
def State.doorbellStatus (s : State) (b : BitVec 64) : Status :=
  let p := s.part (dbPart b)
  let r := vget p.rings (dbQueue b)
  let h := s.heldTickets (dbPart b)
  let n := dbCount r (dbTail b)
  if p.state != .opened || p.waiting != .nothing || r.size == 0 || decide (dbTail b ≥ r.slots) || dbReserved b then .range
  else if n = 0 then .ok
  else if h + n > p.quota.toNat ∨ n > 512 - s.tickets.length ∨ p.comp.free < h + n ∨ p.floe.free < 3 * (h + n) then .busy
  else .ok

/-- A ticket as it is granted (R329). -/
def Ticket.granted (seq part queue slot : Nat) : Ticket :=
  { seq := seq, part := part, queue := queue, slot := slot, cmd := [], blocks := [], fetch := .command, readError := false,
    rows := [], held := 0, run := none, ended := none }

/-- Grant one ticket, and read its command over the command port (R329, R330). -/
def State.grant (s : State) (part queue slot : Nat) : State :=
  let t := Ticket.granted s.nextSeq part queue slot
  let s1 := { s with tickets := s.tickets ++ [t], nextSeq := s.nextSeq + 1 }
  s1.issueRead .cmd (hostAddr (s1.slotAddr t)) 64 (.ticket t.seq) false

/-- Accept a doorbell: its commands receive tickets in slot order, and the ring's tail moves (R328, R329). -/
def State.acceptDoorbell (s : State) (b : BitVec 64) : State :=
  let p := dbPart b
  let q := dbQueue b
  let r := vget (s.part p).rings q
  let s1 := s.modPart p (fun part => { part with
    rings := vmod part.rings q (fun r => { r with tail := BitVec.ofNat 16 (dbTail b) }) })
  (upto (dbCount r (dbTail b))).foldl (fun (s : State) k => s.grant p q ((r.tail.toNat + k) % r.slots)) s1

/-- DOORBELL: one beat on CMD_DB, answered by one on CMD_DBS (R328, R460). -/
def execDoorbell (beat : BitVec 64) (parityOk : Bool) (s : State) : Out :=
  s.onPort .cmdDb fun s => s.awake fun s =>
    if !parityOk then .next (s.portError.emit .cmdDbs [0xFF])
    else
      let st := s.doorbellStatus beat
      let s1 := match st with
        | .ok => s.acceptDoorbell beat
        | .busy => s.bump .busyDoorbells 1
        | _ => s
      .next (s1.emit .cmdDbs (leBytes 1 st.code))

/-! ### Completions and checkpoints -/

/-- The deadline count of a command has passed (R339). -/
def State.pastDeadline (s : State) (t : Ticket) : Bool := t.deadline != 0 && decide (t.deadline < s.count.toNat)

/-- A figure has finished and every output is accepted: its records are written, and its scratch is undefined from now on (R25,
R157, R339, R352). -/
def State.complete (s : State) (t : Ticket) (r : Running) : State :=
  let s1 := if t.op == .settle then t.namedCtxs.foldl (fun (s : State) c => s.releaseKeptOf c) s else s
  (s1.openWritten t.seq false).finish t (commandStatus r.result.status (s.pastDeadline t)) 0 r.offset

/-- A HALT has halted its partition, and its record still waits for the other records and the checkpoint (R355). -/
def State.halting (s : State) (t : Ticket) : Bool := t.op == .halt && (s.part t.part).state == .halted

/-- The HALT checkpoint falls due once every other ticket of the partition has its record; HALT's own record follows it (R50,
R355). -/
def State.haltDue (s : State) (t : Ticket) (r : Running) : State :=
  if s.tickets.any (fun x => x.part == t.part && x.seq != t.seq) then s
  else (s.checkpointDue t.part .halted (some t.seq)).modTicket t.seq (fun t => { t with
    ended := some (t.ended.getD (.ok, 0, r.offset)) })

/-- A checkpoint that holds a ticket's completion record is pending (R352). -/
def State.ckptHolds (s : State) (q : Nat) : Bool := s.ckpts.any (fun c => c.ticket == some q)

/-- COMMAND_COMPLETION: the records of a command that has finished or ended; outputs that the fabric has not accepted hold
it (R352). -/
def execCommandCompletion (ticket : Nat) (s : State) : Out :=
  s.awake fun s =>
    match s.ticket ticket with
    | none => .fault .noSuchTicket
    | some t =>
      match t.run with
      | none => .fault .noSuchTicket
      | some r =>
        if r.phase != .finished || s.ckptHolds ticket then .next s
        else if !(s.writesFor ticket).isEmpty then .next (s.modRun ticket (fun r => { r with holding := true }))
        else if s.halting t then .next (s.haltDue t r)
        else match t.ended with
          | some (st, fl, off) => .next (s.finish t st fl off).settleHandlers
          | none => .next (s.complete t r).settleHandlers

/-- What a checkpoint releases once it is written: a partition that opens or closes with its response, or a ticket's
record (R326, R352, R355). -/
def State.ckptDone (s : State) (c : Ckpt) : State :=
  let s1 := match c.reason with
    | .genesis => s.modPart c.part (fun q => { q with state := .opened, waiting := .nothing })
    | .closed => s.closePart c.part
    | _ => s
  let s2 := if s1.window.deferred = some (.ckpt c.part) ∧ (c.reason = .genesis ∨ c.reason = .closed) then s1.respond .ok [] else s1
  match c.ticket.bind s2.ticket with
  | some t => match t.ended with
    | some (st, fl, off) =>
      let st1 := if t.op == .halt then commandStatus st (s2.pastDeadline t) else st
      (s2.putCompletion t st1 fl off).settleHandlers
    | none => s2
  | none => s2

/-- CHECKPOINT_SIGNED: the Vault signs the checkpoint that fell due first, and it is written to the Floe ring (R51, R443). -/
def execCheckpointSigned (s : State) : Out :=
  s.awake fun s =>
    match s.ckpts with
    | [] => .next s
    | c :: rest => .next ((({ s with ckpts := rest }).writeCheckpoint c).ckptDone c).followParts

/-! ### Memory responses (R459, R461) -/

/-- A second parity error on a ticket's data: before launch the ticket ends without it, after launch the command ends
(R461). -/
def State.readFails (s : State) (q : Nat) : State :=
  match s.launched q with
  | some _ => s.endLaunch q .unrecovered
  | none => s.modTicket q (fun t => { t with readError := true })

/-- A response with a parity error (R461). -/
def State.badResponse (s : State) (r : ReadReq) : State :=
  match r.who with
  | .set q n => s.modRun q (fun x => { x with setsBad := n :: x.setsBad.filter (· != n) })
  | .reread rg n => { s with retries := s.retries.map (fun (x : Retry) => match x.err with
      | some e => if x.kind = .firnReread && e.region == rg && e.set == n then { x with bad := true } else x
      | none => x) }
  | .background rg n => { s with background := s.background.map (fun (b : Background) =>
      if b.region == rg && b.set == n then { b with bad := true } else b) }
  | .ticket q => if r.again then s.readFails q else s.issueRead r.chan r.addr r.len r.who true

/-- The sub-channel that brings a channel's read responses, and the one that brings its acknowledgements (R453). -/
def rdSub : MemChan → InSub | .cmd => .cmdRd | .drf n => .drfRd n
def waSub : MemChan → InSub | .cmd => .cmdWa | .drf n => .drfWa n

/-- A request in flight has the channel and the tag of a response. -/
def ReadReq.answers (r : ReadReq) (chan : MemChan) (tag : Nat) : Bool := r.sent && r.chan == chan && r.tag == tag
def WriteReq.answers (w : WriteReq) (chan : MemChan) (tag : Nat) : Bool := w.sent && w.chan == chan && w.tag == tag

/-- READ_RESPONSE: the data of one read, which then serves whoever asked for it (R459). Its tag is free again (R458). -/
def execReadResponse (chan : MemChan) (tag : Nat) (data : Bytes) (parityOk : Bool) (s : State) : Out :=
  s.onPort (rdSub chan) fun s => s.awake fun s =>
    match s.reads.find? (fun r => r.answers chan tag) with
    | none => .fault .unsolicited
    | some r =>
      let s1 := ({ s with reads := s.reads.filter (fun x => !(x.answers chan tag)) }).drainChannel chan
      if parityOk then .next { s1 with mem := s1.mem.storeHost r.addr (padTo r.len data) }.pumpIn
      else .next ((s1.portError).badResponse r).pumpIn

/-- WRITE_ACKNOWLEDGEMENT: the fabric has accepted a write; one with a parity error is discarded (R459, R461). -/
def execWriteAcknowledgement (chan : MemChan) (tag : Nat) (parityOk : Bool) (s : State) : Out :=
  s.onPort (waSub chan) fun s => s.awake fun s =>
    if !parityOk then .next s.portError
    else if s.writes.any (fun w => w.answers chan tag) then
      .next (({ s with writes := s.writes.filter (fun w => !(w.answers chan tag)) }).drainChannel chan)
    else .fault .unsolicited

/-- WRITE_ACK_TIMEOUT: 1,024 ticks passed with no acknowledgement, and the write is issued again (R461). -/
def execWriteAckTimeout (chan : MemChan) (tag : Nat) (s : State) : Out :=
  s.awake fun s =>
    match s.writes.find? (fun w => w.answers chan tag) with
    | none => .fault .unsolicited
    | some w =>
      let beat := match chan with | .cmd => w.data | .drf _ => padTo 512 w.data
      .next ((s.emit (rqSub chan) (requestBeat 2 tag w.data.length w.addr)).emit (wdSub chan) beat)

/-- HIDDEN_ROW: a row arrives on the activation port and goes to the earliest ticket that takes rows, where the buffer has
room; its credit goes back when it leaves the port (R457, R461, R462, R475). -/
def execHiddenRow (beats : Bytes) (parityOk : Bool) (s : State) : Out :=
  if s.rstAsserted then .next s
  else if s.dormant then .next (s.returnCredit .actIn)
  else
    let s1 := if parityOk then s else s.portError
    let s2 := { s1 with actIn := s1.actIn ++ [(beats, parityOk)] }
    .next (State.pumpRows s2.actIn.length s2)

/-- SUB_CHANNEL_CREDIT: a credit arrives, in any state but reset, and a message that waited is sent (R455, R456). -/
def execSubChannelCredit (sub : OutSub) (s : State) : Out :=
  if s.rstAsserted then .next s
  else
    let i := outIdx sub
    let o := s.outs[i]?.getD ⟨0, [], []⟩
    .next { s with outs := vset s.outs i (({ o with credits := o.credits + 1 } : OutPort).drain (beatBytes sub)) }

end Sys2Proof.Machine
end

