-- ==== Sys2Proof/Machine/LinkRows.lean ====
section
/-! DEFINITION. The Reel rows: frames received, link bring-up, retry and liveness (R293 to R304, R321, R322). -/
namespace Sys2Proof.Machine

/-- The block's Reel ports run from READY, and are silent in Whiteout (R294, R391). -/
def State.reelLive (s : State) : Bool := s.startup == .ready || s.startup == .run

/-- A Reel row: nothing happens before READY or in Whiteout. -/
def State.onReel (s : State) (f : State → Out) : Out := s.awake fun s => if s.reelLive then f s else .next s

/-- The commands that wait for a CHECK frame on a port end, each counted as a miss (R56). -/
def State.failChecks (s : State) (p : Fin 4) : State :=
  let qs := (s.tickets.filter (fun t => t.running && t.crossCheck && t.checkPort == p &&
    match t.run with | some r => r.phase == .checking | none => false)).map Ticket.seq
  qs.foldl (fun (s : State) q => (s.bump .checkMisses 1).endLaunch q .unrecovered) s

/-- The launches one of whose frames waits for a credit of a port (R302, R303). -/
def State.creditWaiters (s : State) (p : Fin 4) : List Nat :=
  (s.tickets.filter (fun t => t.running && (s.port p).backlog.any (fun f =>
    f.part == t.part && f.opcode == t.op.code && f.groupSeq == t.groupSeq))).map Ticket.seq

/-- A link goes down: launches that wait on it end, and bring-up begins (R301, R303, R56). -/
def State.dropLink (s : State) (p : Fin 4) : State :=
  let qs := if s.isTree p then s.creditWaiters p else []
  (qs.foldl (fun (s : State) q => s.endLaunch q .unrecovered) (((s.linkDown p).linkFault p none).failChecks p)).pump

/-! ### Reception (R300) -/

/-- A frame is received: it is discarded and counted where R300 says so, else it goes on with its acknowledgement and
credits taken. A row whose frame is of another type is not this event. -/
def State.receive (s : State) (f : Sys2Proof.RxFrame) (kind : Nat) (k : State → Frame → Out) : Out :=
  s.onPort (.reelRx f.port) fun s => s.onReel fun s =>
    let fr := Frame.read f.bytes
    if !(frameFormOk f.bytes) || (s.isTree f.port && fr.tag != s.settings.groupTag.toNat) then
      .next (s.bump .framesDiscarded 1)
    else if fr.kind != kind then .next s
    else if kind == ftHello then k s fr
    else if (s.port f.port).state != .up then .next s
    else k (s.takeAck f.port fr) fr

/-- Accept a credited frame that comes in link order; one out of order waits for the resend (R301, R304; log 12). -/
def State.acceptFrame (s : State) (p : Fin 4) (f : Frame) : State :=
  let pt := s.port p
  if f.linkSeq ≠ (pt.rxSeq + 1).toNat ∨ pt.rxq.length ≥ 8 then s
  else s.modPort p (fun pt => { pt with rxSeq := pt.rxSeq + 1, rxq := pt.rxq ++ [f] })

/-- EXCHANGE: the frame enters the port's queue, and is checked and merged when its time comes (R19, R304, R308). -/
def execExchange (f : Sys2Proof.RxFrame) (s : State) : Out :=
  s.receive f ftExchange fun s fr => .next (s.acceptFrame f.port fr).pump

/-- CHECK: the partner's compared fields (R54, R316). -/
def execCheck (f : Sys2Proof.RxFrame) (s : State) : Out :=
  s.receive f ftCheck fun s fr => .next (s.acceptFrame f.port fr).pump

/-- IDLE carries acknowledgements and credits alone (R299, R303). -/
def execIdle (f : Sys2Proof.RxFrame) (s : State) : Out :=
  s.receive f ftIdle fun s _ => .next s.pump

/-- Send every unacknowledged frame again, in order, with the resend flag; each resend counts as a retry (R35, R301; log 68). -/
def State.resendAll (s : State) (p : Fin 4) : State :=
  (s.port p).unacked.foldl (fun (s : State) (f : Frame) =>
    ((s.bump .resends 1).bump .retryFrame 1).putFrame p { f with flags := f.flags / 4 * 4 + 2 + f.flags % 2 }) s

/-- NAK: every unacknowledged frame after the one named is sent again (R301). -/
def execNak (f : Sys2Proof.RxFrame) (s : State) : Out :=
  s.receive f ftNak fun s _ => .next (s.resendAll f.port).pump

/-! ### ABORT (R321, R322) -/

/-- A member that has not launched the named launch keeps the ABORT, the oldest of 16 giving way (R322). -/
def State.keepAbort (s : State) (a : AbortEnt) : State :=
  let l := if s.abortTable.length < 16 then s.abortTable else s.abortTable.drop 1
  { s with abortTable := l ++ [a] }

/-- The named launch ends, or the ABORT waits for it (R322). One that has launched and completed is left alone. -/
def State.takeAbort (s : State) (a : AbortEnt) : State :=
  match s.tickets.find? (fun t => t.part == a.part && t.op.code == a.opcode && t.groupSeq == a.groupSeq && t.op.peer &&
      t.cmdKnown) with
  | some t =>
    match t.run with
    | some r => if t.ended.isNone && r.phase != .finished then s.endQuietly t.seq .unrecovered else s
    | none => s.keepAbort a
  | none =>
    if s.groupDone.any (fun e => e.part == a.part && e.opcode == a.opcode && e.groupSeq == a.groupSeq) then s else s.keepAbort a

/-- ABORT: sent on once for each launch and origin, on every up port but the one it came by (R322). -/
def execAbort (f : Sys2Proof.RxFrame) (s : State) : Out :=
  s.receive f ftAbort fun s fr =>
    let a : AbortEnt := ⟨fr.part, fr.opcode, fr.groupSeq, field fr.payload 0 2⟩
    if s.abortSeen.contains a then .next s
    else
      let s1 := ({ s with abortSeen := s.abortSeen ++ [a] }).bump .abortsReceived 1
      let ports := s1.upPorts.filter (fun p => p != f.port)
      let s2 := s1.putFrames ports (s1.abortFrame a.part a.opcode a.groupSeq a.origin (field fr.payload 2 1))
      .next (s2.takeAbort a).pump

/-! ### Bring-up (R294) -/

/-- What a HELLO reports (R299). -/
structure Report where
  id : Nat
  depth : Nat
  role : Nat
  tag : Nat
  size : Nat
  treeDepth : Nat
  deriving DecidableEq, Repr, Inhabited

/-- The report of a HELLO payload (R299). -/
def Report.read (p : Bytes) : Report :=
  ⟨field p 0 2, field p 2 1, field p 3 1, field p 4 4, field p 8 2, field p 10 1⟩

/-- The report matches the group's objects (R294). -/
def State.sameGroup (s : State) (r : Report) : Bool :=
  r.tag == s.settings.groupTag.toNat && r.size == s.settings.groupSize.toNat && r.treeDepth == s.settings.depth.toNat

/-- A port's verdict on its neighbour's report. -/
inductive HelloVerdict where
  | up (depth : Option Nat)
  | wait
  | misWired
  deriving DecidableEq, Repr, Inhabited

/-- The table of R294. A child port waits until the member's own depth is known. -/
def State.judgeHello (s : State) (p : Fin 4) (r : Report) : HelloVerdict :=
  match s.helloRole p with
  | 0 => if r.role == 1 && s.sameGroup r && decide (r.depth + 1 ≤ s.settings.depth.toNat) then .up (some (r.depth + 1)) else .misWired
  | 1 =>
    if !(r.role == 0 && s.sameGroup r) then .misWired
    else if s.memberDepth = 0xFF then .wait
    else if r.depth == s.memberDepth.toNat + 1 then .up none else .misWired
  | _ => if r.role == 2 then .up none else .misWired

/-- A port takes its neighbour's report (R294). -/
def State.takeHello (s : State) (p : Fin 4) (r : Report) : State :=
  let s1 := s.modPort p (fun pt => { pt with neighbour := BitVec.ofNat 16 r.id, neighbourTag := BitVec.ofNat 32 r.tag })
  match s.judgeHello p r with
  | .up d =>
    let s2 := s1.modPort p Port.bringUp
    match d with
    | some n => { s2 with memberDepth := BitVec.ofNat 8 n }
    | none => s2
  | .wait => s1
  | .misWired => s1.modPort p (fun pt => { pt with state := .misWired })

/-- HELLO: the neighbour's report is checked. On an up link it first marks the link down, which begins bring-up with a HELLO of
the port's own (R294; log 37). -/
def execHello (f : Sys2Proof.RxFrame) (s : State) : Out :=
  s.receive f ftHello fun s fr =>
    if (s.port f.port).rate = 0 then .next s
    else
      let s1 := if (s.port f.port).state == .up then s.dropLink f.port else s
      .next (s1.takeHello f.port (Report.read fr.payload))

/-- HELLO_TIMER: a port whose rate is not zero and whose link is not up sends HELLO every 4,096 ticks (R294). -/
def execHelloTimer (port : Fin 4) (s : State) : Out :=
  s.onReel fun s =>
    let pt := s.port port
    if pt.rate = 0 ∨ pt.state = .up then .next s
    else .next ((s.modPort port (fun p => { p with state := if p.state = .unused then .bringUp else p.state })).sendHello port)

/-- IDLE_TIMER: a port that has sent no frame for 256 ticks sends IDLE (R303). -/
def execIdleTimer (port : Fin 4) (s : State) : Out :=
  s.onReel fun s => if (s.port port).state = .up then .next (s.sendControl port ftIdle []) else .next s

/-- LINK_RECEIVE_TIMEOUT: no valid frame for 16,384 ticks, and the link is down (R303). -/
def execLinkReceiveTimeout (port : Fin 4) (s : State) : Out :=
  s.onReel fun s => if (s.port port).state = .up then .next (s.dropLink port) else .next s

/-- REEL_FRAME_CRC_FAILURE: the frame is discarded with NAK, and its resend is a retry that holds the receiver; a third
resend that fails takes the link down (R300, R301, R384). A parity error on the port is one such failure, and a port error
(R461). A link that is not up carries no figure's frame, and holds none. -/
def execReelFrameCrcFailure (port : Fin 4) (arrival : Sys2Proof.BadFrame) (s : State) : Out :=
  s.onPort (.reelRx port) fun s => s.onReel fun s =>
    let s0 := if arrival.parityOk then s else s.portError
    let s1 := s0.bump .crcFailures 1
    if (s.port port).rate = 0 then .next s1
    else
      let s2 := s1.sendControl port ftNak []
      if (s.port port).state ≠ .up then .next s2
      else if arrival.resend ≥ 3 then .next (s2.dropLink port)
      else .next (s2.hit .block .reel (.port port.val) port.val 0xFF none)

end Sys2Proof.Machine
end

