-- ==== Sys2Proof/Machine/Pavane.lean ====
section
/-! DEFINITION. The commands of the Pavane count (R357 to R360) and of preemption (R376 to R379). -/
namespace Sys2Proof.Machine

/-- Everything that a count brings: frames released, waits, holds and launches. -/
def State.atCount (s : State) : State :=
  let s0 := s.pump
  let s1 := s0.runningSeqs.foldl (fun (s : State) q => s.countWaits q) s0
  let s2 := s1.listHolds.pumpIn
  State.launchAll s2.tickets.length s2

/-- PAVANE_COUNT_LOAD: the first strobe at or after entry into SELFTEST loads the local count (R357). -/
def execPavaneCountLoad (pav : BitVec 64) (s : State) : Out :=
  s.awake fun s =>
    if s.countLoaded then .next s
    else .next { s with count := pav, countLoaded := true, inputDiff := 0 }

/-- PAVANE_ADVANCE: the local count advances, and every event of that count takes place (R357, R335). A pending slip is
taken here where PAV_ allows it (R359). Before the count is loaded nothing advances. -/
def execPavaneAdvance (pav : BitVec 64) (s : State) : Out :=
  s.awake fun s =>
    if !s.countLoaded then .next s
    else if s.slipDue pav then .next (s.takeSlip pav).atCount
    else .next (s.setCount (s.count + 1) pav).atCount

/-- PAVANE_SLIP: the local count takes the value of PAV_ at a multiple of 512 (R359, R360). -/
def execPavaneSlip (pav : BitVec 64) (s : State) : Out :=
  s.awake fun s => if s.slipDue pav then .next (s.takeSlip pav).atCount else .next s

/-! ### Preemption (R376 to R379) -/

/-- FRAME_BOUNDARY_PREEMPTION: at a frame boundary an eligible urgent ticket launches, and every figure that uses Serac or
the lanes is suspended (R376). While a retry holds the member, preemption waits for its end (R379). -/
def execFrameBoundaryPreemption (s : State) : Out :=
  s.awake fun s =>
    if s.count.toNat % 512 ≠ 0 ∨ s.urgentRuns ∨ s.urgentTicket.isNone then .next s
    else if s.retries.isEmpty then .next s.preempt
    else .next { s with preemptDue := true }

/-- SUSPENDED_FIGURE_RESUME: when the urgent figure's Rime drain ends, each suspended figure reloads its sets in 64 ticks and
every later offset moves by the ticks since the boundary (R378). -/
def execSuspendedFigureResume (s : State) : Out :=
  s.awake fun s =>
    if s.tickets.all (fun t => match t.run with | some r => r.suspendedAt.isNone | none => true) then .next s
    else .next (s.mapRuns (fun _ r => match r.suspendedAt with
      | some k => { r with suspendedAt := none, moved := r.moved + (s.tick - k) + 64 }
      | none => r))

end Sys2Proof.Machine
end

