-- ==== Sys2Proof/Machine/WindowRows.lean ====
section
/-! DEFINITION. The management window and the accesses that come through it: Send and the frame checks (R415 to R420), reads,
writes and descriptions of objects (R402 to R410), downloads (R421, R440). -/
namespace Sys2Proof.Machine

/-! ### The window's registers (R415 to R417) -/

/-- The answer of the window to a write (R453). -/
def State.mgtZero (s : State) : State := s.emit .mgtRs (leBytes 4 0)

/-- An access whose beat had a parity error is not performed, and reads as all ones (R461). -/
def State.mgtParity (s : State) : State := s.portError.emit .mgtRs (leBytes 4 0xFFFFFFFF)

/-- The frame answers with BAD_FRAME (R420). -/
def State.badFrame (s : State) : State := (s.bump .badFrames 1).respondWith none .badFrame []

/-- The frame answers with AUTH, under the session's key where the session is open (R418, R420). -/
def State.badAuth (s : State) : State :=
  let key := match s.session s.req.session with | some x => if x.opened then some x.key else none | none => none
  (s.bump .authFailures 1).respondWith key .auth []

/-- The session and counter checks of R420. A pending session is known only for OPEN_PROVE, which carries counter 1 and whose MAC
that service checks (R430; log 39). -/
def State.authOk (s : State) : Bool :=
  let r := s.req
  if r.session = 0 then s.macOk s.window.frame
  else match s.session r.session with
    | none => false
    | some x =>
      if r.op = 0x11 && !x.opened then r.counter == 1
      else x.opened && decide (r.counter > x.counter.toNat) && s.macOk s.window.frame

/-- The session accepts the frame's counter (R418, R420). -/
def State.acceptCounter (s : State) : State :=
  let r := s.req
  if r.session = 0 then s
  else s.modVault (fun v => { v with sessions := v.sessions.map (fun (x : Session) =>
    if x.id.toNat = r.session ∧ x.opened then { x with counter := BitVec.ofNat 64 r.counter } else x) })

/-- Send (R417): refused while the window is busy or a response waits, else the frame is checked, and answered at once where
it is bad, or awaits its operation. -/
def State.send (s : State) (length : BitVec 11) : State :=
  if s.window.busy || s.window.ready then s.modWindow (fun w => { w with overrun := true })
  else
    let s1 := s.modWindow (fun w => { w with length := length, sent := length, busy := true })
    if !(frameOk s1.window.frame) then s1.badFrame
    else if !s1.authOk then s1.badAuth
    else s1.acceptCounter.modWindow (fun w => { w with latched := true })

/-- Release clears Response ready (R415). -/
def State.releaseResponse (s : State) : State := s.modWindow (fun w => { w with ready := false })

/-- Clear overrun (R415). -/
def State.clearOverrun (s : State) : State := s.modWindow (fun w => { w with overrun := false })

/-- Slot advances, from 63 to 0 (R416). -/
def State.nextSlot (s : State) : State := s.modWindow (fun w => { w with slot := w.slot + 1 })

/-- Test mode, in which the window answers although the start-up state reads RESET (R468). -/
def State.testing (s : State) : Bool := s.dormant && s.released && s.testMode

/-- A window access on MGT_RQ: none in reset; one with a parity error is not performed (R457, R461). -/
def State.onWindow (s : State) (parityOk : Bool) (f : State → State) : Out :=
  s.onPort .mgtRq fun s =>
    if s.dormant && !s.testing then .next s else if parityOk then .next (f s) else .next s.mgtParity

/-- A write to MGT_CTRL: without Send it stores Length; its commands act in the order of their bits (R415, R417). -/
def State.writeCtrl (s : State) (v : BitVec 32) : State :=
  let len := BitVec.ofNat 11 v.toNat
  let s1 := if bitAt v.toNat 31 then s.send len else s.modWindow (fun w => { w with length := len })
  let s2 := if bitAt v.toNat 30 then s1.releaseResponse else s1
  if bitAt v.toNat 29 then s2.clearOverrun else s2

/-- MGT_SEND (R417). -/
def execMgtSend (length : BitVec 11) (parityOk : Bool) (s : State) : Out :=
  s.onWindow parityOk fun s => (s.send length).mgtZero

/-- MGT_RELEASE: MGT_CTRL is written with Release alone, so that Length becomes 0 (R415; log 75). -/
def execMgtRelease (parityOk : Bool) (s : State) : Out := s.onWindow parityOk fun s => (s.writeCtrl 0x40000000).mgtZero

/-- MGT_CLEAR_OVERRUN: MGT_CTRL is written with Clear overrun alone, so that Length becomes 0 (R415; log 75). -/
def execMgtClearOverrun (parityOk : Bool) (s : State) : Out := s.onWindow parityOk fun s => (s.writeCtrl 0x20000000).mgtZero

/-- MGT_DATA3_ACCESS: the word is transferred and Slot advances (R415, R416). -/
def execMgtData3Access (write : Option (BitVec 32)) (parityOk : Bool) (s : State) : Out :=
  s.onWindow parityOk fun s =>
    match write with
    | some v => (s.modWindow (fun w => w.putWord 3 v)).mgtZero.nextSlot
    | none => (s.emit .mgtRs (leBytes 4 (s.window.word 3).toNat)).nextSlot

/-- A write to a window register (R415, R416). -/
def State.writeWindow (s : State) (offset : BitVec 8) (value : BitVec 32) : State :=
  match offset.toNat with
  | 0x00 => s.writeCtrl value
  | 0x08 => s.modWindow (fun w => { w with slot := BitVec.ofNat 6 (bitsAt value.toNat 9 4) })
  | 0x0C => s.modWindow (fun w => w.putWord 0 value)
  | 0x10 => s.modWindow (fun w => w.putWord 1 value)
  | 0x14 => s.modWindow (fun w => w.putWord 2 value)
  | 0x18 => (s.modWindow (fun w => w.putWord 3 value)).nextSlot
  | _ => s

/-- What a window register reads as (R415); write-only and reserved bits read as zero (log 75). -/
def State.readWindow (s : State) (offset : BitVec 8) : U32 :=
  match offset.toNat with
  | 0x00 => BitVec.ofNat 32 s.window.length.toNat
  | 0x04 => s.mgtStat
  | 0x08 => BitVec.ofNat 32 (s.window.slot.toNat * 16)
  | 0x0C => s.window.word 0
  | 0x10 => s.window.word 1
  | 0x14 => s.window.word 2
  | 0x18 => s.window.word 3
  | _ => 0

/-- A read of a window register answers on MGT_RS; a read of MGT_DATA3 advances Slot (R415, R416, R453). -/
def State.answerRead (s : State) (offset : BitVec 8) : State :=
  let s1 := s.emit .mgtRs (leBytes 4 (s.readWindow offset).toNat)
  if offset = 0x18 then s1.nextSlot else s1

/-- MGT_REGISTER_WRITE: a write to a window register stores its field. The table has no row for a read of a register other than
MGT_DATA3, so that an access with no value is that read (R415, R416, R453; log 75). -/
def execMgtRegisterWrite (offset : BitVec 8) (value : Option (BitVec 32)) (parityOk : Bool) (s : State) : Out :=
  s.onWindow parityOk fun s =>
    match value with
    | some v => (s.writeWindow offset v).mgtZero
    | none => s.answerRead offset

/-! ### Rights (R409, R410, R392) -/

/-- The role of the request's session; none with no session (R409). -/
def State.reqRole (s : State) : Option Role := (s.session s.req.session).map Session.role

/-- A read is allowed with this session (R409). -/
def readRole (role : Option Role) (i sub : Nat) : Bool :=
  role.isSome || (decide (0x1000 ≤ i ∧ i < 0x1100)) || (i == 0x1100 && decide (1 ≤ sub ∧ sub ≤ 3))

/-- A read that Whiteout serves (R392). -/
def whiteoutRead (role : Option Role) (i : Nat) : Bool :=
  decide (0x1000 ≤ i ∧ i < 0x1100) ||
  (role.isSome && (decide (0x5000 ≤ i ∧ i < 0x5100) || decide (0x6000 ≤ i ∧ i < 0x6100) || decide (0x7000 ≤ i ∧ i < 0x8000)))

/-- The state of the block lets a write in (R410). -/
def State.writeState? (s : State) (i sub : Nat) (v : Bytes) : Bool :=
  (s.startup == .ready || s.startup == .run) ||
  (s.startup == .profile && !s.advancing &&
    !(decide (0x3000 ≤ i ∧ i < 0x3040) && sub == 1 && leNat v == 1))

/-! ### Reads, writes and descriptions (R402 to R405, R419) -/

/-- READ of one sub-index (R402, R413, R420). -/
def State.doRead (s : State) : State :=
  let r := s.req
  if s.startup == .whiteout && !(whiteoutRead s.reqRole r.index) then s.respond .whiteout []
  else match s.object r.index with
    | none => s.respond .noObject []
    | some l => match l[r.sub]? with
      | none => s.respond .noSub []
      | some o =>
        if o.acc = .wo then s.respond .access []
        else if !(readRole s.reqRole r.index r.sub) then s.respond .role []
        else (s.readEffect r.index r.sub).respond .ok (o.value ())

/-- Answer a write whose effect has taken place: at once, or when the checkpoint it waits for is written (R326, R422). -/
def State.answerWrite (s : State) (i : Nat) : State :=
  let p := i % 64
  let s1 := s.followParts
  if 0x3000 ≤ i ∧ i < 0x3040 ∧ (s.part p).waiting ≠ .nothing then
    s1.modWindow (fun w => { w with latched := false, admitted := false, refused := false, deferred := some (.ckpt p) })
  else s1.respond .ok []

/-- WRITE of one sub-index, with the checks in the order of R420. -/
def State.doWrite (s : State) : State :=
  let r := s.req
  if s.startup == .whiteout then s.respond .whiteout []
  else if !(s.writeState? r.index r.sub r.payload) then s.respond .state []
  else match s.object r.index with
    | none => s.respond .noObject []
    | some l => match l[r.sub]? with
      | none => s.respond .noSub []
      | some o =>
        if !(o.acc = .rw ∨ o.acc = .rwIdle) then s.respond .access []
        else if s.reqRole != some .operator then s.respond .role []
        else if r.payload.length ≠ o.size then s.respond .length []
        else if o.acc = .rwIdle && s.startup != .profile && !(s.writeIdle r.index r.sub (leNat r.payload)) then
          s.respond .notIdle []
        else match s.writeObject r.index r.sub (leNat r.payload) with
          | none => s.respond .refused []
          | some s1 => s1.answerWrite r.index

/-- One sub-index as DESCRIBE gives it (R419). -/
def Obj.described (o : Obj) : Bytes := leBytes 1 o.typ.code ++ leBytes 1 o.acc.code ++ leBytes 1 o.cls.code ++ leBytes 1 o.size

/-- DESCRIBE from the first sub-index named, at most 240 entries (R419). -/
def State.doDescribe (s : State) : State :=
  let r := s.req
  if s.startup == .whiteout then s.respond .whiteout []
  else if s.advancing then s.respond .state []
  else match s.object r.index with
    | none => s.respond .noObject []
    | some l =>
      if r.sub ≥ l.length then s.respond .noSub []
      else if s.reqRole.isNone && r.index != 0x1000 && r.index != 0x1100 then s.respond .role []
      else s.respond .ok (((l.drop r.sub).take 240).flatMap Obj.described)

/-- The latched request is of an operation, and its access takes place. In test mode every access ends with STATE (R410,
R468). -/
def State.onRequest (s : State) (op : Nat) (f : State → State) : Out :=
  if s.dormant && !s.testing then .next s
  else if !(s.window.latched && s.req.op == op) then .next s
  else if s.testing then .next (s.respond .state [])
  else .next (f s)

/-- READ (R419). -/
def execRead (s : State) : Out := s.onRequest 0x01 State.doRead

/-- WRITE (R405). -/
def execWrite (s : State) : Out := s.onRequest 0x02 State.doWrite

/-- DESCRIBE (R419). -/
def execDescribe (s : State) : Out := s.onRequest 0x03 State.doDescribe

/-- The partition that a SEED_IMPORT names is idle (R437). -/
def State.seedIdle (s : State) : Bool := s.partIdle (field s.req.payload 0 1)

/-- DICTIONARY_ACCESS_RELEASE: the latched access takes its effect at this count (R404). A SEED_IMPORT makes its idle test
(R437). -/
def execDictionaryAccessRelease (s : State) : Out :=
  if s.dormant && !s.testing then .next s
  else if !s.window.latched then .next s
  else if s.testing then .next (s.respond .state [])
  else match s.req.op with
      | 0x01 => .next s.doRead
      | 0x02 => .next s.doWrite
      | 0x03 => .next s.doDescribe
      | 0x14 => .next (s.modWindow (fun w =>
          if w.admitted || w.refused then w else { w with admitted := s.seedIdle, refused := !s.seedIdle }))
      | _ => .next s

/-! ### Downloads (R421, R439, R440) -/

/-- The status that stops a download operation before its own checks (R420). -/
def State.intakeStatus (s : State) : Option MStatus :=
  let r := s.req
  if s.startup == .whiteout then some .whiteout
  else if s.startup != .image then some .state
  else match s.object r.index with
    | none => some .noObject
    | some l => match l[r.sub]? with
      | none => some .noSub
      | some o =>
        if o.acc ≠ .wo then some .access
        else if s.reqRole != some .officer then some .role
        else none

/-- A download operation, once its access is allowed. -/
def State.onDownload (s : State) (op : Nat) (f : State → State) : Out :=
  s.onRequest op fun s => match s.intakeStatus with | some st => s.respond st [] | none => f s

/-- The operation breaks the download's order: it is abandoned (R421). -/
def State.breakDownload (s : State) : State := ({ s with download := none }).respond .sequence []

/-- DOWNLOAD_BEGIN opens a download, and abandons any open one (R421). -/
def execDownloadBegin (s : State) : Out :=
  s.onDownload 0x04 fun s => ({ s with download := some ⟨s.req.sub, s.req.offset, []⟩ }).respond .ok []

/-- DOWNLOAD_DATA continues exactly where the previous frame ended (R421). -/
def execDownloadData (s : State) : Out :=
  s.onDownload 0x05 fun s =>
    let r := s.req
    match s.download with
    | none => s.breakDownload
    | some d =>
      if d.intake ≠ r.sub ∨ r.offset ≠ d.data.length ∨ d.data.length + r.payload.length > d.total then s.breakDownload
      else ({ s with download := some { d with data := d.data ++ r.payload } }).respond .ok []

/-- The signature block of a download names a loaded key and verifies (R439, R440). -/
def State.signatureOk (s : State) (intake : Nat) (image block : Bytes) : Bool :=
  field block 0 4 == 0x33475346 && field block 4 2 == 1 && byteAt block 6 == intake && zeroAt block 7 0x10 &&
  match s.vault.verifyKeys.toList.find? (fun k => !k.isEmpty && keyId k == slice block 0x10 16) with
  | some k => ecdsaVerify k (image ++ leBytes 1 intake) (slice block 0x20 96)
  | none => false

/-- A figure image obeys R367, with its reserved fields zero (R364). -/
def State.figureOk (s : State) (im : Bytes) : Bool :=
  let n := s.grade.tiles
  decide (im.length ≥ 256) && field im 0 4 == 0x33514746 && field im 4 2 == 1 && field im 6 2 != 0 &&
  byteAt im 8 == s.grade.code && byteAt im 9 == n && zeroAt im 0x0A 0x0C && field im 0x0C 4 == im.length &&
  decide (byteAt im 0x13 < 64) && zeroAt im 0x16 0x18 && decide (byteAt im 0x36 < 4) && zeroAt im 0x3C 0x40 &&
  zeroAt im (0x40 + 4 * n) 0x80 && zeroAt im 0x80 0x100 &&
  s.figures.all (fun f => f.id != field im 6 2) && decide (s.figures.length < 255) &&
  decide (sumNat (s.figures.map (fun f => f.image.length)) + im.length ≤ 524288)

/-- An overlay obeys R194, with the slots and records that are free. -/
def State.overlayFits (s : State) (im : Bytes) : Bool :=
  overlayOk im && decide (s.overlays.length < 8) &&
  decide (sumNat (s.overlays.map (fun o => field o 0x0C 4)) + field im 0x0C 4 ≤ 4096)

/-- A micro-program obeys R198, and fits the RAM of R195. One of an id that is loaded takes its place (log 40). -/
def State.microFits (s : State) (im : Bytes) : Bool :=
  microOk (s.overlays.map sha384) im &&
  decide ((s.micros.filter (fun m => field m 6 1 != field im 6 1)).length < 31)

/-- Load an image whose signature verified; none where its own rules refuse it (R421). -/
def State.loadImage (s : State) (intake : Nat) (im : Bytes) : Option State :=
  match intake with
  | 1 => if s.microFits im then
      some { s with micros := s.micros.filter (fun m => field m 6 1 != field im 6 1) ++ [im] } else none
  | 2 => if s.figureOk im then some { s with figures := s.figures ++ [Figure.mk (field im 6 2) im] } else none
  | 3 => if s.overlayFits im then some { s with overlays := s.overlays ++ [im] } else none
  | _ => none

/-- DOWNLOAD_END, which carries no payload: the signature and the image's own rules are checked, and the image is loaded or refused
(R421, R433, R440). -/
def execDownloadEnd (s : State) : Out :=
  s.onDownload 0x06 fun s =>
    if s.req.payload.length ≠ 0 then s.respond .length []
    else match s.download with
    | none => s.breakDownload
    | some d =>
      if d.intake ≠ s.req.sub ∨ d.data.length ≠ d.total then s.breakDownload
      else
        let s1 := { s with download := none }
        let im := d.data.take (d.total - 128)
        let block := d.data.drop (d.total - 128)
        if d.total < 128 || !(s1.signatureOk d.intake im block) then (s1.bump .imageRefusals 1).respond .refused []
        else match s1.loadImage d.intake im with
          | some s2 => s2.respond .ok []
          | none => s1.respond .refused []

end Sys2Proof.Machine
end

