-- ==== Sys2Proof/Machine/VaultRows.lean ====
section
/-! DEFINITION. The Vault's services and its inputs: enrolment and sessions (R429 to R433), seeds (R434 to R437), keys (R438,
R442), entropy (R444, R445), self-test (R446, R447) and zeroisation (R448, R449). -/
namespace Sys2Proof.Machine

/-! ### What every service checks first (R420, R433) -/

/-- Who may call a service (R433). -/
inductive Caller where
  | nobody
  | pending
  | any
  | only (r : Role)
  deriving DecidableEq, Repr, Inhabited

/-- The session column of R433 is met. -/
def State.callerOk (s : State) (c : Caller) : Bool :=
  match c with
  | .nobody => s.req.session == 0
  | .pending => s.req.session != 0
  | .any => s.reqRole.isSome
  | .only r => s.reqRole == some r

/-- Run a service: Whiteout, state, role and length first (R420, R433), then its own effect. -/
def State.service (s : State) (code : Nat) (inWhiteout stateOk : Bool) (c : Caller) (len : Nat) (f : State → State) : Out :=
  s.onRequest code fun s =>
    if s.startup == .whiteout && !inWhiteout then s.respond .whiteout []
    else if !stateOk || s.advancing then s.respond .state []
    else if !(s.callerOk c) then s.respond .role []
    else if s.req.payload.length ≠ len then s.respond .length []
    else f s

/-- The Vault serves sessions: CTR_DRBG is instantiated, or the block is in Whiteout (R446, R450). -/
def State.vaultOpen (s : State) : Bool := s.startup == .whiteout || s.vault.drbg.isSome

/-! ### Sessions (R430 to R432) -/

/-- A role's place among the three keys. -/
def Role.idx : Role → Nat | .officer => 0 | .operator => 1 | .observer => 2

/-- The key of a role (R429). -/
def State.roleKey (s : State) (r : Role) : Bytes := vget s.vault.keys r.idx

/-- The challenge of a new session: from CTR_DRBG, in Whiteout a digest (R430, R450; log 41). -/
def State.challenge (s : State) : Bytes × State :=
  if s.startup == .whiteout then
    (sha384 (ascii [0x46, 0x4C, 0x55, 0x46, 0x33, 0x2D, 0x57, 0x4F] ++ leBytes 8 s.count.toNat ++ leBytes 8 s.vault.challenges), s)
  else s.vaultDraw 48

/-- The session key of R430. -/
def sessionKey (roleKey : Bytes) (id : U32) (n : Bytes) : Bytes :=
  kdf roleKey (ascii [0x53, 0x45, 0x53, 0x53, 0x49, 0x4F, 0x4E]) (leBytes 4 id.toNat ++ n) 384

/-- The proof of R430. -/
def openProof (roleKey : Bytes) (role : Role) (id : U32) (n : Bytes) : Bytes :=
  hmac384 roleKey (ascii [0x46, 0x4C, 0x55, 0x46, 0x33, 0x2D, 0x4F, 0x50, 0x45, 0x4E] ++ leBytes 1 role.code ++
    leBytes 4 id.toNat ++ n)

/-- Create a pending session, and answer with its id and challenge (R430). -/
def State.openSession (s : State) (role : Role) : State :=
  let (n, s1) := s.challenge
  let id := s1.vault.nextSession
  let x : Session := ⟨id, role, sessionKey (s1.roleKey role) id n, 0, false, n⟩
  (s1.modVault (fun v => { v with
    sessions := v.sessions ++ [x], nextSession := v.nextSession + 1, challenges := v.challenges + 1 })).respond .ok
    (leBytes 4 id.toNat ++ n)

/-- OPEN_CHALLENGE (R430, R431). Once every id has been given in a start it is refused (log 73). -/
def execOpenChallenge (s : State) : Out :=
  s.service 0x10 true (s.vaultOpen && s.vault.enrolled) .nobody 4 fun s =>
    let p := s.req.payload
    match Role.ofCode (byteAt p 0) with
    | none => s.respond .refused []
    | some role =>
      if !(zeroAt p 1 4) || decide (vget s.vault.failedProofs role.idx ≥ 16) || decide (s.vault.sessions.length ≥ 4) ||
        s.vault.nextSession == 0 then
        s.respond .refused []
      else s.openSession role

/-- End a session (R432). -/
def State.dropSession (s : State) (id : Nat) : State :=
  s.modVault (fun v => { v with sessions := v.sessions.filter (fun x => x.id.toNat != id) })

/-- A proof that fails: the pending session is discarded and the role's failures count (R430, R431). -/
def State.proofFails (s : State) (x : Session) : State :=
  let s1 := (s.dropSession x.id.toNat).modVault (fun v => { v with
    failedProofs := vmod v.failedProofs x.role.idx (· + 1) })
  (s1.bump .authFailures 1).respondWith none .auth []

/-- OPEN_PROVE: proof and MAC open the session, or it is discarded (R430); an open session or none is not the pending one that
the service asks for (R433). -/
def execOpenProve (s : State) : Out :=
  s.onRequest 0x11 fun s =>
    match s.session s.req.session with
    | none => if s.req.session ≠ 0 then s.badAuth else if s.advancing then s.respond .state [] else s.respond .role []
    | some x =>
      if x.opened then (if s.advancing then s.respond .state [] else s.respond .role [])
      else if !(s.macOk s.window.frame) then s.proofFails x
      else if s.advancing then s.respond .state []
      else if s.req.payload.length ≠ 48 then s.respond .length []
      else if s.req.payload ≠ openProof (s.roleKey x.role) x.role x.id x.challenge then s.proofFails x
      else
        let s1 := s.modVault (fun v => { v with sessions := v.sessions.map (fun (y : Session) =>
          if y.id = x.id then { y with opened := true, counter := 1 } else y) })
        (s1.bump .sessionsOpened 1).respond .ok []

/-- CLOSE ends its own session (R432). -/
def execClose (s : State) : Out :=
  s.service 0x12 true (s.vaultOpen) .any 0 fun s => (s.respond .ok []).dropSession s.req.session

/-- SESSION_IDLE_TIMEOUT: a session without an accepted frame for the idle limit closes (R432). -/
def execSessionIdleTimeout (session : BitVec 32) (s : State) : Out :=
  s.awake fun s => match s.session session.toNat with
    | some x => if x.opened then .next (s.dropSession x.id.toNat) else .next s
    | none => .next s

/-- PENDING_SESSION_TIMEOUT: a pending session without OPEN_PROVE is discarded (R430). -/
def execPendingSessionTimeout (session : BitVec 32) (s : State) : Out :=
  s.awake fun s => match s.session session.toNat with
    | some x => if x.opened then .next s else .next (s.dropSession x.id.toNat)
    | none => .next s

/-! ### Enrolment (R429, R434, R469) -/

/-- SELFTEST is left for IMAGE once every test has passed and ENROL has been accepted (R469). -/
def State.leaveSelftest (s : State) : State :=
  if s.startup == .selftest && s.testsDone && s.vault.enrolled then
    { s with startup := .image, vault := { s.vault with state := .operational } }
  else s

/-- The seed-wrap key (R434). -/
def seedWrapKey (operator : Bytes) : Bytes := kdf operator (ascii [0x53, 0x45, 0x45, 0x44, 0x57, 0x52, 0x41, 0x50]) [] 256

/-- ENROL: the three role keys, once per start (R429). -/
def execEnrol (s : State) : Out :=
  s.service 0x13 false (s.startup == .selftest && !s.vault.enrolled && s.vault.state != .zeroised) .nobody 144 fun s =>
    let k0 := slice s.req.payload 0 48
    let k1 := slice s.req.payload 48 48
    let k2 := slice s.req.payload 96 48
    if allZero k0 || allZero k1 || allZero k2 || k0 == k1 || k0 == k2 || k1 == k2 then s.respond .refused []
    else
      ((s.modVault (fun v => { v with keys := #v[k0, k1, k2], enrolled := true, seedWrap := seedWrapKey k1 })).respond .ok
        []).leaveSelftest

/-! ### Seeds (R435 to R437) -/

/-- The partition key of R275. -/
def partitionKey (p : Nat) (sd : Seed) : U64 × U64 :=
  let k := kdf sd.bytes (ascii [0x46, 0x4C, 0x55, 0x52, 0x52, 0x59]) (leBytes 1 p ++ leBytes 4 sd.epoch.toNat) 128
  (BitVec.ofNat 64 (leNat (k.take 8)), BitVec.ofNat 64 (leNat (k.drop 8)))

/-- Seed, epoch and key slots take their new values together (R436). -/
def State.putSeed (s : State) (p : Nat) (sd : Seed) : State :=
  s.modPart p (fun q => { q with seed := some sd, key := partitionKey p sd, held := none })

/-- The seed that a SEED_IMPORT payload unwraps to; none where the import is refused (R435). -/
def State.unwrapSeed (s : State) (p : Bytes) : Option Seed :=
  if field p 0 1 > 63 ∨ zeroAt p 1 4 = false then none
  else
    let aad := ascii [0x46, 0x4C, 0x55, 0x46, 0x33, 0x2D, 0x53, 0x45, 0x45, 0x44] ++ slice p 0 1 ++ slice p 4 4
    (gcmDecrypt s.vault.seedWrap (slice p 8 12) aad (slice p 0x14 32) (slice p 0x34 16)).map (fun b =>
      ⟨b, BitVec.ofNat 32 (field p 4 4)⟩)

/-- The partition of a SEED_IMPORT was idle at its release count; one that runs at its release count makes the test itself (R404,
R437). -/
def State.importAdmitted (s : State) (idle : Bool) : Bool := s.window.admitted || (!s.window.refused && idle)

/-- SEED_IMPORT: unwrap a seed and write its partition's key; a partition that has received a ticket since the import was
released keeps its old seed until it is idle (R435 to R437). -/
def execSeedImport (s : State) : Out :=
  s.service 0x14 false (s.startup == .profile || s.startup == .ready || s.startup == .run) (.only .operator) 68 fun s =>
    let p := field s.req.payload 0 1
    let idle := s.partIdle p
    if !(s.importAdmitted idle) then s.respond .notIdle []
    else match s.unwrapSeed s.req.payload with
      | none => (s.bump .seedImportFailures 1).respond .refused []
      | some sd =>
        let s1 := s.bump .seedImports 1
        if idle then (s1.putSeed p sd).respond .ok []
        else (s1.modPart p (fun q => { q with held := some sd })).modWindow (fun w => { w with
          latched := false, admitted := false, refused := false, deferred := some (.seed p) })

/-- SEED_KEY_DEFERRED_WRITE: a held seed's key is written once its partition is idle, and the response follows (R437). -/
def execSeedKeyDeferredWrite (part : Nat) (s : State) : Out :=
  s.awake fun s =>
    match (s.part part).held with
    | none => .next s
    | some sd =>
      if !(s.partIdle part) then .next s
      else
        let s1 := s.putSeed part sd
        .next (if s1.window.deferred = some (.seed part) then s1.respond .ok [] else s1)

/-! ### Keys (R438, R442) -/

/-- The public key as AUDIT_KEY gives it: zero, as its identifier, where the block entered Whiteout before there was a pair (R442;
log 74). -/
def Vault.auditKey (v : Vault) : Bytes := if v.auditPub.isEmpty then List.replicate 97 0 else v.auditPub

/-- AUDIT_KEY: the public key, then its identifier (R433, R442). -/
def execAuditKey (s : State) : Out :=
  s.service 0x15 true (s.startup != .selftest) .any 0 fun s => s.respond .ok (s.vault.auditKey ++ s.vault.auditId)

/-- VERIFY_KEY: a public key that validates takes its slot (R438). -/
def execVerifyKey (s : State) : Out :=
  s.service 0x16 false ((s.startup == .selftest && s.vaultOpen) || s.startup == .image) (.only .officer) 101 fun s =>
    let p := s.req.payload
    let key := slice p 4 97
    if byteAt p 0 > 3 || !(zeroAt p 1 4) || !(pubValid key) then s.respond .refused []
    else (s.modVault (fun v => { v with verifyKeys := vset v.verifyKeys (byteAt p 0) key })).respond .ok []

/-! ### Self-test service (R446, R447) -/

/-- SELFTEST: the known-answer tests again; `failed` is what they found. A failure is a Vault self-test failure (R447). -/
def execSelftest (failed : BitVec 32) (s : State) : Out :=
  s.service 0x18 false (s.startup == .ready || s.startup == .run) (.only .officer) 0 fun s =>
    if !s.allIdle then s.respond .notIdle []
    else
      let map := failed &&& 0x5FF
      let s1 := (s.modVault (fun v => { v with failures := map })).respond .ok (leBytes 4 map.toNat)
      if map = 0 then s1 else s1.enterWhiteout 4

/-! ### Entropy (R444, R445) -/

/-- The continuous tests take one sample: repetition count with cutoff 6, adaptive proportion with window 512 and cutoff 62
(R445). -/
def EntropyTests.take (t : EntropyTests) (x : Byte) : EntropyTests :=
  let run := if t.samples ≠ 0 ∧ t.last = x then t.run + 1 else 1
  let fresh := t.windowPos = 0
  let first := if fresh then x else t.windowFirst
  let count := if fresh then 1 else if t.windowFirst = x then t.windowCount + 1 else t.windowCount
  { samples := t.samples + 1, last := x, run := run, windowFirst := first, windowCount := count,
    windowPos := (t.windowPos + 1) % 512, repFailed := t.repFailed || decide (run ≥ 6),
    propFailed := t.propFailed || decide (count ≥ 62) }

/-- A Vault self-test failure: its bits, and Whiteout under cause 0x04 (R441, R445, R446, R447). -/
def State.vaultFails (s : State) (bits : U32) : State :=
  (s.modVault (fun v => { v with failures := v.failures ||| bits })).enterWhiteout 4

/-- Generate the audit key pair from CTR_DRBG, and sign and verify a fixed message with it; a pair that is not consistent fails
the self-test, bit 9 (R441, R446, R447). -/
def State.makeAuditKey (s : State) (d : Drbg) : State :=
  let (k, d1) := drawScalar scalarTries d
  let pub := pubEncode (jMul k p384g)
  let r := ecdsaSign scalarTries d1 k Config.pairwiseMessage
  let s1 := (s.modVault (fun v => { v with auditPriv := k, auditPub := pub })).setDrbg r.2
  if ecdsaVerify pub Config.pairwiseMessage r.1 then s1 else s1.vaultFails 0x200

/-- A credited sample: 96 instantiate CTR_DRBG after the 1,024 of the start-up tests, 64 serve a reseed that is due (R444,
R446). -/
def State.credit (s : State) (x : Byte) : State :=
  let pool := s.vault.pool ++ [x]
  match s.vault.drbg with
  | none =>
    if pool.length < 96 then s.modVault (fun v => { v with pool := pool })
    else
      let pers := ascii [0x46, 0x4C, 0x55, 0x46, 0x33] ++ leBytes 1 s.grade.code
      (s.modVault (fun v => { v with pool := [] })).makeAuditKey (drbgInstantiate pool pers)
  | some d =>
    if !s.vault.reseedDue then s
    else if pool.length < 64 then s.modVault (fun v => { v with pool := pool })
    else
      (s.modVault (fun v => { v with drbg := some (drbgReseed d pool), reseedDue := false, pool := [] })).bump .drbgReseeds 1

/-- ENTROPY_SAMPLE: one sample goes through the health tests, in every state, and is credited after the 1,024 of the start-up
tests. A failure stops CTR_DRBG and enters Whiteout; among the start-up samples it is bit 8 of the self-test (R445 to R447). A
sample with a parity error is discarded (R461). A zeroised Vault credits none. -/
def execEntropySample (sample : Byte) (parityOk : Bool) (s : State) : Out :=
  s.onPort .vltEnt fun s => s.awake fun s =>
    if !parityOk then .next s.portError
    else
      let early := decide (s.vault.tests.samples < 1024)
      let t := s.vault.tests.take sample
      let s1 := s.modVault (fun v => { v with tests := t })
      if s.startup == .whiteout then .next s1
      else if t.repFailed || t.propFailed then .next (s1.vaultFails (if early then 0x100 else 0))
      else if early || s.vault.state == .zeroised then .next s1
      else .next (s1.credit sample)

/-! ### Zeroisation (R448, R449) -/

/-- Begin zeroisation in any state but reset (R448). -/
def State.beginZeroise (s : State) : State := s.zeroiseBlock.followParts

/-- ZEROISE: answered first, then zeroisation (R449). -/
def execZeroise (s : State) : Out :=
  s.service 0x17 false s.vaultOpen (.only .officer) 0 fun s => (s.respond .ok []).beginZeroise

/-- ZEROISE_INPUT: no setting masks it (R448). -/
def execZeroiseInput (s : State) : Out :=
  let s1 := { s with zeroisePin := true }
  if s1.dormant then .next s1 else .next s1.beginZeroise

/-- TAMPER_INPUT held for `cycles` synchronised CLK_VAULT cycles: two or more start zeroisation (R448). -/
def execTamperInput (cycles : Nat) (s : State) : Out :=
  let s1 := { s with tamperPin := decide (cycles ≥ 2) }
  if s1.dormant || decide (cycles < 2) then .next s1 else .next s1.beginZeroise

end Sys2Proof.Machine
end

