-- ==== Sys2Proof/Machine/StartRows.lean ====
section
/-! DEFINITION. Reset, self-test and the start-up states (R465 to R472), and the test wrapper (R467, R468). -/
namespace Sys2Proof.Machine

/-- RST_N asserted: every figure, ticket, session, download and link ends at once, with no record and no ABORT, and every
value of R424 is cleared (R466). Host memory and the pins are outside the block, and stay. -/
def execRstNAssert (s : State) : Out :=
  .next { State.resetOf s.grade s.stepping with
    pending := s.pending, free := s.free, mem := s.mem, zeroisePin := s.zeroisePin, tamperPin := s.tamperPin,
    testReading := s.testReading }

/-- RESET_RELEASE: RST_N is released and TST_MODE sampled (R465, R468), and the receivers offer their entries (R455); the
levels of the zeroise and tamper inputs are those of that moment (R472). -/
def execResetRelease (testMode zeroisePin tamperPin : Bool) (s : State) : Out :=
  if !(s.dormant && s.rstAsserted) then .next s
  else .next { s with
    rstAsserted := false, released := true, ins := Vector.ofFn (fun i => InPort.opened (inEntries.getD i.val 0)),
    testMode := testMode, zeroisePin := zeroisePin, tamperPin := tamperPin }

/-- SELFTEST_ENTRY: 1,024 ticks after the release, unless in test mode (R465, R468). An input still asserted starts
zeroisation (R472). -/
def execSelftestEntry (s : State) : Out :=
  if !(s.dormant && s.released) || s.testMode then .next s
  else
    let s1 := { s with startup := .selftest }
    .next (if s1.zeroisePin || s1.tamperPin then s1.beginZeroise else s1)

/-- The repair entry of a tile from the rows that failed (R393). -/
def repairEntry (rows : List Nat) : U16 :=
  match rows.eraseDups.filter (fun r => decide (r < 33)) with
  | [] => 63
  | [r] => if r = 32 then 32 else BitVec.ofNat 16 r
  | _ => 0x8000 + 63

/-- The repair map and the spare-word map that the tests build (R148, R393, R395, R470). -/
def State.takeReport (s : State) (r : Sys2Proof.TestReport) : State :=
  let s1 := s.tileNos.foldl (fun (s : State) n =>
    s.modTile n (fun t => { t with entry := repairEntry (r.tiles.getD n []) })) s
  let s2 := r.spares.foldl (fun (s : State) p => { s with bankSpares := vset s.bankSpares p.1 (min 16 p.2) }) s1
  let tilesOff := s2.tileNos.any (fun n => decide ((s2.tile n).entry.toNat ≥ 0x8000))
  { s2 with
    testsDone := true,
    reasons := BitVec.ofNat 8 (bit tilesOff 0 + bit s2.sparesGone 1),
    vault := { s2.vault with failures := r.vaultMap &&& 0x7FF } }

/-- SELFTEST_COMPLETE: every test has ended. A failure enters Whiteout (R390, R447); else the block goes on to IMAGE once
ENROL is accepted (R469). -/
def execSelftestComplete (report : Sys2Proof.TestReport) (s : State) : Out :=
  let failed := report.failed || (report.vaultMap &&& 0x7FF) != 0
  if s.startup ≠ .selftest ∨ s.testsDone then .next s
  else if !failed && s.vault.state == .selfTesting && s.vault.drbg.isNone then .next s
  else
    let s1 := s.takeReport report
    if report.failed then .next (s1.enterWhiteout 3)
    else if failed then .next (s1.enterWhiteout 4)
    else if s1.activeTiles.isEmpty then .next (s1.enterWhiteout 2)
    else if s1.vault.state = .zeroised then .next s1
    else .next ({ s1 with vault := { s1.vault with state := .awaitingEnrol } }).leaveSelftest

/-- MGT_ADVANCE: from IMAGE to PROFILE, and from PROFILE towards READY where the Vault is operational; else ignored (R469). -/
def execMgtAdvance (s : State) : Out :=
  s.awake fun s =>
    match s.startup with
    | .image => .next { s with startup := .profile, download := none }
    | .profile => .next (if s.vault.state = .operational then { s with advancing := true } else s)
    | _ => .next s

/-- READY_ENTRY: the Sleet generators are seeded, the pinned map is in force, and Reel bring-up begins (R285, R294,
R469). With no active tile the block enters Whiteout (R124). -/
def execReadyEntry (s : State) : Out :=
  s.awake fun s =>
    if !s.advancing || s.startup ≠ .profile || s.vault.state ≠ .operational then .next s
    else
      let s1 := s.seedSleet
      let s2 := { s1 with
        startup := .ready, advancing := false, linksBegun := true, tiles := s1.tiles.map (fun (t : Tile) => { t with force := t.pinned }) }
      .next (if s2.activeTiles.isEmpty then s2.enterWhiteout 2 else s2.renewLinks)

/-- The instrument answers in this state (R467, R468). -/
def State.instrumentOpen (s : State) (i : Sys2Proof.Instrument) : Bool :=
  match i with
  | .temperature _ => true
  | .supply _ => true
  | .clockMonitor _ => true
  | .bist _ => s.testing
  | .repairMaps => s.testing
  | .scanChain _ => s.testing

/-- TEST_WRAPPER_ACCESS: an instrument's reading leaves on the wrapper; its value is free (R467). One that is not available
gives none. -/
def execTestWrapperAccess (instrument : Sys2Proof.Instrument) (s : State) : Out :=
  if s.instrumentOpen instrument then
    let (v, s1) := s.fresh
    .next { s1 with testReading := v }
  else .next s

end Sys2Proof.Machine
end

