-- ==== Sys2Proof/Machine/Dispatch.lean ====
section
/-! DEFINITION. What each command does: one arm per constructor of `Instr`, each one direct call of its meaning. -/
namespace Sys2Proof.Machine

/-- The effect of a command on everything but the queue. -/
def exec (i : Instr) (s : State) : Host.Outcome State Fault Refusal :=
  match i with
  | .nop ticket => Sys2Proof.Machine.execNop ticket s
  | .step ticket => Sys2Proof.Machine.execStep ticket s
  | .score ticket => Sys2Proof.Machine.execScore ticket s
  | .settle ticket => Sys2Proof.Machine.execSettle ticket s
  | .verify ticket => Sys2Proof.Machine.execVerify ticket s
  | .beam ticket => Sys2Proof.Machine.execBeam ticket s
  | .loss ticket => Sys2Proof.Machine.execLoss ticket s
  | .grad ticket => Sys2Proof.Machine.execGrad ticket s
  | .reduce ticket => Sys2Proof.Machine.execReduce ticket s
  | .func ticket => Sys2Proof.Machine.execFunc ticket s
  | .fill ticket => Sys2Proof.Machine.execFill ticket s
  | .loadw ticket => Sys2Proof.Machine.execLoadw ticket s
  | .evictw ticket => Sys2Proof.Machine.execEvictw ticket s
  | .save ticket => Sys2Proof.Machine.execSave ticket s
  | .restore ticket => Sys2Proof.Machine.execRestore ticket s
  | .waitcount ticket => Sys2Proof.Machine.execWaitcount ticket s
  | .fence ticket => Sys2Proof.Machine.execFence ticket s
  | .digest ticket => Sys2Proof.Machine.execDigest ticket s
  | .dict ticket => Sys2Proof.Machine.execDict ticket s
  | .halt ticket => Sys2Proof.Machine.execHalt ticket s
  | .doorbell beat parityOk => Sys2Proof.Machine.execDoorbell beat parityOk s
  | .commandCompletion ticket => Sys2Proof.Machine.execCommandCompletion ticket s
  | .checkpointSigned => Sys2Proof.Machine.execCheckpointSigned s
  | .pavaneCountLoad pav => Sys2Proof.Machine.execPavaneCountLoad pav s
  | .pavaneAdvance pav => Sys2Proof.Machine.execPavaneAdvance pav s
  | .pavaneSlip pav => Sys2Proof.Machine.execPavaneSlip pav s
  | .dictionaryAccessRelease => Sys2Proof.Machine.execDictionaryAccessRelease s
  | .frameBoundaryPreemption => Sys2Proof.Machine.execFrameBoundaryPreemption s
  | .suspendedFigureResume => Sys2Proof.Machine.execSuspendedFigureResume s
  | .cellResidueError tile row col use => Sys2Proof.Machine.execCellResidueError tile row col use s
  | .registerParityError tile row col use => Sys2Proof.Machine.execRegisterParityError tile row col use s
  | .accumulatorResidueError bank use => Sys2Proof.Machine.execAccumulatorResidueError bank use s
  | .accumulatorUncorrectable bank use => Sys2Proof.Machine.execAccumulatorUncorrectable bank use s
  | .laneMismatch slice unit use ticket => Sys2Proof.Machine.execLaneMismatch slice unit use ticket s
  | .moraineMismatch ticket => Sys2Proof.Machine.execMoraineMismatch ticket s
  | .flurryMismatch unit ticket => Sys2Proof.Machine.execFlurryMismatch unit ticket s
  | .sleetParityError slice => Sys2Proof.Machine.execSleetParityError slice s
  | .firnUncorrectableWeight region set bank ticket => Sys2Proof.Machine.execFirnUncorrectableWeight region set bank ticket s
  | .firnUncorrectableWorkArea region bank ticket => Sys2Proof.Machine.execFirnUncorrectableWorkArea region bank ticket s
  | .tableMemoryError slice mem ticket => Sys2Proof.Machine.execTableMemoryError slice mem ticket s
  | .tableReloadDone slice verified => Sys2Proof.Machine.execTableReloadDone slice verified s
  | .contextMemoryError ctx ticket => Sys2Proof.Machine.execContextMemoryError ctx ticket s
  | .crossingDatumLate ticket => Sys2Proof.Machine.execCrossingDatumLate ticket s
  | .streamedSetCheck ticket set => Sys2Proof.Machine.execStreamedSetCheck ticket set s
  | .retryEnd stillFails => Sys2Proof.Machine.execRetryEnd stillFails s
  | .scrubRead found => Sys2Proof.Machine.execScrubRead found s
  | .backgroundRereadDone region set stillFails => Sys2Proof.Machine.execBackgroundRereadDone region set stillFails s
  | .hiddenRow beats parityOk => Sys2Proof.Machine.execHiddenRow beats parityOk s
  | .readResponse chan tag data parityOk => Sys2Proof.Machine.execReadResponse chan tag data parityOk s
  | .writeAcknowledgement chan tag parityOk => Sys2Proof.Machine.execWriteAcknowledgement chan tag parityOk s
  | .writeAckTimeout chan tag => Sys2Proof.Machine.execWriteAckTimeout chan tag s
  | .hello f => Sys2Proof.Machine.execHello f s
  | .idle f => Sys2Proof.Machine.execIdle f s
  | .nak f => Sys2Proof.Machine.execNak f s
  | .exchange f => Sys2Proof.Machine.execExchange f s
  | .check f => Sys2Proof.Machine.execCheck f s
  | .abort f => Sys2Proof.Machine.execAbort f s
  | .helloTimer port => Sys2Proof.Machine.execHelloTimer port s
  | .idleTimer port => Sys2Proof.Machine.execIdleTimer port s
  | .linkReceiveTimeout port => Sys2Proof.Machine.execLinkReceiveTimeout port s
  | .peerDeadline ticket => Sys2Proof.Machine.execPeerDeadline ticket s
  | .stallLimit ticket => Sys2Proof.Machine.execStallLimit ticket s
  | .checkDeadline ticket => Sys2Proof.Machine.execCheckDeadline ticket s
  | .mgtSend length parityOk => Sys2Proof.Machine.execMgtSend length parityOk s
  | .mgtRelease parityOk => Sys2Proof.Machine.execMgtRelease parityOk s
  | .mgtClearOverrun parityOk => Sys2Proof.Machine.execMgtClearOverrun parityOk s
  | .mgtData3Access write parityOk => Sys2Proof.Machine.execMgtData3Access write parityOk s
  | .mgtRegisterWrite offset value parityOk => Sys2Proof.Machine.execMgtRegisterWrite offset value parityOk s
  | .read => Sys2Proof.Machine.execRead s
  | .write => Sys2Proof.Machine.execWrite s
  | .describe => Sys2Proof.Machine.execDescribe s
  | .downloadBegin => Sys2Proof.Machine.execDownloadBegin s
  | .downloadData => Sys2Proof.Machine.execDownloadData s
  | .downloadEnd => Sys2Proof.Machine.execDownloadEnd s
  | .openChallenge => Sys2Proof.Machine.execOpenChallenge s
  | .openProve => Sys2Proof.Machine.execOpenProve s
  | .close => Sys2Proof.Machine.execClose s
  | .enrol => Sys2Proof.Machine.execEnrol s
  | .seedImport => Sys2Proof.Machine.execSeedImport s
  | .seedKeyDeferredWrite part => Sys2Proof.Machine.execSeedKeyDeferredWrite part s
  | .auditKey => Sys2Proof.Machine.execAuditKey s
  | .verifyKey => Sys2Proof.Machine.execVerifyKey s
  | .zeroise => Sys2Proof.Machine.execZeroise s
  | .selftest failed => Sys2Proof.Machine.execSelftest failed s
  | .sessionIdleTimeout session => Sys2Proof.Machine.execSessionIdleTimeout session s
  | .pendingSessionTimeout session => Sys2Proof.Machine.execPendingSessionTimeout session s
  | .entropySample sample parityOk => Sys2Proof.Machine.execEntropySample sample parityOk s
  | .zeroiseInput => Sys2Proof.Machine.execZeroiseInput s
  | .tamperInput cycles => Sys2Proof.Machine.execTamperInput cycles s
  | .rstNAssert => Sys2Proof.Machine.execRstNAssert s
  | .resetRelease testMode zeroisePin tamperPin => Sys2Proof.Machine.execResetRelease testMode zeroisePin tamperPin s
  | .selftestEntry => Sys2Proof.Machine.execSelftestEntry s
  | .selftestComplete report => Sys2Proof.Machine.execSelftestComplete report s
  | .mgtAdvance => Sys2Proof.Machine.execMgtAdvance s
  | .readyEntry => Sys2Proof.Machine.execReadyEntry s
  | .testWrapperAccess instrument => Sys2Proof.Machine.execTestWrapperAccess instrument s
  | .reelFrameCrcFailure port arrival => Sys2Proof.Machine.execReelFrameCrcFailure port arrival s
  | .byteParityError path ticket => Sys2Proof.Machine.execByteParityError path ticket s
  | .subChannelCredit sub => Sys2Proof.Machine.execSubChannelCredit sub s

end Sys2Proof.Machine
end

