-- ==== Sys2Proof/WellFormed.lean ====
section
/-! DEFINITION. Well-formed commands: the lengths and ranges that the ports and the part's geometry allow. A row of the
table whose operands need no check is always well formed. -/
namespace Sys2Proof

/-- A physical tile, row and column of the array (01: 16 tiles at most, 33 rows, 32 columns). -/
def cellOk (tile row col : Nat) : Bool := decide (tile < 16 ∧ row < 33 ∧ col < 32)

/-- A bank that a tile of the grade can have (R105). -/
def bankOk (b : AccBank) : Bool := decide (b.tile < 16 ∧ b.bank < 32)

/-- One of a slice's 64 lanes, or the rounding stage of one of the 16 tiles (R382). -/
def laneUnitOk : LaneUnit → Bool
  | .lane n => decide (n < 64)
  | .rounding tile => decide (tile < 16)

/-- A hidden row's beats of 128 bytes (R453). -/
def rowBeatsOk (bs : Bytes) : Bool := decide (bs.length > 0 ∧ bs.length % 128 = 0)

/-- A read response: beats of 64 bytes on CMD_RD, one beat of 512 bytes at most on DRFn_RD (R459). -/
def responseOk : MemChan → Bytes → Bool
  | .cmd, bs => decide (1 ≤ bs.length / 64 ∧ bs.length / 64 ≤ 8 ∧ bs.length % 64 = 0)
  | .drf _, bs => decide (bs.length = 512)

/-- A tag of 11 bits (R452). -/
def tagOk (t : Nat) : Bool := decide (t < 2048)

/-- A frame holds its 32-byte header (R298). -/
def rxOk (f : RxFrame) : Bool := decide (32 ≤ f.bytes.length)

/-- The type byte of a frame (R299). -/
def rxType (f : RxFrame) : Nat := (f.bytes.getD 0 0).toNat

/-- A well-formed command. -/
def Instr.wellFormed : Instr → Bool
  | .cellResidueError t r c _ => cellOk t r c
  | .registerParityError t r c _ => cellOk t r c
  | .accumulatorResidueError b _ => bankOk b
  | .accumulatorUncorrectable b _ => bankOk b
  | .laneMismatch s u _ _ => decide (s < 4) && laneUnitOk u
  | .flurryMismatch (.slice s) _ => decide (s < 4)
  | .sleetParityError s => decide (s < 4)
  | .firnUncorrectableWeight r _ b _ => decide (r < 64 ∧ b < 256)
  | .firnUncorrectableWorkArea r b _ => decide (r < 64 ∧ b < 256)
  | .tableMemoryError s _ _ => decide (s < 4)
  | .tableReloadDone s _ => decide (s < 4)
  | .byteParityError (.splitBuffer t r _) _ => decide (t < 16 ∧ r < 33)
  | .contextMemoryError c _ => decide (c < 256)
  | .backgroundRereadDone r _ _ => decide (r < 64)
  | .hiddenRow bs _ => rowBeatsOk bs
  | .readResponse ch t bs _ => tagOk t && responseOk ch bs
  | .writeAcknowledgement _ t _ => tagOk t
  | .writeAckTimeout _ t => tagOk t
  | .hello f => rxOk f && rxType f == 0x01
  | .idle f => rxOk f && rxType f == 0x00
  | .nak f => rxOk f && rxType f == 0x02
  | .exchange f => rxOk f && rxType f == 0x10
  | .check f => rxOk f && rxType f == 0x20
  | .abort f => rxOk f && rxType f == 0x3F
  | .seedKeyDeferredWrite p => decide (p < 64)
  | .selftestComplete rep => rep.tiles.all (fun l => l.all (fun r => decide (r < 33)))
  | _ => true

end Sys2Proof
end

