-- ==== Sys2Proof/Safety.lean ====
section
/-! DEFINITION. The words the statements use: a command completes, what it leaves unchanged, the invariant of the block. -/
namespace Sys2Proof.Machine

/-- The answer is a next state. -/
def Completes (o : Out) : Prop := ∃ t : State, o = Host.Outcome.next t

/-- The fields of `State` that a command may change: every one but the queue, the grade and the stepping. -/
inductive Fld where
  | free | startup | rstAsserted | testMode | released | testsDone | advancing | zeroisePin | tamperPin |
  portErrors | testReading | count | countLoaded | slipPending | inputDiff | tick | profile | profileDigest |
  settings | parts | tickets | nextSeq | ckpts | ctxs | regions | firn | bankSpares | scrub | background |
  mem | reads | writes | written | outs | ins | tiles | slices | block | retries | preemptDue |
  sleetRunning | seedings | overlays | micros | figures | ports | memberDepth | abortTable | abortSeen |
  groupDone | passed | actIn | vault | window | download | pendingCompletions | pendingHealth |
  freshCompletions | freshHealth | linksBegun | whiteoutCause | whiteoutCount | tableReloaded | reasons |
  log | logWritten | counters
  deriving DecidableEq, Repr

/-- A field has the same value in two states. -/
def Fld.same : Fld → State → State → Prop
  | .free, s, t => t.free = s.free
  | .startup, s, t => t.startup = s.startup
  | .rstAsserted, s, t => t.rstAsserted = s.rstAsserted
  | .testMode, s, t => t.testMode = s.testMode
  | .released, s, t => t.released = s.released
  | .testsDone, s, t => t.testsDone = s.testsDone
  | .advancing, s, t => t.advancing = s.advancing
  | .zeroisePin, s, t => t.zeroisePin = s.zeroisePin
  | .tamperPin, s, t => t.tamperPin = s.tamperPin
  | .portErrors, s, t => t.portErrors = s.portErrors
  | .testReading, s, t => t.testReading = s.testReading
  | .count, s, t => t.count = s.count
  | .countLoaded, s, t => t.countLoaded = s.countLoaded
  | .slipPending, s, t => t.slipPending = s.slipPending
  | .inputDiff, s, t => t.inputDiff = s.inputDiff
  | .tick, s, t => t.tick = s.tick
  | .profile, s, t => t.profile = s.profile
  | .profileDigest, s, t => t.profileDigest = s.profileDigest
  | .settings, s, t => t.settings = s.settings
  | .parts, s, t => t.parts = s.parts
  | .tickets, s, t => t.tickets = s.tickets
  | .nextSeq, s, t => t.nextSeq = s.nextSeq
  | .ckpts, s, t => t.ckpts = s.ckpts
  | .ctxs, s, t => t.ctxs = s.ctxs
  | .regions, s, t => t.regions = s.regions
  | .firn, s, t => t.firn = s.firn
  | .bankSpares, s, t => t.bankSpares = s.bankSpares
  | .scrub, s, t => t.scrub = s.scrub
  | .background, s, t => t.background = s.background
  | .mem, s, t => t.mem = s.mem
  | .reads, s, t => t.reads = s.reads
  | .writes, s, t => t.writes = s.writes
  | .written, s, t => t.written = s.written
  | .outs, s, t => t.outs = s.outs
  | .ins, s, t => t.ins = s.ins
  | .tiles, s, t => t.tiles = s.tiles
  | .slices, s, t => t.slices = s.slices
  | .block, s, t => t.block = s.block
  | .retries, s, t => t.retries = s.retries
  | .preemptDue, s, t => t.preemptDue = s.preemptDue
  | .sleetRunning, s, t => t.sleetRunning = s.sleetRunning
  | .seedings, s, t => t.seedings = s.seedings
  | .overlays, s, t => t.overlays = s.overlays
  | .micros, s, t => t.micros = s.micros
  | .figures, s, t => t.figures = s.figures
  | .ports, s, t => t.ports = s.ports
  | .memberDepth, s, t => t.memberDepth = s.memberDepth
  | .abortTable, s, t => t.abortTable = s.abortTable
  | .abortSeen, s, t => t.abortSeen = s.abortSeen
  | .groupDone, s, t => t.groupDone = s.groupDone
  | .passed, s, t => t.passed = s.passed
  | .actIn, s, t => t.actIn = s.actIn
  | .vault, s, t => t.vault = s.vault
  | .window, s, t => t.window = s.window
  | .download, s, t => t.download = s.download
  | .pendingCompletions, s, t => t.pendingCompletions = s.pendingCompletions
  | .pendingHealth, s, t => t.pendingHealth = s.pendingHealth
  | .freshCompletions, s, t => t.freshCompletions = s.freshCompletions
  | .freshHealth, s, t => t.freshHealth = s.freshHealth
  | .linksBegun, s, t => t.linksBegun = s.linksBegun
  | .whiteoutCause, s, t => t.whiteoutCause = s.whiteoutCause
  | .whiteoutCount, s, t => t.whiteoutCount = s.whiteoutCount
  | .tableReloaded, s, t => t.tableReloaded = s.tableReloaded
  | .reasons, s, t => t.reasons = s.reasons
  | .log, s, t => t.log = s.log
  | .logWritten, s, t => t.logWritten = s.logWritten
  | .counters, s, t => t.counters = s.counters

/-- Who a ticket is: its sequence, and the partition, ring and slot of its command (R14). -/
def Ticket.key (t : Ticket) : Nat × Nat × Nat × Nat := (t.seq, t.part, t.queue, t.slot)

/-- From `s` to `t` nothing changed outside the fields named: the queue, the grade and the stepping stand, both
memories kept their canonical form, every field not named has its value, and unless the ticket numbering may change no
ticket came or changed its place. -/
structure Keeps (w : List Fld) (s t : State) : Prop where
  pending : t.pending = s.pending
  grade : t.grade = s.grade
  stepping : t.stepping = s.stepping
  keys : Fld.nextSeq ∉ w → (t.tickets.map Ticket.key).Sublist (s.tickets.map Ticket.key)
  mem : s.mem.wf = true → t.mem.wf = true
  firn : s.firn.wf = true → t.firn.wf = true
  same : ∀ f : Fld, f ∉ w → f.same s t

/-- A write request covers an address. -/
def WriteReq.covers (w : WriteReq) (a : Nat) : Prop := w.addr ≤ a ∧ a < w.addr + w.data.length

/-- What a write request asks, whether or not it has left. -/
def WriteReq.what (w : WriteReq) : Sys2Proof.MemChan × Nat × Bytes × Option Nat := (w.chan, w.addr, w.data, w.ticket)

/-- A byte of host memory that a command without a record has written: its contents are undefined where the command ends
without a result (R26, R157). -/
def State.noted (s : State) (a : Nat) : Prop := ∃ w ∈ s.written, ∃ i : Nat, i < w.len ∧ hostAddr (w.addr + i) = a

/-- From `s` to `t` write requests were added behind those in flight. Every byte of host memory reads as before that none of the
added requests covers and that no command without a record had written; and only bytes under the added requests are written by
such a command since. -/
structure Wrote (s t : State) : Prop where
  go : ∃ new : List WriteReq, t.writes.map WriteReq.what = s.writes.map WriteReq.what ++ new.map WriteReq.what ∧
    (∀ a : Nat, (∀ w ∈ new, ¬w.covers a) → ¬s.noted a → t.mem.byte a = s.mem.byte a) ∧
    ∀ a : Nat, t.noted a → s.noted a ∨ ∃ w ∈ new, w.covers a

/-- The stages of the start-up path; READY and RUN are one stage (R469). -/
def Startup.stage : Startup → Nat
  | .reset => 0 | .selftest => 1 | .image => 2 | .profile => 3 | .ready => 4 | .run => 4 | .whiteout => 5

/-- The start-up state did not go back. -/
def Onward (s t : State) : Prop := s.startup.stage ≤ t.startup.stage

/-! ### What each command may change -/

/-- What the end of a command whose work is done may change. -/
def finishFlds : List Fld :=
  [.tickets, .outs, .ports, .counters]

/-- What an exchange between the members of a group, and the results it completes may change. -/
def exchangeFlds : List Fld :=
  [.free, .startup, .advancing, .parts, .tickets, .ckpts, .ctxs, .regions, .background, .mem, .reads, .writes,
   .written, .outs, .tiles, .slices, .block, .retries, .preemptDue, .sleetRunning, .seedings, .ports,
   .abortSeen, .passed, .vault, .window, .download, .pendingCompletions, .pendingHealth, .freshCompletions,
   .freshHealth, .whiteoutCause, .whiteoutCount, .reasons, .log, .logWritten, .counters]

/-- What zeroisation may change. -/
def shutdownFlds : List Fld :=
  [.free, .startup, .parts, .tickets, .ckpts, .ctxs, .regions, .mem, .reads, .writes, .written, .outs, .retries,
   .preemptDue, .ports, .abortSeen, .vault, .window, .download, .pendingCompletions, .freshCompletions,
   .counters]

/-- What entry into Whiteout may change. -/
def whiteoutFlds : List Fld :=
  [.free, .startup, .advancing, .parts, .tickets, .ckpts, .ctxs, .regions, .mem, .reads, .writes, .written,
   .outs, .tiles, .slices, .block, .retries, .preemptDue, .sleetRunning, .ports, .abortSeen, .vault, .window,
   .download, .pendingCompletions, .freshCompletions, .whiteoutCause, .whiteoutCount, .counters]

/-- What the records of commands, and the errors that waited for them may change. -/
def recordFlds : List Fld :=
  [.free, .startup, .advancing, .parts, .tickets, .ckpts, .ctxs, .regions, .background, .mem, .reads, .writes,
   .written, .outs, .tiles, .slices, .block, .retries, .preemptDue, .sleetRunning, .seedings, .ports,
   .abortSeen, .vault, .window, .download, .pendingCompletions, .freshCompletions, .whiteoutCause,
   .whiteoutCount, .reasons, .log, .logWritten, .counters]

/-- What an error and its action may change. -/
def errorFlds : List Fld :=
  [.free, .startup, .advancing, .parts, .tickets, .ckpts, .ctxs, .regions, .background, .mem, .reads, .writes,
   .written, .outs, .tiles, .slices, .block, .retries, .preemptDue, .sleetRunning, .seedings, .ports,
   .abortSeen, .vault, .window, .download, .pendingCompletions, .pendingHealth, .freshCompletions, .freshHealth,
   .whiteoutCause, .whiteoutCount, .reasons, .log, .logWritten, .counters]

/-- What RST_N may change. -/
def resetFlds : List Fld :=
  [.startup, .rstAsserted, .testMode, .released, .testsDone, .advancing, .portErrors, .count, .countLoaded,
   .slipPending, .inputDiff, .tick, .profile, .profileDigest, .settings, .parts, .tickets, .nextSeq, .ckpts,
   .ctxs, .regions, .firn, .bankSpares, .scrub, .background, .reads, .writes, .written, .outs, .ins, .tiles,
   .slices, .block, .retries, .preemptDue, .sleetRunning, .seedings, .overlays, .micros, .figures, .ports,
   .memberDepth, .abortTable, .abortSeen, .groupDone, .passed, .actIn, .vault, .window, .download,
   .pendingCompletions, .pendingHealth, .freshCompletions, .freshHealth, .linksBegun, .whiteoutCause,
   .whiteoutCount, .tableReloaded, .reasons, .log, .logWritten, .counters]

/-- The fields of the state that a command may change; every other field stands. -/
def touches : Instr → List Fld
  | .nop _ => finishFlds
  | .step _ => exchangeFlds
  | .score _ => [.firn] ++ errorFlds
  | .settle _ => exchangeFlds
  | .verify _ => exchangeFlds
  | .beam _ => exchangeFlds
  | .loss _ => exchangeFlds
  | .grad _ => exchangeFlds
  | .reduce _ => [.passed, .pendingHealth, .freshHealth, .reasons, .log, .logWritten] ++ whiteoutFlds
  | .func _ => [.free, .mem, .reads, .writes, .written] ++ finishFlds
  | .fill _ => [.free, .mem, .reads, .writes, .written] ++ finishFlds
  | .loadw _ =>
      [.free, .regions, .firn, .mem, .reads, .writes, .written, .retries, .abortSeen, .log, .logWritten] ++
       finishFlds
  | .evictw _ => [.regions, .firn] ++ finishFlds
  | .save _ => [.mem, .reads, .writes, .written] ++ finishFlds
  | .restore _ => [.ctxs, .slices, .sleetRunning, .seedings, .vault] ++ finishFlds
  | .waitcount _ => finishFlds
  | .fence _ => finishFlds
  | .digest _ => [.mem, .reads, .writes, .written] ++ finishFlds
  | .dict _ => [.profile, .profileDigest, .settings, .memberDepth, .pendingHealth] ++ whiteoutFlds
  | .halt _ =>
      [.free, .parts, .ckpts, .ctxs, .regions, .mem, .reads, .writes, .written, .abortSeen, .pendingCompletions,
       .freshCompletions] ++ finishFlds
  | .doorbell _ _ => [.portErrors, .parts, .tickets, .nextSeq, .reads, .writes, .outs, .ins, .counters]
  | .commandCompletion _ => recordFlds
  | .checkpointSigned => recordFlds
  | .pavaneCountLoad _ => [.count, .countLoaded, .inputDiff]
  | .pavaneAdvance _ =>
      [.count, .slipPending, .inputDiff, .tick, .ins, .abortTable, .groupDone, .passed, .actIn, .pendingHealth,
       .freshHealth, .reasons, .log, .logWritten] ++ whiteoutFlds
  | .pavaneSlip _ =>
      [.count, .slipPending, .inputDiff, .tick, .ins, .abortTable, .groupDone, .passed, .actIn, .pendingHealth,
       .freshHealth, .reasons, .log, .logWritten] ++ whiteoutFlds
  | .dictionaryAccessRelease => [.profile, .profileDigest, .settings, .memberDepth, .pendingHealth] ++ whiteoutFlds
  | .frameBoundaryPreemption =>
      [.free, .ctxs, .regions, .mem, .reads, .writes, .written, .preemptDue, .abortTable, .abortSeen,
       .groupDone] ++ finishFlds
  | .suspendedFigureResume => [.tickets]
  | .cellResidueError _ _ _ _ => errorFlds
  | .registerParityError _ _ _ _ => errorFlds
  | .accumulatorResidueError _ _ => errorFlds
  | .accumulatorUncorrectable _ _ => errorFlds
  | .laneMismatch _ _ _ _ => errorFlds
  | .moraineMismatch _ => errorFlds
  | .flurryMismatch _ _ => errorFlds
  | .sleetParityError _ => recordFlds
  | .firnUncorrectableWeight _ _ _ _ => errorFlds
  | .firnUncorrectableWorkArea _ _ _ => errorFlds
  | .tableMemoryError _ _ _ => errorFlds
  | .tableReloadDone _ _ => [.tableReloaded] ++ recordFlds
  | .contextMemoryError _ _ => errorFlds
  | .crossingDatumLate _ => errorFlds
  | .streamedSetCheck _ _ =>
      [.free, .regions, .mem, .reads, .writes, .written, .retries, .abortSeen, .log, .logWritten] ++ finishFlds
  | .retryEnd _ => [.firn, .bankSpares, .abortTable, .groupDone] ++ recordFlds
  | .scrubRead _ => [.bankSpares, .scrub] ++ errorFlds
  | .backgroundRereadDone _ _ _ => [.firn, .bankSpares] ++ recordFlds
  | .hiddenRow _ _ => [.free, .portErrors, .regions, .mem, .written, .ins, .abortSeen, .actIn] ++ finishFlds
  | .readResponse _ _ _ _ =>
      [.free, .portErrors, .parts, .ctxs, .regions, .background, .mem, .reads, .writes, .written, .ins,
       .retries, .abortSeen, .actIn] ++ finishFlds
  | .writeAcknowledgement _ _ _ => [.portErrors, .reads, .writes, .outs, .ins, .counters]
  | .writeAckTimeout _ _ => [.outs]
  | .hello _ =>
      [.ins, .memberDepth, .passed, .pendingHealth, .freshHealth, .reasons, .log, .logWritten] ++ whiteoutFlds
  | .idle _ => [.ins, .passed, .pendingHealth, .freshHealth, .reasons, .log, .logWritten] ++ whiteoutFlds
  | .nak _ => [.ins, .passed, .pendingHealth, .freshHealth, .reasons, .log, .logWritten] ++ whiteoutFlds
  | .exchange _ => [.ins, .passed, .pendingHealth, .freshHealth, .reasons, .log, .logWritten] ++ whiteoutFlds
  | .check _ => [.ins, .passed, .pendingHealth, .freshHealth, .reasons, .log, .logWritten] ++ whiteoutFlds
  | .abort _ =>
      [.ins, .abortTable, .passed, .pendingHealth, .freshHealth, .reasons, .log, .logWritten] ++ whiteoutFlds
  | .helloTimer _ => [.outs, .ports]
  | .idleTimer _ => [.outs, .ports]
  | .linkReceiveTimeout _ => [.passed, .pendingHealth, .freshHealth, .reasons, .log, .logWritten] ++ whiteoutFlds
  | .peerDeadline _ => [.passed, .pendingHealth, .freshHealth, .reasons, .log, .logWritten] ++ whiteoutFlds
  | .stallLimit _ => [.passed, .pendingHealth, .freshHealth, .reasons, .log, .logWritten] ++ whiteoutFlds
  | .checkDeadline _ => [.passed, .pendingHealth, .freshHealth, .reasons, .log, .logWritten] ++ whiteoutFlds
  | .mgtSend _ _ => [.portErrors, .outs, .ins, .vault, .window, .counters]
  | .mgtRelease _ => [.portErrors, .outs, .ins, .vault, .window, .counters]
  | .mgtClearOverrun _ => [.portErrors, .outs, .ins, .vault, .window, .counters]
  | .mgtData3Access _ _ => [.portErrors, .outs, .ins, .window, .counters]
  | .mgtRegisterWrite _ _ _ => [.portErrors, .outs, .ins, .vault, .window, .counters]
  | .read => [.window, .pendingCompletions, .pendingHealth]
  | .write => [.profile, .profileDigest, .settings, .memberDepth] ++ whiteoutFlds
  | .describe => [.window]
  | .downloadBegin => [.window, .download]
  | .downloadData => [.window, .download]
  | .downloadEnd => [.overlays, .micros, .figures, .window, .download, .counters]
  | .openChallenge => [.vault, .window]
  | .openProve => [.vault, .window, .counters]
  | .close => [.vault, .window]
  | .enrol => [.startup, .vault, .window]
  | .seedImport => [.parts, .window, .counters]
  | .seedKeyDeferredWrite _ => [.parts, .window]
  | .auditKey => [.window]
  | .verifyKey => [.vault, .window]
  | .zeroise => shutdownFlds
  | .selftest _ => whiteoutFlds
  | .sessionIdleTimeout _ => [.vault]
  | .pendingSessionTimeout _ => [.vault]
  | .entropySample _ _ => [.portErrors, .ins] ++ whiteoutFlds
  | .zeroiseInput => [.zeroisePin] ++ shutdownFlds
  | .tamperInput _ => [.tamperPin] ++ shutdownFlds
  | .rstNAssert => resetFlds
  | .resetRelease _ _ _ => [.rstAsserted, .testMode, .released, .zeroisePin, .tamperPin, .ins]
  | .selftestEntry => shutdownFlds
  | .selftestComplete _ => [.testsDone, .bankSpares, .reasons] ++ whiteoutFlds
  | .mgtAdvance => [.startup, .advancing, .download]
  | .readyEntry => [.seedings, .memberDepth, .linksBegun] ++ whiteoutFlds
  | .testWrapperAccess _ => [.free, .testReading]
  | .reelFrameCrcFailure _ _ => [.portErrors, .ins] ++ exchangeFlds
  | .byteParityError _ _ => errorFlds
  | .subChannelCredit _ => [.outs]

/-! ### The invariant of the block -/

/-- Every object of the profile holds a value that R408 allows. -/
structure Profile.Legal (p : Profile) : Prop where
  vocab : 1 ≤ p.vocab.toNat ∧ p.vocab.toNat ≤ 2097152
  accumulation : p.accumulation.toNat ≤ 1
  fp32Passes : p.fp32Passes.toNat ≤ 1
  compatSlices : 1 ≤ p.compatSlices.toNat ∧ p.compatSlices.toNat ≤ 64
  tableGen : p.tableGen.toNat ≤ 1
  corniceMargin : posFinite p.corniceMargin = true ∨ p.corniceMargin = 0x7F800000
  filterOrder : p.filterOrder.toNat ≤ 1
  dwChunk : p.dwChunk.toNat % 64 = 0 ∧ 64 ≤ p.dwChunk.toNat ∧ p.dwChunk.toNat ≤ 4096
  srCap : 1 ≤ p.srCap.toNat ∧ p.srCap.toNat ≤ 24
  gumbelSrc : p.gumbelSrc.toNat ≤ 1
  srSrc : p.srSrc.toNat ≤ 1
  fillSrc : p.fillSrc.toNat ≤ 1
  normalMethod : p.normalMethod.toNat ≤ 1

/-- The invariant: both memories are in canonical form; the ticket table holds at most 512 tickets, in the order of their
grants, each numbered below the next sequence; the profile is legal and its digest is that of its values. -/
structure State.Inv (s : State) : Prop where
  mem : s.mem.wf = true
  firn : s.firn.wf = true
  order : (s.tickets.map Ticket.seq).Pairwise (· < ·)
  fresh : ∀ t ∈ s.tickets, t.seq < s.nextSeq
  room : s.tickets.length ≤ 512
  digest : s.profileDigest = s.profile.digest
  legal : s.profile.Legal

/-! ### When a command of the opcode table runs -/

/-- Ticket `q` is held as `t`, its figure is launched as `r` and runs, its opcode is `o`, every input is in place and the
block is out of reset: the engines do the command's work. -/
structure Ready (s : State) (q : Nat) (o : Op) (t : Ticket) (r : Running) : Prop where
  awake : s.startup ≠ .reset
  launched : s.launched q = some (t, r)
  opcode : t.op = o
  phase : r.phase = .launched
  runs : r.suspendedAt = none
  inputs : s.inputsMissing t r = false

/-- The engines have done their part on ticket `q`: its figure is finished with a result, or waits for its partner's CHECK
frame (R54), and the ticket stands where it stood. -/
def Finished (u : State) (q : Nat) (t : Ticket) (res : Result) : Prop :=
  ∃ (t' : Ticket) (r' : Running), u.launched q = some (t', r') ∧ t'.key = t.key ∧ t'.cmd = t.cmd ∧
    r'.phase = (if t.crossCheck then Phase.checking else Phase.finished) ∧ r'.result = res

/-- The figure of ticket `q` holds one more part of its result than `r` held, for the comparison (R54). -/
def HoldsPost (u : State) (q : Nat) (r : Running) (p : Post) : Prop :=
  ∃ (t' : Ticket) (r' : Running), u.launched q = some (t', r') ∧ r'.posts = r.posts ++ [p]

/-! ### When an exchange waits, and when it does not -/

/-- A group member whose links are up, with nothing received and no figure running but that of ticket `q`. -/
structure Quiet (s : State) (q : Nat) : Prop where
  depth : s.settings.depth ≠ 0
  kids : s.childPorts ≠ []
  up : ∀ p ∈ s.childPorts, (s.port p).state = .up
  queues : ∀ p : Fin 4, (s.port p).rxq = []
  alone : ∀ x ∈ s.tickets, x.seq = q ∨ x.run = none

/-- A member alone in its tree, with nothing received and no figure running but that of ticket `t`. -/
structure Lone (s : State) (t : Ticket) : Prop where
  depth : s.settings.depth = 0
  queues : ∀ p : Fin 4, (s.port p).rxq = []
  alone : ∀ x ∈ s.tickets, x = t ∨ x.run = none

/-- The figure of ticket `q` waits for its children's first summaries of an exchange, and the ticket stands where it
stood (R305). -/
def AwaitsChildren (u : State) (q : Nat) (t : Ticket) (kind : Nat) : Prop :=
  ∃ (t' : Ticket) (r' : Running) (e : Exch), u.launched q = some (t', r') ∧ t'.key = t.key ∧ t'.cmd = t.cmd ∧
    r'.phase = .exchanging ∧ r'.exch = some e ∧ e.kind = kind ∧ e.segment = 0 ∧ e.down = 0 ∧ e.need = u.childPorts

/-- The exchange of ticket `q` holds a payload (R305). -/
def Offers (u : State) (q : Nat) (p : Payload) : Prop :=
  ∃ (t' : Ticket) (r' : Running) (e : Exch), u.launched q = some (t', r') ∧ r'.exch = some e ∧ e.acc = p

/-- Ticket `q` waits in Reel round 1 with the row summaries that its contexts hold (R216). -/
def BeginsRound1 (u : State) (q : Nat) (t : Ticket) : Prop :=
  AwaitsChildren u q t exRound1 ∧ Offers u q (.rows ((upto (u.rowCount t)).map (fun i => (u.ctx (t.rowSum i)).summary.row)))

/-- The controls of a row settle it in round 1: it does not sample, or has a top-k, or neither top-p nor min-p (R221,
R222). -/
def oneRound (p : Bytes) : Bool := !(prSamples p) || prTopK p || (!(prTopP p) && !(prMinP p))

/-- A GRAD's metadata, its transposed sets and its loss records are of these inputs (R98, R99, R246, R258). -/
def State.gradFits (s : State) (t : Ticket) (r : Running) : Prop :=
  (r.streamed = true ∨ s.egBroken t = false) ∧ (s.shard t).1.transposedOk (s.shard t).2 = true ∧
  ((s.trainScores t).1.zip (upto (s.trainScores t).1.length)).any (fun e => s.lossForeign t e.2 e.1.2) = false

/-- No row of the command needs the second highest key, which only round 2 brings: it is no VERIFY in ratio mode, or the row does
not sample, or it has a filter (R238). -/
def Ticket.noOther (t : Ticket) (p : Bytes) : Bool :=
  t.op != .verify || t.b 0xA0 != 1 || !(prSamples p) || !(unfiltered p)

/-- Bytes of one memory lie in another from an address of host memory, which wraps at 52 bits; every other byte of it is
that of the memory before. -/
def StoredAt (m m' : Memory) (addr : Nat) (bs : Bytes) : Prop :=
  (∀ a : Nat, (∀ i : Nat, i < bs.length → hostAddr (addr + i) ≠ a) → m'.byte a = m.byte a) ∧
  (hostAddr addr + bs.length ≤ pow2 52 → ∀ i : Nat, i < bs.length → m'.byte (hostAddr addr + i) = bs.getD i 0)

/-- The opcode and the ticket that an opcode row names. -/
def opRow : Instr → Option (Op × Nat)
  | .nop q => some (.nop, q) | .step q => some (.step, q) | .score q => some (.score, q)
  | .settle q => some (.settle, q) | .verify q => some (.verify, q) | .beam q => some (.beam, q)
  | .loss q => some (.loss, q) | .grad q => some (.grad, q) | .reduce q => some (.reduce, q)
  | .func q => some (.func, q) | .fill q => some (.fill, q) | .loadw q => some (.loadw, q)
  | .evictw q => some (.evictw, q) | .save q => some (.save, q) | .restore q => some (.restore, q)
  | .waitcount q => some (.waitcount, q) | .fence q => some (.fence, q) | .digest q => some (.digest, q)
  | .dict q => some (.dict, q) | .halt q => some (.halt, q)
  | _ => none

/-- The rows of errors, retries, the scrub and the checks of what is read. -/
def errorRow : Instr → Bool
  | .cellResidueError _ _ _ _ => true | .registerParityError _ _ _ _ => true
  | .accumulatorResidueError _ _ => true | .accumulatorUncorrectable _ _ => true | .laneMismatch _ _ _ _ => true | .moraineMismatch _ => true
  | .flurryMismatch _ _ => true | .sleetParityError _ => true | .firnUncorrectableWeight _ _ _ _ => true
  | .firnUncorrectableWorkArea _ _ _ => true | .tableMemoryError _ _ _ => true | .tableReloadDone _ _ => true
  | .contextMemoryError _ _ => true | .crossingDatumLate _ => true | .streamedSetCheck _ _ => true
  | .retryEnd _ => true | .scrubRead _ => true | .backgroundRereadDone _ _ _ => true | .byteParityError _ _ => true
  | _ => false

/-- The rows of received Reel frames, with their frame. -/
def frameRow : Instr → Option Sys2Proof.RxFrame
  | .hello f => some f | .idle f => some f | .nak f => some f | .exchange f => some f | .check f => some f
  | .abort f => some f | _ => none

/-- The rows that RESET does not hold back: the pins, the start-up events, and the test wrapper (R455, R467, R472). -/
def resetRow : Instr → Bool
  | .rstNAssert => true | .resetRelease _ _ _ => true | .selftestEntry => true | .selftestComplete _ => true
  | .zeroiseInput => true | .tamperInput _ => true | .testWrapperAccess _ => true | _ => false

/-- The rows of the management window. -/
def windowRow : Instr → Bool
  | .mgtSend _ _ => true | .mgtRelease _ => true | .mgtClearOverrun _ => true | .mgtData3Access _ _ => true
  | .mgtRegisterWrite _ _ _ => true | _ => false

/-- The rows of management operations, with their operation codes (R419, R433). -/
def serviceRow : Instr → Option Nat
  | .read => some 0x01 | .write => some 0x02 | .describe => some 0x03 | .downloadBegin => some 0x04
  | .downloadData => some 0x05 | .downloadEnd => some 0x06 | .openChallenge => some 0x10 | .openProve => some 0x11
  | .close => some 0x12 | .enrol => some 0x13 | .seedImport => some 0x14 | .auditKey => some 0x15
  | .verifyKey => some 0x16 | .zeroise => some 0x17 | .selftest _ => some 0x18 | _ => none

end Sys2Proof.Machine
end

