-- ==== Sys2Proof/Certificates/Slice0/Obligations.lean ====
section
/-! DEFINITION. The statements about the block. -/
open Sys2Proof Sys2Proof.Machine

/-- For every command c and state s with c at the front of its queue, step s is exec c on s with the queue's rest; on
an empty queue a step answers the same state. The queue and the idling are the model's own (log 1): the time of the
block comes from PAVANE_ADVANCE. -/
def Obligations.StepRunsTheFrontCommand : Prop :=
  (∀ (c : Instr) (q : List Instr) (s : State), s.pending = c :: q →
    Sys2Proof.Machine.step s = Sys2Proof.Machine.exec c { s with pending := q }) ∧
  (∀ s : State, s.pending = [] → Sys2Proof.Machine.step s = .next s)

/-- The state right after reset meets the invariant: both memories canonical, no ticket held, the profile at its legal
defaults and its digest that of the defaults. Its contents that the manual does not give are the model's (log 2). -/
def Obligations.ResetMeetsTheInvariant : Prop :=
  State.reset.Inv

/-- From every state that meets the invariant, a step that answers a next state gives one that meets it: host memory
and Firn keep the canonical form (the model's form, log 3), the ticket table holds at most 512 tickets in ascending
sequence, each below the next sequence, and the profile stays legal with the digest of its values. -/
def Obligations.EveryStepKeepsTheInvariant : Prop :=
  ∀ s t : State, s.Inv → Sys2Proof.Machine.step s = .next t → t.Inv

/-- Whatever state a command runs in, a next state differs from it in no field of the state but those that `touches`
lists for the command; the waiting commands, the grade and the stepping stand, and unless the ticket numbering may
change no ticket comes. -/
def Obligations.CommandsChangeOnlyTheirFields : Prop :=
  ∀ (i : Instr) (s t : State), Sys2Proof.Machine.exec i s = .next t → Keeps (touches i) s t

/-- For every command but a read's data, a write's acknowledgement and RST_N: in a next state the writes in flight are
those before with the command's new requests behind them, and every byte of host memory reads as before that no new
request covers and that no command without a record had written, whose contents such a command's end leaves undefined
(log 33). The view of host memory is the model's (log 3, log 14). -/
def Obligations.HostMemoryChangesOnlyUnderWrites : Prop :=
  ∀ (i : Instr) (s t : State),
    (∀ ch tag d ok, i ≠ .readResponse ch tag d ok) → (∀ ch tag ok, i ≠ .writeAcknowledgement ch tag ok) →
    i ≠ .rstNAssert → Sys2Proof.Machine.exec i s = .next t → Wrote s t

/-- Every command but RST_N leaves the start-up state at its stage or a later one, READY and RUN being one stage and
Whiteout the last: so nothing but RST_N leaves Whiteout. -/
def Obligations.OnlyResetGoesBack : Prop :=
  ∀ (i : Instr) (s t : State), i ≠ .rstNAssert → Sys2Proof.Machine.exec i s = .next t → Onward s t

/-- A NOP or a FENCE whose figure is launched completes: its figure is finished with the result it had, or its CHECK
frame has gone out where the command carries the cross-check flag, and nothing else changes but the ticket, the link
it sends on and the counters. -/
def Obligations.NopAndFenceComplete : Prop :=
  ∀ (s : State) (q : Nat) (t : Ticket) (r : Running),
    (Ready s q .nop t r →
      ∃ u : State, Sys2Proof.Machine.exec (.nop q) s = .next u ∧ Finished u q t r.result ∧ Keeps finishFlds s u) ∧
    (Ready s q .fence t r →
      ∃ u : State, Sys2Proof.Machine.exec (.fence q) s = .next u ∧ Finished u q t r.result ∧ Keeps finishFlds s u)

/-- A launched WAITCOUNT completes when the local count has reached its count, or at once where it has passed; before
it, the row changes nothing. -/
def Obligations.WaitcountCompletesAtItsCount : Prop :=
  ∀ (s : State) (q : Nat) (t : Ticket) (r : Running), Ready s q .waitcount t r →
    (t.areaWord ≤ s.count.toNat →
      ∃ u : State, Sys2Proof.Machine.exec (.waitcount q) s = .next u ∧ Finished u q t r.result ∧ Keeps finishFlds s u) ∧
    (s.count.toNat < t.areaWord → Sys2Proof.Machine.exec (.waitcount q) s = .next s)

/-- A launched EVICTW completes; the region is empty, every Firn byte of its pages reads 0 and every other Firn byte
as before, and no other region changes. -/
def Obligations.EvictwZeroesItsRegion : Prop :=
  ∀ (s : State) (q : Nat) (t : Ticket) (r : Running), Ready s q .evictw t r → t.areaByte < 64 →
    ∃ u : State, Sys2Proof.Machine.exec (.evictw q) s = .next u ∧ Finished u q t r.result ∧
      (u.region t.areaByte).state = .empty ∧
      (∀ n : Nat, n ≠ t.areaByte → u.region n = s.region n) ∧
      (∀ a : Nat, u.firn.byte a =
        if (s.region t.areaByte).addr ≤ a ∧ a < (s.region t.areaByte).addr + (s.region t.areaByte).bytes then 0
        else s.firn.byte a) ∧
      Keeps ([.regions, .firn] ++ finishFlds) s u

/-- A launched LOADW whose sets all pass completes: the region is resident under the descriptor of the command, its
Firn bytes are those of the image and every other Firn byte is as before. With a set that fails its checks, the row
judges the first such set (a refetch, or the end of the command). -/
def Obligations.LoadwLoadsOrJudges : Prop :=
  ∀ (s : State) (q : Nat) (t : Ticket) (r : Running), Ready s q .loadw t r → t.areaByte < 64 →
    (s.firstBad t r = none →
      ∃ u : State, Sys2Proof.Machine.exec (.loadw q) s = .next u ∧ Finished u q t r.result ∧
        (u.region t.areaByte).state = .resident ∧ (u.region t.areaByte).descriptor = t.blocks.take 64 ∧
        (∀ n : Nat, n ≠ t.areaByte → u.region n = s.region n) ∧
        (∀ a : Nat, u.firn.byte a =
          if (s.region t.areaByte).addr ≤ a ∧ a < (s.region t.areaByte).addr + (t.desc.imageBytes s.mem).length
          then (t.desc.imageBytes s.mem).getD (a - (s.region t.areaByte).addr) 0 else s.firn.byte a) ∧
        Keeps ([.regions, .firn] ++ finishFlds) s u) ∧
    (∀ (n : Nat) (v : SetVerdict), s.firstBad t r = some (n, v) →
      Sys2Proof.Machine.exec (.loadw q) s = .next (s.judgeSet t r n v))

/-- A launched SAVE completes, and the context stands. The image of the context, as R38 lays it out, lies in host
memory at the command's address with every other byte of host memory as before; where the command carries the cross-
check flag it is held for the comparison and no byte changes. -/
def Obligations.SaveWritesTheImage : Prop :=
  ∀ (s : State) (q : Nat) (t : Ticket) (r : Running), Ready s q .save t r →
    ∃ u : State, Sys2Proof.Machine.exec (.save q) s = .next u ∧ Finished u q t r.result ∧
      (t.crossCheck = false → StoredAt s.mem u.mem t.areaWord (s.streamImage t.part (s.ctx t.areaByte))) ∧
      (t.crossCheck = true → u.mem = s.mem ∧ HoldsPost u q r (.mem t.areaWord (s.streamImage t.part (s.ctx t.areaByte)))) ∧
      Keeps ([.mem, .reads, .writes, .written] ++ finishFlds) s u

/-- A launched RESTORE completes; the context is the one its image holds, under the owner it had, and no other context
changes; an image whose stream used Sleet re-seeds the generators, which is one more seeding of 0x7010.04 and makes
them run, and any other image leaves every generator as it was. -/
def Obligations.RestoreLoadsTheImage : Prop :=
  ∀ (s : State) (q : Nat) (t : Ticket) (r : Running), Ready s q .restore t r → t.areaByte < 256 →
    ∃ u : State, Sys2Proof.Machine.exec (.restore q) s = .next u ∧ Finished u q t r.result ∧
      u.ctx t.areaByte = ctxOfImage (s.ctx t.areaByte).owner (s.imageOf t) ∧
      (∀ n : Nat, n ≠ t.areaByte → u.ctx n = s.ctx n) ∧
      (bitAt (byteAt (s.imageOf t) 6) 0 = true →
        u.counter .sleetReseeds = s.counter .sleetReseeds + 1 ∧ u.sleetRunning = true) ∧
      (bitAt (byteAt (s.imageOf t) 6) 0 = false → u.slices = s.slices ∧ u.vault = s.vault)

/-- A launched DIGEST completes: its result carries the digest of the tensor, RANGE where an index is out of its
limit, and the eight bytes of the digest lie in host memory at the digest address with every other byte as before;
where the command carries the cross-check flag they are held for the comparison and no byte changes. -/
def Obligations.DigestWritesItsValue : Prop :=
  ∀ (s : State) (q : Nat) (t : Ticket) (r : Running), Ready s q .digest t r →
    ∃ u : State, Sys2Proof.Machine.exec (.digest q) s = .next u ∧
      Finished u q t { r.result with
        status := (if t.inT.outOfLimit s.mem then Status.range else Status.ok)
        value := BitVec.ofNat 64 (s.tensorDigest t.inT) } ∧
      (t.crossCheck = false → StoredAt s.mem u.mem (t.f 0x80 8) (leBytes 8 (s.tensorDigest t.inT))) ∧
      (t.crossCheck = true → u.mem = s.mem ∧ HoldsPost u q r (.mem (t.f 0x80 8) (leBytes 8 (s.tensorDigest t.inT)))) ∧
      Keeps ([.mem, .reads, .writes, .written] ++ finishFlds) s u

/-- A launched FUNC or FILL completes: its figure is finished with a result, and nothing changes but host memory and
its requests, the ticket, the count of free values, the link it sends a CHECK frame on and the counters. -/
def Obligations.FuncAndFillComplete : Prop :=
  ∀ (s : State) (q : Nat) (t : Ticket) (r : Running),
    (Ready s q .func t r →
      ∃ (u : State) (res : Result), Sys2Proof.Machine.exec (.func q) s = .next u ∧ Finished u q t res ∧
        Keeps ([.free, .mem, .reads, .writes, .written] ++ finishFlds) s u) ∧
    (Ready s q .fill t r →
      ∃ (u : State) (res : Result), Sys2Proof.Machine.exec (.fill q) s = .next u ∧ Finished u q t res ∧
        Keeps ([.free, .mem, .reads, .writes, .written] ++ finishFlds) s u)

/-- A launched SCORE whose figure makes no swap into a stale set completes: every context it names is marked scored
under the command's step, and its work area holds the rows kept for that step, resident unless it is degraded. -/
def Obligations.ScoreMarksItsContexts : Prop :=
  ∀ (s : State) (q : Nat) (t : Ticket) (r : Running), Ready s q .score t r → s.swapFault r = none →
    ∃ (u : State) (res : Result), Sys2Proof.Machine.exec (.score q) s = .next u ∧ Finished u q t res ∧
      (∀ c ∈ t.entries.map StreamEnt.ctx, c < 256 → (u.ctx c).summary.mark = .scored t.stepValue) ∧
      (t.b 0x9A < 64 →
        (u.region (t.b 0x9A)).state = (if (s.region (t.b 0x9A)).state = RegionState.degraded then .degraded else .resident) ∧
        ((u.region (t.b 0x9A)).kept.map Kept.step) = some t.stepValue)

/-- In a group member whose links are up, with nothing received and no other figure running, a launched STEP, VERIFY,
BEAM or SETTLE whose figure makes no swap into a stale set ends in round 1 of its exchange: the row summaries its
contexts now hold are the payload, every child is awaited, and the ticket stands where it stood. So do a LOSS whose
metadata fits its exponent, a REDUCE with the tops of its rows, and a GRAD whose metadata, transposed sets and records
fit and which has tokens and hidden elements, with its first segment of dHidden. Each changes only the fields named.
-/
def Obligations.RowsAwaitTheirChildren : Prop :=
  ∀ (s : State) (q : Nat) (t : Ticket) (r : Running), Quiet s q →
    (Ready s q .step t r → s.swapFault r = none → ∃ u : State, Sys2Proof.Machine.exec (.step q) s = .next u ∧ BeginsRound1 u q t ∧
      Keeps [.counters, .ctxs, .free, .tickets, .tiles] s u) ∧
    (Ready s q .verify t r → s.swapFault r = none → ∃ u : State, Sys2Proof.Machine.exec (.verify q) s = .next u ∧ BeginsRound1 u q t ∧
      Keeps [.counters, .ctxs, .free, .tickets, .tiles] s u) ∧
    (Ready s q .beam t r → s.swapFault r = none → ∃ u : State, Sys2Proof.Machine.exec (.beam q) s = .next u ∧ BeginsRound1 u q t ∧
      Keeps [.counters, .ctxs, .free, .tickets, .tiles] s u) ∧
    (Ready s q .settle t r → s.swapFault r = none → ∃ u : State, Sys2Proof.Machine.exec (.settle q) s = .next u ∧ BeginsRound1 u q t ∧
      Keeps [.ctxs, .tickets] s u) ∧
    (Ready s q .loss t r → s.swapFault r = none → t.smooths = false ∨ r.streamed = true ∨ s.egBroken t = false →
      ∃ u : State, Sys2Proof.Machine.exec (.loss q) s = .next u ∧ AwaitsChildren u q t exRound1 ∧
        Keeps [.counters, .ctxs, .tickets, .tiles] s u) ∧
    (Ready s q .reduce t r → ∃ u : State, Sys2Proof.Machine.exec (.reduce q) s = .next u ∧ AwaitsChildren u q t exTops ∧
      Offers u q (.tops (s.reduceTops t)) ∧ Keeps [.tickets] s u) ∧
    (Ready s q .grad t r → s.swapFault r = none → s.gradFits t r → 0 < t.tokens → 0 < t.desc.h →
      ∃ u : State, Sys2Proof.Machine.exec (.grad q) s = .next u ∧ AwaitsChildren u q t exWords ∧
        Keeps [.counters, .free, .mem, .outs, .reads, .tickets, .tiles, .writes, .written] s u)

/-- In a member alone in its tree, with nothing received and no other figure running, a launched STEP, SETTLE or
VERIFY whose rows all settle in round 1, every launched BEAM, and a launched LOSS whose metadata fits its exponent
complete where their figure makes no swap into a stale set: the figure is finished with a result, which counts one row
for each stream of a STEP or SETTLE and one row for a VERIFY or BEAM. Nothing changes but the fields named. -/
def Obligations.LoneMembersFinish : Prop :=
  ∀ (s : State) (q : Nat) (t : Ticket) (r : Running), Lone s t → s.swapFault r = none →
    (Ready s q .step t r → (∀ i ∈ upto t.streams, oneRound (s.ctx (t.rowCtx i)).params = true) →
      ∃ (u : State) (res : Result), Sys2Proof.Machine.exec (.step q) s = .next u ∧ Finished u q t res ∧ res.rows = t.streams ∧
        Keeps [.counters, .ctxs, .free, .mem, .outs, .ports, .reads, .tickets, .tiles, .writes, .written] s u) ∧
    (Ready s q .settle t r → (∀ i ∈ upto t.streams, oneRound (s.ctx (t.rowCtx i)).params = true) →
      ∃ (u : State) (res : Result), Sys2Proof.Machine.exec (.settle q) s = .next u ∧ Finished u q t res ∧ res.rows = t.streams ∧
        Keeps [.counters, .ctxs, .free, .mem, .outs, .ports, .reads, .tickets, .tiles, .writes, .written] s u) ∧
    (Ready s q .verify t r → oneRound (s.ctx (t.stream 0).ctx).params = true →
      t.noOther (s.ctx (t.stream 0).ctx).params = true →
      ∃ (u : State) (res : Result), Sys2Proof.Machine.exec (.verify q) s = .next u ∧ Finished u q t res ∧ res.rows = 1 ∧
        Keeps [.counters, .ctxs, .free, .mem, .outs, .ports, .reads, .tickets, .tiles, .writes, .written] s u) ∧
    (Ready s q .beam t r →
      ∃ (u : State) (res : Result), Sys2Proof.Machine.exec (.beam q) s = .next u ∧ Finished u q t res ∧ res.rows = 1 ∧
        Keeps [.counters, .ctxs, .free, .mem, .outs, .ports, .reads, .tickets, .tiles, .writes, .written] s u) ∧
    (Ready s q .loss t r → t.smooths = false ∨ r.streamed = true ∨ s.egBroken t = false →
      ∃ (u : State) (res : Result), Sys2Proof.Machine.exec (.loss q) s = .next u ∧ Finished u q t res ∧
        Keeps [.counters, .ctxs, .mem, .outs, .ports, .reads, .tickets, .tiles, .writes, .written] s u)

/-- A launched DICT of a partition completes. A read of an object it may read stores the value at the command's
address, or holds it for the comparison where the command carries the cross-check flag, and gives its length; a write
it may make takes the object's effect and gives the length; any other access has status RANGE and changes no object
and no byte of host memory. -/
def Obligations.DictReadsAndWrites : Prop :=
  ∀ (s : State) (q : Nat) (t : Ticket) (r : Running), Ready s q .dict t r → t.part < 64 →
    (byteAt t.cmd 0x33 ≠ 1 → ∀ v : Bytes,
      s.dictRead (field t.cmd 0x30 2) (byteAt t.cmd 0x32) (field t.cmd 0x34 2) = some v →
      ∃ u : State, Sys2Proof.Machine.exec (.dict q) s = .next u ∧
        Finished u q t { r.result with value := BitVec.ofNat 64 (field t.cmd 0x34 2) } ∧
        (t.crossCheck = false → StoredAt s.mem u.mem t.areaWord v) ∧
        (t.crossCheck = true → u.mem = s.mem ∧ HoldsPost u q r (.mem t.areaWord v)) ∧
        Keeps ([.mem, .reads, .writes, .written, .pendingCompletions, .pendingHealth] ++ finishFlds) s u) ∧
    (byteAt t.cmd 0x33 = 1 → ∀ s1 : State,
      s.dictWrite t.part (field t.cmd 0x30 2) (byteAt t.cmd 0x32) (s.host t.areaWord (field t.cmd 0x34 2)) = some s1 →
      ∃ u : State, Sys2Proof.Machine.exec (.dict q) s = .next u ∧
        Finished u q t { r.result with value := BitVec.ofNat 64 (field t.cmd 0x34 2) } ∧
        Keeps finishFlds s1 u ∧ Keeps [.parts] s s1) ∧
    ((byteAt t.cmd 0x33 ≠ 1 ∧ s.dictRead (field t.cmd 0x30 2) (byteAt t.cmd 0x32) (field t.cmd 0x34 2) = none) ∨
      (byteAt t.cmd 0x33 = 1 ∧ s.dictWrite t.part (field t.cmd 0x30 2) (byteAt t.cmd 0x32)
        (s.host t.areaWord (field t.cmd 0x34 2)) = none) →
      ∃ u : State, Sys2Proof.Machine.exec (.dict q) s = .next u ∧ Finished u q t { r.result with status := Status.range } ∧
        Keeps finishFlds s u)

/-- In a state that meets the invariant a launched HALT does its work: its partition is halted, no later ticket of the
partition is left to launch, the partition's work areas keep no rows, and the figure is finished with its result or
waits for its partner's CHECK frame. At its COMMAND_COMPLETION with its writes accepted, the HALT checkpoint falls due
and holds its record, once no other ticket of the partition is held; until then the record waits. -/
def Obligations.HaltHaltsItsPartition : Prop :=
  ∀ (s : State) (q : Nat) (t : Ticket) (r : Running),
    (s.Inv → Ready s q .halt t r → t.part < 64 →
      ∃ u : State, Sys2Proof.Machine.exec (.halt q) s = .next u ∧ Finished u q t r.result ∧ (u.part t.part).state = .halted ∧
        (∀ x ∈ u.tickets, x.part = t.part → q < x.seq → x.run ≠ none) ∧
        (∀ n : Nat, (u.region n).owner.toNat = t.part → (u.region n).kept = none)) ∧
    (s.startup ≠ .reset → s.ticket q = some t → t.run = some r → r.phase = .finished → t.op = .halt →
      (s.part t.part).state = .halted → (∀ w ∈ s.writes, w.ticket ≠ some q) → (∀ c ∈ s.ckpts, c.ticket ≠ some q) →
      ((∃ x ∈ s.tickets, x.part = t.part ∧ x.seq ≠ t.seq) → Sys2Proof.Machine.exec (.commandCompletion q) s = .next s) ∧
      ((∀ x ∈ s.tickets, x.part = t.part → x.seq = t.seq) →
        ∃ (u : State) (c : Ckpt), Sys2Proof.Machine.exec (.commandCompletion q) s = .next u ∧ u.ckpts = s.ckpts ++ [c] ∧
          c.part = t.part ∧ c.reason = .halted ∧ c.ticket = some q ∧
          u.ticket q = some { t with ended := some (t.ended.getD (.ok, 0, r.offset)) } ∧
          Keeps [.ckpts, .parts, .tickets] s u))

/-- Outside reset, an opcode row whose ticket is not held with a launched figure, or is of another opcode, stops under
`noSuchTicket`, the manual giving no such event (the model's stop, log 11); one whose work is already done, or whose
figure a preemption has suspended, changes nothing. -/
def Obligations.OpcodeRowsNeedTheirTicket : Prop :=
  ∀ (i : Instr) (o : Op) (q : Nat) (s : State), opRow i = some (o, q) → s.startup ≠ .reset →
    (s.launched q = none → Sys2Proof.Machine.exec i s = .fault .noSuchTicket) ∧
    (∀ (t : Ticket) (r : Running), s.launched q = some (t, r) →
      (t.op ≠ o → Sys2Proof.Machine.exec i s = .fault .noSuchTicket) ∧
      (t.op = o → r.phase ≠ .launched ∨ r.suspendedAt ≠ none → Sys2Proof.Machine.exec i s = .next s))

/-- Out of reset a doorbell without parity error gives its credit back and is answered with one beat: RANGE where the
partition is not open (or an open or closing write of it is under way), the queue is unused, the new tail is beyond
the ring or a reserved bit is set; else BUSY, counted in 0x7017.00, where n is not 0 and the quota, the 512-entry
ticket table, the completion ring or the Floe ring has no room for h + n; else 0x00, with n tickets granted for the
slots from the ring tail and the tail moved to the new tail. A doorbell that is not accepted changes nothing else. -/
def Obligations.DoorbellAnswersItsStatus : Prop :=
  ∀ (s : State) (b : BitVec 64), s.startup ≠ .reset → s.rstAsserted = false →
    let p := b.toNat % 64
    let k := b.toNat / 64 % 4
    let tail := b.toNat / 4294967296 % 65536
    let r := vget (s.part p).rings k
    let n := (tail + r.slots - r.tail.toNat) % max 1 r.slots
    let h := (s.tickets.filter (fun t => t.part == p)).length
    let range := (s.part p).state ≠ .opened ∨ (s.part p).waiting ≠ .nothing ∨ r.size = 0 ∨ r.slots ≤ tail ∨
      b.toNat / 281474976710656 ≠ 0 ∨ b.toNat / 256 % 16777216 ≠ 0
    let busy := n ≠ 0 ∧ ((s.part p).quota.toNat < h + n ∨ 512 < s.tickets.length + n ∨
      (s.part p).comp.free < h + n ∨ (s.part p).floe.free < 3 * (h + n))
    (range → Sys2Proof.Machine.exec (.doorbell b true) s = .next ((s.returnCredit .cmdDb).emit .cmdDbs [0x10])) ∧
    (¬range → busy → Sys2Proof.Machine.exec (.doorbell b true) s = .next (((s.returnCredit .cmdDb).bump .busyDoorbells 1).emit .cmdDbs [0x13])) ∧
    (¬range → ¬busy → ∃ u : State, Sys2Proof.Machine.exec (.doorbell b true) s = .next (u.emit .cmdDbs [0]) ∧
      u.tickets = s.tickets ++
        (upto n).map (fun i => Ticket.granted (s.nextSeq + i) p k ((r.tail.toNat + i) % r.slots)) ∧
      (vget (u.part p).rings k).tail.toNat = tail ∧
      (∀ j : Nat, j ≠ k → vget (u.part p).rings j = vget (s.part p).rings j) ∧
      (∃ rings, u.part p = { s.part p with rings := rings }) ∧ (∀ j : Nat, j ≠ p → u.part j = s.part j) ∧
      Keeps [.parts, .tickets, .nextSeq, .reads, .writes, .outs, .ins] s u)

/-- The next ticket sequence is 0 after reset and after every RST_N; a doorbell leaves it risen by the number of
tickets it grants, which are appended in ascending sequence; and no other command changes it or makes a ticket. -/
def Obligations.TicketSequencesRiseByOne : Prop :=
  State.reset.nextSeq = 0 ∧
  (∀ s t : State, Sys2Proof.Machine.exec .rstNAssert s = .next t → t.nextSeq = 0 ∧ t.tickets = []) ∧
  (∀ (s t : State) (b : BitVec 64) (ok : Bool), Sys2Proof.Machine.exec (.doorbell b ok) s = .next t →
    ∃ new : List Ticket, t.tickets = s.tickets ++ new ∧ t.nextSeq = s.nextSeq + new.length ∧
      new.map Ticket.seq = (upto new.length).map (fun i => s.nextSeq + i)) ∧
  (∀ (i : Instr) (s t : State), i ≠ .rstNAssert → (∀ b ok, i ≠ .doorbell b ok) → Sys2Proof.Machine.exec i s = .next t →
    t.nextSeq = s.nextSeq ∧ (t.tickets.map Ticket.key).Sublist (s.tickets.map Ticket.key))

/-- Out of reset a beat with a parity error gives its credit back, is counted in 0x7052.02 and pulses EVT_PORTERR. A
doorbell is answered 0xFF and changes nothing; an acknowledgement and an entropy sample are discarded; a window access
is not performed and reads as all ones. -/
def Obligations.BeatsWithBadParityAreNotTaken : Prop :=
  ∀ s : State, s.startup ≠ .reset → s.rstAsserted = false →
    let e (i : InSub) : State :=
      { (s.returnCredit i).bump .byteParity 1 with portErrors := s.portErrors + 1 }
    (∀ b, Sys2Proof.Machine.exec (.doorbell b false) s = .next ((e .cmdDb).emit .cmdDbs [0xFF])) ∧
    (∀ tag, Sys2Proof.Machine.exec (.writeAcknowledgement .cmd tag false) s = .next (e .cmdWa)) ∧
    (∀ n tag, Sys2Proof.Machine.exec (.writeAcknowledgement (.drf n) tag false) s = .next (e (.drfWa n))) ∧
    (∀ x, Sys2Proof.Machine.exec (.entropySample x false) s = .next (e .vltEnt)) ∧
    (∀ n, Sys2Proof.Machine.exec (.mgtSend n false) s = .next ((e .mgtRq).emit .mgtRs (leBytes 4 0xFFFFFFFF))) ∧
    Sys2Proof.Machine.exec (.mgtRelease false) s = .next ((e .mgtRq).emit .mgtRs (leBytes 4 0xFFFFFFFF)) ∧
    Sys2Proof.Machine.exec (.mgtClearOverrun false) s = .next ((e .mgtRq).emit .mgtRs (leBytes 4 0xFFFFFFFF)) ∧
    (∀ w, Sys2Proof.Machine.exec (.mgtData3Access w false) s = .next ((e .mgtRq).emit .mgtRs (leBytes 4 0xFFFFFFFF))) ∧
    (∀ o v, Sys2Proof.Machine.exec (.mgtRegisterWrite o v false) s = .next ((e .mgtRq).emit .mgtRs (leBytes 4 0xFFFFFFFF)))

/-- Out of reset, a completion of a ticket without a launched figure stops (the model's stop, log 11), and one that is
not due, its figure still working or a checkpoint it triggered still pending, changes nothing. For a finished figure
with a write of it not yet accepted, the row only marks the figure as holding; else, for a command other than SETTLE
that has no Floe record and has written no scratch, with every handler idle, the 32-byte completion record lies at the
completion ring's write slot, every other byte of host memory is as before, the write index rises by one and the
ticket is free. A ticket that ended earlier is finished with the status, flags and offset it ended with. -/
def Obligations.CompletionWaitsForOutputsAndCheckpoints : Prop :=
  ∀ (s : State) (q : Nat), s.startup ≠ .reset →
    ((∀ t : Ticket, s.ticket q = some t → t.run = none) → Sys2Proof.Machine.exec (.commandCompletion q) s = .fault .noSuchTicket) ∧
    (∀ (t : Ticket) (r : Running), s.ticket q = some t → t.run = some r →
      (r.phase ≠ .finished ∨ (∃ c ∈ s.ckpts, c.ticket = some q) → Sys2Proof.Machine.exec (.commandCompletion q) s = .next s) ∧
      (r.phase = .finished → (∀ c ∈ s.ckpts, c.ticket ≠ some q) →
        ((∃ w ∈ s.writes, w.ticket = some q) →
          ∃ u : State, Sys2Proof.Machine.exec (.commandCompletion q) s = .next u ∧ Keeps [.tickets] s u ∧
            u.ticket q = some { t with run := some { r with holding := true } }) ∧
        ((∀ w ∈ s.writes, w.ticket ≠ some q) → ¬(t.op = .halt ∧ (s.part t.part).state = .halted) →
          (∀ e, t.ended = some e → Sys2Proof.Machine.exec (.commandCompletion q) s = .next (s.finish t e.1 e.2.1 e.2.2).settleHandlers) ∧
          (t.ended = none → Sys2Proof.Machine.exec (.commandCompletion q) s = .next (s.complete t r).settleHandlers ∧
            (t.op ≠ .settle → t.op.floe = false → t.part < 64 → (∀ l : Level, (s.handler l).current = none) →
              (∀ w ∈ s.written, w.ticket = q → w.scratch = false) →
              let late := t.deadline ≠ 0 ∧ t.deadline < s.count.toNat
              ∃ u : State, Sys2Proof.Machine.exec (.commandCompletion q) s = .next u ∧
                StoredAt s.mem u.mem ((s.part t.part).comp.base.toNat +
                    32 * ((s.part t.part).comp.write.toNat % max 1 (s.part t.part).comp.slots))
                  (State.completionRecord t (commandStatus r.result.status (decide late)) 0 r.offset) ∧
                (u.part t.part).comp.write = (s.part t.part).comp.write + 1 ∧ u.ticket q = none ∧
                (∀ n : Nat, n ≠ t.part → u.part n = s.part n) ∧
                Keeps [.parts, .tickets, .mem, .reads, .writes, .written, .outs, .pendingCompletions, .freshCompletions,
                  .counters] s u)))))

/-- Out of reset, with none due the row changes nothing. With a checkpoint c due first that holds no ticket's record:
it is pending no more, its 128-byte head lies in the partition's next Floe slot and its signature, key id and padding
in the one after, every other byte of host memory is as before, the write index has risen by two and 0x5005.05 by one;
a genesis opens its partition. One that holds an ended ticket's record also writes that completion record, with every
handler idle, and frees the ticket. -/
def Obligations.CheckpointIsWrittenInTwoSlots : Prop :=
  ∀ s : State, s.startup ≠ .reset →
    (s.ckpts = [] → Sys2Proof.Machine.exec .checkpointSigned s = .next s) ∧
    (∀ (c : Ckpt) (rest : List Ckpt), s.ckpts = c :: rest → c.part < 64 →
      let floe := (s.part c.part).floe
      (c.ticket = none →
        ∃ u : State, Sys2Proof.Machine.exec .checkpointSigned s = .next u ∧ u.ckpts = rest ∧
          (∃ (m : Memory) (sig : Bytes),
            StoredAt s.mem m (floe.base.toNat + 128 * (floe.write.toNat % max 1 floe.slots)) (c.head s.count.toNat) ∧
            StoredAt m u.mem (floe.base.toNat + 128 * ((floe.write + 1).toNat % max 1 floe.slots))
              (sig ++ s.vault.auditId ++ List.replicate 16 0)) ∧
          u.counter .checkpointsSigned = s.counter .checkpointsSigned + 1 ∧
          (u.part c.part).floe.write = floe.write + 2 ∧
          (c.reason = .genesis → (u.part c.part).state = .opened) ∧ u.tickets = s.tickets) ∧
      (∀ (q : Nat) (t : Ticket) (e : Status × Nat × Nat), c.ticket = some q → s.ticket q = some t → t.ended = some e →
        c.reason ≠ .genesis → c.reason ≠ .closed → t.part < 64 → (∀ l : Level, (s.handler l).current = none) →
        ∃ u : State, Sys2Proof.Machine.exec .checkpointSigned s = .next u ∧ u.ckpts = rest ∧ u.ticket q = none ∧
          u.counter .checkpointsSigned = s.counter .checkpointsSigned + 1 ∧
          (u.part t.part).comp.write = (s.part t.part).comp.write + 1))

/-- Out of reset, a response that answers a read in flight gives its credit back and takes that read out of those in
flight. Without parity error its data, padded to the read's length, lie at the read's address of the model's view of
host memory (log 3) with every other byte as before, and serve whoever asked; with a parity error they are not taken,
and the error is counted and answered as the read's owner needs. A response that answers nothing stops (the model's
stop, log 11). -/
def Obligations.ReadDataLandsWhereItWasAsked : Prop :=
  ∀ (s : State) (ch : Sys2Proof.MemChan) (tag : Nat) (data : Bytes), s.startup ≠ .reset → s.rstAsserted = false →
    (∀ r : ReadReq, s.reads.find? (fun x => x.sent && x.chan == ch && x.tag == tag) = some r →
      ∃ v : State, Keeps [.ins, .outs, .reads, .writes] s v ∧
        v.reads.map (fun x => (x.chan, x.addr, x.len, x.who)) =
          (s.reads.filter (fun x => !(x.sent && x.chan == ch && x.tag == tag))).map (fun x => (x.chan, x.addr, x.len, x.who)) ∧
        (∃ m : Memory, Sys2Proof.Machine.exec (.readResponse ch tag data true) s = .next ({ v with mem := m } : State).pumpIn ∧
          StoredAt s.mem m r.addr (padTo r.len data)) ∧
        Sys2Proof.Machine.exec (.readResponse ch tag data false) s = .next
          (({ v.bump .byteParity 1 with portErrors := s.portErrors + 1 } : State).badResponse r).pumpIn) ∧
    (s.reads.find? (fun x => x.sent && x.chan == ch && x.tag == tag) = none → ∀ ok,
      Sys2Proof.Machine.exec (.readResponse ch tag data ok) s = .fault .unsolicited)

/-- Out of reset, an acknowledgement of a write in flight gives its credit back and removes that write, and requests
that waited for its tag may leave; nothing else changes. A write not acknowledged in time is sent again, its request
beat and then its data, and changes nothing else; an acknowledgement of no write stops (the model's stop, log 11). -/
def Obligations.AcknowledgedWritesAreInFlightNoMore : Prop :=
  ∀ (s : State) (ch : Sys2Proof.MemChan) (tag : Nat), s.startup ≠ .reset → s.rstAsserted = false →
    ((∃ w ∈ s.writes, w.sent = true ∧ w.chan = ch ∧ w.tag = tag) →
      ∃ u : State, Sys2Proof.Machine.exec (.writeAcknowledgement ch tag true) s = .next u ∧
        u.writes.map WriteReq.what =
          (s.writes.filter (fun w => !(w.sent && w.chan == ch && w.tag == tag))).map WriteReq.what ∧
        Keeps [.ins, .outs, .reads, .writes] s u) ∧
    ((¬∃ w ∈ s.writes, w.sent = true ∧ w.chan = ch ∧ w.tag = tag) →
      Sys2Proof.Machine.exec (.writeAcknowledgement ch tag true) s = .fault .unsolicited ∧
      Sys2Proof.Machine.exec (.writeAckTimeout ch tag) s = .fault .unsolicited) ∧
    (∀ w : WriteReq, s.writes.find? (fun w => w.sent && w.chan == ch && w.tag == tag) = some w →
      Sys2Proof.Machine.exec (.writeAckTimeout ch tag) s = .next ((s.emit (rqSub ch) (requestBeat 2 tag w.data.length w.addr)).emit (wdSub ch)
        (match ch with | .cmd => w.data | .drf _ => padTo 512 w.data)))

/-- Out of reset a hidden row arrives on the activation port, a parity error of it being counted. Where no ticket
takes rows it waits behind the rows before it, with its parity; where no row waits and the ticket whose turn it is has
room, a row of that ticket's length without parity error becomes the ticket's next row, and its credit goes back. -/
def Obligations.HiddenRowsQueueUntilATicketTakesThem : Prop :=
  ∀ (s : State) (beats : Bytes) (ok : Bool), s.startup ≠ .reset → s.rstAsserted = false →
    (∃ u : State, Sys2Proof.Machine.exec (.hiddenRow beats ok) s = .next u ∧
      u.portErrors = s.portErrors + (if ok then 0 else 1)) ∧
    (s.rowTicket = none → ∃ u : State, Sys2Proof.Machine.exec (.hiddenRow beats ok) s = .next u ∧ u.actIn = s.actIn ++ [(beats, ok)] ∧
      u.portErrors = s.portErrors + (if ok then 0 else 1) ∧ Keeps [.actIn, .portErrors, .counters] s u) ∧
    (∀ t : Ticket, s.actIn = [] → s.rowTicket = some t → s.rowsKnown t = true → s.rowRoom t = true →
      beats.length = t.rowBytes → ok = true →
      ∃ u : State, Sys2Proof.Machine.exec (.hiddenRow beats ok) s = .next u ∧ u.actIn = [] ∧
        u.tickets = s.tickets.map (fun x => if x.seq = t.seq
          then { x with rows := x.rows ++ [⟨beats, false, false, arrivalStats t.rowFmt beats⟩] } else x) ∧
        u.ins = (s.returnCredit .actIn).ins ∧ Keeps [.tickets, .ins] s u)

/-- With RST_N released and no credit held, a credit on a sub-channel sends the message that waits longest in its
beats, which spends it; with none waiting the credit is kept. No other sub-channel changes. -/
def Obligations.CreditSendsTheMessageThatWaits : Prop :=
  ∀ (s : State) (sub : OutSub) (o : OutPort), s.rstAsserted = false → s.outs[outIdx sub]? = some o → o.credits = 0 →
    ∃ (u : State) (o' : OutPort), Sys2Proof.Machine.exec (.subChannelCredit sub) s = .next u ∧ u.outs[outIdx sub]? = some o' ∧
      (o.queue = [] → o' = { o with credits := 1 }) ∧
      (∀ m rest, o.queue = m :: rest →
        o' = { credits := 0, queue := rest, sent := o.sent ++ beatsOf (beatBytes sub) m }) ∧
      (∀ j : Nat, j ≠ outIdx sub → u.outs[j]? = s.outs[j]?) ∧ Keeps [.outs] s u

/-- Out of reset with the count loaded: where a slip is pending and PAV_ is a multiple of 512, PAVANE_ADVANCE and
PAVANE_SLIP set the count to PAV_, clear the pending slip and count it; otherwise PAVANE_ADVANCE adds 1, and the slip
is pending if it was or if PAV_ now differs from the count by more than 2 either way, and PAVANE_SLIP changes nothing.
Every advance is 8 ticks, and the events of the new count follow (`atCount`), which change neither. Before the first
strobe loads the count nothing advances; a second load changes nothing. The in-line corrections of a count are free
values (log 65). -/
def Obligations.CountAdvancesOrSlips : Prop :=
  ∀ (s : State) (v : BitVec 64), s.startup ≠ .reset →
    let slips : Prop := s.slipPending = true ∧ v.toNat % 512 = 0
    let d := (v - (s.count + 1)).toInt
    (s.countLoaded = true → slips →
      ∃ m : State, Sys2Proof.Machine.exec (.pavaneAdvance v) s = .next m.atCount ∧ Sys2Proof.Machine.exec (.pavaneSlip v) s = .next m.atCount ∧
        m.atCount.count = v ∧ m.atCount.tick = s.tick + 8 ∧ m.atCount.slipPending = false ∧
        m.counter .slips = s.counter .slips + 1 ∧
        Keeps [.count, .tick, .slipPending, .inputDiff, .slices, .counters, .free, .freshCompletions, .freshHealth] s m) ∧
    (s.countLoaded = true → ¬slips →
      ∃ m : State, Sys2Proof.Machine.exec (.pavaneAdvance v) s = .next m.atCount ∧
        m.atCount.count = s.count + 1 ∧ m.atCount.tick = s.tick + 8 ∧
        m.atCount.slipPending = (s.slipPending || decide (d < -2 ∨ 2 < d)) ∧
        Keeps [.count, .tick, .slipPending, .inputDiff, .slices, .counters, .free, .freshCompletions, .freshHealth] s m) ∧
    (¬slips → Sys2Proof.Machine.exec (.pavaneSlip v) s = .next s) ∧
    (s.countLoaded = false → Sys2Proof.Machine.exec (.pavaneAdvance v) s = .next s ∧
      ∃ u : State, Sys2Proof.Machine.exec (.pavaneCountLoad v) s = .next u ∧ u.count = v ∧ u.countLoaded = true ∧ u.inputDiff = 0 ∧
        Keeps [.count, .countLoaded, .inputDiff] s u) ∧
    (s.countLoaded = true → Sys2Proof.Machine.exec (.pavaneCountLoad v) s = .next s)

/-- At a frame boundary, with an urgent ticket eligible, no urgent figure running and no retry in progress,
FRAME_BOUNDARY_PREEMPTION suspends every figure that uses Serac or the lanes and then launches the urgent ticket; with
a retry in progress the preemption only falls due; at no boundary, with no urgent ticket eligible or an urgent figure
running it changes nothing. SUSPENDED_FIGURE_RESUME ends every suspension: each suspended figure's later offsets move
by the ticks since its boundary and 64 more, and no other figure changes. -/
def Obligations.PreemptionSuspendsAndResumes : Prop :=
  ∀ s : State, s.startup ≠ .reset →
    (∀ t : Ticket, s.count.toNat % 512 = 0 → s.urgentRuns = false → s.urgentTicket = some t →
      (s.retries = [] → ∃ m : State, Sys2Proof.Machine.exec .frameBoundaryPreemption s = .next (m.launch t) ∧
        m.tickets = s.tickets.map (fun x => { x with run := x.run.map (fun r =>
          if s.suspendable x r then { r with suspendedAt := some s.tick } else r) }) ∧
        Keeps [.tickets, .counters] s m) ∧
      (s.retries ≠ [] → Sys2Proof.Machine.exec .frameBoundaryPreemption s = .next { s with preemptDue := true })) ∧
    (s.count.toNat % 512 ≠ 0 ∨ s.urgentRuns = true ∨ s.urgentTicket = none → Sys2Proof.Machine.exec .frameBoundaryPreemption s = .next s) ∧
    ((∃ t ∈ s.tickets, ∃ r, t.run = some r ∧ r.suspendedAt ≠ none) →
      Sys2Proof.Machine.exec .suspendedFigureResume s = .next { s with tickets := s.tickets.map (fun x => { x with run := x.run.map (fun r =>
        match r.suspendedAt with
        | some k => { r with suspendedAt := none, moved := r.moved + (s.tick - k) + 64 }
        | none => r) }) }) ∧
    ((∀ t ∈ s.tickets, ∀ r, t.run = some r → r.suspendedAt = none) → Sys2Proof.Machine.exec .suspendedFigureResume s = .next s)

/-- Every row that reports an error, the end of a retry, a scrub read or a check answers the state it found while the
block is in RESET, where nothing happens, and in Whiteout, where errors are neither handled nor logged. -/
def Obligations.ErrorsOutsideOperationAreIgnored : Prop :=
  ∀ (i : Instr) (s : State), errorRow i = true → s.startup = .reset ∨ s.startup = .whiteout → Sys2Proof.Machine.exec i s = .next s

/-- With the block out of reset and not in Whiteout, an error of a cell or a load register of a row whose checks are
enabled, and one of an accumulator bank of an active tile, is counted and detected at its tile with its unit, detail,
command and count, the sums of its column being pending; a bypassed row and a disabled tile raise nothing. -/
def Obligations.TileErrorsGoToTheirHandler : Prop :=
  ∀ (s : State) (n row col : Nat) (use : ArrayUse), s.startup ≠ .reset → s.startup ≠ .whiteout →
    let v := s.victim use.ticket
    let err (kind : ErrKind) (res : Resource) (detail : Nat) : Err :=
      ⟨kind, res, n, detail, v, 0, 0, false, s.count, use.work⟩
    (s.rowChecked n row = true →
      Sys2Proof.Machine.exec (.cellResidueError n row col use) s = .next (((s.bump .cellResidue 1).pendColumn n col).detect (.tile n)
        (err .cellResidue (.cell row col) row)) ∧
      Sys2Proof.Machine.exec (.registerParityError n row col use) s =
        .next ((((s.bump .registerParity 1).pendColumn n col).spoilCell n row col).detect (.tile n)
          (err .registerParity (.cell row col) row))) ∧
    (s.rowChecked n row = false →
      Sys2Proof.Machine.exec (.cellResidueError n row col use) s = .next s ∧ Sys2Proof.Machine.exec (.registerParityError n row col use) s = .next s) ∧
    (s.tileActive n = true →
      Sys2Proof.Machine.exec (.accumulatorResidueError ⟨n, col⟩ use) s =
        .next (((s.bump .accumulatorResidue 1).pendColumn n (col % 32)).detect (.tile n)
          (err .accResidue (.accumulator (col % 32)) 0xFF)) ∧
      Sys2Proof.Machine.exec (.accumulatorUncorrectable ⟨n, col⟩ use) s = .next ((s.bump .accumulatorUncorrectable 1).detect (.tile n)
        (err .accUncorrectable (.accumulator (col % 32)) 0xFF))) ∧
    (s.tileActive n = false →
      Sys2Proof.Machine.exec (.accumulatorResidueError ⟨n, col⟩ use) s = .next s ∧
      Sys2Proof.Machine.exec (.accumulatorUncorrectable ⟨n, col⟩ use) s = .next s)

/-- With the block out of reset and not in Whiteout, each of these errors is counted and detected: of a lane or a
tile's rounding stage (log 70), of Moraine, of a Flurry unit (a second one of the same slice unit in one command
escalates), of a Firn word of a shard or a work area, of a table word, whose slice's copy is bad at once, of a
context, a late crossing of a launched command, and a scoring figure's swap into a stale set (log 72), whose row does
nothing else. A Sleet parity error while the generators run re-seeds the slice's generator at once, and touches no
other slice. -/
def Obligations.UnitErrorsGoToTheirHandler : Prop :=
  ∀ (s : State) (n k : Nat) (q : Option Nat), s.startup ≠ .reset → s.startup ≠ .whiteout →
    let v := s.victim q
    let err (kind : ErrKind) (res : Resource) (unit detail : Nat) : Err :=
      ⟨kind, res, unit, detail, v, 0, 0, false, s.count, noWork⟩
    (∀ w, Sys2Proof.Machine.exec (.laneMismatch n (.lane k) (.scoring w) q) s = .next ((s.bump .laneMismatches 1).detect (.slice (n % 4))
      { err .laneMismatch (.lane k) (n % 4) k with scoring := true, work := w })) ∧
    Sys2Proof.Machine.exec (.laneMismatch n (.lane k) .other q) s = .next ((s.bump .laneMismatches 1).detect (.slice (n % 4))
      (err .laneMismatch (.lane k) (n % 4) k)) ∧
    Sys2Proof.Machine.exec (.laneMismatch n (.rounding k) .other q) s = .next ((s.bump .laneMismatches 1).detect (.slice (n % 4))
      (err .laneMismatch (.rounding k) k 0xFF)) ∧
    Sys2Proof.Machine.exec (.moraineMismatch q) s = .next ((s.bump .moraineMismatches 1).detect .block
      (err .moraineMismatch .moraine 0xFF 0xFF)) ∧
    Sys2Proof.Machine.exec (.flurryMismatch .moraine q) s = .next ((s.bump .flurryMismatches 1).detect .block
      (err .flurryMismatch .moraineFlurry 0xFF 0xFF)) ∧
    Sys2Proof.Machine.exec (.flurryMismatch (.slice n) q) s = .next (if s.flurrySecond (err .flurryMismatch .flurry (n % 4) 0xFF)
      then (s.bump .flurryMismatches 1).escalate (.slice (n % 4)) (err .flurryMismatch .flurry (n % 4) 0xFF)
      else (s.bump .flurryMismatches 1).detect (.slice (n % 4)) (err .flurryMismatch .flurry (n % 4) 0xFF)) ∧
    (s.sleetRunning = true → n < s.grade.slices →
      ∃ u : State, Sys2Proof.Machine.exec (.sleetParityError n) s = .next u ∧ u.counter .sleetParity = s.counter .sleetParity + 1 ∧
        u.seedings = s.seedings + 1 ∧ u.logWritten = s.logWritten + 1 ∧ (∀ m : Nat, m ≠ n → u.sliceOf m = s.sliceOf m) ∧
        Keeps [.counters, .slices, .seedings, .vault, .log, .logWritten] s u) ∧
    (s.sleetRunning = false ∨ s.grade.slices ≤ n → Sys2Proof.Machine.exec (.sleetParityError n) s = .next s) ∧
    (∀ set, (s.holdsShard n = true → set < (s.regionDesc n).sets →
        Sys2Proof.Machine.exec (.firnUncorrectableWeight n set k q) s = .next ((s.bump .firnWeight 1).detect .block
          { err .firnWeight (.bank (k % 256)) (k % 256 / 8) n with region := n, set := set })) ∧
      (s.holdsShard n = false ∨ (s.regionDesc n).sets ≤ set → Sys2Proof.Machine.exec (.firnUncorrectableWeight n set k q) s = .next s)) ∧
    Sys2Proof.Machine.exec (.firnUncorrectableWorkArea n k q) s = .next (if (s.region n).work = true then
      (s.bump .firnWork 1).detect .block (err .firnWork (.bank (k % 256)) (k % 256 / 8) n) else s) ∧
    (∀ m, Sys2Proof.Machine.exec (.tableMemoryError n m q) s = .next ((s.modSlice (n % 4) (fun c => { c with tableGood := false })).detect .block
      (err .tableWord (.table (n % 4)) (n % 4) 0xFF))) ∧
    Sys2Proof.Machine.exec (.contextMemoryError n q) s = .next (s.detect .block (err .contextWord (.context (n % 256)) (n % 256) 0xFF)) ∧
    (∀ x, s.launched n = some x →
      Sys2Proof.Machine.exec (.crossingDatumLate n) s = .next ((s.bump .scheduleFaults 1).detect .block
        { err .scheduleFault .crossing 0xFF 0xFF with ticket := some n })) ∧
    (s.launched n = none → Sys2Proof.Machine.exec (.crossingDatumLate n) s = .fault .noSuchTicket) ∧
    (∀ (i : Instr) (o : Op) (t : Ticket) (r : Running), opRow i = some (o, n) → Ready s n o t r →
      o ∈ [Op.step, .score, .settle, .verify, .beam, .loss, .grad] →
      ∃ u : State, Sys2Proof.Machine.exec i s = .next u ∧ ∀ tile : Nat, s.swapFault r = some tile →
        u = ((s.modTile tile (fun x => { x with shadow := { x.shadow with stale := true } })).bump .scheduleFaults 1).detect
          .block { err .scheduleFault .crossing 0xFF 0xFF with ticket := some n })

/-- A Moraine mismatch of no command while the block's handler is busy: on another resource, with fewer than four
queued it joins the queue and nothing else but its counter changes; with four queued the block enters Whiteout under
cause 0x01 with every ticket freed and every partition halted; on the resource of an error handled or queued it
escalates to the host, counted in 0x7054.03, with a health event. -/
def Obligations.BusyHandlerQueuesFourAndThenOverflows : Prop :=
  ∀ s : State, s.startup ≠ .reset → s.startup ≠ .whiteout → s.block.current ≠ none →
    (s.block.holds .moraine = false → s.block.queue.length < 4 →
      ∃ u : State, Sys2Proof.Machine.exec (.moraineMismatch none) s = .next u ∧
        u.block = { s.block with
          queue := s.block.queue ++ [⟨.moraineMismatch, .moraine, 0xFF, 0xFF, none, 0, 0, false, s.count, noWork⟩] } ∧
        u.counter .moraineMismatches = s.counter .moraineMismatches + 1 ∧ Keeps [.block, .counters] s u) ∧
    (s.block.holds .moraine = false → 4 ≤ s.block.queue.length →
      ∃ u : State, Sys2Proof.Machine.exec (.moraineMismatch none) s = .next u ∧ u.startup = .whiteout ∧ u.whiteoutCause = 1 ∧
        u.whiteoutCount = s.count ∧ u.tickets = [] ∧ u.ckpts = [] ∧ u.block = Handler.idle ∧
        (∀ n : Nat, n < 64 → (u.part n).state = .halted)) ∧
    (s.block.holds .moraine = true →
      ∃ u : State, Sys2Proof.Machine.exec (.moraineMismatch none) s = .next u ∧ u.counter .hostEscalations = s.counter .hostEscalations + 1 ∧
        u.pendingHealth = true ∧ u.logWritten = s.logWritten + 2 ∧
        Keeps [.counters, .log, .logWritten, .pendingHealth, .freshHealth] s u)

/-- With the tile's handler idle, a residue error of a checked row that has not reached its third retry starts a tile-
load retry: it is counted in 0x7011.02 and on its row, its column is pending, it joins the retries, every running
figure that no preemption has suspended moves by its length and counts it, one log entry is written, and the handler
holds the error. -/
def Obligations.CellErrorRetriesItsTileLoad : Prop :=
  ∀ (s : State) (n row col : Nat) (use : ArrayUse), s.startup ≠ .reset → s.startup ≠ .whiteout → n < 16 →
    s.rowChecked n row = true → (s.tile n).handler = Handler.idle → vget (s.tile n).retries row ≠ 2 →
    let e : Err := ⟨.cellResidue, .cell row col, n, row, s.victim use.ticket, 0, 0, false, s.count, use.work⟩
    let len := s.tileRetryLen ((s.victim use.ticket).bind s.ticket) use.work
    ∃ u : State, Sys2Proof.Machine.exec (.cellResidueError n row col use) s = .next u ∧
      u.retries = s.retries ++ [⟨.tileLoad, len, some (.tile n), some e, 0, false, false⟩] ∧
      u.tickets = s.tickets.map (fun t => { t with run := t.run.map (fun r =>
        if t.ended = none ∧ r.suspendedAt = none then { r with moved := r.moved + len, retries := r.retries + 1 } else r) }) ∧
      u.counter .retryTile = s.counter .retryTile + 1 ∧ u.counter .cellResidue = s.counter .cellResidue + 1 ∧
      vget (u.tile n).retries row = vget (s.tile n).retries row + 1 ∧ (u.tile n).handler = ⟨some e, []⟩ ∧
      col ∈ (u.tile n).pendCols ∧ u.logWritten = s.logWritten + 1 ∧
      Keeps [.tickets, .tiles, .retries, .counters, .log, .logWritten] s u

/-- With the block out of reset and not in Whiteout: the end of the first retry frees its handler and the next retry
goes on, but a Firn reread whose bytes are missing holds on, and one that has them is judged. The scrub goes to the
word after the one it read, counting a corrected word, retiring one that still fails, and handing an uncorrectable one
to the block's handler; with no region held it stays at word 0. A background reread whose bytes have all come and pass
is written back, a word that still fails is retired, and the block's handler takes its next error. With no retry, or
no such reread, the row changes nothing. -/
def Obligations.RetriesAndTheScrubGoOn : Prop :=
  ∀ s : State, s.startup ≠ .reset → s.startup ≠ .whiteout →
    (s.retries = [] → ∀ b, Sys2Proof.Machine.exec (.retryEnd b) s = .next s) ∧
    (∀ (r : Retry) (rest : List Retry) (b : Bool), s.retries = r :: rest →
      (r.kind ≠ .firnReread → Sys2Proof.Machine.exec (.retryEnd b) s = .next (s.popRetry r)) ∧
      (∀ e, r.kind = .firnReread → r.err = some e →
        (s.rereading (.reread e.region e.set) = true →
          Sys2Proof.Machine.exec (.retryEnd b) s = .next { s with retries := { r with late := true } :: rest }) ∧
        (s.rereading (.reread e.region e.set) = false → Sys2Proof.Machine.exec (.retryEnd b) s = .next (s.endReread r e b)))) ∧
    (s.scrubAt = none → ∀ f, Sys2Proof.Machine.exec (.scrubRead f) s = .next { s with scrub := 0 }) ∧
    (∀ (w g : Nat) (m : State), s.scrubAt = some (w, g, m) →
      let m' : State := { m with scrub := w + 1 }
      Sys2Proof.Machine.exec (.scrubRead .good) s = .next m' ∧
      Sys2Proof.Machine.exec (.scrubRead (.corrected false)) s = .next (m'.bump .firnCorrections 1) ∧
      Sys2Proof.Machine.exec (.scrubRead (.corrected true)) s = .next ((m'.bump .firnCorrections 1).retireWord .firnScrub (w % 256) g none) ∧
      Sys2Proof.Machine.exec (.scrubRead .uncorrectable) s = .next (m'.scrubBad w g)) ∧
    (∀ (g n : Nat) (b : Background), s.background.find? (fun b => b.region == g && b.set == n) = some b →
      s.rereading (.background g n) = false → s.holdsShard g = true → b.bad = false → s.rereadOk g n = true →
      Sys2Proof.Machine.exec (.backgroundRereadDone g n false) s = .next ((s.writeBack g n).endBackground b) ∧
      Sys2Proof.Machine.exec (.backgroundRereadDone g n true) s =
        .next (((s.writeBack g n).retireWord .firnScrub b.bank g none).endBackground b)) ∧
    (∀ (g n : Nat) (b : Bool), s.background.find? (fun b => b.region == g && b.set == n) = none →
      Sys2Proof.Machine.exec (.backgroundRereadDone g n b) s = .next s)

/-- With the block out of reset and not in Whiteout: a table reload that the block's handler makes and that verifies
makes the slice's copy good, is counted and logged, and frees the handler; one that does not verify enters Whiteout,
and one that is not being made changes nothing. The check of a set that a launched figure streams is judged once its
bytes have come, and makes the figure hold for them before; of any other set it changes nothing. A byte-parity error
is counted, is judged as a failure of its set, is an error of its tile, or ends the command that it names. -/
def Obligations.SetAndTableEventsComplete : Prop :=
  ∀ s : State, s.startup ≠ .reset → s.startup ≠ .whiteout →
    (∀ n : Nat,
      (s.rewrites n = false → ∀ ok, Sys2Proof.Machine.exec (.tableReloadDone n ok) s = .next s) ∧
      (s.rewrites n = true →
        (∃ u : State, Sys2Proof.Machine.exec (.tableReloadDone n false) s = .next u ∧ u.startup = .whiteout ∧ u.whiteoutCause = 5) ∧
        (s.block.queue = [] → ∃ u : State, Sys2Proof.Machine.exec (.tableReloadDone n true) s = .next u ∧ (u.sliceOf n).tableGood = true ∧
          u.tableReloaded = true ∧ u.block = Handler.idle ∧ u.counter .tableReloads = s.counter .tableReloads + 1 ∧
          u.logWritten = s.logWritten + 1 ∧
          Keeps [.slices, .tableReloaded, .counters, .log, .logWritten, .block] s u))) ∧
    (∀ (q set : Nat) (t : Ticket) (r : Running), s.launched q = some (t, r) →
      let streams := r.streamed = true ∧ t.op ≠ .loadw ∧ ¬(t.op = .settle ∧ r.pass = .idle) ∧ set < t.desc.sets ∧ set ∉ r.setsOk
      (¬streams → Sys2Proof.Machine.exec (.streamedSetCheck q set) s = .next s) ∧
      (streams → s.rereading (.set q set) = true →
        Sys2Proof.Machine.exec (.streamedSetCheck q set) s = .next (s.modRun q (fun r => { r with lateSet := some set }))) ∧
      (streams → s.rereading (.set q set) = false →
        Sys2Proof.Machine.exec (.streamedSetCheck q set) s = .next (s.judgeSet t r set (s.setVerdict t r set t.egBound)))) ∧
    (∀ q set : Nat, s.launched q = none → Sys2Proof.Machine.exec (.streamedSetCheck q set) s = .fault .noSuchTicket) ∧
    (∃ u : State, Sys2Proof.Machine.exec (.byteParityError .other none) s = .next u ∧ u.counter .byteParity = s.counter .byteParity + 1 ∧
      u.logWritten = s.logWritten + 1 ∧ Keeps [.counters, .log, .logWritten] s u) ∧
    (∀ (q : Nat) (x : Ticket × Running), s.launched q = some x →
      (∃ u : State, Sys2Proof.Machine.exec (.byteParityError .other (some q)) s = .next u ∧ u.launched q = none ∧
        ∃ t : Ticket, u.ticket q = some t ∧ t.ended = some (.unrecovered, 0, s.tick - x.2.launchTick)) ∧
      (∀ (n : Nat) (path : ParityPath), path = .staging n ∨ path = .loadPath n →
        Sys2Proof.Machine.exec (.byteParityError path (some q)) s = .next (((s.bump .byteParity 1).modRun q (fun r =>
          { r with setsOk := r.setsOk.filter (fun m => m != n) })).badSet x.1 x.2 n .byteParity))) ∧
    (∀ (n : Nat) (p : Option Nat) (path : ParityPath), path = .staging n ∨ path = .loadPath n → s.victim p = none →
      s.retries = [] → s.background = [] →
      ∃ u : State, Sys2Proof.Machine.exec (.byteParityError path p) s = .next u ∧ u.logWritten = s.logWritten + 1 ∧
        Keeps [.counters, .log, .logWritten] s u) ∧
    (∀ (n row : Nat) (w : ArrayWork) (p : Option Nat),
      (s.tileActive n = true → Sys2Proof.Machine.exec (.byteParityError (.splitBuffer n row w) p) s =
        .next (((s.bump .byteParity 1).modTile n (fun t => { t with split := t.split.spoil })).detect (.tile n)
          ⟨.byteParity, .cell row 32, n, row, s.victim p, 0, 0, false, s.count, w⟩)) ∧
      (s.tileActive n = false → Sys2Proof.Machine.exec (.byteParityError (.splitBuffer n row w) p) s = .next (s.bump .byteParity 1)))

/-- With RST_N released a received frame gives its credit back. In READY or RUN one of a wrong form, or of another
group tag on a tree port, is discarded and counted in 0x7040.04 whatever its row; before READY and in Whiteout no Reel
frame has any other effect, and no Reel timer has one. -/
def Obligations.FramesAreDiscardedWithoutNak : Prop :=
  ∀ (i : Instr) (f : Sys2Proof.RxFrame) (s : State), frameRow i = some f → s.rstAsserted = false →
    let v := s.returnCredit (.reelRx f.port)
    (s.startup = .ready ∨ s.startup = .run →
      (frameFormOk f.bytes = false ∨ (f.port ∈ s.treePorts ∧ (Frame.read f.bytes).tag ≠ s.settings.groupTag.toNat)) →
      Sys2Proof.Machine.exec i s = .next (v.bump .framesDiscarded 1)) ∧
    (¬(s.startup = .ready ∨ s.startup = .run) → Sys2Proof.Machine.exec i s = .next v ∧
      ∀ p : Fin 4, Sys2Proof.Machine.exec (.helloTimer p) s = .next s ∧ Sys2Proof.Machine.exec (.idleTimer p) s = .next s ∧
        Sys2Proof.Machine.exec (.linkReceiveTimeout p) s = .next s ∧
        ∀ a, Sys2Proof.Machine.exec (.reelFrameCrcFailure p a) s = .next (s.returnCredit (.reelRx p)))

/-- In READY or RUN, on a link that is up, a well-formed frame of the group: an EXCHANGE or CHECK frame that is next
in link order enters the receive queue while it holds fewer than 8, and another one does not; an IDLE changes no
receive queue; a NAK sends every unacknowledged frame again, each a resend and a retry. Each then lets the exchanges
go on. -/
def Obligations.FramesAreTakenInLinkOrder : Prop :=
  ∀ (s : State) (f : Sys2Proof.RxFrame), s.startup = .ready ∨ s.startup = .run → s.rstAsserted = false →
    frameFormOk f.bytes = true →
    (f.port ∈ s.treePorts → (Frame.read f.bytes).tag = s.settings.groupTag.toNat) → (s.port f.port).state = .up →
    let fr := Frame.read f.bytes
    let queued (m : State) : Prop :=
      (fr.linkSeq = ((s.port f.port).rxSeq + 1).toNat ∧ (s.port f.port).rxq.length < 8 →
        (m.port f.port).rxq = (s.port f.port).rxq ++ [fr] ∧ (m.port f.port).rxSeq = (s.port f.port).rxSeq + 1) ∧
      (¬(fr.linkSeq = ((s.port f.port).rxSeq + 1).toNat ∧ (s.port f.port).rxq.length < 8) →
        (m.port f.port).rxq = (s.port f.port).rxq ∧ (m.port f.port).rxSeq = (s.port f.port).rxSeq)
    (fr.kind = 0x10 → ∃ m : State, Sys2Proof.Machine.exec (.exchange f) s = .next m.pump ∧ queued m ∧
      Keeps [.ins, .ports, .outs, .counters] s m) ∧
    (fr.kind = 0x20 → ∃ m : State, Sys2Proof.Machine.exec (.check f) s = .next m.pump ∧ queued m ∧ Keeps [.ins, .ports, .outs, .counters] s m) ∧
    (fr.kind = 0x00 → ∃ m : State, Sys2Proof.Machine.exec (.idle f) s = .next m.pump ∧ (m.port f.port).rxq = (s.port f.port).rxq ∧
      Keeps [.ins, .ports, .outs, .counters] s m) ∧
    (fr.kind = 0x02 → ∃ m : State, Sys2Proof.Machine.exec (.nak f) s = .next (m.resendAll f.port).pump ∧
      m = (s.returnCredit (.reelRx f.port)).takeAck f.port fr ∧
      Keeps [.ins, .ports, .outs, .counters] s (m.resendAll f.port) ∧
      (m.resendAll f.port).counter .resends = m.counter .resends + BitVec.ofNat 64 (m.port f.port).unacked.length ∧
      (m.resendAll f.port).counter .retryFrame = m.counter .retryFrame + BitVec.ofNat 64 (m.port f.port).unacked.length)

/-- In READY or RUN, on a link that is up, a well-formed ABORT of the group whose launch and origin were seen before
only gives its acknowledgement and credits; another one is remembered and counted in 0x7040.08. A launch of it that
runs and has not completed ends with UNRECOVERED; where no ticket is of that launch and none was, it is kept as the
youngest of at most 16. -/
def Obligations.AbortIsTakenOnce : Prop :=
  ∀ (s : State) (f : Sys2Proof.RxFrame), s.startup = .ready ∨ s.startup = .run → s.rstAsserted = false →
    frameFormOk f.bytes = true →
    (f.port ∈ s.treePorts → (Frame.read f.bytes).tag = s.settings.groupTag.toNat) → (s.port f.port).state = .up →
    (Frame.read f.bytes).kind = 0x3F →
    let fr := Frame.read f.bytes
    let a : AbortEnt := ⟨fr.part, fr.opcode, fr.groupSeq, field fr.payload 0 2⟩
    let names (t : Ticket) : Bool :=
      t.part == a.part && t.op.code == a.opcode && t.groupSeq == a.groupSeq && t.op.peer && t.cmdKnown
    (a ∈ s.abortSeen → Sys2Proof.Machine.exec (.abort f) s = .next ((s.returnCredit (.reelRx f.port)).takeAck f.port fr)) ∧
    (a ∉ s.abortSeen → ∃ m : State, Sys2Proof.Machine.exec (.abort f) s = .next m.pump ∧ m.abortSeen = s.abortSeen ++ [a] ∧
      m.counter .abortsReceived = s.counter .abortsReceived + 1 ∧
      (∀ (t : Ticket) (r : Running), s.tickets.find? names = some t → s.ticket t.seq = some t → t.run = some r →
        t.ended = none → r.phase ≠ .finished →
        ∃ x : Ticket, m.ticket t.seq = some x ∧ x.ended = some (.unrecovered, 0, s.tick - r.launchTick)) ∧
      ((∀ t ∈ s.tickets, names t = false) →
        (∀ e ∈ s.groupDone, ¬(e.part = a.part ∧ e.opcode = a.opcode ∧ e.groupSeq = a.groupSeq)) →
        m.abortTable = (if s.abortTable.length < 16 then s.abortTable else s.abortTable.drop 1) ++ [a] ∧
        m.tickets = s.tickets))

/-- In READY or RUN, a HELLO of the group on a port whose rate is not zero: on an up link the link goes down first
(log 37). On a link that is not up the neighbour's report is recorded; the parent port comes up, with the depth one
more than the parent's, where the report is of a child-facing port of the same group within the group's depth; a child
port whose report is of a parent port of the same group waits where its member does not know its own depth, and else
comes up where the report is one deeper; a side port comes up with a side port; every other port is mis-wired. A link
comes up with 8 credits and empty queues. -/
def Obligations.HelloBringsTheLinkUp : Prop :=
  ∀ (s : State) (f : Sys2Proof.RxFrame), s.startup = .ready ∨ s.startup = .run → s.rstAsserted = false →
    frameFormOk f.bytes = true →
    (f.port ∈ s.treePorts → (Frame.read f.bytes).tag = s.settings.groupTag.toNat) →
    (Frame.read f.bytes).kind = 0x01 →
    let v := s.returnCredit (.reelRx f.port)
    let r := Report.read (Frame.read f.bytes).payload
    let same := r.tag = s.settings.groupTag.toNat ∧ r.size = s.settings.groupSize.toNat ∧ r.treeDepth = s.settings.depth.toNat
    let fresh (p : Port) : Prop := p.state = .up ∧ p.credits = 8 ∧ p.rxq = [] ∧ p.unacked = [] ∧ p.backlog = []
    ((s.port f.port).rate = 0 → Sys2Proof.Machine.exec (.hello f) s = .next v) ∧
    ((s.port f.port).rate ≠ 0 → (s.port f.port).state = .up →
      Sys2Proof.Machine.exec (.hello f) s = .next ((v.dropLink f.port).takeHello f.port r)) ∧
    ((s.port f.port).rate ≠ 0 → (s.port f.port).state ≠ .up →
      ∃ u : State, Sys2Proof.Machine.exec (.hello f) s = .next u ∧ (u.port f.port).neighbour.toNat = r.id ∧
        (u.port f.port).neighbourTag.toNat = r.tag ∧ Keeps [.ins, .ports, .memberDepth] s u ∧
        (s.parentPort = some f.port →
          (r.role = 1 ∧ same ∧ r.depth + 1 ≤ s.settings.depth.toNat →
            fresh (u.port f.port) ∧ u.memberDepth.toNat = r.depth + 1) ∧
          (¬(r.role = 1 ∧ same ∧ r.depth + 1 ≤ s.settings.depth.toNat) → (u.port f.port).state = .misWired)) ∧
        (s.parentPort ≠ some f.port → u.memberDepth = s.memberDepth) ∧
        (s.parentPort ≠ some f.port → f.port ∈ s.childPorts →
          (¬(r.role = 0 ∧ same) → (u.port f.port).state = .misWired) ∧
          (r.role = 0 ∧ same → s.memberDepth = 0xFF → (u.port f.port).state = (s.port f.port).state) ∧
          (r.role = 0 ∧ same → s.memberDepth ≠ 0xFF → r.depth = s.memberDepth.toNat + 1 → fresh (u.port f.port)) ∧
          (r.role = 0 ∧ same → s.memberDepth ≠ 0xFF → r.depth ≠ s.memberDepth.toNat + 1 →
            (u.port f.port).state = .misWired)) ∧
        (s.parentPort ≠ some f.port → f.port ∉ s.childPorts →
          (r.role = 2 → fresh (u.port f.port)) ∧ (r.role ≠ 2 → (u.port f.port).state = .misWired)))

/-- In READY or RUN: HELLO_TIMER sends HELLO on a port whose rate is not zero and whose link is not up; IDLE_TIMER
sends IDLE on an up link; LINK_RECEIVE_TIMEOUT takes an up link down; elsewhere the three change nothing. A frame
whose CRC fails gives its credit back and is counted, a parity error of its beats as well; NAK goes out on a port
whose rate is not zero, and on an up link the resend is a retry of the block, or on the third failed resend the link
goes down. -/
def Obligations.LinkTimersAndFailures : Prop :=
  ∀ (s : State) (p : Fin 4) (a : BadFrame), s.startup = .ready ∨ s.startup = .run → s.rstAsserted = false →
    let v := s.returnCredit (.reelRx p)
    let c : State := (if a.parityOk then v else { v.bump .byteParity 1 with portErrors := s.portErrors + 1 }).bump .crcFailures 1
    ((s.port p).state = .up →
      Sys2Proof.Machine.exec (.idleTimer p) s = .next (s.sendControl p 0x00 []) ∧ Sys2Proof.Machine.exec (.linkReceiveTimeout p) s = .next (s.dropLink p)) ∧
    ((s.port p).state ≠ .up → Sys2Proof.Machine.exec (.idleTimer p) s = .next s ∧ Sys2Proof.Machine.exec (.linkReceiveTimeout p) s = .next s) ∧
    ((s.port p).rate = 0 ∨ (s.port p).state = .up → Sys2Proof.Machine.exec (.helloTimer p) s = .next s) ∧
    ((s.port p).rate ≠ 0 → (s.port p).state ≠ .up →
      ∃ m : State, Sys2Proof.Machine.exec (.helloTimer p) s = .next (m.sendHello p) ∧
        (m.port p).state = (if (s.port p).state = .unused then .bringUp else (s.port p).state) ∧ Keeps [.ports] s m) ∧
    ((s.port p).rate = 0 → Sys2Proof.Machine.exec (.reelFrameCrcFailure p a) s = .next c) ∧
    ((s.port p).rate ≠ 0 →
      ((s.port p).state ≠ .up → Sys2Proof.Machine.exec (.reelFrameCrcFailure p a) s = .next (c.sendControl p 0x02 [])) ∧
      ((s.port p).state = .up → 3 ≤ a.resend →
        Sys2Proof.Machine.exec (.reelFrameCrcFailure p a) s = .next ((c.sendControl p 0x02 []).dropLink p)) ∧
      ((s.port p).state = .up → a.resend < 3 →
        Sys2Proof.Machine.exec (.reelFrameCrcFailure p a) s = .next ((c.sendControl p 0x02 []).detect .block
          ⟨.reel, .port p.val, p.val, 0xFF, none, 0, 0, false, s.count, noWork⟩)))

/-- Out of reset, for a launched figure: at its peer deadline a missing frame is passed over where the command and its
partition settle without peers, else the exchange is stalled and nothing else changes; a stalled exchange that has
waited the stall limit ends its launch with UNRECOVERED, as does a missing CHECK frame at its deadline, which is
counted in 0x7030.02. Where its condition does not hold a row changes nothing; for a ticket without a launched figure
it stops (the model's stop, log 11). -/
def Obligations.DeadlinesPassOverStallOrEnd : Prop :=
  ∀ (s : State) (q : Nat), s.startup ≠ .reset →
    (s.launched q = none → Sys2Proof.Machine.exec (.peerDeadline q) s = .fault .noSuchTicket ∧
      Sys2Proof.Machine.exec (.stallLimit q) s = .fault .noSuchTicket ∧ Sys2Proof.Machine.exec (.checkDeadline q) s = .fault .noSuchTicket) ∧
    (∀ (t : Ticket) (r : Running), s.launched q = some (t, r) →
      (r.exch = none → Sys2Proof.Machine.exec (.peerDeadline q) s = .next s ∧ Sys2Proof.Machine.exec (.stallLimit q) s = .next s) ∧
      (∀ e : Exch, r.exch = some e →
        (s.peerDue r e = true → e.stalled = false →
          (t.op.policy = true ∧ (s.part t.part).settleWithout = true →
            Sys2Proof.Machine.exec (.peerDeadline q) s = .next (s.passOver t e).pump) ∧
          (¬(t.op.policy = true ∧ (s.part t.part).settleWithout = true) →
            ∃ u : State, Sys2Proof.Machine.exec (.peerDeadline q) s = .next u ∧
              u.launched q = some ({ t with run := some { r with exch := some { e with stalled := true } } },
                { r with exch := some { e with stalled := true } }) ∧ Keeps [.tickets] s u)) ∧
        (s.peerDue r e = false ∨ e.stalled = true → Sys2Proof.Machine.exec (.peerDeadline q) s = .next s) ∧
        (e.stalled = true → s.settings.stallLimit ≠ 0 → s.settings.stallLimit.toNat ≤ e.stallCount →
          ∃ m : State, Sys2Proof.Machine.exec (.stallLimit q) s = .next m.pump ∧ m.launched q = none ∧
            ∃ x : Ticket, m.ticket q = some x ∧ x.ended = some (.unrecovered, 0, s.tick - r.launchTick)) ∧
        (¬(e.stalled = true ∧ s.settings.stallLimit ≠ 0 ∧ s.settings.stallLimit.toNat ≤ e.stallCount) →
          Sys2Proof.Machine.exec (.stallLimit q) s = .next s)) ∧
      (r.phase = .checking → s.checkDue t r = true →
        ∃ m : State, Sys2Proof.Machine.exec (.checkDeadline q) s = .next m.pump ∧ m.launched q = none ∧
          ∃ x : Ticket, m.ticket q = some x ∧ x.ended = some (.unrecovered, 0, s.tick - r.launchTick)) ∧
      (r.phase ≠ .checking ∨ s.checkDue t r = false → Sys2Proof.Machine.exec (.checkDeadline q) s = .next s))

/-- Out of reset, every access to MGT_DATA3, a read, a write, or a register access at 0x18, advances Slot by 1, from
63 to 0; a read gives on MGT_RS the word of the response buffer at the slot it found, a write while Busy is clear puts
its word into the request buffer there, and while Busy is set no write to a data register changes the request buffer.
-/
def Obligations.Data3AdvancesTheSlot : Prop :=
  ∀ s : State, s.startup ≠ .reset → s.rstAsserted = false →
    (∀ w : Option (BitVec 32), ∃ u : State, Sys2Proof.Machine.exec (.mgtData3Access w true) s = .next u ∧
      u.window.slot.toNat = (s.window.slot.toNat + 1) % 64 ∧
      (w = none → u = { (s.returnCredit .mgtRq).emit .mgtRs
          (leBytes 4 (field s.window.response (16 * s.window.slot.toNat + 12) 4)) with
        window := { s.window with slot := s.window.slot + 1 } }) ∧
      (∀ v, w = some v → u.window.request =
        if s.window.busy then s.window.request
        else overwrite s.window.request (16 * s.window.slot.toNat + 12) (leBytes 4 v.toNat))) ∧
    (∀ v : Option (BitVec 32), ∃ u : State, Sys2Proof.Machine.exec (.mgtRegisterWrite 0x18 v true) s = .next u ∧
      u.window.slot.toNat = (s.window.slot.toNat + 1) % 64) ∧
    (∀ o v u, s.window.busy = true → Sys2Proof.Machine.exec (.mgtRegisterWrite o v true) s = .next u → u.window.request = s.window.request)

/-- Out of reset: Send while the window is busy or a response waits only sets Overrun; otherwise a frame that breaks
R418 is answered at once and counted in 0x7019.01, one whose session or MAC is wrong is answered at once and counted
in 0x7019.02, and any other leaves the window busy with the request latched. Release clears Response ready, Clear
overrun clears Overrun, each storing Length 0 (log 75), and a register write sets its field. A register read gives its
value on MGT_RS and changes no field but Slot. -/
def Obligations.WindowCommandsAct : Prop :=
  ∀ s : State, s.startup ≠ .reset → s.rstAsserted = false →
    (∀ n : BitVec 11, ∃ u : State, Sys2Proof.Machine.exec (.mgtSend n true) s = .next u ∧
      (s.window.busy = true ∨ s.window.ready = true → u.window = { s.window with overrun := true } ∧
        Keeps [.ins, .window, .outs] s u) ∧
      (s.window.busy = false → s.window.ready = false →
        let m : State := { s with window := { s.window with length := n, sent := n, busy := true } }
        (frameOk (s.window.request.take n.toNat) = false →
          u.window.busy = false ∧ u.window.ready = true ∧ u.window.latched = false ∧
          u.counter .badFrames = s.counter .badFrames + 1 ∧ Keeps [.ins, .window, .outs, .counters] s u) ∧
        (frameOk (s.window.request.take n.toNat) = true → m.authOk = false →
          u.window.busy = false ∧ u.window.ready = true ∧ u.window.latched = false ∧
          u.counter .authFailures = s.counter .authFailures + 1 ∧ Keeps [.ins, .window, .outs, .counters] s u) ∧
        (frameOk (s.window.request.take n.toNat) = true → m.authOk = true →
          u.window = { m.window with latched := true } ∧ Keeps [.ins, .window, .outs, .vault] s u))) ∧
    (∃ u : State, Sys2Proof.Machine.exec (.mgtRelease true) s = .next u ∧ u.window = { s.window with length := 0, ready := false } ∧
      Keeps [.ins, .window, .outs] s u) ∧
    (∃ u : State, Sys2Proof.Machine.exec (.mgtClearOverrun true) s = .next u ∧ u.window = { s.window with length := 0, overrun := false } ∧
      Keeps [.ins, .window, .outs] s u) ∧
    (∀ v : BitVec 32,
      (∃ u : State, Sys2Proof.Machine.exec (.mgtRegisterWrite 0x08 (some v) true) s = .next u ∧
        u.window = { s.window with slot := BitVec.ofNat 6 (v.toNat / 16) } ∧ Keeps [.ins, .window, .outs] s u) ∧
      (∀ i : Nat, i < 3 → ∃ u : State, Sys2Proof.Machine.exec (.mgtRegisterWrite (BitVec.ofNat 8 (0x0C + 4 * i)) (some v) true) s = .next u ∧
        u.window = (if s.window.busy then s.window else { s.window with
          request := overwrite s.window.request (16 * s.window.slot.toNat + 4 * i) (leBytes 4 v.toNat) }) ∧
        Keeps [.ins, .window, .outs] s u)) ∧
    (let read (o : BitVec 8) (x : Nat) : Prop :=
       Sys2Proof.Machine.exec (.mgtRegisterWrite o none true) s = .next ((s.returnCredit .mgtRq).emit .mgtRs (leBytes 4 x))
     read 0x00 s.window.length.toNat ∧ read 0x04 s.mgtStat.toNat ∧ read 0x08 (16 * s.window.slot.toNat) ∧
     ∀ i : Nat, i < 3 → read (BitVec.ofNat 8 (0x0C + 4 * i)) (field s.window.response (16 * s.window.slot.toNat + 4 * i) 4))

/-- Out of reset with a request latched. READ answers NO_OBJECT for an index that is none, NO_SUB for a sub-index that
is none, ACCESS for a write-only one, ROLE without the right to read it, and else OK with its value, after the read's
own effect. WRITE outside its states answers STATE, in Whiteout WHITEOUT; with no object NO_OBJECT; DESCRIBE answers
with the entries from the sub-index named. A response leaves the window ready and no request latched. -/
def Obligations.ObjectAccessesAnswerInOrder : Prop :=
  ∀ s : State, s.startup ≠ .reset → s.window.latched = true →
    (s.req.op = 0x01 →
      (s.startup = .whiteout → whiteoutRead s.reqRole s.req.index = false → Sys2Proof.Machine.exec .read s = .next (s.respond .whiteout [])) ∧
      (s.startup ≠ .whiteout → s.object s.req.index = none → Sys2Proof.Machine.exec .read s = .next (s.respond .noObject [])) ∧
      (∀ l, s.startup ≠ .whiteout → s.object s.req.index = some l →
        (l[s.req.sub]? = none → Sys2Proof.Machine.exec .read s = .next (s.respond .noSub [])) ∧
        (∀ o, l[s.req.sub]? = some o →
          (o.acc = .wo → Sys2Proof.Machine.exec .read s = .next (s.respond .access [])) ∧
          (o.acc ≠ .wo → readRole s.reqRole s.req.index s.req.sub = false → Sys2Proof.Machine.exec .read s = .next (s.respond .role [])) ∧
          (o.acc ≠ .wo → readRole s.reqRole s.req.index s.req.sub = true →
            Sys2Proof.Machine.exec .read s = .next ((s.readEffect s.req.index s.req.sub).respond .ok (o.value ())))))) ∧
    (s.req.op = 0x02 →
      (s.startup = .whiteout → Sys2Proof.Machine.exec .write s = .next (s.respond .whiteout [])) ∧
      (s.startup = .selftest ∨ s.startup = .image → Sys2Proof.Machine.exec .write s = .next (s.respond .state [])) ∧
      (s.startup = .ready ∨ s.startup = .run → s.object s.req.index = none → Sys2Proof.Machine.exec .write s = .next (s.respond .noObject []))) ∧
    (s.req.op = 0x03 → s.startup ≠ .whiteout → s.advancing = false →
      (s.object s.req.index = none → Sys2Proof.Machine.exec .describe s = .next (s.respond .noObject [])) ∧
      (∀ l, s.object s.req.index = some l → s.req.sub < l.length → s.reqRole ≠ none →
        Sys2Proof.Machine.exec .describe s = .next (s.respond .ok (((l.drop s.req.sub).take 240).flatMap Obj.described)))) ∧
    (∀ (st : MStatus) (p : Bytes), let u := s.respond st p
      u.window.ready = true ∧ u.window.busy = false ∧ u.window.latched = false ∧ Keeps [.window] s u)

/-- In READY or RUN with a WRITE latched to an object that may be written, by an Operator session and of the object's
length, with its idle rule met: where the object's own rules refuse the value the response is REFUSED and nothing else
changes; else its effect takes place, and the response is OK, at once for every object but a partition's whose opening
or closing waits for its checkpoint. -/
def Obligations.WriteTakesEffectAndAnswers : Prop :=
  ∀ (s : State) (l : List Obj) (o : Obj), s.startup = .ready ∨ s.startup = .run → s.window.latched = true → s.req.op = 0x02 →
    s.object s.req.index = some l → l[s.req.sub]? = some o → o.acc = .rw ∨ o.acc = .rwIdle → s.reqRole = some .operator →
    s.req.payload.length = o.size →
    (o.acc = .rwIdle → s.writeIdle s.req.index s.req.sub (leNat s.req.payload) = false →
      Sys2Proof.Machine.exec .write s = .next (s.respond .notIdle [])) ∧
    ((o.acc = .rwIdle → s.writeIdle s.req.index s.req.sub (leNat s.req.payload) = true) →
      (s.writeObject s.req.index s.req.sub (leNat s.req.payload) = none → Sys2Proof.Machine.exec .write s = .next (s.respond .refused [])) ∧
      (∀ m, s.writeObject s.req.index s.req.sub (leNat s.req.payload) = some m →
        (s.req.index < 0x3000 ∨ 0x3040 ≤ s.req.index ∨ (m.part (s.req.index % 64)).waiting = .nothing →
          Sys2Proof.Machine.exec .write s = .next (m.followParts.respond .ok [])) ∧
        (0x3000 ≤ s.req.index ∧ s.req.index < 0x3040 → (m.part (s.req.index % 64)).waiting ≠ .nothing →
          ∃ u : State, Sys2Proof.Machine.exec .write s = .next u ∧ u.window.deferred = some (.ckpt (s.req.index % 64)) ∧ u.window.latched = false ∧
            u.window.ready = m.window.ready ∧ Keeps [.window, .startup] m u)))

/-- Out of reset with a request latched, the release of a READ, WRITE or DESCRIBE does what its own row does; that of
a SEED_IMPORT makes its idle test, once, and changes nothing else; that of another operation changes nothing, as does
a release with nothing latched. -/
def Obligations.AccessReleaseActsOnTheLatchedAccess : Prop :=
  ∀ s : State, s.startup ≠ .reset →
    (s.window.latched = false → Sys2Proof.Machine.exec .dictionaryAccessRelease s = .next s) ∧
    (s.window.latched = true →
      (s.req.op = 0x01 → ∃ u : State, Sys2Proof.Machine.exec .dictionaryAccessRelease s = .next u ∧ Sys2Proof.Machine.exec .read s = .next u) ∧
      (s.req.op = 0x02 → ∃ u : State, Sys2Proof.Machine.exec .dictionaryAccessRelease s = .next u ∧ Sys2Proof.Machine.exec .write s = .next u) ∧
      (s.req.op = 0x03 → ∃ u : State, Sys2Proof.Machine.exec .dictionaryAccessRelease s = .next u ∧ Sys2Proof.Machine.exec .describe s = .next u) ∧
      (s.req.op = 0x14 →
        (s.window.admitted = true ∨ s.window.refused = true → Sys2Proof.Machine.exec .dictionaryAccessRelease s = .next s) ∧
        (s.window.admitted = false → s.window.refused = false →
          let idle := s.partIdle (field s.req.payload 0 1)
          Sys2Proof.Machine.exec .dictionaryAccessRelease s =
            .next { s with window := { s.window with admitted := idle, refused := !idle } })) ∧
      (s.req.op ∉ [0x01, 0x02, 0x03, 0x14] → Sys2Proof.Machine.exec .dictionaryAccessRelease s = .next s))

/-- In IMAGE with a download operation latched whose access is allowed: DOWNLOAD_BEGIN opens a download of its intake
and total; DOWNLOAD_DATA that continues exactly where the download ends adds its bytes, and any other abandons it with
SEQUENCE; DOWNLOAD_END with a payload is answered LENGTH; one of a whole download checks the signature and the image,
and leaves no download open: a bad signature changes only its counter, and an image that its own rules refuse changes
nothing else. -/
def Obligations.DownloadsRunInOrder : Prop :=
  ∀ s : State, s.startup = .image → s.window.latched = true → s.intakeStatus = none →
    (s.req.op = 0x04 → Sys2Proof.Machine.exec .downloadBegin s =
      .next (({ s with download := some ⟨s.req.sub, s.req.offset, []⟩ }).respond .ok [])) ∧
    (s.req.op = 0x05 →
      (s.download = none → Sys2Proof.Machine.exec .downloadData s = .next (({ s with download := none }).respond .sequence [])) ∧
      (∀ d : Download, s.download = some d →
        (d.intake = s.req.sub ∧ s.req.offset = d.data.length ∧ d.data.length + s.req.payload.length ≤ d.total →
          Sys2Proof.Machine.exec .downloadData s =
            .next (({ s with download := some ⟨d.intake, d.total, d.data ++ s.req.payload⟩ }).respond .ok [])) ∧
        (¬(d.intake = s.req.sub ∧ s.req.offset = d.data.length ∧ d.data.length + s.req.payload.length ≤ d.total) →
          Sys2Proof.Machine.exec .downloadData s = .next (({ s with download := none }).respond .sequence [])))) ∧
    (s.req.op = 0x06 → s.req.payload ≠ [] → Sys2Proof.Machine.exec .downloadEnd s = .next (s.respond .length [])) ∧
    (s.req.op = 0x06 → s.req.payload = [] → s.download = none →
      Sys2Proof.Machine.exec .downloadEnd s = .next (({ s with download := none }).respond .sequence [])) ∧
    (s.req.op = 0x06 → s.req.payload = [] → ∀ d : Download, s.download = some d →
      (d.intake ≠ s.req.sub ∨ d.data.length ≠ d.total →
        Sys2Proof.Machine.exec .downloadEnd s = .next (({ s with download := none }).respond .sequence [])) ∧
      (d.intake = s.req.sub → d.data.length = d.total →
        ∃ u : State, Sys2Proof.Machine.exec .downloadEnd s = .next u ∧ u.download = none ∧ u.window.ready = true ∧
          (128 ≤ d.total → s.signatureOk d.intake (d.data.take (d.total - 128)) (d.data.drop (d.total - 128)) = true →
            ∀ m, ({ s with download := none } : State).loadImage d.intake (d.data.take (d.total - 128)) = some m →
              u = m.respond .ok []) ∧
          (d.total < 128 ∨ s.signatureOk d.intake (d.data.take (d.total - 128)) (d.data.drop (d.total - 128)) = false →
            u.counter .imageRefusals = s.counter .imageRefusals + 1 ∧ Keeps [.window, .download, .counters] s u) ∧
          (128 ≤ d.total → s.signatureOk d.intake (d.data.take (d.total - 128)) (d.data.drop (d.total - 128)) = true →
            ({ s with download := none } : State).loadImage d.intake (d.data.take (d.total - 128)) = none →
            Keeps [.window, .download] s u)))

/-- The digest input is one record per class B sub-index, in ascending order of index and sub-index: the index as U16,
the sub-index as U8, the size as U8, and the value's bytes. After reset, after every RST_N and after every command
that begins with it so, the digest object holds SHA-384 over it. -/
def Obligations.ProfileDigestIsOfTheProfile : Prop :=
  (∀ p : Profile, p.input =
    leBytes 2 0x2000 ++ [0, 4] ++ leBytes 4 p.vocab.toNat ++ leBytes 2 0x2001 ++ [1, 1] ++ leBytes 1 p.accumulation.toNat ++
    leBytes 2 0x2001 ++ [2, 1] ++ leBytes 1 p.fp32Passes.toNat ++ leBytes 2 0x2002 ++ [0, 1] ++ leBytes 1 p.compatSlices.toNat ++
    leBytes 2 0x2003 ++ [0, 1] ++ leBytes 1 p.tableGen.toNat ++ leBytes 2 0x2010 ++ [0, 4] ++ leBytes 4 p.corniceMargin.toNat ++
    leBytes 2 0x2011 ++ [0, 1] ++ leBytes 1 p.filterOrder.toNat ++ leBytes 2 0x2020 ++ [0, 2] ++ leBytes 2 p.dwChunk.toNat ++
    leBytes 2 0x2030 ++ [0, 1] ++ leBytes 1 p.srCap.toNat ++ leBytes 2 0x2031 ++ [1, 1] ++ leBytes 1 p.gumbelSrc.toNat ++
    leBytes 2 0x2031 ++ [2, 1] ++ leBytes 1 p.srSrc.toNat ++ leBytes 2 0x2031 ++ [3, 1] ++ leBytes 1 p.fillSrc.toNat ++
    leBytes 2 0x2040 ++ [0, 1] ++ leBytes 1 p.normalMethod.toNat) ∧
  State.reset.profileDigest = sha384 State.reset.profile.input ∧
  (∀ (i : Instr) (s t : State), s.profileDigest = sha384 s.profile.input → Sys2Proof.Machine.exec i s = .next t →
    t.profileDigest = sha384 t.profile.input)

/-- With the Vault serving and the role keys enrolled, OPEN_CHALLENGE of a role below its limits adds a pending
session of the next id and answers with id and challenge. OPEN_PROVE of a pending session with the right MAC and proof
opens it with counter 1; a wrong one discards it, counts in 0x7019.02 and against the role; one of an open session, or
of none, is answered ROLE. CLOSE ends its session, and so do the idle limit of an open session and the limit of a
pending one; every other session stands. -/
def Obligations.SessionsOpenAndClose : Prop :=
  ∀ s : State, s.startup ≠ .reset →
    (s.window.latched = true → s.req.op = 0x10 → s.vaultOpen = true → s.vault.enrolled = true → s.advancing = false →
      s.req.session = 0 → ∀ role : Role, s.req.payload = [BitVec.ofNat 8 role.code, 0, 0, 0] →
      vget s.vault.failedProofs role.idx < 16 → s.vault.sessions.length < 4 → s.vault.nextSession ≠ 0 →
      ∃ (u : State) (x : Session), Sys2Proof.Machine.exec .openChallenge s = .next u ∧ u.vault.sessions = s.vault.sessions ++ [x] ∧
        x.id = s.vault.nextSession ∧ x.role = role ∧ x.opened = false ∧ u.vault.nextSession = s.vault.nextSession + 1 ∧
        x.key = sessionKey (vget s.vault.keys role.idx) x.id x.challenge ∧ Keeps [.vault, .window] s u) ∧
    (∀ x : Session, s.window.latched = true → s.req.op = 0x11 → s.session s.req.session = some x →
      (x.opened = true → s.advancing = false → Sys2Proof.Machine.exec .openProve s = .next (s.respond .role [])) ∧
      (x.opened = false → s.macOk s.window.frame = true → s.advancing = false →
        s.req.payload = openProof (vget s.vault.keys x.role.idx) x.role x.id x.challenge → s.req.payload.length = 48 →
        ∃ u : State, Sys2Proof.Machine.exec .openProve s = .next u ∧ u.vault.sessions = s.vault.sessions.map (fun y =>
            if y.id = x.id then { y with opened := true, counter := 1 } else y) ∧
          u.counter .sessionsOpened = s.counter .sessionsOpened + 1 ∧ Keeps [.vault, .window, .counters] s u) ∧
      (x.opened = false → s.macOk s.window.frame = false →
        ∃ u : State, Sys2Proof.Machine.exec .openProve s = .next u ∧ u.vault.sessions = s.vault.sessions.filter (fun y => y.id.toNat != x.id.toNat) ∧
          vget u.vault.failedProofs x.role.idx = vget s.vault.failedProofs x.role.idx + 1 ∧
          u.counter .authFailures = s.counter .authFailures + 1 ∧ Keeps [.vault, .window, .counters] s u)) ∧
    (s.window.latched = true → s.req.op = 0x11 → s.session s.req.session = none → s.req.session = 0 → s.advancing = false →
      Sys2Proof.Machine.exec .openProve s = .next (s.respond .role [])) ∧
    (∀ x : Session, s.window.latched = true → s.req.op = 0x12 → s.vaultOpen = true → s.advancing = false →
      s.session s.req.session = some x → s.req.payload = [] →
      ∃ u : State, Sys2Proof.Machine.exec .close s = .next u ∧ u.vault = { s.vault with
        sessions := s.vault.sessions.filter (fun y => y.id.toNat != s.req.session) } ∧ Keeps [.vault, .window] s u) ∧
    (∀ (n : BitVec 32) (x : Session), s.session n.toNat = some x →
      let u : State := { s with vault := { s.vault with
        sessions := s.vault.sessions.filter (fun y => y.id.toNat != x.id.toNat) } }
      Sys2Proof.Machine.exec (.sessionIdleTimeout n) s = .next (if x.opened then u else s) ∧
      Sys2Proof.Machine.exec (.pendingSessionTimeout n) s = .next (if x.opened then s else u)) ∧
    (∀ n : BitVec 32, s.session n.toNat = none →
      Sys2Proof.Machine.exec (.sessionIdleTimeout n) s = .next s ∧ Sys2Proof.Machine.exec (.pendingSessionTimeout n) s = .next s)

/-- In SELFTEST with no role keys and the Vault not zeroised, ENROL of three distinct non-zero keys sets them, and
after the self-tests have passed goes on to IMAGE. VERIFY_KEY by an Officer of a valid public key in a slot of 0 to 3
sets that slot alone. AUDIT_KEY by any session out of SELFTEST answers with the audit public key and its id, or zeros
where there is no pair (log 74), and changes nothing else. -/
def Obligations.EnrolmentAndKeysAreSet : Prop :=
  ∀ s : State, s.window.latched = true → s.advancing = false →
    (s.req.op = 0x13 → s.startup = .selftest → s.vault.enrolled = false → s.vault.state ≠ .zeroised → s.req.session = 0 →
      ∀ a b c : Bytes, a.length = 48 → b.length = 48 → c.length = 48 → s.req.payload = a ++ b ++ c →
      allZero a = false → allZero b = false → allZero c = false → a ≠ b → a ≠ c → b ≠ c →
      ∃ u : State, Sys2Proof.Machine.exec .enrol s = .next u ∧ u.vault.keys = #v[a, b, c] ∧ u.vault.enrolled = true ∧
        u.vault.seedWrap = seedWrapKey b ∧
        (s.testsDone = true → u.startup = .image ∧ u.vault.state = .operational) ∧
        (s.testsDone = false → u.startup = .selftest ∧ u.vault.state = s.vault.state) ∧
        Keeps [.vault, .window, .startup] s u) ∧
    (s.req.op = 0x16 → s.startup = .image → s.reqRole = some .officer → s.req.payload.length = 101 →
      byteAt s.req.payload 0 < 4 → zeroAt s.req.payload 1 4 = true → pubValid (slice s.req.payload 4 97) = true →
      ∃ u : State, Sys2Proof.Machine.exec .verifyKey s = .next u ∧ vget u.vault.verifyKeys (byteAt s.req.payload 0) = slice s.req.payload 4 97 ∧
        (∀ n : Nat, n ≠ byteAt s.req.payload 0 → vget u.vault.verifyKeys n = vget s.vault.verifyKeys n) ∧
        Keeps [.vault, .window] s u) ∧
    (s.req.op = 0x15 → s.startup ≠ .reset → s.startup ≠ .selftest → s.reqRole ≠ none → s.req.payload = [] →
      ∃ u : State, Sys2Proof.Machine.exec .auditKey s = .next u ∧ Keeps [.window] s u ∧
        (s.vault.auditPub ≠ [] → u = s.respond .ok (s.vault.auditPub ++ keyId s.vault.auditPub)) ∧
        (s.vault.auditPub = [] → u = s.respond .ok (List.replicate 97 0 ++ List.replicate 16 0)))

/-- In PROFILE, READY or RUN, an Operator's SEED_IMPORT of 68 bytes: refused with NOT_IDLE where the partition was not
idle at its release; refused and counted where the seed does not unwrap; of an idle partition the seed, its epoch and
the derived Flurry key take effect together; of one that has received a ticket since, the seed is held, and
SEED_KEY_DEFERRED_WRITE gives it its effect once the partition is idle, and changes nothing before or with no seed
held. -/
def Obligations.SeedsTakeEffectWhenIdle : Prop :=
  ∀ s : State,
    (s.window.latched = true → s.req.op = 0x14 → s.startup = .profile ∨ s.startup = .ready ∨ s.startup = .run →
      s.advancing = false → s.reqRole = some .operator → s.req.payload.length = 68 →
      let p := field s.req.payload 0 1
      let wasIdle := s.window.admitted = true ∨ (s.window.refused = false ∧ s.partIdle p = true)
      (¬wasIdle → Sys2Proof.Machine.exec .seedImport s = .next (s.respond .notIdle [])) ∧
      (wasIdle →
        (s.unwrapSeed s.req.payload = none →
          Sys2Proof.Machine.exec .seedImport s = .next ((s.bump .seedImportFailures 1).respond .refused [])) ∧
        (∀ sd, s.unwrapSeed s.req.payload = some sd → p < 64 →
          ∃ u : State, Sys2Proof.Machine.exec .seedImport s = .next u ∧ u.counter .seedImports = s.counter .seedImports + 1 ∧
            (∀ n : Nat, n ≠ p → u.part n = s.part n) ∧ Keeps [.parts, .window, .counters] s u ∧
            (s.partIdle p = true →
              u.part p = { s.part p with seed := some sd, key := partitionKey p sd, held := none } ∧ u.window.ready = true) ∧
            (s.partIdle p = false → u.part p = { s.part p with held := some sd } ∧
              u.window.deferred = some (.seed p) ∧ u.window.latched = false)))) ∧
    (∀ p : Nat, s.startup ≠ .reset → (s.part p).held = none ∨ s.partIdle p = false →
      Sys2Proof.Machine.exec (.seedKeyDeferredWrite p) s = .next s) ∧
    (∀ (p : Nat) (sd : Seed), s.startup ≠ .reset → p < 64 → (s.part p).held = some sd → s.partIdle p = true →
      ∃ u : State, Sys2Proof.Machine.exec (.seedKeyDeferredWrite p) s = .next u ∧
        u.part p = { s.part p with seed := some sd, key := partitionKey p sd, held := none } ∧
        (∀ n : Nat, n ≠ p → u.part n = s.part n) ∧
        (s.window.deferred = some (.seed p) → u.window.ready = true ∧ u.window.deferred = none) ∧
        Keeps [.parts, .window] s u)

/-- Out of reset, the zeroise input, a tamper input held for two cycles or more, and an Officer's ZEROISE lead to a
state in which no ticket, session or download is left, every partition is halted with no seed, key or chain value, the
role keys, the seed-wrap key, the DRBG state, the Sleet seed key, the audit keys and the verification keys are
cleared, and the Vault is zeroised and not enrolled. A tamper input held for less does nothing but record its level.
-/
def Obligations.ZeroisationClearsTheVault : Prop :=
  ∀ s : State,
    let cleared (u : State) : Prop := u.tickets = [] ∧ u.ckpts = [] ∧ u.download = none ∧
      (∀ n : Nat, n < 64 → (u.part n).state = .halted ∧ (u.part n).seed = none ∧ (u.part n).held = none ∧
        (u.part n).key = (0, 0) ∧ (u.part n).chain = List.replicate 48 0) ∧
      u.vault.state = .zeroised ∧ u.vault.enrolled = false ∧ u.vault.keys = Vector.replicate 3 (List.replicate 48 0) ∧
      u.vault.sessions = [] ∧ u.vault.seedWrap = List.replicate 32 0 ∧ u.vault.drbg = none ∧ u.vault.pool = [] ∧
      u.vault.sleetKey = List.replicate 16 0 ∧ u.vault.auditPriv = 0 ∧ u.vault.auditPub = [] ∧ u.vault.verifyKeys = Vector.replicate 4 []
    (s.startup ≠ .reset →
      (∃ u : State, Sys2Proof.Machine.exec .zeroiseInput s = .next u ∧ cleared u ∧ u.zeroisePin = true) ∧
      (∀ n : Nat, 2 ≤ n → ∃ u : State, Sys2Proof.Machine.exec (.tamperInput n) s = .next u ∧ cleared u ∧ u.tamperPin = true) ∧
      (s.startup ≠ .whiteout → s.vault.drbg ≠ none → s.advancing = false → s.window.latched = true → s.req.op = 0x17 →
        s.reqRole = some .officer → s.req.payload = [] → ∃ u : State, Sys2Proof.Machine.exec .zeroise s = .next u ∧ cleared u)) ∧
    (∀ n : Nat, n < 2 → Sys2Proof.Machine.exec (.tamperInput n) s = .next { s with tamperPin := false }) ∧
    (s.startup = .reset → Sys2Proof.Machine.exec .zeroiseInput s = .next { s with zeroisePin := true })

/-- Out of reset every sample gives its credit back and is tested. Out of Whiteout one that fails a continuous test
enters Whiteout under cause 0x04, as one that repeats the last for the sixth time does, with bit 8 of the failed-test
map set among the first 1,024; one of the first 1,024 is only tested, as is one in Whiteout or of a zeroised Vault;
any other is credited. An Officer's SELFTEST in READY or RUN with no ticket held answers with the failed-test map; a
non-zero map enters Whiteout. -/
def Obligations.EntropyIsTestedThenCredited : Prop :=
  ∀ s : State, s.startup ≠ .reset →
    (s.rstAsserted = false → ∀ x : Byte,
      let t := s.vault.tests.take x
      let u0 : State := { s.returnCredit .vltEnt with vault := { s.vault with tests := t } }
      (s.startup = .whiteout → Sys2Proof.Machine.exec (.entropySample x true) s = .next u0) ∧
      (s.startup ≠ .whiteout →
        (t.repFailed = true ∨ t.propFailed = true →
          ∃ u : State, Sys2Proof.Machine.exec (.entropySample x true) s = .next u ∧ u.startup = .whiteout ∧ u.whiteoutCause = 4 ∧
            u.vault.state = .failed ∧ u.vault.drbg = none ∧
            u.vault.failures = s.vault.failures ||| (if s.vault.tests.samples < 1024 then 0x100 else 0)) ∧
        (t.repFailed = false → t.propFailed = false → s.vault.tests.samples < 1024 ∨ s.vault.state = .zeroised →
          Sys2Proof.Machine.exec (.entropySample x true) s = .next u0) ∧
        (t.repFailed = false → t.propFailed = false → 1024 ≤ s.vault.tests.samples → s.vault.state ≠ .zeroised →
          Sys2Proof.Machine.exec (.entropySample x true) s = .next (u0.credit x))) ∧
      (s.vault.tests.repFailed = true ∨ (s.vault.tests.samples ≠ 0 ∧ s.vault.tests.last = x ∧ 5 ≤ s.vault.tests.run) →
        t.repFailed = true)) ∧
    (s.startup = .ready ∨ s.startup = .run → s.window.latched = true → s.req.op = 0x18 → s.reqRole = some .officer →
      s.req.payload = [] → s.advancing = false → ∀ m : BitVec 32,
      (s.tickets ≠ [] → Sys2Proof.Machine.exec (.selftest m) s = .next (s.respond .notIdle [])) ∧
      (s.tickets = [] → m &&& 0x5FF = 0 → ∃ u : State, Sys2Proof.Machine.exec (.selftest m) s = .next u ∧ u.vault.failures = 0 ∧
        u.window.ready = true ∧ Keeps [.vault, .window] s u) ∧
      (s.tickets = [] → m &&& 0x5FF ≠ 0 → ∃ u : State, Sys2Proof.Machine.exec (.selftest m) s = .next u ∧ u.startup = .whiteout ∧
        u.vault.failures = m &&& 0x5FF))

/-- RST_N in any state: no ticket, so no figure and no result, no session, no download, and every link unused; nothing
is written to host memory or sent on any sub-channel, and every value of R424 is cleared. The levels of the pins, host
memory, the waiting commands and the count of free values are outside the block and stay. -/
def Obligations.ResetEndsEverything : Prop :=
  ∀ s : State, ∃ u : State, Sys2Proof.Machine.exec .rstNAssert s = .next u ∧
    u.startup = .reset ∧ u.rstAsserted = true ∧ u.tickets = [] ∧ u.ckpts = [] ∧ u.vault.sessions = [] ∧ u.download = none ∧
    (∀ p : Fin 4, (u.port p).state = .unused ∧ (u.port p).unacked = [] ∧ (u.port p).backlog = [] ∧ (u.port p).rxq = []) ∧
    u.mem = s.mem ∧ u.writes = [] ∧ (∀ i : Fin 17, (u.outs[i]).sent = [] ∧ (u.outs[i]).queue = []) ∧
    u.vault = Vault.reset ∧ (∀ n : Nat, u.part n = Partition.reset) ∧
    (∀ n : Nat, n < 4 → (u.sliceOf n).sleet = List.replicate 607 0) ∧
    (∀ i : Nat, vget u.counters i = 0) ∧ u.grade = s.grade ∧ u.stepping = s.stepping ∧ u.pending = s.pending ∧
    u.free = s.free ∧ u.zeroisePin = s.zeroisePin ∧ u.tamperPin = s.tamperPin

/-- While the start-up state is RESET and RST_N is asserted, every row but RST_N, its release, SELFTEST_ENTRY,
SELFTEST_COMPLETE, the zeroise and tamper pins and the test wrapper answers the state it found. Once RST_N is released
such a row changes only the credits that a receiver returns, and a credit that arrives sends what waits; in test mode
the window is served besides, and every latched request, with its release, is answered STATE. -/
def Obligations.ResetHoldsEverythingBack : Prop :=
  ∀ (i : Instr) (s : State), s.startup = .reset → resetRow i = false →
    let testing := (s.released && s.testMode) = true
    (s.rstAsserted = true → ¬testing → Sys2Proof.Machine.exec i s = .next s) ∧
    (¬testing ∨ (windowRow i = false ∧ serviceRow i = none ∧ i ≠ .dictionaryAccessRelease) →
      ∃ u : State, Sys2Proof.Machine.exec i s = .next u ∧ Keeps [.ins, .outs] s u ∧
        ((∀ sub, i ≠ .subChannelCredit sub) → Keeps [.ins] s u)) ∧
    (testing → s.window.latched = true → serviceRow i = some s.req.op ∨ i = .dictionaryAccessRelease →
      Sys2Proof.Machine.exec i s = .next (s.respond .state []))

/-- RST_N's release samples TST_MODE and the inputs, and the receivers offer their entries; SELFTEST is entered after
it unless in test mode, and begins zeroisation with an input asserted; tests wait for CTR_DRBG, and with an active
tile go on to IMAGE where ENROL is accepted, and a failure enters Whiteout under cause 0x03 or 0x04; MGT_ADVANCE goes
from IMAGE to PROFILE and, with the Vault operational, towards READY; READY_ENTRY seeds Sleet and enters READY with an
active tile, or Whiteout under cause 0x02. -/
def Obligations.StartUpRunsInOrder : Prop :=
  ∀ s : State,
    (∀ a b c : Bool, s.startup = .reset → s.rstAsserted = true → Sys2Proof.Machine.exec (.resetRelease a b c) s = .next { s with
      rstAsserted := false, released := true, testMode := a, zeroisePin := b, tamperPin := c,
      ins := Vector.ofFn (fun i => ⟨true, inEntries.getD i.val 0⟩) }) ∧
    (s.startup = .reset → s.released = true → s.testMode = false →
      (s.zeroisePin = false → s.tamperPin = false → Sys2Proof.Machine.exec .selftestEntry s = .next { s with startup := .selftest }) ∧
      (s.zeroisePin = true ∨ s.tamperPin = true →
        ∃ u : State, Sys2Proof.Machine.exec .selftestEntry s = .next u ∧ u.startup = .selftest ∧ u.vault.state = .zeroised)) ∧
    (∀ r : TestReport, s.startup = .selftest → s.testsDone = false →
      (r.failed = true → ∃ u : State, Sys2Proof.Machine.exec (.selftestComplete r) s = .next u ∧ u.startup = .whiteout ∧ u.whiteoutCause = 3) ∧
      (r.failed = false → r.vaultMap &&& 0x7FF ≠ 0 →
        ∃ u : State, Sys2Proof.Machine.exec (.selftestComplete r) s = .next u ∧ u.startup = .whiteout ∧ u.whiteoutCause = 4 ∧ u.vault.state = .failed) ∧
      (r.failed = false → r.vaultMap &&& 0x7FF = 0 → s.vault.state = .selfTesting → s.vault.drbg = none →
        Sys2Proof.Machine.exec (.selftestComplete r) s = .next s) ∧
      (r.failed = false → r.vaultMap &&& 0x7FF = 0 → s.vault.state ≠ .zeroised → s.vault.drbg ≠ none →
        (s.takeReport r).activeTiles ≠ [] →
        ∃ u : State, Sys2Proof.Machine.exec (.selftestComplete r) s = .next u ∧ u.testsDone = true ∧
          u.startup = (if s.vault.enrolled then .image else .selftest) ∧
          u.vault.state = (if s.vault.enrolled then .operational else .awaitingEnrol))) ∧
    (s.startup = .image → Sys2Proof.Machine.exec .mgtAdvance s = .next { s with startup := .profile, download := none }) ∧
    (s.startup = .profile → Sys2Proof.Machine.exec .mgtAdvance s = .next (if s.vault.state = .operational then { s with advancing := true } else s)) ∧
    (s.startup = .profile → s.advancing = true → s.vault.state = .operational →
      let m : State := { s with tiles := s.tiles.map (fun t => { t with force := t.pinned }) }
      (m.activeTiles ≠ [] → ∃ u : State, Sys2Proof.Machine.exec .readyEntry s = .next u ∧ u.startup = .ready ∧ u.advancing = false ∧
        u.sleetRunning = true ∧ u.seedings = s.seedings + 1 ∧ u.linksBegun = true ∧ u.tiles = m.tiles) ∧
      (m.activeTiles = [] → ∃ u : State, Sys2Proof.Machine.exec .readyEntry s = .next u ∧ u.startup = .whiteout ∧ u.whiteoutCause = 2))

/-- Temperatures, supplies and clock monitors answer in every state, and the other instruments only in test mode; a
reading is a free value (log 4), and an instrument that is not available changes nothing. -/
def Obligations.InstrumentsReadFreeValues : Prop :=
  ∀ (s : State) (i : Sys2Proof.Instrument),
    let open' := match i with
      | .temperature _ => true | .supply _ => true | .clockMonitor _ => true
      | _ => s.startup == .reset && s.released && s.testMode
    (open' = true → Sys2Proof.Machine.exec (.testWrapperAccess i) s = .next { s with testReading := Config.freeBits s.free, free := s.free + 1 }) ∧
    (open' = false → Sys2Proof.Machine.exec (.testWrapperAccess i) s = .next s)
end

