-- ==== Sys2Proof/Laws/Memory.lean ====
section
/-! SUPPORT. The laws of memory: every operation keeps the canonical form (log 3), what a byte reads as after a store, and
what a load gives. -/
set_option Elab.async false
namespace Sys2Proof.Machine

/-- The canonical form in terms of members and order. -/
theorem Memory.wf_iff (m : Memory) :
    m.wf = true ↔ (∀ c ∈ m, c.2 ≠ 0) ∧ m.Pairwise (fun a b => a.1 < b.1) := by
  induction m with
  | nil => simp [Memory.wf]
  | cons c m ih =>
    obtain ⟨k, b⟩ := c
    cases m with
    | nil => simp [Memory.wf]
    | cons d m =>
      obtain ⟨k', b'⟩ := d
      simp only [Memory.wf, Bool.and_eq_true, bne_iff_ne, ne_eq, decide_eq_true_eq, ih, List.mem_cons, forall_eq_or_imp,
        List.pairwise_cons]
      constructor
      · rintro ⟨⟨hb, hk⟩, ⟨hb', hm⟩, hlt, hp⟩
        exact ⟨⟨hb, hb', hm⟩, ⟨hk, fun a ha => Nat.lt_trans hk (hlt a ha)⟩, hlt, hp⟩
      · rintro ⟨⟨hb, hb', hm⟩, ⟨hk, _⟩, hlt, hp⟩
        exact ⟨⟨hb, hk⟩, ⟨hb', hm⟩, hlt, hp⟩

/-- The cells of a byte string lie inside it and hold no zero. -/
theorem Memory.cells_mem {a : Nat} {bs : Bytes} {c : Host.Cell} (h : c ∈ Memory.cells a bs) :
    a ≤ c.1 ∧ c.1 < a + bs.length ∧ c.2 ≠ 0 := by
  induction bs generalizing a with
  | nil => simp [Memory.cells] at h
  | cons b bs ih =>
    simp only [Memory.cells] at h
    split at h
    · have := ih h; simp only [List.length_cons]; exact ⟨by omega, by omega, this.2.2⟩
    · rcases List.mem_cons.1 h with rfl | h
      · simp_all
      · have := ih h; simp only [List.length_cons]; exact ⟨by omega, by omega, this.2.2⟩

/-- The cells of a byte string rise strictly. -/
theorem Memory.cells_pairwise (a : Nat) (bs : Bytes) : (Memory.cells a bs).Pairwise (fun x y => x.1 < y.1) := by
  induction bs generalizing a with
  | nil => simp [Memory.cells]
  | cons b bs ih =>
    simp only [Memory.cells]
    split
    · exact ih _
    · exact List.pairwise_cons.2 ⟨fun c hc => (Memory.cells_mem hc).1, ih _⟩

/-- A store keeps the canonical form. -/
theorem Memory.store_wf {m : Memory} (h : m.wf = true) (a : Nat) (bs : Bytes) : (m.store a bs).wf = true := by
  rw [Memory.wf_iff] at h ⊢
  obtain ⟨h0, hp⟩ := h
  constructor
  · intro c hc
    simp only [Memory.store, List.mem_append, List.mem_filter] at hc
    rcases hc with (hc | hc) | hc
    · exact h0 c hc.1
    · exact (Memory.cells_mem hc).2.2
    · exact h0 c hc.1
  · simp only [Memory.store, List.pairwise_append, List.mem_append, List.mem_filter, decide_eq_true_eq]
    refine ⟨⟨hp.filter _, Memory.cells_pairwise a bs, ?_⟩, hp.filter _, ?_⟩
    · rintro x ⟨_, hx⟩ y hy
      exact Nat.lt_of_lt_of_le hx (Memory.cells_mem hy).1
    · rintro x (⟨_, hx⟩ | hx) y ⟨_, hy⟩
      · omega
      · have := (Memory.cells_mem hx).2.1; omega

/-- A store through host addresses keeps the canonical form. -/
theorem Memory.storeHost_wf {m : Memory} (h : m.wf = true) (a : Nat) (bs : Bytes) : (m.storeHost a bs).wf = true := by
  simp only [Memory.storeHost]
  split
  · exact Memory.store_wf h _ _
  · exact Memory.store_wf (Memory.store_wf h _ _) _ _

/-- A memory with no cell at an address reads 0 there. -/
theorem Memory.byte_of_not_mem {m : Memory} {x : Nat} (h : ∀ c ∈ m, c.1 ≠ x) : m.byte x = 0 := by
  induction m with
  | nil => rfl
  | cons c m ih =>
    obtain ⟨k, b⟩ := c
    simp only [Memory.byte]
    rw [if_neg (h (k, b) (by simp)), ih (fun c hc => h c (by simp [hc]))]

/-- Reading through an append: the first part answers where it holds the address. -/
theorem Memory.byte_append (m n : Memory) (x : Nat) :
    Memory.byte (m ++ n) x = if ∃ c ∈ m, c.1 = x then m.byte x else n.byte x := by
  induction m with
  | nil => simp
  | cons c m ih =>
    obtain ⟨k, b⟩ := c
    simp only [List.cons_append, Memory.byte, ih]
    by_cases hk : k = x
    · simp [hk]
    · simp [hk]

/-- Reading a filtered memory at an address that the filter keeps. -/
theorem Memory.byte_filter {m : Memory} {p : Host.Cell → Bool} {x : Nat} (h : ∀ c ∈ m, c.1 = x → p c = true) :
    Memory.byte (m.filter p) x = m.byte x := by
  induction m with
  | nil => rfl
  | cons c m ih =>
    obtain ⟨k, b⟩ := c
    have ih := ih (fun c hc => h c (by simp [hc]))
    by_cases hp : p (k, b) = true
    · simp [List.filter_cons, hp, Memory.byte, ih]
    · have hk : k ≠ x := fun hk => hp (h (k, b) (by simp) hk)
      simp [hp, Memory.byte, ih, hk]

/-- Reading past a part that holds no cell at the address. -/
theorem Memory.byte_append_right {m : Memory} (n : Memory) {x : Nat} (h : ∀ c ∈ m, c.1 ≠ x) :
    Memory.byte (m ++ n) x = n.byte x := by
  rw [Memory.byte_append, if_neg (by rintro ⟨c, hc, hx⟩; exact h c hc hx)]

/-- Reading a part that nothing after it overlaps. -/
theorem Memory.byte_append_left (m : Memory) {n : Memory} {x : Nat} (h : ∀ c ∈ n, c.1 ≠ x) :
    Memory.byte (m ++ n) x = m.byte x := by
  rw [Memory.byte_append]
  split
  · rfl
  · rename_i hex
    rw [Memory.byte_of_not_mem h, Memory.byte_of_not_mem (fun c hc hx => hex ⟨c, hc, hx⟩)]

/-- A cell of a byte string is one of its bytes, at its place. -/
theorem Memory.byte_cells (a : Nat) (bs : Bytes) (x : Nat) :
    Memory.byte (Memory.cells a bs) x = if a ≤ x ∧ x < a + bs.length then bs.getD (x - a) 0 else 0 := by
  induction bs generalizing a with
  | nil => simp [Memory.cells, Memory.byte]
  | cons b bs ih =>
    have ih := ih (a + 1)
    by_cases hx : x = a
    · subst hx
      have hin : x ≤ x ∧ x < x + (b :: bs).length := ⟨Nat.le_refl _, by simp⟩
      rw [if_pos hin, Nat.sub_self, List.getD_cons_zero, Memory.cells]
      by_cases hb : b = 0
      · rw [if_pos hb, ih, if_neg (by rintro ⟨h, _⟩; omega), hb]
      · rw [if_neg hb, Memory.byte, if_pos rfl]
    · have hrest : Memory.byte (Memory.cells a (b :: bs)) x = Memory.byte (Memory.cells (a + 1) bs) x := by
        rw [Memory.cells]
        by_cases hb : b = 0
        · rw [if_pos hb]
        · rw [if_neg hb, Memory.byte, if_neg (fun h => hx h.symm)]
      rw [hrest, ih, List.length_cons]
      by_cases hin : a + 1 ≤ x ∧ x < a + 1 + bs.length
      · rw [if_pos hin, if_pos (by omega)]
        obtain ⟨d, rfl⟩ : ∃ d, x = a + (d + 1) := ⟨x - a - 1, by omega⟩
        rw [show a + (d + 1) - (a + 1) = d by omega, show a + (d + 1) - a = d + 1 by omega]
        rfl
      · rw [if_neg hin, if_neg (by omega)]

/-- What a byte reads as after a store: the byte stored there, else what it was. -/
theorem Memory.byte_store (m : Memory) (a : Nat) (bs : Bytes) (x : Nat) :
    (m.store a bs).byte x = if a ≤ x ∧ x < a + bs.length then bs.getD (x - a) 0 else m.byte x := by
  have low : ∀ c ∈ m.filter (fun c => decide (c.1 < a)), c.1 < a := fun c hc => by
    simpa using (List.mem_filter.1 hc).2
  have high : ∀ c ∈ m.filter (fun c => decide (a + bs.length ≤ c.1)), a + bs.length ≤ c.1 := fun c hc => by
    simpa using (List.mem_filter.1 hc).2
  have mid : ∀ c ∈ Memory.cells a bs, a ≤ c.1 ∧ c.1 < a + bs.length := fun c hc =>
    ⟨(Memory.cells_mem hc).1, (Memory.cells_mem hc).2.1⟩
  rw [Memory.store]
  by_cases h1 : x < a
  · rw [if_neg (by omega), Memory.byte_append_left _ (fun c hc => by have := high c hc; omega),
      Memory.byte_append_left _ (fun c hc => by have := mid c hc; omega)]
    exact Memory.byte_filter (fun c _ hc => by simp; omega)
  · by_cases h2 : x < a + bs.length
    · rw [if_pos (by omega), Memory.byte_append_left _ (fun c hc => by have := high c hc; omega),
        Memory.byte_append_right _ (fun c hc => by have := low c hc; omega), Memory.byte_cells, if_pos (by omega)]
    · rw [if_neg (by omega), Memory.byte_append_right _ (fun c hc => by
        rcases List.mem_append.1 hc with hc | hc
        · have := low c hc; omega
        · have := mid c hc; omega)]
      exact Memory.byte_filter (fun c _ hc => by simp; omega)

/-- A byte outside host bytes stored at an address that does not wrap is unchanged; inside, it is the byte stored. -/
theorem Memory.byte_storeHost (m : Memory) (a : Nat) (bs : Bytes) (x : Nat) (h : hostAddr a + bs.length ≤ pow2 52) :
    (m.storeHost a bs).byte x =
      if hostAddr a ≤ x ∧ x < hostAddr a + bs.length then bs.getD (x - hostAddr a) 0 else m.byte x := by
  have hk : min bs.length (pow2 52 - hostAddr a) = bs.length := by omega
  simp only [Memory.storeHost, hk, if_true, Memory.byte_store]

/-- Storing no bytes changes nothing that is read. -/
theorem Memory.byte_store_nil (m : Memory) (a x : Nat) : (m.store a []).byte x = m.byte x := by
  rw [Memory.byte_store, if_neg (by simp)]

/-- In canonical form, the bytes at strictly rising keys from `a`. -/
theorem Memory.walk_eq (n a : Nat) (m : Memory) (hp : m.Pairwise (fun x y => x.1 < y.1)) (hlo : ∀ c ∈ m, a ≤ c.1) :
    Memory.walk n a m = (List.range n).map (fun i => m.byte (a + i)) := by
  induction n generalizing a m with
  | zero => cases m <;> simp [Memory.walk]
  | succ n ih =>
    rw [List.range_succ_eq_map, List.map_cons, List.map_map]
    cases m with
    | nil =>
      simp only [Memory.walk, Memory.byte, List.cons.injEq, true_and]
      rw [ih _ [] List.Pairwise.nil (by simp)]
      exact List.map_congr_left fun i _ => by simp [Memory.byte]
    | cons c m =>
      obtain ⟨k, b⟩ := c
      obtain ⟨hk, hpm⟩ := List.pairwise_cons.1 hp
      simp only [Memory.walk]
      by_cases hka : k = a
      · subst hka
        rw [if_pos rfl, ih (k + 1) m hpm (fun c hc => hk c hc)]
        simp only [Memory.byte, Nat.add_zero, if_true, List.cons.injEq, true_and]
        refine List.map_congr_left fun i _ => ?_
        simp only [Function.comp]
        rw [if_neg (by omega), show k + (i + 1) = k + 1 + i by omega]
      · have hak : a < k := by
          have := hlo (k, b) (by simp); simp only at this; omega
        rw [if_neg hka, ih (a + 1) ((k, b) :: m) hp (by
          intro c hc
          rcases List.mem_cons.1 hc with rfl | hc
          · exact hak
          · have := hk c hc; simp only at this; omega)]
        have h0 : Memory.byte ((k, b) :: m) (a + 0) = 0 := by
          refine Memory.byte_of_not_mem fun c hc => ?_
          rcases List.mem_cons.1 hc with rfl | hc
          · simp only; omega
          · have := hk c hc; simp only at this; omega
        rw [h0]
        refine congrArg _ (List.map_congr_left fun i _ => ?_)
        simp only [Function.comp]
        rw [show a + (i + 1) = a + 1 + i by omega]

/-- A load gives the bytes at its addresses. -/
theorem Memory.load_eq {m : Memory} (h : m.wf = true) (a n : Nat) :
    m.load a n = (List.range n).map (fun i => m.byte (a + i)) := by
  rw [Memory.wf_iff] at h
  unfold Memory.load
  rw [Memory.walk_eq _ _ _ (h.2.filter _) (by simp only [List.mem_filter, decide_eq_true_eq]; rintro c ⟨_, h1, _⟩; exact h1)]
  refine List.map_congr_left fun i hi => Memory.byte_filter fun c _ hc => ?_
  have := List.mem_range.1 hi
  simp only [decide_eq_true_eq]; omega

end Sys2Proof.Machine
end

