-- ==== Sys2Proof/Laws/Keeps.lean ====
section
/-! SUPPORT. How "nothing changed outside the fields named" is composed, and what a single record update keeps. -/
set_option Elab.async false
namespace Sys2Proof.Machine

theorem Keeps.refl (w : List Fld) (s : State) : Keeps w s s :=
  ⟨rfl, rfl, rfl, fun _ => List.Sublist.refl _, id, id, by intro f _; cases f <;> rfl⟩

theorem Fld.same_trans {f : Fld} {s t u : State} (h : f.same s t) (k : f.same t u) : f.same s u := by
  cases f <;> exact Eq.trans k h

theorem Keeps.trans {w : List Fld} {s t u : State} (h : Keeps w s t) (k : Keeps w t u) : Keeps w s u :=
  ⟨k.pending.trans h.pending, k.grade.trans h.grade, k.stepping.trans h.stepping, fun n => (k.keys n).trans (h.keys n),
    fun m => k.mem (h.mem m), fun m => k.firn (h.firn m), fun f hf => Fld.same_trans (h.same f hf) (k.same f hf)⟩

theorem Keeps.mono {w v : List Fld} {s t : State} (h : Keeps w s t) (hw : w ⊆ v) : Keeps v s t :=
  ⟨h.pending, h.grade, h.stepping, fun n => h.keys (fun x => n (hw x)), h.mem, h.firn, fun f hf => h.same f (fun x => hf (hw x))⟩

theorem Keeps.then {w v : List Fld} {s t u : State} (h : Keeps w s t) (k : Keeps v t u)
    (hw : v ⊆ w := by decide) : Keeps w s u := h.trans (k.mono hw)

theorem Keeps.upd {v w : List Fld} {s t u : State} (h : Keeps w s t) (hw : v ⊆ w) (hp : u.pending = t.pending)
    (hg : u.grade = t.grade) (hs : u.stepping = t.stepping) (hk : u.tickets = t.tickets) (hm : u.mem = t.mem)
    (hf : u.firn = t.firn) (hx : ∀ f : Fld, f ∉ v → f.same t u) : Keeps w s u :=
  h.then ⟨hp, hg, hs, fun _ => by rw [hk], by rw [hm]; exact id, by rw [hf]; exact id, hx⟩ hw

theorem Keeps.by {w v : List Fld} {s t u : State} (k : Keeps v t u) (hw : v ⊆ w) (h : Keeps w s t) : Keeps w s u :=
  h.then k hw

theorem Keeps.foldl {w : List Fld} {s t : State} {α : Type} {f : State → α → State} {xs : List α} (h : Keeps w s t)
    (k : ∀ u x, Keeps w u (f u x)) : Keeps w s (xs.foldl f t) := by
  induction xs generalizing t with
  | nil => exact h
  | cons x xs ih => exact ih (h.trans (k t x))

/-- The answer, where it is a next state, keeps what is not named. -/
structure KeepsOut (w : List Fld) (s : State) (o : Out) : Prop where
  go : ∀ t, o = .next t → Keeps w s t

theorem KeepsOut.next {w : List Fld} {s t : State} (h : Keeps w s t) : KeepsOut w s (.next t) :=
  ⟨by intro u hu; cases hu; exact h⟩
theorem KeepsOut.fault {w : List Fld} {s : State} {r : Fault} : KeepsOut w s (.fault r) :=
  ⟨by intro u hu; cases hu⟩

theorem KeepsOut.after {w v : List Fld} {s t : State} {o : Out} (h : Keeps w s t) (k : KeepsOut v t o)
    (hw : v ⊆ w := by decide) : KeepsOut w s o := ⟨fun u hu => h.then (k.go u hu) hw⟩

/-- The state, where there is one, keeps what is not named. -/
structure KeepsOpt (w : List Fld) (s : State) (o : Option State) : Prop where
  go : ∀ t, o = some t → Keeps w s t

theorem KeepsOpt.none {w : List Fld} {s : State} : KeepsOpt w s none := ⟨by intro u hu; cases hu⟩
theorem KeepsOpt.some {w : List Fld} {s t : State} (h : Keeps w s t) : KeepsOpt w s (some t) :=
  ⟨by intro u hu; cases hu; exact h⟩
theorem KeepsOpt.map {w : List Fld} {s : State} {α : Type} {f : α → State} {o : Option α}
    (k : ∀ x, Keeps w s (f x)) : KeepsOpt w s (o.map f) := ⟨by
  intro u hu; cases o with
  | none => cases hu
  | some x => cases hu; exact k x⟩
theorem KeepsOpt.of {w : List Fld} {s t : State} {o : Option State} (h : KeepsOpt w s o) (e : o = Option.some t) :
    Keeps w s t := h.go t e
theorem KeepsOpt.after {w v : List Fld} {s t : State} {o : Option State} (h : Keeps w s t) (k : KeepsOpt v t o)
    (hw : v ⊆ w := by decide) : KeepsOpt w s o := ⟨fun u hu => h.then (k.go u hu) hw⟩

theorem Keeps.snd1 {w : List Fld} {s u : State} {α : Type} {a : α} {p : α × State} (k : Keeps w s p.2)
    (e : p = (a, u)) : Keeps w s u := by subst e; exact k
theorem Keeps.snd2 {w : List Fld} {s u : State} {α β : Type} {a : α} {b : β} {p : α × β × State}
    (k : Keeps w s p.2.2) (e : p = (a, b, u)) : Keeps w s u := by subst e; exact k
theorem Keeps.snd3 {w : List Fld} {s u : State} {α β γ : Type} {a : α} {b : β} {c : γ} {p : α × β × γ × State}
    (k : Keeps w s p.2.2.2) (e : p = (a, b, c, u)) : Keeps w s u := by subst e; exact k
theorem Keeps.fst {w : List Fld} {s u : State} {α : Type} {a : α} {p : State × α} (k : Keeps w s p.1)
    (e : p = (u, a)) : Keeps w s u := by subst e; exact k

theorem KeepsOut.by {w v : List Fld} {s t : State} {o : Out} (k : KeepsOut v t o) (hw : v ⊆ w) (h : Keeps w s t) :
    KeepsOut w s o := KeepsOut.after h k hw
theorem KeepsOpt.by {w v : List Fld} {s t : State} {o : Option State} (k : KeepsOpt v t o) (hw : v ⊆ w)
    (h : Keeps w s t) : KeepsOpt w s o := KeepsOpt.after h k hw
theorem Keeps.by_opt {w v : List Fld} {s t u : State} {o : Option State} (k : KeepsOpt v t o) (e : o = some u)
    (hw : v ⊆ w) (h : Keeps w s t) : Keeps w s u := h.then (k.go u e) hw
theorem Keeps.by_snd1 {w v : List Fld} {s t u : State} {α : Type} {a : α} {p : α × State} (k : Keeps v t p.2)
    (e : p = (a, u)) (hw : v ⊆ w) (h : Keeps w s t) : Keeps w s u := h.then (k.snd1 e) hw
theorem Keeps.by_snd2 {w v : List Fld} {s t u : State} {α β : Type} {a : α} {b : β} {p : α × β × State}
    (k : Keeps v t p.2.2) (e : p = (a, b, u)) (hw : v ⊆ w) (h : Keeps w s t) : Keeps w s u := h.then (k.snd2 e) hw
theorem Keeps.by_snd3 {w v : List Fld} {s t u : State} {α β γ : Type} {a : α} {b : β} {c : γ} {p : α × β × γ × State}
    (k : Keeps v t p.2.2.2) (e : p = (a, b, c, u)) (hw : v ⊆ w) (h : Keeps w s t) : Keeps w s u := h.then (k.snd3 e) hw
theorem Keeps.by_fst {w v : List Fld} {s t u : State} {α : Type} {a : α} {p : State × α} (k : Keeps v t p.1)
    (e : p = (u, a)) (hw : v ⊆ w) (h : Keeps w s t) : Keeps w s u := h.then (k.fst e) hw

theorem Keeps.foldl_snd {w : List Fld} {s : State} {α β : Type} {f : β × State → α → β × State} {xs : List α}
    {b : β × State} (h : Keeps w s b.2) (k : ∀ b x, Keeps w b.2 (f b x).2) : Keeps w s (xs.foldl f b).2 := by
  induction xs generalizing b with
  | nil => exact h
  | cons x xs ih => exact ih (h.trans (k b x))
theorem Keeps.foldl_snd2 {w : List Fld} {s : State} {α β γ : Type} {f : β × γ × State → α → β × γ × State} {xs : List α}
    {b : β × γ × State} (h : Keeps w s b.2.2) (k : ∀ b x, Keeps w b.2.2 (f b x).2.2) : Keeps w s (xs.foldl f b).2.2 := by
  induction xs generalizing b with
  | nil => exact h
  | cons x xs ih => exact ih (h.trans (k b x))
theorem Keeps.foldr_snd3 {w : List Fld} {s : State} {α β γ δ : Type}
    {f : α → β × γ × δ × State → β × γ × δ × State} {xs : List α} {b : β × γ × δ × State} (h : Keeps w s b.2.2.2)
    (k : ∀ x b, Keeps w b.2.2.2 (f x b).2.2.2) : Keeps w s (xs.foldr f b).2.2.2 := by
  induction xs with
  | nil => exact h
  | cons x xs ih => exact ih.trans (k x _)
theorem Keeps.foldl_st {w : List Fld} {s : State} {α : Type} {f : Rounded → α → Rounded} {xs : List α}
    {b : Rounded} (h : Keeps w s b.st) (k : ∀ b x, Keeps w b.st (f b x).st) : Keeps w s (xs.foldl f b).st := by
  induction xs generalizing b with
  | nil => exact h
  | cons x xs ih => exact ih (h.trans (k b x))

theorem Keeps.set_tickets {w : List Fld} {s t : State} {v : List Ticket} (h : Keeps w s t)
    (hv : (v.map Ticket.key).Sublist (t.tickets.map Ticket.key)) (hw : ([.tickets] : List Fld) ⊆ w := by decide) :
    Keeps w s { t with tickets := v } :=
  h.then (v := [.tickets]) ⟨rfl, rfl, rfl, fun _ => hv, id, id,
    by intro f hf; cases f <;> first | rfl | exact absurd (by decide) hf⟩ hw
theorem Keeps.set_mem {w : List Fld} {s t : State} {v : Memory} (h : Keeps w s t)
    (hv : t.mem.wf = true → v.wf = true) (hw : ([.mem] : List Fld) ⊆ w := by decide) :
    Keeps w s { t with mem := v } :=
  h.then (v := [.mem]) ⟨rfl, rfl, rfl, fun _ => List.Sublist.refl _, hv, id,
    by intro f hf; cases f <;> first | rfl | exact absurd (by decide) hf⟩ hw
theorem Keeps.set_tickets_nextSeq {w : List Fld} {s t : State} {v : List Ticket} {n : Nat} (h : Keeps w s t)
    (hw : ([.tickets, .nextSeq] : List Fld) ⊆ w := by decide) : Keeps w s { t with tickets := v, nextSeq := n } :=
  h.then (v := [.tickets, .nextSeq]) ⟨rfl, rfl, rfl, fun n => absurd (by decide) n, id, id,
    by intro f hf; cases f <;> first | rfl | exact absurd (by decide) hf⟩ hw
theorem Keeps.set_firn {w : List Fld} {s t : State} {v : Memory} (h : Keeps w s t)
    (hv : t.firn.wf = true → v.wf = true) (hw : ([.firn] : List Fld) ⊆ w := by decide) :
    Keeps w s { t with firn := v } :=
  h.then (v := [.firn]) ⟨rfl, rfl, rfl, fun _ => List.Sublist.refl _, id, hv,
    by intro f hf; cases f <;> first | rfl | exact absurd (by decide) hf⟩ hw
theorem Keeps.set_pendingCompletions {w : List Fld} {s t : State} {v0 : _} (h : Keeps w s t)
    (hw : ([.pendingCompletions] : List Fld) ⊆ w := by decide) : Keeps w s { t with pendingCompletions := v0 } :=
  h.upd hw rfl rfl rfl rfl rfl rfl (by intro f hf; cases f <;> first | rfl | exact absurd (by decide) hf)

theorem Keeps.set_pendingHealth {w : List Fld} {s t : State} {v0 : _} (h : Keeps w s t)
    (hw : ([.pendingHealth] : List Fld) ⊆ w := by decide) : Keeps w s { t with pendingHealth := v0 } :=
  h.upd hw rfl rfl rfl rfl rfl rfl (by intro f hf; cases f <;> first | rfl | exact absurd (by decide) hf)

theorem Keeps.set_profile_profileDigest {w : List Fld} {s t : State} {v0 : _} {v1 : _} (h : Keeps w s t)
    (hw : ([.profile, .profileDigest] : List Fld) ⊆ w := by decide) : Keeps w s { t with profile := v0, profileDigest := v1 } :=
  h.upd hw rfl rfl rfl rfl rfl rfl (by intro f hf; cases f <;> first | rfl | exact absurd (by decide) hf)

theorem Keeps.set_settings {w : List Fld} {s t : State} {v0 : _} (h : Keeps w s t)
    (hw : ([.settings] : List Fld) ⊆ w := by decide) : Keeps w s { t with settings := v0 } :=
  h.upd hw rfl rfl rfl rfl rfl rfl (by intro f hf; cases f <;> first | rfl | exact absurd (by decide) hf)

theorem Keeps.set_memberDepth {w : List Fld} {s t : State} {v0 : _} (h : Keeps w s t)
    (hw : ([.memberDepth] : List Fld) ⊆ w := by decide) : Keeps w s { t with memberDepth := v0 } :=
  h.upd hw rfl rfl rfl rfl rfl rfl (by intro f hf; cases f <;> first | rfl | exact absurd (by decide) hf)

theorem Keeps.set_retries {w : List Fld} {s t : State} {v0 : _} (h : Keeps w s t)
    (hw : ([.retries] : List Fld) ⊆ w := by decide) : Keeps w s { t with retries := v0 } :=
  h.upd hw rfl rfl rfl rfl rfl rfl (by intro f hf; cases f <;> first | rfl | exact absurd (by decide) hf)

theorem Keeps.set_background {w : List Fld} {s t : State} {v0 : _} (h : Keeps w s t)
    (hw : ([.background] : List Fld) ⊆ w := by decide) : Keeps w s { t with background := v0 } :=
  h.upd hw rfl rfl rfl rfl rfl rfl (by intro f hf; cases f <;> first | rfl | exact absurd (by decide) hf)

theorem Keeps.set_scrub {w : List Fld} {s t : State} {v0 : _} (h : Keeps w s t)
    (hw : ([.scrub] : List Fld) ⊆ w := by decide) : Keeps w s { t with scrub := v0 } :=
  h.upd hw rfl rfl rfl rfl rfl rfl (by intro f hf; cases f <;> first | rfl | exact absurd (by decide) hf)

theorem Keeps.set_tableReloaded {w : List Fld} {s t : State} {v0 : _} (h : Keeps w s t)
    (hw : ([.tableReloaded] : List Fld) ⊆ w := by decide) : Keeps w s { t with tableReloaded := v0 } :=
  h.upd hw rfl rfl rfl rfl rfl rfl (by intro f hf; cases f <;> first | rfl | exact absurd (by decide) hf)

theorem Keeps.set_block {w : List Fld} {s t : State} {v0 : _} (h : Keeps w s t)
    (hw : ([.block] : List Fld) ⊆ w := by decide) : Keeps w s { t with block := v0 } :=
  h.upd hw rfl rfl rfl rfl rfl rfl (by intro f hf; cases f <;> first | rfl | exact absurd (by decide) hf)

theorem Keeps.set_reasons {w : List Fld} {s t : State} {v0 : _} (h : Keeps w s t)
    (hw : ([.reasons] : List Fld) ⊆ w := by decide) : Keeps w s { t with reasons := v0 } :=
  h.upd hw rfl rfl rfl rfl rfl rfl (by intro f hf; cases f <;> first | rfl | exact absurd (by decide) hf)

theorem Keeps.set_bankSpares {w : List Fld} {s t : State} {v0 : _} (h : Keeps w s t)
    (hw : ([.bankSpares] : List Fld) ⊆ w := by decide) : Keeps w s { t with bankSpares := v0 } :=
  h.upd hw rfl rfl rfl rfl rfl rfl (by intro f hf; cases f <;> first | rfl | exact absurd (by decide) hf)

theorem Keeps.set_seedings {w : List Fld} {s t : State} {v0 : _} (h : Keeps w s t)
    (hw : ([.seedings] : List Fld) ⊆ w := by decide) : Keeps w s { t with seedings := v0 } :=
  h.upd hw rfl rfl rfl rfl rfl rfl (by intro f hf; cases f <;> first | rfl | exact absurd (by decide) hf)

theorem Keeps.set_seedings_sleetRunning {w : List Fld} {s t : State} {v0 : _} {v1 : _} (h : Keeps w s t)
    (hw : ([.seedings, .sleetRunning] : List Fld) ⊆ w := by decide) : Keeps w s { t with seedings := v0, sleetRunning := v1 } :=
  h.upd hw rfl rfl rfl rfl rfl rfl (by intro f hf; cases f <;> first | rfl | exact absurd (by decide) hf)

theorem Keeps.set_ctxs {w : List Fld} {s t : State} {v0 : _} (h : Keeps w s t)
    (hw : ([.ctxs] : List Fld) ⊆ w := by decide) : Keeps w s { t with ctxs := v0 } :=
  h.upd hw rfl rfl rfl rfl rfl rfl (by intro f hf; cases f <;> first | rfl | exact absurd (by decide) hf)

theorem Keeps.set_actIn {w : List Fld} {s t : State} {v0 : _} (h : Keeps w s t)
    (hw : ([.actIn] : List Fld) ⊆ w := by decide) : Keeps w s { t with actIn := v0 } :=
  h.upd hw rfl rfl rfl rfl rfl rfl (by intro f hf; cases f <;> first | rfl | exact absurd (by decide) hf)

theorem Keeps.set_portErrors {w : List Fld} {s t : State} {v0 : _} (h : Keeps w s t)
    (hw : ([.portErrors] : List Fld) ⊆ w := by decide) : Keeps w s { t with portErrors := v0 } :=
  h.upd hw rfl rfl rfl rfl rfl rfl (by intro f hf; cases f <;> first | rfl | exact absurd (by decide) hf)

theorem Keeps.set_startup {w : List Fld} {s t : State} {v0 : _} (h : Keeps w s t)
    (hw : ([.startup] : List Fld) ⊆ w := by decide) : Keeps w s { t with startup := v0 } :=
  h.upd hw rfl rfl rfl rfl rfl rfl (by intro f hf; cases f <;> first | rfl | exact absurd (by decide) hf)

theorem Keeps.set_ckpts {w : List Fld} {s t : State} {v0 : _} (h : Keeps w s t)
    (hw : ([.ckpts] : List Fld) ⊆ w := by decide) : Keeps w s { t with ckpts := v0 } :=
  h.upd hw rfl rfl rfl rfl rfl rfl (by intro f hf; cases f <;> first | rfl | exact absurd (by decide) hf)

theorem Keeps.set_reads {w : List Fld} {s t : State} {v0 : _} (h : Keeps w s t)
    (hw : ([.reads] : List Fld) ⊆ w := by decide) : Keeps w s { t with reads := v0 } :=
  h.upd hw rfl rfl rfl rfl rfl rfl (by intro f hf; cases f <;> first | rfl | exact absurd (by decide) hf)

theorem Keeps.set_writes {w : List Fld} {s t : State} {v0 : _} (h : Keeps w s t)
    (hw : ([.writes] : List Fld) ⊆ w := by decide) : Keeps w s { t with writes := v0 } :=
  h.upd hw rfl rfl rfl rfl rfl rfl (by intro f hf; cases f <;> first | rfl | exact absurd (by decide) hf)

theorem Keeps.set_outs {w : List Fld} {s t : State} {v0 : _} (h : Keeps w s t)
    (hw : ([.outs] : List Fld) ⊆ w := by decide) : Keeps w s { t with outs := v0 } :=
  h.upd hw rfl rfl rfl rfl rfl rfl (by intro f hf; cases f <;> first | rfl | exact absurd (by decide) hf)

theorem Keeps.set_abortTable {w : List Fld} {s t : State} {v0 : _} (h : Keeps w s t)
    (hw : ([.abortTable] : List Fld) ⊆ w := by decide) : Keeps w s { t with abortTable := v0 } :=
  h.upd hw rfl rfl rfl rfl rfl rfl (by intro f hf; cases f <;> first | rfl | exact absurd (by decide) hf)

theorem Keeps.set_abortSeen {w : List Fld} {s t : State} {v0 : _} (h : Keeps w s t)
    (hw : ([.abortSeen] : List Fld) ⊆ w := by decide) : Keeps w s { t with abortSeen := v0 } :=
  h.upd hw rfl rfl rfl rfl rfl rfl (by intro f hf; cases f <;> first | rfl | exact absurd (by decide) hf)

theorem Keeps.set_free {w : List Fld} {s t : State} {v0 : _} (h : Keeps w s t)
    (hw : ([.free] : List Fld) ⊆ w := by decide) : Keeps w s { t with free := v0 } :=
  h.upd hw rfl rfl rfl rfl rfl rfl (by intro f hf; cases f <;> first | rfl | exact absurd (by decide) hf)

theorem Keeps.set_counters {w : List Fld} {s t : State} {v0 : _} (h : Keeps w s t)
    (hw : ([.counters] : List Fld) ⊆ w := by decide) : Keeps w s { t with counters := v0 } :=
  h.upd hw rfl rfl rfl rfl rfl rfl (by intro f hf; cases f <;> first | rfl | exact absurd (by decide) hf)

theorem Keeps.set_parts {w : List Fld} {s t : State} {v0 : _} (h : Keeps w s t)
    (hw : ([.parts] : List Fld) ⊆ w := by decide) : Keeps w s { t with parts := v0 } :=
  h.upd hw rfl rfl rfl rfl rfl rfl (by intro f hf; cases f <;> first | rfl | exact absurd (by decide) hf)

theorem Keeps.set_regions {w : List Fld} {s t : State} {v0 : _} (h : Keeps w s t)
    (hw : ([.regions] : List Fld) ⊆ w := by decide) : Keeps w s { t with regions := v0 } :=
  h.upd hw rfl rfl rfl rfl rfl rfl (by intro f hf; cases f <;> first | rfl | exact absurd (by decide) hf)

theorem Keeps.set_tiles {w : List Fld} {s t : State} {v0 : _} (h : Keeps w s t)
    (hw : ([.tiles] : List Fld) ⊆ w := by decide) : Keeps w s { t with tiles := v0 } :=
  h.upd hw rfl rfl rfl rfl rfl rfl (by intro f hf; cases f <;> first | rfl | exact absurd (by decide) hf)

theorem Keeps.set_slices {w : List Fld} {s t : State} {v0 : _} (h : Keeps w s t)
    (hw : ([.slices] : List Fld) ⊆ w := by decide) : Keeps w s { t with slices := v0 } :=
  h.upd hw rfl rfl rfl rfl rfl rfl (by intro f hf; cases f <;> first | rfl | exact absurd (by decide) hf)

theorem Keeps.set_ports {w : List Fld} {s t : State} {v0 : _} (h : Keeps w s t)
    (hw : ([.ports] : List Fld) ⊆ w := by decide) : Keeps w s { t with ports := v0 } :=
  h.upd hw rfl rfl rfl rfl rfl rfl (by intro f hf; cases f <;> first | rfl | exact absurd (by decide) hf)

theorem Keeps.set_vault {w : List Fld} {s t : State} {v0 : _} (h : Keeps w s t)
    (hw : ([.vault] : List Fld) ⊆ w := by decide) : Keeps w s { t with vault := v0 } :=
  h.upd hw rfl rfl rfl rfl rfl rfl (by intro f hf; cases f <;> first | rfl | exact absurd (by decide) hf)

theorem Keeps.set_window {w : List Fld} {s t : State} {v0 : _} (h : Keeps w s t)
    (hw : ([.window] : List Fld) ⊆ w := by decide) : Keeps w s { t with window := v0 } :=
  h.upd hw rfl rfl rfl rfl rfl rfl (by intro f hf; cases f <;> first | rfl | exact absurd (by decide) hf)

theorem Keeps.set_log_logWritten {w : List Fld} {s t : State} {v0 : _} {v1 : _} (h : Keeps w s t)
    (hw : ([.log, .logWritten] : List Fld) ⊆ w := by decide) : Keeps w s { t with log := v0, logWritten := v1 } :=
  h.upd hw rfl rfl rfl rfl rfl rfl (by intro f hf; cases f <;> first | rfl | exact absurd (by decide) hf)

theorem Keeps.set_count_countLoaded_inputDiff {w : List Fld} {s t : State} {v0 : _} {v1 : _} {v2 : _} (h : Keeps w s t)
    (hw : ([.count, .countLoaded, .inputDiff] : List Fld) ⊆ w := by decide) : Keeps w s { t with count := v0, countLoaded := v1, inputDiff := v2 } :=
  h.upd hw rfl rfl rfl rfl rfl rfl (by intro f hf; cases f <;> first | rfl | exact absurd (by decide) hf)

theorem Keeps.set_preemptDue {w : List Fld} {s t : State} {v0 : _} (h : Keeps w s t)
    (hw : ([.preemptDue] : List Fld) ⊆ w := by decide) : Keeps w s { t with preemptDue := v0 } :=
  h.upd hw rfl rfl rfl rfl rfl rfl (by intro f hf; cases f <;> first | rfl | exact absurd (by decide) hf)

theorem Keeps.set_passed {w : List Fld} {s t : State} {v0 : _} (h : Keeps w s t)
    (hw : ([.passed] : List Fld) ⊆ w := by decide) : Keeps w s { t with passed := v0 } :=
  h.upd hw rfl rfl rfl rfl rfl rfl (by intro f hf; cases f <;> first | rfl | exact absurd (by decide) hf)

theorem Keeps.set_retries_preemptDue {w : List Fld} {s t : State} {v0 : _} {v1 : _} (h : Keeps w s t)
    (hw : ([.retries, .preemptDue] : List Fld) ⊆ w := by decide) : Keeps w s { t with retries := v0, preemptDue := v1 } :=
  h.upd hw rfl rfl rfl rfl rfl rfl (by intro f hf; cases f <;> first | rfl | exact absurd (by decide) hf)

theorem Keeps.set_ckpts_parts_regions {w : List Fld} {s t : State} {v0 : _} {v1 : _} {v2 : _} (h : Keeps w s t)
    (hw : ([.ckpts, .parts, .regions] : List Fld) ⊆ w := by decide) : Keeps w s { t with ckpts := v0, parts := v1, regions := v2 } :=
  h.upd hw rfl rfl rfl rfl rfl rfl (by intro f hf; cases f <;> first | rfl | exact absurd (by decide) hf)

theorem Keeps.set_parts_vault {w : List Fld} {s t : State} {v0 : _} {v1 : _} (h : Keeps w s t)
    (hw : ([.parts, .vault] : List Fld) ⊆ w := by decide) : Keeps w s { t with parts := v0, vault := v1 } :=
  h.upd hw rfl rfl rfl rfl rfl rfl (by intro f hf; cases f <;> first | rfl | exact absurd (by decide) hf)

theorem Keeps.set_startup_whiteoutCause_whiteoutCount_sleetRunning_slices_tiles_block_download_advancing_vault {w : List Fld} {s t : State} {v0 : _} {v1 : _} {v2 : _} {v3 : _} {v4 : _} {v5 : _} {v6 : _} {v7 : _} {v8 : _} {v9 : _} (h : Keeps w s t)
    (hw : ([.startup, .whiteoutCause, .whiteoutCount, .sleetRunning, .slices, .tiles, .block, .download, .advancing, .vault] : List Fld) ⊆ w := by decide) : Keeps w s { t with startup := v0, whiteoutCause := v1, whiteoutCount := v2, sleetRunning := v3, slices := v4, tiles := v5, block := v6, download := v7, advancing := v8, vault := v9 } :=
  h.upd hw rfl rfl rfl rfl rfl rfl (by intro f hf; cases f <;> first | rfl | exact absurd (by decide) hf)

theorem Keeps.set_parts_download_vault {w : List Fld} {s t : State} {v0 : _} {v1 : _} {v2 : _} (h : Keeps w s t)
    (hw : ([.parts, .download, .vault] : List Fld) ⊆ w := by decide) : Keeps w s { t with parts := v0, download := v1, vault := v2 } :=
  h.upd hw rfl rfl rfl rfl rfl rfl (by intro f hf; cases f <;> first | rfl | exact absurd (by decide) hf)

theorem Keeps.set_testsDone_reasons_vault {w : List Fld} {s t : State} {v0 : _} {v1 : _} {v2 : _} (h : Keeps w s t)
    (hw : ([.testsDone, .reasons, .vault] : List Fld) ⊆ w := by decide) : Keeps w s { t with testsDone := v0, reasons := v1, vault := v2 } :=
  h.upd hw rfl rfl rfl rfl rfl rfl (by intro f hf; cases f <;> first | rfl | exact absurd (by decide) hf)

theorem Keeps.set_startup_download {w : List Fld} {s t : State} {v0 : _} {v1 : _} (h : Keeps w s t)
    (hw : ([.startup, .download] : List Fld) ⊆ w := by decide) : Keeps w s { t with startup := v0, download := v1 } :=
  h.upd hw rfl rfl rfl rfl rfl rfl (by intro f hf; cases f <;> first | rfl | exact absurd (by decide) hf)

theorem Keeps.set_advancing {w : List Fld} {s t : State} {v0 : _} (h : Keeps w s t)
    (hw : ([.advancing] : List Fld) ⊆ w := by decide) : Keeps w s { t with advancing := v0 } :=
  h.upd hw rfl rfl rfl rfl rfl rfl (by intro f hf; cases f <;> first | rfl | exact absurd (by decide) hf)

theorem Keeps.set_testReading {w : List Fld} {s t : State} {v0 : _} (h : Keeps w s t)
    (hw : ([.testReading] : List Fld) ⊆ w := by decide) : Keeps w s { t with testReading := v0 } :=
  h.upd hw rfl rfl rfl rfl rfl rfl (by intro f hf; cases f <;> first | rfl | exact absurd (by decide) hf)

theorem Keeps.set_startup_vault {w : List Fld} {s t : State} {v0 : _} {v1 : _} (h : Keeps w s t)
    (hw : ([.startup, .vault] : List Fld) ⊆ w := by decide) : Keeps w s { t with startup := v0, vault := v1 } :=
  h.upd hw rfl rfl rfl rfl rfl rfl (by intro f hf; cases f <;> first | rfl | exact absurd (by decide) hf)

theorem Keeps.set_zeroisePin {w : List Fld} {s t : State} {v0 : _} (h : Keeps w s t)
    (hw : ([.zeroisePin] : List Fld) ⊆ w := by decide) : Keeps w s { t with zeroisePin := v0 } :=
  h.upd hw rfl rfl rfl rfl rfl rfl (by intro f hf; cases f <;> first | rfl | exact absurd (by decide) hf)

theorem Keeps.set_tamperPin {w : List Fld} {s t : State} {v0 : _} (h : Keeps w s t)
    (hw : ([.tamperPin] : List Fld) ⊆ w := by decide) : Keeps w s { t with tamperPin := v0 } :=
  h.upd hw rfl rfl rfl rfl rfl rfl (by intro f hf; cases f <;> first | rfl | exact absurd (by decide) hf)

theorem Keeps.set_download {w : List Fld} {s t : State} {v0 : _} (h : Keeps w s t)
    (hw : ([.download] : List Fld) ⊆ w := by decide) : Keeps w s { t with download := v0 } :=
  h.upd hw rfl rfl rfl rfl rfl rfl (by intro f hf; cases f <;> first | rfl | exact absurd (by decide) hf)

theorem Keeps.set_micros {w : List Fld} {s t : State} {v0 : _} (h : Keeps w s t)
    (hw : ([.micros] : List Fld) ⊆ w := by decide) : Keeps w s { t with micros := v0 } :=
  h.upd hw rfl rfl rfl rfl rfl rfl (by intro f hf; cases f <;> first | rfl | exact absurd (by decide) hf)

theorem Keeps.set_figures {w : List Fld} {s t : State} {v0 : _} (h : Keeps w s t)
    (hw : ([.figures] : List Fld) ⊆ w := by decide) : Keeps w s { t with figures := v0 } :=
  h.upd hw rfl rfl rfl rfl rfl rfl (by intro f hf; cases f <;> first | rfl | exact absurd (by decide) hf)

theorem Keeps.set_overlays {w : List Fld} {s t : State} {v0 : _} (h : Keeps w s t)
    (hw : ([.overlays] : List Fld) ⊆ w := by decide) : Keeps w s { t with overlays := v0 } :=
  h.upd hw rfl rfl rfl rfl rfl rfl (by intro f hf; cases f <;> first | rfl | exact absurd (by decide) hf)

theorem Keeps.set_groupDone {w : List Fld} {s t : State} {v0 : _} (h : Keeps w s t)
    (hw : ([.groupDone] : List Fld) ⊆ w := by decide) : Keeps w s { t with groupDone := v0 } :=
  h.upd hw rfl rfl rfl rfl rfl rfl (by intro f hf; cases f <;> first | rfl | exact absurd (by decide) hf)

theorem Keeps.set_ins {w : List Fld} {s t : State} {v0 : _} (h : Keeps w s t)
    (hw : ([.ins] : List Fld) ⊆ w := by decide) : Keeps w s { t with ins := v0 } :=
  h.upd hw rfl rfl rfl rfl rfl rfl (by intro f hf; cases f <;> first | rfl | exact absurd (by decide) hf)

theorem Keeps.set_pendingHealth_freshHealth {w : List Fld} {s t : State} {v0 : _} {v1 : _} (h : Keeps w s t)
    (hw : ([.pendingHealth, .freshHealth] : List Fld) ⊆ w := by decide) : Keeps w s { t with pendingHealth := v0, freshHealth := v1 } :=
  h.upd hw rfl rfl rfl rfl rfl rfl (by intro f hf; cases f <;> first | rfl | exact absurd (by decide) hf)

theorem Keeps.set_pendingCompletions_freshCompletions {w : List Fld} {s t : State} {v0 : _} {v1 : _} (h : Keeps w s t)
    (hw : ([.pendingCompletions, .freshCompletions] : List Fld) ⊆ w := by decide) : Keeps w s { t with pendingCompletions := v0, freshCompletions := v1 } :=
  h.upd hw rfl rfl rfl rfl rfl rfl (by intro f hf; cases f <;> first | rfl | exact absurd (by decide) hf)

theorem Keeps.set_written {w : List Fld} {s t : State} {v0 : _} (h : Keeps w s t)
    (hw : ([.written] : List Fld) ⊆ w := by decide) : Keeps w s { t with written := v0 } :=
  h.upd hw rfl rfl rfl rfl rfl rfl (by intro f hf; cases f <;> first | rfl | exact absurd (by decide) hf)

theorem Keeps.set_rstAsserted_released_ins_testMode_zeroisePin_tamperPin {w : List Fld} {s t : State} {v0 : _} {v1 : _} {v2 : _} {v3 : _} {v4 : _} {v5 : _} (h : Keeps w s t)
    (hw : ([.rstAsserted, .released, .ins, .testMode, .zeroisePin, .tamperPin] : List Fld) ⊆ w := by decide) : Keeps w s { t with rstAsserted := v0, released := v1, ins := v2, testMode := v3, zeroisePin := v4, tamperPin := v5 } :=
  h.upd hw rfl rfl rfl rfl rfl rfl (by intro f hf; cases f <;> first | rfl | exact absurd (by decide) hf)

theorem Keeps.set_startup_advancing_linksBegun_tiles {w : List Fld} {s t : State} {v0 : _} {v1 : _} {v2 : _} {v3 : _} (h : Keeps w s t)
    (hw : ([.startup, .advancing, .linksBegun, .tiles] : List Fld) ⊆ w := by decide) : Keeps w s { t with startup := v0, advancing := v1, linksBegun := v2, tiles := v3 } :=
  h.upd hw rfl rfl rfl rfl rfl rfl (by intro f hf; cases f <;> first | rfl | exact absurd (by decide) hf)

theorem Keeps.set_count_tick_inputDiff_slipPending_freshCompletions_freshHealth {w : List Fld} {s t : State} {v0 : _} {v1 : _} {v2 : _} {v3 : _} {v4 : _} {v5 : _} (h : Keeps w s t)
    (hw : ([.count, .tick, .inputDiff, .slipPending, .freshCompletions, .freshHealth] : List Fld) ⊆ w := by decide) : Keeps w s { t with count := v0, tick := v1, inputDiff := v2, slipPending := v3, freshCompletions := v4, freshHealth := v5 } :=
  h.upd hw rfl rfl rfl rfl rfl rfl (by intro f hf; cases f <;> first | rfl | exact absurd (by decide) hf)

end Sys2Proof.Machine
end

