-- ==== Sys2Proof/Laws/KeepsOps.lean ====
section
/-! SUPPORT. What the shared operations and the engines leave unchanged. -/
set_option Elab.async false
namespace Sys2Proof.Machine

theorem State.fresh_keeps (s : State) :
    Keeps [.free] s (State.fresh s).2 := by
  unfold State.fresh
  repeat' first
    | with_reducible assumption
    | with_reducible exact Keeps.refl _ _
    | split
    | dsimp only
    | with_reducible refine Keeps.set_free ?_

theorem State.bump_keeps (s : State) (c : Counter) (n : Nat) :
    Keeps [.counters] s (State.bump s c n) := by
  unfold State.bump
  repeat' first
    | with_reducible assumption
    | with_reducible exact Keeps.refl _ _
    | split
    | dsimp only
    | with_reducible refine Keeps.set_counters ?_

theorem State.emit_keeps (s : State) (sub : OutSub) (msg : Bytes) :
    Keeps [.outs] s (State.emit s sub msg) := by
  unfold State.emit
  repeat' first
    | with_reducible assumption
    | with_reducible exact Keeps.refl _ _
    | split
    | dsimp only
    | with_reducible refine Keeps.set_outs ?_

theorem State.returnCredit_keeps (s : State) (i : InSub) :
    Keeps [.ins] s (State.returnCredit s i) := by
  unfold State.returnCredit
  repeat' first
    | with_reducible assumption
    | with_reducible exact Keeps.refl _ _
    | split
    | dsimp only
    | with_reducible refine Keeps.set_ins ?_

theorem State.portError_keeps (s : State) :
    Keeps [.counters, .portErrors] s (State.portError s) := by
  unfold State.portError
  repeat' first
    | with_reducible assumption
    | with_reducible exact Keeps.refl _ _
    | (with_reducible apply Keeps.by (State.bump_keeps ..); (· decide))
    | split
    | dsimp only
    | with_reducible refine Keeps.set_portErrors ?_

theorem State.onPort_keeps {w : List Fld} {s t : State} {i : InSub} {f : State → Out} (h : Keeps w s t)
    (k : ∀ u, Keeps w s u → KeepsOut w s (f u)) (hw : ([.ins] : List Fld) ⊆ w := by decide) : KeepsOut w s (t.onPort i f) := by
  unfold State.onPort
  split
  · exact KeepsOut.next h
  · exact k _ (h.then (State.returnCredit_keeps ..) (List.Subset.trans (by decide) hw))

theorem State.healthEvent_keeps (s : State) :
    Keeps [.freshHealth, .pendingHealth] s (State.healthEvent s) := by
  unfold State.healthEvent
  repeat' first
    | with_reducible assumption
    | with_reducible exact Keeps.refl _ _
    | split
    | dsimp only
    | with_reducible refine Keeps.set_pendingHealth_freshHealth ?_

theorem State.completionEvent_keeps (s : State) (p : Nat) :
    Keeps [.freshCompletions, .pendingCompletions] s (State.completionEvent s p) := by
  unfold State.completionEvent
  repeat' first
    | with_reducible assumption
    | with_reducible exact Keeps.refl _ _
    | split
    | dsimp only
    | with_reducible refine Keeps.set_pendingCompletions_freshCompletions ?_

theorem State.modPart_keeps (s : State) (p : Nat) (f : Partition → Partition) :
    Keeps [.parts] s (State.modPart s p f) := by
  unfold State.modPart
  repeat' first
    | with_reducible assumption
    | with_reducible exact Keeps.refl _ _
    | split
    | dsimp only
    | with_reducible refine Keeps.set_parts ?_

theorem State.modTicket_keeps (s : State) (q : Nat) (f : Ticket → Ticket) (hf : ∀ t, (f t).key = t.key) :
    Keeps [.tickets] s (s.modTicket q f) := by
  refine Keeps.set_tickets (Keeps.refl _ _) ?_
  have h : (s.tickets.map (fun t => if t.seq = q then f t else t)).map Ticket.key = s.tickets.map Ticket.key := by
    rw [List.map_map]; refine List.map_congr_left fun t _ => ?_
    simp only [Function.comp]; split <;> simp [hf]
  rw [h]

theorem State.dropTicket_keeps (s : State) (q : Nat) : Keeps [.tickets] s (s.dropTicket q) :=
  Keeps.set_tickets (Keeps.refl _ _) (List.filter_sublist.map _)

theorem State.modRun_keeps (s : State) (q : Nat) (f : Running → Running) : Keeps [.tickets] s (s.modRun q f) :=
  State.modTicket_keeps s q _ (fun _ => rfl)

theorem State.modCtx_keeps (s : State) (c : Nat) (f : Ctx → Ctx) :
    Keeps [.ctxs] s (State.modCtx s c f) := by
  unfold State.modCtx
  repeat' first
    | with_reducible assumption
    | with_reducible exact Keeps.refl _ _
    | split
    | dsimp only
    | with_reducible refine Keeps.set_ctxs ?_

theorem State.modRegion_keeps (s : State) (r : Nat) (f : Region → Region) :
    Keeps [.regions] s (State.modRegion s r f) := by
  unfold State.modRegion
  repeat' first
    | with_reducible assumption
    | with_reducible exact Keeps.refl _ _
    | split
    | dsimp only
    | with_reducible refine Keeps.set_regions ?_

theorem State.modTile_keeps (s : State) (i : Nat) (f : Tile → Tile) :
    Keeps [.tiles] s (State.modTile s i f) := by
  unfold State.modTile
  repeat' first
    | with_reducible assumption
    | with_reducible exact Keeps.refl _ _
    | split
    | dsimp only
    | with_reducible refine Keeps.set_tiles ?_

theorem State.modSlice_keeps (s : State) (i : Nat) (f : Slice → Slice) :
    Keeps [.slices] s (State.modSlice s i f) := by
  unfold State.modSlice
  repeat' first
    | with_reducible assumption
    | with_reducible exact Keeps.refl _ _
    | split
    | dsimp only
    | with_reducible refine Keeps.set_slices ?_

theorem State.modPort_keeps (s : State) (i : Fin 4) (f : Port → Port) :
    Keeps [.ports] s (State.modPort s i f) := by
  unfold State.modPort
  repeat' first
    | with_reducible assumption
    | with_reducible exact Keeps.refl _ _
    | split
    | dsimp only
    | with_reducible refine Keeps.set_ports ?_

theorem State.modVault_keeps (s : State) (f : Vault → Vault) :
    Keeps [.vault] s (State.modVault s f) := by
  unfold State.modVault
  repeat' first
    | with_reducible assumption
    | with_reducible exact Keeps.refl _ _
    | split
    | dsimp only
    | with_reducible refine Keeps.set_vault ?_

theorem State.modWindow_keeps (s : State) (f : Window → Window) :
    Keeps [.window] s (State.modWindow s f) := by
  unfold State.modWindow
  repeat' first
    | with_reducible assumption
    | with_reducible exact Keeps.refl _ _
    | split
    | dsimp only
    | with_reducible refine Keeps.set_window ?_

theorem State.mapRuns_keeps (s : State) (f : Ticket → Running → Running) : Keeps [.tickets] s (s.mapRuns f) := by
  refine Keeps.set_tickets (Keeps.refl _ _) ?_
  rw [List.map_map]; exact List.Sublist.refl _

theorem State.awake_keeps {w : List Fld} {s t : State} {f : State → Out} (h : Keeps w s t)
    (k : ∀ u, Keeps w s u → KeepsOut w s (f u)) : KeepsOut w s (t.awake f) := by
  unfold State.awake
  split
  · exact KeepsOut.next h
  · exact k t h

theorem State.sendRead_keeps (s : State) (r : ReadReq) :
    Keeps [.outs, .reads] s (State.sendRead s r) := by
  unfold State.sendRead
  repeat' first
    | with_reducible assumption
    | with_reducible exact Keeps.refl _ _
    | (with_reducible apply Keeps.by (State.emit_keeps ..); (· decide))
    | split
    | dsimp only
    | with_reducible refine Keeps.set_reads ?_

theorem State.sendWrite_keeps (s : State) (w : WriteReq) :
    Keeps [.outs, .writes] s (State.sendWrite s w) := by
  unfold State.sendWrite
  repeat' first
    | with_reducible assumption
    | with_reducible exact Keeps.refl _ _
    | (with_reducible apply Keeps.by (State.emit_keeps ..); (· decide))
    | split
    | dsimp only
    | with_reducible refine Keeps.set_writes ?_

theorem State.sendWaiting_keeps (n : Nat) (ch : Sys2Proof.MemChan) (s : State) : Keeps [.outs, .reads, .writes] s (State.sendWaiting n ch s) := by
  induction n generalizing s with
  | zero => exact Keeps.refl _ _
  | succ n ih =>
    unfold State.sendWaiting
    split
    · exact Keeps.refl _ _
    · split
      · exact ((Keeps.refl _ _).then (State.sendRead_keeps ..)).trans (ih _)
      · split
        · exact ((Keeps.refl _ _).then (State.sendWrite_keeps ..)).trans (ih _)
        · exact Keeps.refl _ _

theorem State.drainChannel_keeps (s : State) (ch : Sys2Proof.MemChan) : Keeps [.outs, .reads, .writes] s (s.drainChannel ch) :=
  State.sendWaiting_keeps _ _ _

theorem State.issueRead_keeps (s : State) (ch : Sys2Proof.MemChan) (addr : Nat) (len : Nat) (who : ReadFor) (again : Bool) :
    Keeps [.outs, .reads, .writes] s (State.issueRead s ch addr len who again) := by
  unfold State.issueRead
  repeat' first
    | with_reducible assumption
    | with_reducible exact Keeps.refl _ _
    | (with_reducible apply Keeps.by (State.drainChannel_keeps ..); (· decide))
    | split
    | dsimp only
    | with_reducible refine Keeps.set_reads ?_

theorem State.readRange_keeps (s : State) (who : ReadFor) (r : Nat × Nat) :
    Keeps [.outs, .reads, .writes] s (State.readRange s who r) := by
  unfold State.readRange
  repeat' first
    | with_reducible assumption
    | with_reducible exact Keeps.refl _ _
    | with_reducible apply Keeps.foldl
    | with_reducible apply Keeps.foldl_snd
    | with_reducible apply Keeps.foldl_snd2
    | with_reducible apply Keeps.foldl_st
    | (with_reducible apply Keeps.by (State.issueRead_keeps ..); (· decide))
    | split
    | dsimp only
    | intro _

theorem State.readRangeOn_keeps (s : State) (n : Nat) (who : ReadFor) (r : Nat × Nat) :
    Keeps [.outs, .reads, .writes] s (State.readRangeOn s n who r) := by
  unfold State.readRangeOn
  repeat' first
    | with_reducible assumption
    | with_reducible exact Keeps.refl _ _
    | with_reducible apply Keeps.foldl
    | with_reducible apply Keeps.foldl_snd
    | with_reducible apply Keeps.foldl_snd2
    | with_reducible apply Keeps.foldl_st
    | (with_reducible apply Keeps.by (State.issueRead_keeps ..); (· decide))
    | split
    | dsimp only
    | intro _

theorem State.readPieces_keeps (s : State) (n : Nat) (who : ReadFor) (rs : List (Nat × Nat)) :
    Keeps [.outs, .reads, .writes] s (State.readPieces s n who rs) := by
  unfold State.readPieces
  repeat' first
    | with_reducible assumption
    | with_reducible exact Keeps.refl _ _
    | with_reducible apply Keeps.foldl
    | with_reducible apply Keeps.foldl_snd
    | with_reducible apply Keeps.foldl_snd2
    | with_reducible apply Keeps.foldl_st
    | (with_reducible apply Keeps.by (State.readRangeOn_keeps ..); (· decide))
    | split
    | dsimp only
    | intro _

theorem State.issueWrite_keeps (s : State) (ch : Sys2Proof.MemChan) (addr : Nat) (len : Nat) (ticket : Option Nat) :
    Keeps [.outs, .reads, .writes] s (State.issueWrite s ch addr len ticket) := by
  unfold State.issueWrite
  repeat' first
    | with_reducible assumption
    | with_reducible exact Keeps.refl _ _
    | (with_reducible apply Keeps.by (State.drainChannel_keeps ..); (· decide))
    | split
    | dsimp only
    | with_reducible refine Keeps.set_writes ?_

theorem State.writeDrift_keeps (s : State) (ticket : Option Nat) (addr : Nat) (bs : Bytes) :
    Keeps [.mem, .outs, .reads, .writes] s (s.writeDrift ticket addr bs) := by
  unfold State.writeDrift
  split
  · exact Keeps.refl _ _
  · exact Keeps.foldl (Keeps.set_mem (Keeps.refl _ _) (fun h => Memory.storeHost_wf h _ _))
      fun u p => (State.issueWrite_keeps u _ _ _ _).mono (by decide)

theorem State.writeNoted_keeps (s : State) (q : Nat) (addr : Nat) (bs : Bytes) (scratch : Bool) :
    Keeps [.mem, .outs, .reads, .writes, .written] s (State.writeNoted s q addr bs scratch) := by
  unfold State.writeNoted
  repeat' first
    | with_reducible assumption
    | with_reducible exact Keeps.refl _ _
    | (with_reducible apply Keeps.by (State.writeDrift_keeps ..); (· decide))
    | split
    | dsimp only
    | with_reducible refine Keeps.set_written ?_

theorem State.writeScratch_keeps (s : State) (q : Nat) (addr : Nat) (bs : Bytes) :
    Keeps [.mem, .outs, .reads, .writes, .written] s (State.writeScratch s q addr bs) := by
  unfold State.writeScratch
  repeat' first
    | with_reducible assumption
    | with_reducible exact Keeps.refl _ _
    | (with_reducible apply Keeps.by (State.writeNoted_keeps ..); (· decide))

theorem State.hold_keeps (s : State) (q : Nat) (p : Post) :
    Keeps [.tickets] s (State.hold s q p) := by
  unfold State.hold
  repeat' first
    | with_reducible assumption
    | with_reducible exact Keeps.refl _ _
    | (with_reducible apply Keeps.by (State.modRun_keeps ..); (· decide))

theorem State.writeHost_keeps (s : State) (q : Nat) (addr : Nat) (bs : Bytes) :
    Keeps [.mem, .outs, .reads, .tickets, .writes, .written] s (State.writeHost s q addr bs) := by
  unfold State.writeHost
  repeat' first
    | with_reducible assumption
    | with_reducible exact Keeps.refl _ _
    | (with_reducible apply Keeps.by (State.hold_keeps ..); (· decide))
    | (with_reducible apply Keeps.by (State.writeNoted_keeps ..); (· decide))
    | split

theorem State.sendAct_keeps (s : State) (q : Nat) (bs : Bytes) :
    Keeps [.outs, .tickets] s (State.sendAct s q bs) := by
  unfold State.sendAct
  repeat' first
    | with_reducible assumption
    | with_reducible exact Keeps.refl _ _
    | (with_reducible apply Keeps.by (State.emit_keeps ..); (· decide))
    | (with_reducible apply Keeps.by (State.hold_keeps ..); (· decide))
    | split

theorem State.post_keeps (s : State) (q : Nat) (p : Post) :
    Keeps [.mem, .outs, .reads, .writes, .written] s (State.post s q p) := by
  unfold State.post
  repeat' first
    | with_reducible assumption
    | with_reducible exact Keeps.refl _ _
    | (with_reducible apply Keeps.by (State.emit_keeps ..); (· decide))
    | (with_reducible apply Keeps.by (State.writeNoted_keeps ..); (· decide))
    | split

theorem State.postAll_keeps (s : State) (q : Nat) :
    Keeps [.mem, .outs, .reads, .tickets, .writes, .written] s (State.postAll s q) := by
  unfold State.postAll
  repeat' first
    | with_reducible assumption
    | with_reducible exact Keeps.refl _ _
    | with_reducible apply Keeps.foldl
    | with_reducible apply Keeps.foldl_snd
    | with_reducible apply Keeps.foldl_snd2
    | with_reducible apply Keeps.foldl_st
    | (with_reducible apply Keeps.by (State.modRun_keeps ..); (· decide))
    | (with_reducible apply Keeps.by (State.post_keeps ..); (· decide))
    | split
    | dsimp only
    | intro _

theorem State.openBytes_keeps (s : State) (n : Nat) : Keeps [.free] s (s.openBytes n).2 := by
  induction n generalizing s with
  | zero => exact Keeps.refl _ _
  | succ n ih => exact ((Keeps.refl _ _).then (State.fresh_keeps s)).trans (ih _)

theorem State.openRange_keeps (s : State) (addr : Nat) (len : Nat) :
    Keeps [.free, .mem] s (State.openRange s addr len) := by
  unfold State.openRange
  repeat' first
    | with_reducible assumption
    | with_reducible exact Keeps.refl _ _
    | (with_reducible apply Keeps.by (State.openBytes_keeps ..); (· decide))
    | split
    | dsimp only
    | with_reducible refine Keeps.set_mem ?_ ?_
    | with_reducible exact fun h => Memory.store_wf h _ _
    | with_reducible exact fun h => Memory.storeHost_wf h _ _

theorem State.openWritten_keeps (s : State) (q : Nat) (all : Bool) :
    Keeps [.free, .mem, .written] s (State.openWritten s q all) := by
  unfold State.openWritten
  repeat' first
    | with_reducible assumption
    | with_reducible exact Keeps.refl _ _
    | with_reducible apply Keeps.foldl
    | with_reducible apply Keeps.foldl_snd
    | with_reducible apply Keeps.foldl_snd2
    | with_reducible apply Keeps.foldl_st
    | (with_reducible apply Keeps.by (State.openRange_keeps ..); (· decide))
    | split
    | dsimp only
    | with_reducible refine Keeps.set_written ?_
    | intro _

theorem State.writeRecord_keeps (s : State) (ticket : Option Nat) (addr : Nat) (bs : Bytes) :
    Keeps [.mem, .outs, .reads, .writes] s (s.writeRecord ticket addr bs) :=
  Keeps.foldl (Keeps.set_mem (Keeps.refl _ _) (fun h => Memory.storeHost_wf h _ _))
    fun u p => (State.issueWrite_keeps u _ _ _ _).mono (by decide)

theorem State.logAt_keeps (s : State) (count : U64) (level : Level) (kind : ErrKind) (unit : Nat) (detail : Nat) (action : ErrAction) (ticket : Option Nat) :
    Keeps [.log, .logWritten] s (State.logAt s count level kind unit detail action ticket) := by
  unfold State.logAt
  repeat' first
    | with_reducible assumption
    | with_reducible exact Keeps.refl _ _
    | split
    | dsimp only
    | with_reducible refine Keeps.set_log_logWritten ?_

theorem State.logError_keeps (s : State) (level : Level) (kind : ErrKind) (unit : Nat) (detail : Nat) (action : ErrAction) (ticket : Option Nat) :
    Keeps [.log, .logWritten] s (State.logError s level kind unit detail action ticket) := by
  unfold State.logError
  repeat' first
    | with_reducible assumption
    | with_reducible exact Keeps.refl _ _
    | (with_reducible apply Keeps.by (State.logAt_keeps ..); (· decide))

theorem State.logErr_keeps (s : State) (level : Level) (e : Err) (action : ErrAction) :
    Keeps [.log, .logWritten] s (State.logErr s level e action) := by
  unfold State.logErr
  repeat' first
    | with_reducible assumption
    | with_reducible exact Keeps.refl _ _
    | (with_reducible apply Keeps.by (State.logAt_keeps ..); (· decide))

theorem State.putFrame_keeps (s : State) (p : Fin 4) (f : Frame) :
    Keeps [.outs, .ports] s (State.putFrame s p f) := by
  unfold State.putFrame
  repeat' first
    | with_reducible assumption
    | with_reducible exact Keeps.refl _ _
    | (with_reducible apply Keeps.by (State.emit_keeps ..); (· decide))
    | (with_reducible apply Keeps.by (State.modPort_keeps ..); (· decide))
    | split

theorem State.sendControl_keeps (s : State) (p : Fin 4) (kind : Nat) (payload : Bytes) :
    Keeps [.outs, .ports] s (State.sendControl s p kind payload) := by
  unfold State.sendControl
  repeat' first
    | with_reducible assumption
    | with_reducible exact Keeps.refl _ _
    | (with_reducible apply Keeps.by (State.putFrame_keeps ..); (· decide))

theorem State.sendHello_keeps (s : State) (p : Fin 4) :
    Keeps [.outs, .ports] s (State.sendHello s p) := by
  unfold State.sendHello
  repeat' first
    | with_reducible assumption
    | with_reducible exact Keeps.refl _ _
    | (with_reducible apply Keeps.by (State.sendControl_keeps ..); (· decide))

theorem State.sendCreditedNow_keeps (s : State) (p : Fin 4) (f : Frame) :
    Keeps [.counters, .outs, .ports] s (State.sendCreditedNow s p f) := by
  unfold State.sendCreditedNow
  repeat' first
    | with_reducible assumption
    | with_reducible exact Keeps.refl _ _
    | (with_reducible apply Keeps.by (State.bump_keeps ..); (· decide))
    | (with_reducible apply Keeps.by (State.modPort_keeps ..); (· decide))
    | (with_reducible apply Keeps.by (State.putFrame_keeps ..); (· decide))

theorem State.flushBacklog_keeps (n : Nat) (p : Fin 4) (s : State) : Keeps [.counters, .outs, .ports] s (State.flushBacklog n p s) := by
  induction n generalizing s with
  | zero => exact Keeps.refl _ _
  | succ n ih =>
    unfold State.flushBacklog
    split
    · exact Keeps.refl _ _
    · split
      · exact Keeps.refl _ _
      · exact (((Keeps.refl _ _).then (State.modPort_keeps ..)).then (State.sendCreditedNow_keeps ..)).trans (ih _)

theorem State.sendCredited_keeps (s : State) (p : Fin 4) (f : Frame) :
    Keeps [.counters, .outs, .ports] s (State.sendCredited s p f) := by
  unfold State.sendCredited
  repeat' first
    | with_reducible assumption
    | with_reducible exact Keeps.refl _ _
    | (with_reducible apply Keeps.by (State.flushBacklog_keeps ..); (· decide))
    | (with_reducible apply Keeps.by (State.modPort_keeps ..); (· decide))

theorem State.takeAck_keeps (s : State) (p : Fin 4) (f : Frame) :
    Keeps [.counters, .outs, .ports] s (State.takeAck s p f) := by
  unfold State.takeAck
  repeat' first
    | with_reducible assumption
    | with_reducible exact Keeps.refl _ _
    | (with_reducible apply Keeps.by (State.flushBacklog_keeps ..); (· decide))
    | (with_reducible apply Keeps.by (State.modPort_keeps ..); (· decide))

theorem State.putFrames_keeps (s : State) (ps : List (Fin 4)) (f : Frame) :
    Keeps [.outs, .ports] s (State.putFrames s ps f) := by
  unfold State.putFrames
  repeat' first
    | with_reducible assumption
    | with_reducible exact Keeps.refl _ _
    | with_reducible apply Keeps.foldl
    | with_reducible apply Keeps.foldl_snd
    | with_reducible apply Keeps.foldl_snd2
    | with_reducible apply Keeps.foldl_st
    | (with_reducible apply Keeps.by (State.putFrame_keeps ..); (· decide))
    | split
    | dsimp only
    | intro _

theorem State.sendAbort_keeps (s : State) (t : Ticket) (reason : Status) :
    Keeps [.abortSeen, .counters, .outs, .ports] s (State.sendAbort s t reason) := by
  unfold State.sendAbort
  repeat' first
    | with_reducible assumption
    | with_reducible exact Keeps.refl _ _
    | (with_reducible apply Keeps.by (State.bump_keeps ..); (· decide))
    | (with_reducible apply Keeps.by (State.putFrames_keeps ..); (· decide))
    | split
    | dsimp only
    | with_reducible refine Keeps.set_abortSeen ?_

theorem State.linkDown_keeps (s : State) (p : Fin 4) :
    Keeps [.counters, .log, .logWritten, .outs, .ports] s (State.linkDown s p) := by
  unfold State.linkDown
  repeat' first
    | with_reducible assumption
    | with_reducible exact Keeps.refl _ _
    | (with_reducible apply Keeps.by (State.bump_keeps ..); (· decide))
    | (with_reducible apply Keeps.by (State.logError_keeps ..); (· decide))
    | (with_reducible apply Keeps.by (State.modPort_keeps ..); (· decide))
    | (with_reducible apply Keeps.by (State.sendHello_keeps ..); (· decide))

theorem State.sleetDraw_keeps (s : State) :
    Keeps [.free] s (State.sleetDraw s).2 := by
  unfold State.sleetDraw
  repeat' first
    | with_reducible assumption
    | with_reducible exact Keeps.refl _ _
    | (with_reducible apply Keeps.by (State.fresh_keeps ..); (· decide))

theorem State.keyRow_keeps (s : State) (sleet : Bool) (samples : Bool) (key : Nat × Nat) (stream : Nat) (step : Nat) (l : List Score) :
    Keeps [.free] s (State.keyRow s sleet samples key stream step l).2.2.2 := by
  unfold State.keyRow
  repeat' first
    | with_reducible assumption
    | with_reducible exact Keeps.refl _ _
    | (with_reducible apply Keeps.by (State.sleetDraw_keeps ..); (· decide))
    | with_reducible apply Keeps.foldr_snd3
    | split
    | dsimp only
    | intro _

theorem State.countDraws_keeps (s : State) (q : Nat) (n : Nat) :
    Keeps [.counters, .tickets] s (State.countDraws s q n) := by
  unfold State.countDraws
  repeat' first
    | with_reducible assumption
    | with_reducible exact Keeps.refl _ _
    | (with_reducible apply Keeps.by (State.bump_keeps ..); (· decide))
    | (with_reducible apply Keeps.by (State.modRun_keeps ..); (· decide))
    | split

theorem State.setDrbg_keeps (s : State) (d : Drbg) :
    Keeps [.vault] s (State.setDrbg s d) := by
  unfold State.setDrbg
  repeat' first
    | with_reducible assumption
    | with_reducible exact Keeps.refl _ _
    | (with_reducible apply Keeps.by (State.modVault_keeps ..); (· decide))
    | split

theorem State.vaultDraw_keeps (s : State) (n : Nat) :
    Keeps [.vault] s (State.vaultDraw s n).2 := by
  unfold State.vaultDraw
  repeat' first
    | with_reducible assumption
    | with_reducible exact Keeps.refl _ _
    | (with_reducible apply Keeps.by (State.setDrbg_keeps ..); (· decide))
    | split

theorem State.putFloeSlot_keeps (s : State) (p : Nat) (bs : Bytes) :
    Keeps [.mem, .outs, .parts, .reads, .writes] s (State.putFloeSlot s p bs) := by
  unfold State.putFloeSlot
  repeat' first
    | with_reducible assumption
    | with_reducible exact Keeps.refl _ _
    | (with_reducible apply Keeps.by (State.modPart_keeps ..); (· decide))
    | (with_reducible apply Keeps.by (State.writeRecord_keeps ..); (· decide))

theorem State.checkpointDue_keeps (s : State) (p : Nat) (reason : CkptReason) (ticket : Option Nat) :
    Keeps [.ckpts, .parts] s (State.checkpointDue s p reason ticket) := by
  unfold State.checkpointDue
  repeat' first
    | with_reducible assumption
    | with_reducible exact Keeps.refl _ _
    | (with_reducible apply Keeps.by (State.modPart_keeps ..); (· decide))
    | split
    | dsimp only
    | with_reducible refine Keeps.set_ckpts ?_

theorem State.genesisDue_keeps (s : State) (p : Nat) :
    Keeps [.ckpts, .parts, .vault] s (State.genesisDue s p) := by
  unfold State.genesisDue
  repeat' first
    | with_reducible assumption
    | with_reducible exact Keeps.refl _ _
    | (with_reducible apply Keeps.by (State.modPart_keeps ..); (· decide))
    | (with_reducible apply Keeps.by (State.vaultDraw_keeps ..); (· decide))
    | split
    | dsimp only
    | with_reducible refine Keeps.set_ckpts ?_

theorem State.writeCheckpoint_keeps (s : State) (c : Ckpt) : Keeps [.counters, .mem, .outs, .parts, .reads, .vault, .writes] s (s.writeCheckpoint c) := by
  unfold State.writeCheckpoint
  cases s.vault.drbg with
  | none => exact ((((Keeps.refl _ _).then (State.putFloeSlot_keeps ..)).then (State.putFloeSlot_keeps ..)).then
      (State.bump_keeps ..))
  | some d => exact (((((Keeps.refl _ _).then (State.setDrbg_keeps ..)).then (State.putFloeSlot_keeps ..)).then
      (State.putFloeSlot_keeps ..)).then (State.bump_keeps ..))

theorem State.releaseKept_keeps (s : State) (r : Nat) :
    Keeps [.ctxs, .regions] s (State.releaseKept s r) := by
  unfold State.releaseKept
  repeat' first
    | with_reducible assumption
    | with_reducible exact Keeps.refl _ _
    | with_reducible apply Keeps.foldl
    | with_reducible apply Keeps.foldl_snd
    | with_reducible apply Keeps.foldl_snd2
    | with_reducible apply Keeps.foldl_st
    | (with_reducible apply Keeps.by (State.modCtx_keeps ..); (· decide))
    | (with_reducible apply Keeps.by (State.modRegion_keeps ..); (· decide))
    | split
    | dsimp only
    | intro _

theorem State.releaseKeptOf_keeps (s : State) (c : Nat) :
    Keeps [.ctxs, .regions] s (State.releaseKeptOf s c) := by
  unfold State.releaseKeptOf
  repeat' first
    | with_reducible assumption
    | with_reducible exact Keeps.refl _ _
    | with_reducible apply Keeps.foldl
    | with_reducible apply Keeps.foldl_snd
    | with_reducible apply Keeps.foldl_snd2
    | with_reducible apply Keeps.foldl_st
    | (with_reducible apply Keeps.by (State.releaseKept_keeps ..); (· decide))
    | split
    | dsimp only
    | intro _

theorem State.releaseKeptPart_keeps (s : State) (p : Nat) :
    Keeps [.ctxs, .regions] s (State.releaseKeptPart s p) := by
  unfold State.releaseKeptPart
  repeat' first
    | with_reducible assumption
    | with_reducible exact Keeps.refl _ _
    | with_reducible apply Keeps.foldl
    | with_reducible apply Keeps.foldl_snd
    | with_reducible apply Keeps.foldl_snd2
    | with_reducible apply Keeps.foldl_st
    | (with_reducible apply Keeps.by (State.releaseKept_keeps ..); (· decide))
    | split
    | dsimp only
    | intro _

theorem State.putCompletion_keeps (s : State) (t : Ticket) (status : Status) (flags : Nat) (offset : Nat) :
    Keeps [.counters, .freshCompletions, .mem, .outs, .parts, .pendingCompletions, .reads, .tickets, .writes] s (State.putCompletion s t status flags offset) := by
  unfold State.putCompletion
  repeat' first
    | with_reducible assumption
    | with_reducible exact Keeps.refl _ _
    | (with_reducible apply Keeps.by (State.bump_keeps ..); (· decide))
    | (with_reducible apply Keeps.by (State.completionEvent_keeps ..); (· decide))
    | (with_reducible apply Keeps.by (State.dropTicket_keeps ..); (· decide))
    | (with_reducible apply Keeps.by (State.modPart_keeps ..); (· decide))
    | (with_reducible apply Keeps.by (State.writeRecord_keeps ..); (· decide))
    | split

theorem State.putFloe_keeps (s : State) (t : Ticket) (status : Status) (offset : Nat) :
    Keeps [.ckpts, .mem, .outs, .parts, .reads, .writes] s (State.putFloe s t status offset).1 := by
  unfold State.putFloe
  repeat' first
    | with_reducible assumption
    | with_reducible exact Keeps.refl _ _
    | (with_reducible apply Keeps.by (State.checkpointDue_keeps ..); (· decide))
    | (with_reducible apply Keeps.by (State.modPart_keeps ..); (· decide))
    | (with_reducible apply Keeps.by (State.putFloeSlot_keeps ..); (· decide))
    | split
    | dsimp only

theorem State.finish_keeps (s : State) (t : Ticket) (status : Status) (flags : Nat) (offset : Nat) :
    Keeps [.ckpts, .counters, .freshCompletions, .mem, .outs, .parts, .pendingCompletions, .reads, .tickets, .writes] s (State.finish s t status flags offset) := by
  unfold State.finish
  repeat' first
    | with_reducible assumption
    | with_reducible exact Keeps.refl _ _
    | (with_reducible apply Keeps.by (State.modTicket_keeps _ _ _ _); (· decide))
    | ((with_reducible intro _); exact rfl)
    | (with_reducible apply Keeps.by (State.putCompletion_keeps ..); (· decide))
    | (with_reducible apply Keeps.by_fst (State.putFloe_keeps ..); (· assumption); (· decide))
    | split

theorem State.loadFails_keeps (s : State) (q : Nat) :
    Keeps [.regions] s (State.loadFails s q) := by
  unfold State.loadFails
  repeat' first
    | with_reducible assumption
    | with_reducible exact Keeps.refl _ _
    | (with_reducible apply Keeps.by (State.modRegion_keeps ..); (· decide))
    | split

theorem State.endLaunch_keeps (s : State) (q : Nat) (status : Status) :
    Keeps [.abortSeen, .counters, .free, .mem, .outs, .ports, .regions, .tickets, .written] s (State.endLaunch s q status) := by
  unfold State.endLaunch
  repeat' first
    | with_reducible assumption
    | with_reducible exact Keeps.refl _ _
    | (with_reducible apply Keeps.by (State.loadFails_keeps ..); (· decide))
    | (with_reducible apply Keeps.by (State.modTicket_keeps _ _ _ _); (· decide))
    | ((with_reducible intro _); exact rfl)
    | (with_reducible apply Keeps.by (State.openWritten_keeps ..); (· decide))
    | (with_reducible apply Keeps.by (State.sendAbort_keeps ..); (· decide))
    | split

theorem State.endLaunch?_keeps (s : State) (q : Option Nat) (status : Status) :
    Keeps [.abortSeen, .counters, .free, .mem, .outs, .ports, .regions, .tickets, .written] s (State.endLaunch? s q status) := by
  unfold State.endLaunch?
  repeat' first
    | with_reducible assumption
    | with_reducible exact Keeps.refl _ _
    | (with_reducible apply Keeps.by (State.endLaunch_keeps ..); (· decide))
    | split

theorem State.endAll_keeps (s : State) (status : Status) :
    Keeps [.abortSeen, .counters, .free, .mem, .outs, .ports, .regions, .tickets, .written] s (State.endAll s status) := by
  unfold State.endAll
  repeat' first
    | with_reducible assumption
    | with_reducible exact Keeps.refl _ _
    | with_reducible apply Keeps.foldl
    | with_reducible apply Keeps.foldl_snd
    | with_reducible apply Keeps.foldl_snd2
    | with_reducible apply Keeps.foldl_st
    | (with_reducible apply Keeps.by (State.endLaunch_keeps ..); (· decide))
    | split
    | dsimp only
    | intro _

theorem State.respondWith_keeps (s : State) (key : Option Bytes) (status : MStatus) (payload : Bytes) :
    Keeps [.window] s (State.respondWith s key status payload) := by
  unfold State.respondWith
  repeat' first
    | with_reducible assumption
    | with_reducible exact Keeps.refl _ _
    | (with_reducible apply Keeps.by (State.modWindow_keeps ..); (· decide))

theorem State.respond_keeps (s : State) (status : MStatus) (payload : Bytes) :
    Keeps [.window] s (State.respond s status payload) := by
  unfold State.respond
  repeat' first
    | with_reducible assumption
    | with_reducible exact Keeps.refl _ _
    | (with_reducible apply Keeps.by (State.respondWith_keeps ..); (· decide))

theorem State.respondDeferred_keeps (s : State) (status : MStatus) :
    Keeps [.window] s (State.respondDeferred s status) := by
  unfold State.respondDeferred
  repeat' first
    | with_reducible assumption
    | with_reducible exact Keeps.refl _ _
    | (with_reducible apply Keeps.by (State.respond_keeps ..); (· decide))
    | split

theorem State.stopFigures_keeps (s : State) (reason : Status) :
    Keeps [.abortSeen, .counters, .outs, .ports, .preemptDue, .retries] s (State.stopFigures s reason) := by
  unfold State.stopFigures
  repeat' first
    | with_reducible assumption
    | with_reducible exact Keeps.refl _ _
    | with_reducible apply Keeps.foldl
    | with_reducible apply Keeps.foldl_snd
    | with_reducible apply Keeps.foldl_snd2
    | with_reducible apply Keeps.foldl_st
    | (with_reducible apply Keeps.by (State.sendAbort_keeps ..); (· decide))
    | split
    | dsimp only
    | with_reducible refine Keeps.set_retries_preemptDue ?_
    | intro _

theorem State.dropAllTickets_keeps (s : State) (status : Status) :
    Keeps [.ckpts, .counters, .free, .freshCompletions, .mem, .outs, .parts, .pendingCompletions, .reads, .tickets, .writes, .written] s (State.dropAllTickets s status) := by
  unfold State.dropAllTickets
  repeat' first
    | with_reducible assumption
    | with_reducible exact Keeps.refl _ _
    | with_reducible apply Keeps.foldl
    | with_reducible apply Keeps.foldl_snd
    | with_reducible apply Keeps.foldl_snd2
    | with_reducible apply Keeps.foldl_st
    | (with_reducible apply Keeps.by (State.openWritten_keeps ..); (· decide))
    | (with_reducible apply Keeps.by (State.putCompletion_keeps ..); (· decide))
    | (with_reducible apply Keeps.by (State.putFloe_keeps ..); (· decide))
    | split
    | dsimp only
    | intro _

theorem State.haltAll_keeps (s : State) :
    Keeps [.ckpts, .parts, .regions] s (State.haltAll s) := by
  unfold State.haltAll
  repeat' first
    | with_reducible assumption
    | with_reducible exact Keeps.refl _ _
    | split
    | dsimp only
    | with_reducible refine Keeps.set_ckpts_parts_regions ?_

theorem State.releaseAllKept_keeps (s : State) :
    Keeps [.ctxs, .regions] s (State.releaseAllKept s) := by
  unfold State.releaseAllKept
  repeat' first
    | with_reducible assumption
    | with_reducible exact Keeps.refl _ _
    | with_reducible apply Keeps.foldl
    | with_reducible apply Keeps.foldl_snd
    | with_reducible apply Keeps.foldl_snd2
    | with_reducible apply Keeps.foldl_st
    | (with_reducible apply Keeps.by (State.releaseKept_keeps ..); (· decide))
    | split
    | dsimp only
    | intro _

theorem State.clearKeys_keeps (s : State) :
    Keeps [.parts, .vault] s (State.clearKeys s) := by
  unfold State.clearKeys
  repeat' first
    | with_reducible assumption
    | with_reducible exact Keeps.refl _ _
    | split
    | dsimp only
    | with_reducible refine Keeps.set_parts_vault ?_

theorem State.enterWhiteout_keeps (s : State) (cause : Nat) :
    Keeps [.abortSeen, .advancing, .block, .ckpts, .counters, .ctxs, .download, .free, .freshCompletions, .mem, .outs, .parts, .pendingCompletions, .ports, .preemptDue, .reads, .regions, .retries, .sleetRunning, .slices, .startup, .tickets, .tiles, .vault, .whiteoutCause, .whiteoutCount, .window, .writes, .written] s (State.enterWhiteout s cause) := by
  unfold State.enterWhiteout
  repeat' first
    | with_reducible assumption
    | with_reducible exact Keeps.refl _ _
    | (with_reducible apply Keeps.by (State.clearKeys_keeps ..); (· decide))
    | (with_reducible apply Keeps.by (State.dropAllTickets_keeps ..); (· decide))
    | (with_reducible apply Keeps.by (State.haltAll_keeps ..); (· decide))
    | (with_reducible apply Keeps.by (State.releaseAllKept_keeps ..); (· decide))
    | (with_reducible apply Keeps.by (State.respondDeferred_keeps ..); (· decide))
    | (with_reducible apply Keeps.by (State.stopFigures_keeps ..); (· decide))
    | split
    | dsimp only
    | with_reducible refine Keeps.set_startup_whiteoutCause_whiteoutCount_sleetRunning_slices_tiles_block_download_advancing_vault ?_

theorem State.zeroiseBlock_keeps (s : State) :
    Keeps [.abortSeen, .ckpts, .counters, .ctxs, .download, .free, .freshCompletions, .mem, .outs, .parts, .pendingCompletions, .ports, .preemptDue, .reads, .regions, .retries, .tickets, .vault, .window, .writes, .written] s (State.zeroiseBlock s) := by
  unfold State.zeroiseBlock
  repeat' first
    | with_reducible assumption
    | with_reducible exact Keeps.refl _ _
    | (with_reducible apply Keeps.by (State.clearKeys_keeps ..); (· decide))
    | (with_reducible apply Keeps.by (State.dropAllTickets_keeps ..); (· decide))
    | (with_reducible apply Keeps.by (State.haltAll_keeps ..); (· decide))
    | (with_reducible apply Keeps.by (State.releaseAllKept_keeps ..); (· decide))
    | (with_reducible apply Keeps.by (State.respondDeferred_keeps ..); (· decide))
    | (with_reducible apply Keeps.by (State.stopFigures_keeps ..); (· decide))
    | split
    | dsimp only
    | with_reducible refine Keeps.set_parts_download_vault ?_

theorem State.setHandler_keeps (s : State) (l : Level) (h : Handler) :
    Keeps [.block, .slices, .tiles] s (State.setHandler s l h) := by
  unfold State.setHandler
  repeat' first
    | with_reducible assumption
    | with_reducible exact Keeps.refl _ _
    | (with_reducible apply Keeps.by (State.modSlice_keeps ..); (· decide))
    | (with_reducible apply Keeps.by (State.modTile_keeps ..); (· decide))
    | split
    | dsimp only
    | with_reducible refine Keeps.set_block ?_

theorem State.startRetry_keeps (s : State) (r : Retry) :
    Keeps [.counters, .retries, .tickets] s (State.startRetry s r) := by
  unfold State.startRetry
  repeat' first
    | with_reducible assumption
    | with_reducible exact Keeps.refl _ _
    | (with_reducible apply Keeps.by (State.bump_keeps ..); (· decide))
    | (with_reducible apply Keeps.by (State.mapRuns_keeps ..); (· decide))
    | split
    | dsimp only
    | with_reducible refine Keeps.set_retries ?_

theorem State.requestSet_keeps (s : State) (who : ReadFor) (d : Desc) (n : Nat) :
    Keeps [.outs, .reads, .writes] s (State.requestSet s who d n) := by
  unfold State.requestSet
  repeat' first
    | with_reducible assumption
    | with_reducible exact Keeps.refl _ _
    | (with_reducible apply Keeps.by (State.readPieces_keeps ..); (· decide))

theorem State.replace_keeps (s : State) (bit : Nat) :
    Keeps [.reasons] s (State.replace s bit) := by
  unfold State.replace
  repeat' first
    | with_reducible assumption
    | with_reducible exact Keeps.refl _ _
    | split
    | dsimp only
    | with_reducible refine Keeps.set_reasons ?_

theorem State.endLogged_keeps (s : State) (l : Level) (e : Err) (unit : Nat) :
    Keeps [.abortSeen, .counters, .free, .log, .logWritten, .mem, .outs, .ports, .regions, .tickets, .written] s (State.endLogged s l e unit) := by
  unfold State.endLogged
  repeat' first
    | with_reducible assumption
    | with_reducible exact Keeps.refl _ _
    | (with_reducible apply Keeps.by (State.endLaunch?_keeps ..); (· decide))
    | (with_reducible apply Keeps.by (State.logErr_keeps ..); (· decide))
    | split

theorem State.disableTile_keeps (s : State) (n : Nat) (e : Err) :
    Keeps [.abortSeen, .advancing, .block, .ckpts, .counters, .ctxs, .download, .free, .freshCompletions, .log, .logWritten, .mem, .outs, .parts, .pendingCompletions, .ports, .preemptDue, .reads, .reasons, .regions, .retries, .sleetRunning, .slices, .startup, .tickets, .tiles, .vault, .whiteoutCause, .whiteoutCount, .window, .writes, .written] s (State.disableTile s n e) := by
  unfold State.disableTile
  repeat' first
    | with_reducible assumption
    | with_reducible exact Keeps.refl _ _
    | (with_reducible apply Keeps.by (State.bump_keeps ..); (· decide))
    | (with_reducible apply Keeps.by (State.endLogged_keeps ..); (· decide))
    | (with_reducible apply Keeps.by (State.enterWhiteout_keeps ..); (· decide))
    | (with_reducible apply Keeps.by (State.logErr_keeps ..); (· decide))
    | (with_reducible apply Keeps.by (State.modTile_keeps ..); (· decide))
    | (with_reducible apply Keeps.by (State.replace_keeps ..); (· decide))
    | split
    | dsimp only

theorem State.rowReached_keeps (s : State) (l : Level) (n : Nat) (row : Nat) (e : Err) :
    Keeps [.abortSeen, .advancing, .block, .ckpts, .counters, .ctxs, .download, .free, .freshCompletions, .log, .logWritten, .mem, .outs, .parts, .pendingCompletions, .ports, .preemptDue, .reads, .reasons, .regions, .retries, .sleetRunning, .slices, .startup, .tickets, .tiles, .vault, .whiteoutCause, .whiteoutCount, .window, .writes, .written] s (State.rowReached s l n row e) := by
  unfold State.rowReached
  repeat' first
    | with_reducible assumption
    | with_reducible exact Keeps.refl _ _
    | (with_reducible apply Keeps.by (State.bump_keeps ..); (· decide))
    | (with_reducible apply Keeps.by (State.disableTile_keeps ..); (· decide))
    | (with_reducible apply Keeps.by (State.logErr_keeps ..); (· decide))
    | (with_reducible apply Keeps.by (State.modTile_keeps ..); (· decide))
    | split

theorem State.countRow_keeps (s : State) (n : Nat) (row : Nat) (e : Err) :
    Keeps [.abortSeen, .advancing, .block, .ckpts, .counters, .ctxs, .download, .free, .freshCompletions, .log, .logWritten, .mem, .outs, .parts, .pendingCompletions, .ports, .preemptDue, .reads, .reasons, .regions, .retries, .sleetRunning, .slices, .startup, .tickets, .tiles, .vault, .whiteoutCause, .whiteoutCount, .window, .writes, .written] s (State.countRow s n row e) := by
  unfold State.countRow
  repeat' first
    | with_reducible assumption
    | with_reducible exact Keeps.refl _ _
    | (with_reducible apply Keeps.by (State.modTile_keeps ..); (· decide))
    | (with_reducible apply Keeps.by (State.rowReached_keeps ..); (· decide))
    | split
    | dsimp only

theorem State.degrade_keeps (s : State) (r : Nat) :
    Keeps [.counters, .regions] s (State.degrade s r) := by
  unfold State.degrade
  repeat' first
    | with_reducible assumption
    | with_reducible exact Keeps.refl _ _
    | (with_reducible apply Keeps.by (State.bump_keeps ..); (· decide))
    | (with_reducible apply Keeps.by (State.modRegion_keeps ..); (· decide))
    | split

theorem State.degradeLogged_keeps (s : State) (kind : ErrKind) (bank : Nat) (ticket : Option Nat) (r : Nat) :
    Keeps [.counters, .log, .logWritten, .regions] s (State.degradeLogged s kind bank ticket r) := by
  unfold State.degradeLogged
  repeat' first
    | with_reducible assumption
    | with_reducible exact Keeps.refl _ _
    | (with_reducible apply Keeps.by (State.degrade_keeps ..); (· decide))
    | (with_reducible apply Keeps.by (State.logError_keeps ..); (· decide))
    | split

theorem State.degradeBank_keeps (s : State) (kind : ErrKind) (bank : Nat) (ticket : Option Nat) :
    Keeps [.counters, .log, .logWritten, .regions] s (State.degradeBank s kind bank ticket) := by
  unfold State.degradeBank
  repeat' first
    | with_reducible assumption
    | with_reducible exact Keeps.refl _ _
    | with_reducible apply Keeps.foldl
    | with_reducible apply Keeps.foldl_snd
    | with_reducible apply Keeps.foldl_snd2
    | with_reducible apply Keeps.foldl_st
    | (with_reducible apply Keeps.by (State.degradeLogged_keeps ..); (· decide))
    | split
    | dsimp only
    | intro _

theorem State.retireWord_keeps (s : State) (kind : ErrKind) (bank : Nat) (region : Nat) (ticket : Option Nat) :
    Keeps [.bankSpares, .counters, .log, .logWritten, .reasons, .regions] s (State.retireWord s kind bank region ticket) := by
  unfold State.retireWord
  repeat' first
    | with_reducible assumption
    | with_reducible exact Keeps.refl _ _
    | (with_reducible apply Keeps.by (State.bump_keeps ..); (· decide))
    | (with_reducible apply Keeps.by (State.degradeBank_keeps ..); (· decide))
    | (with_reducible apply Keeps.by (State.logError_keeps ..); (· decide))
    | (with_reducible apply Keeps.by (State.replace_keeps ..); (· decide))
    | split
    | dsimp only
    | with_reducible refine Keeps.set_bankSpares ?_

theorem State.emptyContext_keeps (s : State) (c : Nat) :
    Keeps [.ctxs, .regions] s (State.emptyContext s c) := by
  unfold State.emptyContext
  repeat' first
    | with_reducible assumption
    | with_reducible exact Keeps.refl _ _
    | (with_reducible apply Keeps.by (State.modCtx_keeps ..); (· decide))
    | (with_reducible apply Keeps.by (State.releaseKeptOf_keeps ..); (· decide))

theorem State.reseedSlice_keeps (s : State) (n : Nat) :
    Keeps [.seedings, .slices, .vault] s (State.reseedSlice s n) := by
  unfold State.reseedSlice
  repeat' first
    | with_reducible assumption
    | with_reducible exact Keeps.refl _ _
    | (with_reducible apply Keeps.by (State.modSlice_keeps ..); (· decide))
    | (with_reducible apply Keeps.by (State.modVault_keeps ..); (· decide))
    | (with_reducible apply Keeps.by_snd1 (State.vaultDraw_keeps ..); (· assumption); (· decide))
    | split
    | dsimp only
    | with_reducible refine Keeps.set_seedings ?_

theorem State.seedSleet_keeps (s : State) :
    Keeps [.seedings, .sleetRunning, .slices, .vault] s (State.seedSleet s) := by
  unfold State.seedSleet
  repeat' first
    | with_reducible assumption
    | with_reducible exact Keeps.refl _ _
    | with_reducible apply Keeps.foldl
    | with_reducible apply Keeps.foldl_snd
    | with_reducible apply Keeps.foldl_snd2
    | with_reducible apply Keeps.foldl_st
    | (with_reducible apply Keeps.by (State.modSlice_keeps ..); (· decide))
    | (with_reducible apply Keeps.by (State.modVault_keeps ..); (· decide))
    | (with_reducible apply Keeps.by_snd1 (State.vaultDraw_keeps ..); (· assumption); (· decide))
    | split
    | dsimp only
    | with_reducible refine Keeps.set_seedings_sleetRunning ?_
    | intro _

theorem State.noteFlurry_keeps (s : State) (e : Err) :
    Keeps [.tickets] s (State.noteFlurry s e) := by
  unfold State.noteFlurry
  repeat' first
    | with_reducible assumption
    | with_reducible exact Keeps.refl _ _
    | (with_reducible apply Keeps.by (State.modRun_keeps ..); (· decide))
    | split

theorem State.beginBackground_keeps (s : State) (e : Err) (bank : Nat) :
    Keeps [.background, .counters, .outs, .reads, .writes] s (State.beginBackground s e bank) := by
  unfold State.beginBackground
  repeat' first
    | with_reducible assumption
    | with_reducible exact Keeps.refl _ _
    | (with_reducible apply Keeps.by (State.bump_keeps ..); (· decide))
    | (with_reducible apply Keeps.by (State.requestSet_keeps ..); (· decide))
    | split
    | dsimp only
    | with_reducible refine Keeps.set_background ?_

theorem State.perform_keeps (s : State) (hold : Option Level) (l : Level) (e : Err) :
    Keeps [.abortSeen, .advancing, .background, .block, .ckpts, .counters, .ctxs, .download, .free, .freshCompletions, .log, .logWritten, .mem, .outs, .parts, .pendingCompletions, .ports, .preemptDue, .reads, .reasons, .regions, .retries, .seedings, .sleetRunning, .slices, .startup, .tickets, .tiles, .vault, .whiteoutCause, .whiteoutCount, .window, .writes, .written] s (State.perform s hold l e).1 := by
  unfold State.perform
  repeat' first
    | with_reducible assumption
    | with_reducible exact Keeps.refl _ _
    | with_reducible apply Keeps.foldl
    | with_reducible apply Keeps.foldl_snd
    | with_reducible apply Keeps.foldl_snd2
    | with_reducible apply Keeps.foldl_st
    | (with_reducible apply Keeps.by (State.beginBackground_keeps ..); (· decide))
    | (with_reducible apply Keeps.by (State.bump_keeps ..); (· decide))
    | (with_reducible apply Keeps.by (State.countRow_keeps ..); (· decide))
    | (with_reducible apply Keeps.by (State.emptyContext_keeps ..); (· decide))
    | (with_reducible apply Keeps.by (State.endLaunch_keeps ..); (· decide))
    | (with_reducible apply Keeps.by (State.endLaunch?_keeps ..); (· decide))
    | (with_reducible apply Keeps.by (State.logErr_keeps ..); (· decide))
    | (with_reducible apply Keeps.by (State.modSlice_keeps ..); (· decide))
    | (with_reducible apply Keeps.by (State.noteFlurry_keeps ..); (· decide))
    | (with_reducible apply Keeps.by (State.requestSet_keeps ..); (· decide))
    | (with_reducible apply Keeps.by (State.reseedSlice_keeps ..); (· decide))
    | (with_reducible apply Keeps.by (State.startRetry_keeps ..); (· decide))
    | split
    | dsimp only
    | intro _

theorem State.serve_keeps (n : Nat) (l : Level) (s : State) : Keeps [.abortSeen, .advancing, .background, .block, .ckpts, .counters, .ctxs, .download, .free, .freshCompletions, .log, .logWritten, .mem, .outs, .parts, .pendingCompletions, .ports, .preemptDue, .reads, .reasons, .regions, .retries, .seedings, .sleetRunning, .slices, .startup, .tickets, .tiles, .vault, .whiteoutCause, .whiteoutCount, .window, .writes, .written] s (State.serve n l s) := by
  induction n generalizing s with
  | zero => exact Keeps.refl _ _
  | succ n ih =>
    unfold State.serve
    dsimp only
    split
    · have k := fun e => ((Keeps.refl [.abortSeen, .advancing, .background, .block, .ckpts, .counters, .ctxs, .download, .free, .freshCompletions, .log, .logWritten, .mem, .outs, .parts, .pendingCompletions, .ports, .preemptDue, .reads, .reasons, .regions, .retries, .seedings, .sleetRunning, .slices, .startup, .tickets, .tiles, .vault, .whiteoutCause, .whiteoutCount, .window, .writes, .written] s).then (State.setHandler_keeps s l e))
      split
      · exact (k _).then (State.perform_keeps ..)
      · exact (((k _).then (State.perform_keeps ..)).then (State.setHandler_keeps ..)).trans (ih _)
    · exact Keeps.refl _ _

theorem State.release_keeps (s : State) (l : Level) :
    Keeps [.abortSeen, .advancing, .background, .block, .ckpts, .counters, .ctxs, .download, .free, .freshCompletions, .log, .logWritten, .mem, .outs, .parts, .pendingCompletions, .ports, .preemptDue, .reads, .reasons, .regions, .retries, .seedings, .sleetRunning, .slices, .startup, .tickets, .tiles, .vault, .whiteoutCause, .whiteoutCount, .window, .writes, .written] s (State.release s l) := by
  unfold State.release
  repeat' first
    | with_reducible assumption
    | with_reducible exact Keeps.refl _ _
    | (with_reducible apply Keeps.by (State.serve_keeps ..); (· decide))
    | (with_reducible apply Keeps.by (State.setHandler_keeps ..); (· decide))

theorem State.escalate_keeps (s : State) (l : Level) (e : Err) :
    Keeps [.abortSeen, .advancing, .background, .block, .ckpts, .counters, .ctxs, .download, .free, .freshCompletions, .freshHealth, .log, .logWritten, .mem, .outs, .parts, .pendingCompletions, .pendingHealth, .ports, .preemptDue, .reads, .reasons, .regions, .retries, .seedings, .sleetRunning, .slices, .startup, .tickets, .tiles, .vault, .whiteoutCause, .whiteoutCount, .window, .writes, .written] s (State.escalate s l e) := by
  unfold State.escalate
  repeat' first
    | with_reducible assumption
    | with_reducible exact Keeps.refl _ _
    | (with_reducible apply Keeps.by (State.bump_keeps ..); (· decide))
    | (with_reducible apply Keeps.by (State.degradeBank_keeps ..); (· decide))
    | (with_reducible apply Keeps.by (State.disableTile_keeps ..); (· decide))
    | (with_reducible apply Keeps.by (State.endLogged_keeps ..); (· decide))
    | (with_reducible apply Keeps.by (State.healthEvent_keeps ..); (· decide))
    | (with_reducible apply Keeps.by (State.logErr_keeps ..); (· decide))
    | (with_reducible apply Keeps.by (State.modSlice_keeps ..); (· decide))
    | (with_reducible apply Keeps.by (State.perform_keeps ..); (· decide))
    | (with_reducible apply Keeps.by (State.replace_keeps ..); (· decide))
    | (with_reducible apply Keeps.by (State.rowReached_keeps ..); (· decide))
    | split

theorem State.overflow_keeps (s : State) (l : Level) (e : Err) :
    Keeps [.abortSeen, .advancing, .block, .ckpts, .counters, .ctxs, .download, .free, .freshCompletions, .log, .logWritten, .mem, .outs, .parts, .pendingCompletions, .ports, .preemptDue, .reads, .reasons, .regions, .retries, .sleetRunning, .slices, .startup, .tickets, .tiles, .vault, .whiteoutCause, .whiteoutCount, .window, .writes, .written] s (State.overflow s l e) := by
  unfold State.overflow
  repeat' first
    | with_reducible assumption
    | with_reducible exact Keeps.refl _ _
    | with_reducible apply Keeps.foldl
    | with_reducible apply Keeps.foldl_snd
    | with_reducible apply Keeps.foldl_snd2
    | with_reducible apply Keeps.foldl_st
    | (with_reducible apply Keeps.by (State.bump_keeps ..); (· decide))
    | (with_reducible apply Keeps.by (State.countRow_keeps ..); (· decide))
    | (with_reducible apply Keeps.by (State.endAll_keeps ..); (· decide))
    | (with_reducible apply Keeps.by (State.endLaunch?_keeps ..); (· decide))
    | (with_reducible apply Keeps.by (State.enterWhiteout_keeps ..); (· decide))
    | (with_reducible apply Keeps.by (State.logError_keeps ..); (· decide))
    | (with_reducible apply Keeps.by (State.modTile_keeps ..); (· decide))
    | (with_reducible apply Keeps.by (State.setHandler_keeps ..); (· decide))
    | split
    | dsimp only
    | intro _

theorem State.detect_keeps (s : State) (l : Level) (e : Err) :
    Keeps [.abortSeen, .advancing, .background, .block, .ckpts, .counters, .ctxs, .download, .free, .freshCompletions, .freshHealth, .log, .logWritten, .mem, .outs, .parts, .pendingCompletions, .pendingHealth, .ports, .preemptDue, .reads, .reasons, .regions, .retries, .seedings, .sleetRunning, .slices, .startup, .tickets, .tiles, .vault, .whiteoutCause, .whiteoutCount, .window, .writes, .written] s (State.detect s l e) := by
  unfold State.detect
  repeat' first
    | with_reducible assumption
    | with_reducible exact Keeps.refl _ _
    | (with_reducible apply Keeps.by (State.escalate_keeps ..); (· decide))
    | (with_reducible apply Keeps.by (State.overflow_keeps ..); (· decide))
    | (with_reducible apply Keeps.by (State.serve_keeps ..); (· decide))
    | (with_reducible apply Keeps.by (State.setHandler_keeps ..); (· decide))
    | split
    | dsimp only

theorem State.hit_keeps (s : State) (l : Level) (kind : ErrKind) (res : Resource) (unit : Nat) (detail : Nat) (ticket : Option Nat) (work : Sys2Proof.ArrayWork) :
    Keeps [.abortSeen, .advancing, .background, .block, .ckpts, .counters, .ctxs, .download, .free, .freshCompletions, .freshHealth, .log, .logWritten, .mem, .outs, .parts, .pendingCompletions, .pendingHealth, .ports, .preemptDue, .reads, .reasons, .regions, .retries, .seedings, .sleetRunning, .slices, .startup, .tickets, .tiles, .vault, .whiteoutCause, .whiteoutCount, .window, .writes, .written] s (State.hit s l kind res unit detail ticket work) := by
  unfold State.hit
  repeat' first
    | with_reducible assumption
    | with_reducible exact Keeps.refl _ _
    | (with_reducible apply Keeps.by (State.detect_keeps ..); (· decide))

theorem State.linkFault_keeps (s : State) (p : Fin 4) (ticket : Option Nat) :
    Keeps [.abortSeen, .advancing, .block, .ckpts, .counters, .ctxs, .download, .free, .freshCompletions, .freshHealth, .log, .logWritten, .mem, .outs, .parts, .pendingCompletions, .pendingHealth, .ports, .preemptDue, .reads, .reasons, .regions, .retries, .sleetRunning, .slices, .startup, .tickets, .tiles, .vault, .whiteoutCause, .whiteoutCount, .window, .writes, .written] s (State.linkFault s p ticket) := by
  unfold State.linkFault
  repeat' first
    | with_reducible assumption
    | with_reducible exact Keeps.refl _ _
    | (with_reducible apply Keeps.by (State.bump_keeps ..); (· decide))
    | (with_reducible apply Keeps.by (State.healthEvent_keeps ..); (· decide))
    | (with_reducible apply Keeps.by (State.logErr_keeps ..); (· decide))
    | (with_reducible apply Keeps.by (State.overflow_keeps ..); (· decide))
    | split
    | dsimp only

theorem State.settleHandler_keeps (s : State) (l : Level) :
    Keeps [.abortSeen, .advancing, .background, .block, .ckpts, .counters, .ctxs, .download, .free, .freshCompletions, .log, .logWritten, .mem, .outs, .parts, .pendingCompletions, .ports, .preemptDue, .reads, .reasons, .regions, .retries, .seedings, .sleetRunning, .slices, .startup, .tickets, .tiles, .vault, .whiteoutCause, .whiteoutCount, .window, .writes, .written] s (State.settleHandler s l) := by
  unfold State.settleHandler
  repeat' first
    | with_reducible assumption
    | with_reducible exact Keeps.refl _ _
    | (with_reducible apply Keeps.by (State.release_keeps ..); (· decide))
    | split
    | dsimp only

theorem State.settleHandlers_keeps (s : State) :
    Keeps [.abortSeen, .advancing, .background, .block, .ckpts, .counters, .ctxs, .download, .free, .freshCompletions, .log, .logWritten, .mem, .outs, .parts, .pendingCompletions, .ports, .preemptDue, .reads, .reasons, .regions, .retries, .seedings, .sleetRunning, .slices, .startup, .tickets, .tiles, .vault, .whiteoutCause, .whiteoutCount, .window, .writes, .written] s (State.settleHandlers s) := by
  unfold State.settleHandlers
  repeat' first
    | with_reducible assumption
    | with_reducible exact Keeps.refl _ _
    | with_reducible apply Keeps.foldl
    | with_reducible apply Keeps.foldl_snd
    | with_reducible apply Keeps.foldl_snd2
    | with_reducible apply Keeps.foldl_st
    | (with_reducible apply Keeps.by (State.settleHandler_keeps ..); (· decide))
    | split
    | dsimp only
    | intro _

theorem State.leaveTiles_keeps (s : State) (t : Ticket) (d : Desc) (m : Memory) (rows : List CastRow) :
    Keeps [.tiles] s (State.leaveTiles s t d m rows) := by
  unfold State.leaveTiles
  repeat' first
    | with_reducible assumption
    | with_reducible exact Keeps.refl _ _
    | with_reducible apply Keeps.foldl
    | with_reducible apply Keeps.foldl_snd
    | with_reducible apply Keeps.foldl_snd2
    | with_reducible apply Keeps.foldl_st
    | (with_reducible apply Keeps.by (State.modTile_keeps ..); (· decide))
    | split
    | dsimp only
    | intro _

theorem State.endStale_keeps (s : State) (t : Ticket) (tile : Nat) :
    Keeps [.abortSeen, .advancing, .background, .block, .ckpts, .counters, .ctxs, .download, .free, .freshCompletions, .freshHealth, .log, .logWritten, .mem, .outs, .parts, .pendingCompletions, .pendingHealth, .ports, .preemptDue, .reads, .reasons, .regions, .retries, .seedings, .sleetRunning, .slices, .startup, .tickets, .tiles, .vault, .whiteoutCause, .whiteoutCount, .window, .writes, .written] s (State.endStale s t tile) := by
  unfold State.endStale
  repeat' first
    | with_reducible assumption
    | with_reducible exact Keeps.refl _ _
    | (with_reducible apply Keeps.by (State.bump_keeps ..); (· decide))
    | (with_reducible apply Keeps.by (State.hit_keeps ..); (· decide))
    | (with_reducible apply Keeps.by (State.modTile_keeps ..); (· decide))

theorem State.unlessStale_keeps (s : State) (t : Ticket) (r : Running) {u : State} {w : List Fld} (h : Keeps w s u)
    (hw : ([.abortSeen, .advancing, .background, .block, .ckpts, .counters, .ctxs, .download, .free, .freshCompletions, .freshHealth, .log, .logWritten, .mem, .outs, .parts, .pendingCompletions, .pendingHealth, .ports, .preemptDue, .reads, .reasons, .regions, .retries, .seedings, .sleetRunning, .slices, .startup, .tickets, .tiles, .vault, .whiteoutCause, .whiteoutCount, .window, .writes, .written] : List Fld) ⊆ w := by decide) : Keeps w s (s.unlessStale t r u) := by
  unfold State.unlessStale
  split
  · exact (Keeps.refl _ _).then (State.endStale_keeps ..) (List.Subset.trans (by decide) hw)
  · exact h

theorem State.takeBanks_keeps (s : State) (t : Ticket) :
    Keeps [.ctxs] s (State.takeBanks s t) := by
  unfold State.takeBanks
  repeat' first
    | with_reducible assumption
    | with_reducible exact Keeps.refl _ _
    | with_reducible apply Keeps.foldl
    | with_reducible apply Keeps.foldl_snd
    | with_reducible apply Keeps.foldl_snd2
    | with_reducible apply Keeps.foldl_st
    | (with_reducible apply Keeps.by (State.modCtx_keeps ..); (· decide))
    | split
    | dsimp only
    | intro _

theorem State.freeBanks_keeps (s : State) (q : Nat) :
    Keeps [.ctxs] s (State.freeBanks s q) := by
  unfold State.freeBanks
  repeat' first
    | with_reducible assumption
    | with_reducible exact Keeps.refl _ _
    | split
    | dsimp only
    | with_reducible refine Keeps.set_ctxs ?_

theorem State.enterFetch_keeps (s : State) (t : Ticket) (lvl : Fetch) (ranges : List (Nat × Nat)) :
    Keeps [.outs, .reads, .tickets, .writes] s (State.enterFetch s t lvl ranges) := by
  unfold State.enterFetch
  repeat' first
    | with_reducible assumption
    | with_reducible exact Keeps.refl _ _
    | with_reducible apply Keeps.foldl
    | with_reducible apply Keeps.foldl_snd
    | with_reducible apply Keeps.foldl_snd2
    | with_reducible apply Keeps.foldl_st
    | (with_reducible apply Keeps.by (State.modTicket_keeps _ _ _ _); (· decide))
    | ((with_reducible intro _); exact rfl)
    | (with_reducible apply Keeps.by (State.readRange_keeps ..); (· decide))
    | split
    | dsimp only
    | intro _

theorem State.moveHead_keeps (s : State) (p : Nat) (q : Nat) :
    Keeps [.parts] s (State.moveHead s p q) := by
  unfold State.moveHead
  repeat' first
    | with_reducible assumption
    | with_reducible exact Keeps.refl _ _
    | (with_reducible apply Keeps.by (State.modPart_keeps ..); (· decide))

theorem State.fetchStep_keeps (s : State) (t : Ticket) :
    Keeps [.ctxs, .outs, .parts, .reads, .tickets, .writes] s (State.fetchStep s t) := by
  unfold State.fetchStep
  repeat' first
    | with_reducible assumption
    | with_reducible exact Keeps.refl _ _
    | (with_reducible apply Keeps.by (State.enterFetch_keeps ..); (· decide))
    | (with_reducible apply Keeps.by (State.modTicket_keeps _ _ _ _); (· decide))
    | ((with_reducible intro _); exact rfl)
    | (with_reducible apply Keeps.by (State.moveHead_keeps ..); (· decide))
    | (with_reducible apply Keeps.by (State.takeBanks_keeps ..); (· decide))
    | split
    | dsimp only

theorem State.fetchTicket_keeps (n q : Nat) (s : State) : Keeps [.ctxs, .outs, .parts, .reads, .tickets, .writes] s (State.fetchTicket n q s) := by
  induction n generalizing s with
  | zero => exact Keeps.refl _ _
  | succ n ih =>
    unfold State.fetchTicket
    split
    · split
      · exact Keeps.refl _ _
      · exact ((Keeps.refl _ _).then (State.fetchStep_keeps ..)).trans (ih _)
    · exact Keeps.refl _ _

theorem State.pumpFetch_keeps (s : State) :
    Keeps [.ctxs, .outs, .parts, .reads, .tickets, .writes] s (State.pumpFetch s) := by
  unfold State.pumpFetch
  repeat' first
    | with_reducible assumption
    | with_reducible exact Keeps.refl _ _
    | with_reducible apply Keeps.foldl
    | with_reducible apply Keeps.foldl_snd
    | with_reducible apply Keeps.foldl_snd2
    | with_reducible apply Keeps.foldl_st
    | (with_reducible apply Keeps.by (State.fetchTicket_keeps ..); (· decide))
    | split
    | dsimp only
    | intro _

theorem State.takeRow_keeps (s : State) (row : Bytes × Bool) :
    KeepsOpt [.abortSeen, .counters, .free, .mem, .outs, .ports, .regions, .tickets, .written] s (State.takeRow s row) := by
  unfold State.takeRow
  repeat' first
    | with_reducible assumption
    | with_reducible exact Keeps.refl _ _
    | with_reducible exact KeepsOpt.none
    | with_reducible apply KeepsOpt.some
    | (with_reducible apply Keeps.by (State.endLaunch_keeps ..); (· decide))
    | (with_reducible apply Keeps.by (State.modTicket_keeps _ _ _ _); (· decide))
    | ((with_reducible intro _); exact rfl)
    | split
    | dsimp only

theorem State.pumpRows_keeps (n : Nat) (s : State) : Keeps [.abortSeen, .actIn, .counters, .free, .ins, .mem, .outs, .ports, .regions, .tickets, .written] s (State.pumpRows n s) := by
  induction n generalizing s with
  | zero => exact Keeps.refl _ _
  | succ n ih =>
    unfold State.pumpRows
    split
    · exact Keeps.refl _ _
    · split
      · exact ((Keeps.set_actIn ((Keeps.refl _ _).then (KeepsOpt.of (State.takeRow_keeps ..) (by assumption)))).then
            (State.returnCredit_keeps ..)).trans (ih _)
      · exact Keeps.refl _ _

theorem State.pumpIn_keeps (s : State) :
    Keeps [.abortSeen, .actIn, .counters, .ctxs, .free, .ins, .mem, .outs, .parts, .ports, .reads, .regions, .tickets, .writes, .written] s (State.pumpIn s) := by
  unfold State.pumpIn
  repeat' first
    | with_reducible assumption
    | with_reducible exact Keeps.refl _ _
    | (with_reducible apply Keeps.by (State.pumpFetch_keeps ..); (· decide))
    | (with_reducible apply Keeps.by (State.pumpRows_keeps ..); (· decide))

theorem State.launchStream_keeps (s : State) (t : Ticket) (p : Nat) :
    Keeps [.ctxs] s (State.launchStream s t p) := by
  unfold State.launchStream
  repeat' first
    | with_reducible assumption
    | with_reducible exact Keeps.refl _ _
    | (with_reducible apply Keeps.by (State.modCtx_keeps ..); (· decide))

theorem State.emptySummaries_keeps (s : State) (cs : List Nat) :
    Keeps [.ctxs] s (State.emptySummaries s cs) := by
  unfold State.emptySummaries
  repeat' first
    | with_reducible assumption
    | with_reducible exact Keeps.refl _ _
    | with_reducible apply Keeps.foldl
    | with_reducible apply Keeps.foldl_snd
    | with_reducible apply Keeps.foldl_snd2
    | with_reducible apply Keeps.foldl_st
    | (with_reducible apply Keeps.by (State.modCtx_keeps ..); (· decide))
    | split
    | dsimp only
    | intro _

theorem State.launchKept_keeps (s : State) (t : Ticket) :
    Keeps [.counters, .ctxs, .regions, .tickets] s (State.launchKept s t) := by
  unfold State.launchKept
  repeat' first
    | with_reducible assumption
    | with_reducible exact Keeps.refl _ _
    | with_reducible apply Keeps.foldl
    | with_reducible apply Keeps.foldl_snd
    | with_reducible apply Keeps.foldl_snd2
    | with_reducible apply Keeps.foldl_st
    | (with_reducible apply Keeps.by (State.releaseKept_keeps ..); (· decide))
    | (with_reducible apply Keeps.by (State.releaseKeptOf_keeps ..); (· decide))
    | split
    | dsimp only
    | intro _

theorem State.launchCtxs_keeps (s : State) (t : Ticket) :
    Keeps [.counters, .ctxs, .regions, .tickets] s (State.launchCtxs s t) := by
  unfold State.launchCtxs
  repeat' first
    | with_reducible assumption
    | with_reducible exact Keeps.refl _ _
    | with_reducible apply Keeps.foldl
    | with_reducible apply Keeps.foldl_snd
    | with_reducible apply Keeps.foldl_snd2
    | with_reducible apply Keeps.foldl_st
    | (with_reducible apply Keeps.by (State.emptySummaries_keeps ..); (· decide))
    | (with_reducible apply Keeps.by (State.freeBanks_keeps ..); (· decide))
    | (with_reducible apply Keeps.by (State.launchKept_keeps ..); (· decide))
    | (with_reducible apply Keeps.by (State.launchStream_keeps ..); (· decide))
    | (with_reducible apply Keeps.by (State.modRegion_keeps ..); (· decide))
    | split
    | dsimp only
    | intro _

theorem State.readSets_keeps (s : State) (q : Nat) (d : Desc) :
    Keeps [.outs, .reads, .writes] s (State.readSets s q d) := by
  unfold State.readSets
  repeat' first
    | with_reducible assumption
    | with_reducible exact Keeps.refl _ _
    | with_reducible apply Keeps.foldl
    | with_reducible apply Keeps.foldl_snd
    | with_reducible apply Keeps.foldl_snd2
    | with_reducible apply Keeps.foldl_st
    | (with_reducible apply Keeps.by (State.readPieces_keeps ..); (· decide))
    | split
    | dsimp only
    | intro _

theorem State.launchReads_keeps (s : State) (t : Ticket) :
    Keeps [.outs, .reads, .writes] s (State.launchReads s t) := by
  unfold State.launchReads
  repeat' first
    | with_reducible assumption
    | with_reducible exact Keeps.refl _ _
    | with_reducible apply Keeps.foldl
    | with_reducible apply Keeps.foldl_snd
    | with_reducible apply Keeps.foldl_snd2
    | with_reducible apply Keeps.foldl_st
    | (with_reducible apply Keeps.by (State.readRange_keeps ..); (· decide))
    | (with_reducible apply Keeps.by (State.readSets_keeps ..); (· decide))
    | split
    | dsimp only
    | intro _

theorem State.noteGroup_keeps (s : State) (t : Ticket) :
    Keeps [.groupDone] s (State.noteGroup s t) := by
  unfold State.noteGroup
  repeat' first
    | with_reducible assumption
    | with_reducible exact Keeps.refl _ _
    | split
    | dsimp only
    | with_reducible refine Keeps.set_groupDone ?_

theorem State.endQuietly_keeps (s : State) (q : Nat) (status : Status) :
    Keeps [.free, .mem, .regions, .tickets, .written] s (State.endQuietly s q status) := by
  unfold State.endQuietly
  repeat' first
    | with_reducible assumption
    | with_reducible exact Keeps.refl _ _
    | (with_reducible apply Keeps.by (State.loadFails_keeps ..); (· decide))
    | (with_reducible apply Keeps.by (State.modTicket_keeps _ _ _ _); (· decide))
    | ((with_reducible intro _); exact rfl)
    | (with_reducible apply Keeps.by (State.openWritten_keeps ..); (· decide))

theorem State.launch_keeps (s : State) (t : Ticket) :
    Keeps [.abortSeen, .abortTable, .counters, .ctxs, .free, .groupDone, .mem, .outs, .ports, .reads, .regions, .tickets, .writes, .written] s (State.launch s t) := by
  unfold State.launch
  repeat' first
    | with_reducible assumption
    | with_reducible exact Keeps.refl _ _
    | (with_reducible apply Keeps.by (State.endLaunch_keeps ..); (· decide))
    | (with_reducible apply Keeps.by (State.endQuietly_keeps ..); (· decide))
    | (with_reducible apply Keeps.by (State.launchCtxs_keeps ..); (· decide))
    | (with_reducible apply Keeps.by (State.launchReads_keeps ..); (· decide))
    | (with_reducible apply Keeps.by (State.modTicket_keeps _ _ _ _); (· decide))
    | ((with_reducible intro _); exact rfl)
    | (with_reducible apply Keeps.by (State.noteGroup_keeps ..); (· decide))
    | split
    | dsimp only
    | with_reducible refine Keeps.set_abortTable ?_

theorem State.endBefore_keeps (s : State) (t : Ticket) (status : Status) :
    Keeps [.abortSeen, .ckpts, .counters, .ctxs, .freshCompletions, .groupDone, .mem, .outs, .parts, .pendingCompletions, .ports, .reads, .tickets, .writes] s (State.endBefore s t status) := by
  unfold State.endBefore
  repeat' first
    | with_reducible assumption
    | with_reducible exact Keeps.refl _ _
    | (with_reducible apply Keeps.by (State.finish_keeps ..); (· decide))
    | (with_reducible apply Keeps.by (State.freeBanks_keeps ..); (· decide))
    | (with_reducible apply Keeps.by (State.noteGroup_keeps ..); (· decide))
    | (with_reducible apply Keeps.by (State.sendAbort_keeps ..); (· decide))
    | split

theorem State.launchOne_keeps (s : State) :
    KeepsOpt [.abortSeen, .abortTable, .ckpts, .counters, .ctxs, .free, .freshCompletions, .groupDone, .mem, .outs, .parts, .pendingCompletions, .ports, .reads, .regions, .tickets, .writes, .written] s (State.launchOne s) := by
  unfold State.launchOne
  repeat' first
    | with_reducible assumption
    | with_reducible exact Keeps.refl _ _
    | with_reducible exact KeepsOpt.none
    | with_reducible apply KeepsOpt.some
    | (with_reducible apply Keeps.by (State.endBefore_keeps ..); (· decide))
    | (with_reducible apply Keeps.by (State.launch_keeps ..); (· decide))
    | with_reducible apply KeepsOpt.map
    | split
    | dsimp only
    | intro _

theorem State.launchAll_keeps (n : Nat) (s : State) : Keeps [.abortSeen, .abortTable, .actIn, .ckpts, .counters, .ctxs, .free, .freshCompletions, .groupDone, .ins, .mem, .outs, .parts, .pendingCompletions, .ports, .reads, .regions, .tickets, .writes, .written] s (State.launchAll n s) := by
  induction n generalizing s with
  | zero => exact Keeps.refl _ _
  | succ n ih =>
    unfold State.launchAll
    split
    · exact (((Keeps.refl _ _).then (KeepsOpt.of (State.launchOne_keeps ..) (by assumption))).then
        (State.pumpIn_keeps ..)).trans (ih _)
    · exact Keeps.refl _ _

theorem State.listHolds_keeps (s : State) :
    Keeps [.counters, .tickets] s (State.listHolds s) := by
  unfold State.listHolds
  repeat' first
    | with_reducible assumption
    | with_reducible exact Keeps.refl _ _
    | with_reducible apply Keeps.foldl
    | with_reducible apply Keeps.foldl_snd
    | with_reducible apply Keeps.foldl_snd2
    | with_reducible apply Keeps.foldl_st
    | (with_reducible apply Keeps.by (State.bump_keeps ..); (· decide))
    | (with_reducible apply Keeps.by (State.modTicket_keeps _ _ _ _); (· decide))
    | ((with_reducible intro _); exact rfl)
    | split
    | dsimp only
    | intro _

theorem State.countWaits_keeps (s : State) (q : Nat) :
    Keeps [.counters, .tickets] s (State.countWaits s q) := by
  unfold State.countWaits
  repeat' first
    | with_reducible assumption
    | with_reducible exact Keeps.refl _ _
    | (with_reducible apply Keeps.by (State.bump_keeps ..); (· decide))
    | (with_reducible apply Keeps.by (State.modRun_keeps ..); (· decide))
    | split

theorem State.runSleet_keeps (s : State) :
    Keeps [.slices] s (State.runSleet s) := by
  unfold State.runSleet
  repeat' first
    | with_reducible assumption
    | with_reducible exact Keeps.refl _ _
    | split
    | dsimp only
    | with_reducible refine Keeps.set_slices ?_

theorem State.inlineCorrected_keeps (s : State) :
    Keeps [.counters, .free] s (State.inlineCorrected s) := by
  unfold State.inlineCorrected
  repeat' first
    | with_reducible assumption
    | with_reducible exact Keeps.refl _ _
    | with_reducible apply Keeps.foldl
    | with_reducible apply Keeps.foldl_snd
    | with_reducible apply Keeps.foldl_snd2
    | with_reducible apply Keeps.foldl_st
    | (with_reducible apply Keeps.by (State.bump_keeps ..); (· decide))
    | (with_reducible apply Keeps.by (State.fresh_keeps ..); (· decide))
    | split
    | dsimp only
    | intro _

theorem State.setCount_keeps (s : State) (n : U64) (pav : U64) :
    Keeps [.count, .counters, .free, .freshCompletions, .freshHealth, .inputDiff, .slices, .slipPending, .tick] s (State.setCount s n pav) := by
  unfold State.setCount
  repeat' first
    | with_reducible assumption
    | with_reducible exact Keeps.refl _ _
    | (with_reducible apply Keeps.by (State.inlineCorrected_keeps ..); (· decide))
    | (with_reducible apply Keeps.by (State.runSleet_keeps ..); (· decide))
    | split
    | dsimp only
    | with_reducible refine Keeps.set_count_tick_inputDiff_slipPending_freshCompletions_freshHealth ?_

theorem State.takeSlip_keeps (s : State) (pav : U64) :
    Keeps [.count, .counters, .free, .freshCompletions, .freshHealth, .inputDiff, .slices, .slipPending, .tick] s (State.takeSlip s pav) := by
  unfold State.takeSlip
  repeat' first
    | with_reducible assumption
    | with_reducible exact Keeps.refl _ _
    | (with_reducible apply Keeps.by (State.bump_keeps ..); (· decide))
    | (with_reducible apply Keeps.by (State.inlineCorrected_keeps ..); (· decide))
    | (with_reducible apply Keeps.by (State.runSleet_keeps ..); (· decide))
    | split
    | dsimp only
    | with_reducible refine Keeps.set_count_tick_inputDiff_slipPending_freshCompletions_freshHealth ?_

theorem State.preempt_keeps (s : State) :
    Keeps [.abortSeen, .abortTable, .counters, .ctxs, .free, .groupDone, .mem, .outs, .ports, .reads, .regions, .tickets, .writes, .written] s (State.preempt s) := by
  unfold State.preempt
  repeat' first
    | with_reducible assumption
    | with_reducible exact Keeps.refl _ _
    | (with_reducible apply Keeps.by (State.bump_keeps ..); (· decide))
    | (with_reducible apply Keeps.by (State.launch_keeps ..); (· decide))
    | (with_reducible apply Keeps.by (State.mapRuns_keeps ..); (· decide))
    | split

theorem State.preemptAfter_keeps (s : State) :
    Keeps [.abortSeen, .abortTable, .counters, .ctxs, .free, .groupDone, .mem, .outs, .ports, .preemptDue, .reads, .regions, .tickets, .writes, .written] s (State.preemptAfter s) := by
  unfold State.preemptAfter
  repeat' first
    | with_reducible assumption
    | with_reducible exact Keeps.refl _ _
    | (with_reducible apply Keeps.by (State.preempt_keeps ..); (· decide))
    | split
    | dsimp only
    | with_reducible refine Keeps.set_preemptDue ?_

theorem State.startExch_keeps (s : State) (q : Nat) (kind : Nat) (gather : Nat) (t0 : Nat) (slot : Nat) (own : Payload) :
    Keeps [.tickets] s (State.startExch s q kind gather t0 slot own) := by
  unfold State.startExch
  repeat' first
    | with_reducible assumption
    | with_reducible exact Keeps.refl _ _
    | (with_reducible apply Keeps.by (State.modRun_keeps ..); (· decide))

theorem State.startWords_keeps (s : State) (q : Nat) (slot : Nat) (parts : List (Nat × Nat)) (own : List LWord) :
    Keeps [.tickets] s (State.startWords s q slot parts own) := by
  unfold State.startWords
  repeat' first
    | with_reducible assumption
    | with_reducible exact Keeps.refl _ _
    | with_reducible apply Keeps.foldl
    | with_reducible apply Keeps.foldl_snd
    | with_reducible apply Keeps.foldl_snd2
    | with_reducible apply Keeps.foldl_st
    | (with_reducible apply Keeps.by (State.modRun_keeps ..); (· decide))

theorem State.sendDown_keeps (s : State) (t : Ticket) (e : Exch) (seg : Nat) (missing : Bool) (p : Payload) :
    Keeps [.counters, .outs, .ports] s (State.sendDown s t e seg missing p) := by
  unfold State.sendDown
  repeat' first
    | with_reducible assumption
    | with_reducible exact Keeps.refl _ _
    | with_reducible apply Keeps.foldl
    | with_reducible apply Keeps.foldl_snd
    | with_reducible apply Keeps.foldl_snd2
    | with_reducible apply Keeps.foldl_st
    | (with_reducible apply Keeps.by (State.sendCredited_keeps ..); (· decide))
    | split
    | dsimp only
    | intro _

theorem State.closeSegment_keeps (s : State) (t : Ticket) (e : Exch) :
    Keeps [.counters, .outs, .ports, .tickets] s (State.closeSegment s t e) := by
  unfold State.closeSegment
  repeat' first
    | with_reducible assumption
    | with_reducible exact Keeps.refl _ _
    | (with_reducible apply Keeps.by (State.modRun_keeps ..); (· decide))
    | (with_reducible apply Keeps.by (State.sendCredited_keeps ..); (· decide))
    | (with_reducible apply Keeps.by (State.sendDown_keeps ..); (· decide))
    | split

theorem State.finishRun_keeps (s : State) (q : Nat) :
    Keeps [.counters, .outs, .ports, .tickets] s (State.finishRun s q) := by
  unfold State.finishRun
  repeat' first
    | with_reducible assumption
    | with_reducible exact Keeps.refl _ _
    | (with_reducible apply Keeps.by (State.modRun_keeps ..); (· decide))
    | (with_reducible apply Keeps.by (State.sendCredited_keeps ..); (· decide))
    | split

theorem State.finishWith_keeps (s : State) (q : Nat) (f : Result → Result) :
    Keeps [.counters, .outs, .ports, .tickets] s (State.finishWith s q f) := by
  unfold State.finishWith
  repeat' first
    | with_reducible assumption
    | with_reducible exact Keeps.refl _ _
    | (with_reducible apply Keeps.by (State.finishRun_keeps ..); (· decide))
    | (with_reducible apply Keeps.by (State.modRun_keeps ..); (· decide))

theorem State.engine_keeps {w : List Fld} {s t : State} {q : Nat} {o : Op} {f : Ticket → Running → Out}
    (h : Keeps w s t) (k : ∀ tk r, KeepsOut w s (f tk r)) (hw : ([.tickets] : List Fld) ⊆ w := by decide) :
    KeepsOut w s (t.engine q o f) := by
  unfold State.engine State.awake
  split
  · exact KeepsOut.next h
  · dsimp only
    split
    · split
      · exact KeepsOut.fault
      · split
        · exact KeepsOut.next h
        · split
          · refine KeepsOut.next ?_
            split
            · exact h.then (State.modRun_keeps ..) (List.Subset.trans (by decide) hw)
            · exact h
          · exact k _ _
    · exact KeepsOut.fault

theorem State.countClamps_keeps (s : State) (n : Nat) :
    Keeps [.counters] s (State.countClamps s n) := by
  unfold State.countClamps
  repeat' first
    | with_reducible assumption
    | with_reducible exact Keeps.refl _ _
    | (with_reducible apply Keeps.by (State.bump_keeps ..); (· decide))
    | split

theorem State.countBeyond_keeps (s : State) (cols : List Column) :
    Keeps [.counters] s (State.countBeyond s cols).1 := by
  unfold State.countBeyond
  repeat' first
    | with_reducible assumption
    | with_reducible exact Keeps.refl _ _
    | (with_reducible apply Keeps.by (State.bump_keeps ..); (· decide))
    | split
    | dsimp only

theorem State.scoreInto_keeps (s : State) (t : Ticket) (cols : List Column) (row : CastRow) (i : Nat) :
    Keeps [.counters, .ctxs, .free, .tickets] s (State.scoreInto s t cols row i).2.2 := by
  unfold State.scoreInto
  repeat' first
    | with_reducible assumption
    | with_reducible exact Keeps.refl _ _
    | (with_reducible apply Keeps.by (State.bump_keeps ..); (· decide))
    | (with_reducible apply Keeps.by (State.countDraws_keeps ..); (· decide))
    | (with_reducible apply Keeps.by (State.keyRow_keeps ..); (· decide))
    | (with_reducible apply Keeps.by (State.modCtx_keeps ..); (· decide))
    | split
    | dsimp only

theorem State.markSleet_keeps (s : State) (t : Ticket) :
    Keeps [.ctxs] s (State.markSleet s t) := by
  unfold State.markSleet
  repeat' first
    | with_reducible assumption
    | with_reducible exact Keeps.refl _ _
    | with_reducible apply Keeps.foldl
    | with_reducible apply Keeps.foldl_snd
    | with_reducible apply Keeps.foldl_snd2
    | with_reducible apply Keeps.foldl_st
    | (with_reducible apply Keeps.by (State.modCtx_keeps ..); (· decide))
    | split
    | dsimp only
    | intro _

theorem State.scoreAll_keeps (s : State) (t : Ticket) :
    Keeps [.counters, .ctxs, .free, .tickets, .tiles] s (State.scoreAll s t).2.2.2 := by
  unfold State.scoreAll
  repeat' first
    | with_reducible assumption
    | with_reducible exact Keeps.refl _ _
    | with_reducible apply Keeps.foldl
    | with_reducible apply Keeps.foldl_snd
    | with_reducible apply Keeps.foldl_snd2
    | with_reducible apply Keeps.foldl_st
    | (with_reducible apply Keeps.by (State.countBeyond_keeps ..); (· decide))
    | (with_reducible apply Keeps.by (State.countClamps_keeps ..); (· decide))
    | (with_reducible apply Keeps.by (State.leaveTiles_keeps ..); (· decide))
    | (with_reducible apply Keeps.by (State.scoreInto_keeps ..); (· decide))
    | split
    | dsimp only
    | intro _

theorem State.addFlags_keeps (s : State) (q : Nat) (fl : U16) :
    Keeps [.tickets] s (State.addFlags s q fl) := by
  unfold State.addFlags
  repeat' first
    | with_reducible assumption
    | with_reducible exact Keeps.refl _ _
    | (with_reducible apply Keeps.by (State.modRun_keeps ..); (· decide))

theorem State.startRound1_keeps (s : State) (t : Ticket) (r : Running) :
    Keeps [.tickets] s (State.startRound1 s t r) := by
  unfold State.startRound1
  repeat' first
    | with_reducible assumption
    | with_reducible exact Keeps.refl _ _
    | (with_reducible apply Keeps.by (State.modRun_keeps ..); (· decide))
    | (with_reducible apply Keeps.by (State.startExch_keeps ..); (· decide))

theorem State.collectRow_keeps (s : State) (t : Ticket) (cols : List Column) (i : Nat) (j : Int) :
    Keeps [.ctxs, .mem, .outs, .reads, .tickets, .writes, .written] s (State.collectRow s t cols i j) := by
  unfold State.collectRow
  repeat' first
    | with_reducible assumption
    | with_reducible exact Keeps.refl _ _
    | (with_reducible apply Keeps.by (State.addFlags_keeps ..); (· decide))
    | (with_reducible apply Keeps.by (State.modCtx_keeps ..); (· decide))
    | (with_reducible apply Keeps.by (State.readRange_keeps ..); (· decide))
    | (with_reducible apply Keeps.by (State.writeScratch_keeps ..); (· decide))

theorem State.takeSpill_keeps (s : State) (t : Ticket) (i : Nat) :
    Keeps [.ctxs] s (State.takeSpill s t i) := by
  unfold State.takeSpill
  repeat' first
    | with_reducible assumption
    | with_reducible exact Keeps.refl _ _
    | (with_reducible apply Keeps.by (State.modCtx_keeps ..); (· decide))

theorem State.beginPass_keeps (s : State) (t : Ticket) (r : Running) :
    Keeps [.counters, .outs, .reads, .tickets, .writes] s (State.beginPass s t r) := by
  unfold State.beginPass
  repeat' first
    | with_reducible assumption
    | with_reducible exact Keeps.refl _ _
    | (with_reducible apply Keeps.by (State.addFlags_keeps ..); (· decide))
    | (with_reducible apply Keeps.by (State.bump_keeps ..); (· decide))
    | (with_reducible apply Keeps.by (State.countBeyond_keeps ..); (· decide))
    | (with_reducible apply Keeps.by (State.modRun_keeps ..); (· decide))
    | (with_reducible apply Keeps.by (State.readSets_keeps ..); (· decide))
    | split
    | dsimp only

theorem State.startGather_keeps (s : State) (t : Ticket) (r : Running) (gather : Nat) (t0 : Nat) :
    Keeps [.counters, .tickets] s (State.startGather s t r gather t0) := by
  unfold State.startGather
  repeat' first
    | with_reducible assumption
    | with_reducible exact Keeps.refl _ _
    | (with_reducible apply Keeps.by (State.bump_keeps ..); (· decide))
    | (with_reducible apply Keeps.by (State.modRun_keeps ..); (· decide))
    | (with_reducible apply Keeps.by (State.startExch_keeps ..); (· decide))
    | split

theorem State.passStep_keeps (s : State) (t : Ticket) (r : Running) :
    KeepsOpt [.counters, .ctxs, .mem, .outs, .reads, .tickets, .writes, .written] s (State.passStep s t r) := by
  unfold State.passStep
  repeat' first
    | with_reducible assumption
    | with_reducible exact Keeps.refl _ _
    | with_reducible exact KeepsOpt.none
    | with_reducible apply KeepsOpt.some
    | (with_reducible apply Keeps.by (State.collectRow_keeps ..); (· decide))
    | (with_reducible apply Keeps.by (State.modRun_keeps ..); (· decide))
    | (with_reducible apply Keeps.by (State.startGather_keeps ..); (· decide))
    | (with_reducible apply Keeps.by (State.takeSpill_keeps ..); (· decide))
    | split

theorem State.putResult_keeps (s : State) (t : Ticket) (r : ResultRec) :
    Keeps [.mem, .outs, .reads, .tickets, .writes, .written] s (State.putResult s t r) := by
  unfold State.putResult
  repeat' first
    | with_reducible assumption
    | with_reducible exact Keeps.refl _ _
    | (with_reducible apply Keeps.by (State.writeHost_keeps ..); (· decide))

theorem State.putLogProbs_keeps (s : State) (t : Ticket) (pos : Nat) (words : List Nat) :
    Keeps [.mem, .outs, .reads, .tickets, .writes, .written] s (State.putLogProbs s t pos words) := by
  unfold State.putLogProbs
  repeat' first
    | with_reducible assumption
    | with_reducible exact Keeps.refl _ _
    | (with_reducible apply Keeps.by (State.writeHost_keeps ..); (· decide))

theorem State.settleToken_keeps (s : State) (q : Nat) (ctx : Nat) (u : Nat) :
    Keeps [.counters, .ctxs, .tickets] s (State.settleToken s q ctx u) := by
  unfold State.settleToken
  repeat' first
    | with_reducible assumption
    | with_reducible exact Keeps.refl _ _
    | (with_reducible apply Keeps.by (State.addFlags_keeps ..); (· decide))
    | (with_reducible apply Keeps.by (State.bump_keeps ..); (· decide))
    | (with_reducible apply Keeps.by (State.modCtx_keeps ..); (· decide))
    | split
    | dsimp only

theorem State.advanceStep_keeps (s : State) (ctx : Nat) (n : Nat) :
    Keeps [.ctxs] s (State.advanceStep s ctx n) := by
  unfold State.advanceStep
  repeat' first
    | with_reducible assumption
    | with_reducible exact Keeps.refl _ _
    | (with_reducible apply Keeps.by (State.modCtx_keeps ..); (· decide))

theorem State.markSettled_keeps (s : State) (ctx : Nat) (step : Nat) :
    Keeps [.ctxs] s (State.markSettled s ctx step) := by
  unfold State.markSettled
  repeat' first
    | with_reducible assumption
    | with_reducible exact Keeps.refl _ _
    | (with_reducible apply Keeps.by (State.modCtx_keeps ..); (· decide))

theorem State.countWithout_keeps (s : State) (q : Nat) (n : Nat) :
    Keeps [.counters, .tickets] s (State.countWithout s q n) := by
  unfold State.countWithout
  repeat' first
    | with_reducible assumption
    | with_reducible exact Keeps.refl _ _
    | (with_reducible apply Keeps.by (State.bump_keeps ..); (· decide))
    | (with_reducible apply Keeps.by (State.modRun_keeps ..); (· decide))
    | split

theorem State.settleOne_keeps (s : State) (t : Ticket) (x : SelRow) :
    Keeps [.counters, .ctxs, .mem, .outs, .reads, .tickets, .writes, .written] s (State.settleOne s t x) := by
  unfold State.settleOne
  repeat' first
    | with_reducible assumption
    | with_reducible exact Keeps.refl _ _
    | (with_reducible apply Keeps.by (State.advanceStep_keeps ..); (· decide))
    | (with_reducible apply Keeps.by (State.countWithout_keeps ..); (· decide))
    | (with_reducible apply Keeps.by (State.markSettled_keeps ..); (· decide))
    | (with_reducible apply Keeps.by (State.putLogProbs_keeps ..); (· decide))
    | (with_reducible apply Keeps.by (State.putResult_keeps ..); (· decide))
    | (with_reducible apply Keeps.by (State.settleToken_keeps ..); (· decide))
    | split

theorem State.settleRows_keeps (s : State) (t : Ticket) (r : Running) :
    Keeps [.counters, .ctxs, .mem, .outs, .ports, .reads, .tickets, .writes, .written] s (State.settleRows s t r) := by
  unfold State.settleRows
  repeat' first
    | with_reducible assumption
    | with_reducible exact Keeps.refl _ _
    | with_reducible apply Keeps.foldl
    | with_reducible apply Keeps.foldl_snd
    | with_reducible apply Keeps.foldl_snd2
    | with_reducible apply Keeps.foldl_st
    | (with_reducible apply Keeps.by (State.finishWith_keeps ..); (· decide))
    | (with_reducible apply Keeps.by (State.settleOne_keeps ..); (· decide))
    | split
    | dsimp only
    | intro _

theorem State.beamRows_keeps (s : State) (t : Ticket) (r : Running) :
    Keeps [.counters, .ctxs, .mem, .outs, .ports, .reads, .tickets, .writes, .written] s (State.beamRows s t r) := by
  unfold State.beamRows
  repeat' first
    | with_reducible assumption
    | with_reducible exact Keeps.refl _ _
    | (with_reducible apply Keeps.by (State.advanceStep_keeps ..); (· decide))
    | (with_reducible apply Keeps.by (State.countWithout_keeps ..); (· decide))
    | (with_reducible apply Keeps.by (State.finishWith_keeps ..); (· decide))
    | (with_reducible apply Keeps.by (State.modCtx_keeps ..); (· decide))
    | (with_reducible apply Keeps.by (State.putLogProbs_keeps ..); (· decide))
    | (with_reducible apply Keeps.by (State.putResult_keeps ..); (· decide))
    | (with_reducible apply Keeps.by (State.writeHost_keeps ..); (· decide))
    | split

theorem State.walkRow_keeps (s : State) (t : Ticket) (x : SelRow) :
    Keeps [] s (State.walkRow s t x).2 := by
  unfold State.walkRow
  repeat' first
    | with_reducible assumption
    | with_reducible exact Keeps.refl _ _
    | split
    | dsimp only

theorem State.walk_keeps (s : State) (t : Ticket) (xs : List SelRow) : Keeps [] s (s.walk t xs).2 := by
  induction xs generalizing s with
  | nil => exact Keeps.refl _ _
  | cons x xs ih =>
    unfold State.walk
    dsimp only
    split
    · exact ((Keeps.refl _ _).then (State.walkRow_keeps ..)).trans (ih _)
    · exact (Keeps.refl _ _).then (State.walkRow_keeps ..)

theorem State.verifyRows_keeps (s : State) (t : Ticket) (r : Running) :
    Keeps [.counters, .ctxs, .mem, .outs, .ports, .reads, .tickets, .writes, .written] s (State.verifyRows s t r) := by
  unfold State.verifyRows
  repeat' first
    | with_reducible assumption
    | with_reducible exact Keeps.refl _ _
    | with_reducible apply Keeps.foldl
    | with_reducible apply Keeps.foldl_snd
    | with_reducible apply Keeps.foldl_snd2
    | with_reducible apply Keeps.foldl_st
    | (with_reducible apply Keeps.by (State.advanceStep_keeps ..); (· decide))
    | (with_reducible apply Keeps.by (State.countWithout_keeps ..); (· decide))
    | (with_reducible apply Keeps.by (State.finishWith_keeps ..); (· decide))
    | (with_reducible apply Keeps.by (State.putLogProbs_keeps ..); (· decide))
    | (with_reducible apply Keeps.by (State.putResult_keeps ..); (· decide))
    | (with_reducible apply Keeps.by (State.settleToken_keeps ..); (· decide))
    | (with_reducible apply Keeps.by (State.walk_keeps ..); (· decide))
    | (with_reducible apply Keeps.by (State.writeHost_keeps ..); (· decide))
    | split
    | dsimp only
    | intro _

theorem State.settleAll_keeps (s : State) (q : Nat) :
    Keeps [.counters, .ctxs, .mem, .outs, .ports, .reads, .tickets, .writes, .written] s (State.settleAll s q) := by
  unfold State.settleAll
  repeat' first
    | with_reducible assumption
    | with_reducible exact Keeps.refl _ _
    | (with_reducible apply Keeps.by (State.beamRows_keeps ..); (· decide))
    | (with_reducible apply Keeps.by (State.settleRows_keeps ..); (· decide))
    | (with_reducible apply Keeps.by (State.verifyRows_keeps ..); (· decide))
    | split

theorem State.round1Done_keeps (s : State) (t : Ticket) (r : Running) (e : Exch) (rows : List RowRec) :
    Keeps [.counters, .ctxs, .mem, .outs, .ports, .reads, .tickets, .writes, .written] s (State.round1Done s t r e rows) := by
  unfold State.round1Done
  repeat' first
    | with_reducible assumption
    | with_reducible exact Keeps.refl _ _
    | (with_reducible apply Keeps.by (State.beginPass_keeps ..); (· decide))
    | (with_reducible apply Keeps.by (State.modRun_keeps ..); (· decide))
    | (with_reducible apply Keeps.by (State.settleAll_keeps ..); (· decide))
    | (with_reducible apply Keeps.by (State.startGather_keeps ..); (· decide))
    | split
    | dsimp only

theorem State.round2Done_keeps (s : State) (t : Ticket) (r : Running) (e : Exch) (gs : List GatherRow) :
    Keeps [.counters, .ctxs, .mem, .outs, .ports, .reads, .tickets, .writes, .written] s (State.round2Done s t r e gs) := by
  unfold State.round2Done
  repeat' first
    | with_reducible assumption
    | with_reducible exact Keeps.refl _ _
    | (with_reducible apply Keeps.by (State.modRun_keeps ..); (· decide))
    | (with_reducible apply Keeps.by (State.settleAll_keeps ..); (· decide))
    | (with_reducible apply Keeps.by (State.startGather_keeps ..); (· decide))
    | split
    | dsimp only

theorem State.rndRule_keeps (s : State) (key : Nat × Nat) (stoch : Bool) (tag : Nat) (step : Nat) (i : Nat) (rest : Bool) :
    Keeps [.free] s (State.rndRule s key stoch tag step i rest).2.2 := by
  unfold State.rndRule
  repeat' first
    | with_reducible assumption
    | with_reducible exact Keeps.refl _ _
    | (with_reducible apply Keeps.by (State.sleetDraw_keeps ..); (· decide))
    | split

theorem Rounded.addLW_keeps (a : Rounded) (key : Nat × Nat) (code : Nat) (tag : Nat) (step : Nat) (i : Nat) (w : LWord) (top : Int) :
    Keeps [.free] a.st (Rounded.addLW a key code tag step i w top).st := by
  unfold Rounded.addLW
  repeat' first
    | with_reducible assumption
    | with_reducible exact Keeps.refl _ _
    | (with_reducible apply Keeps.by (State.rndRule_keeps ..); (· decide))
    | split

theorem State.roundLWs_keeps (s : State) (key : Nat × Nat) (code : Nat) (tag : Nat) (step : Nat) (top : Int) (els : List (Nat × LWord)) :
    Keeps [.free] s (State.roundLWs s key code tag step top els).st := by
  unfold State.roundLWs
  repeat' first
    | with_reducible assumption
    | with_reducible exact Keeps.refl _ _
    | with_reducible apply Keeps.foldl
    | with_reducible apply Keeps.foldl_snd
    | with_reducible apply Keeps.foldl_snd2
    | with_reducible apply Keeps.foldl_st
    | (with_reducible apply Keeps.by (Rounded.addLW_keeps ..); (· decide))
    | split
    | dsimp only
    | intro _

theorem State.putElem_keeps (s : State) (q : Nat) (addr : Nat) (sz : Nat) (bits : Nat) (clash : Bool) :
    Keeps [.free, .mem, .outs, .reads, .tickets, .writes, .written] s (State.putElem s q addr sz bits clash) := by
  unfold State.putElem
  repeat' first
    | with_reducible assumption
    | with_reducible exact Keeps.refl _ _
    | (with_reducible apply Keeps.by (State.openBytes_keeps ..); (· decide))
    | (with_reducible apply Keeps.by (State.writeHost_keeps ..); (· decide))
    | split

theorem State.putElems_keeps (s : State) (q : Nat) (addr : Nat) (sz : Nat) (els : List Nat) (others : List (Nat × Nat)) :
    Keeps [.free, .mem, .outs, .reads, .tickets, .writes, .written] s (State.putElems s q addr sz els others) := by
  unfold State.putElems
  repeat' first
    | with_reducible assumption
    | with_reducible exact Keeps.refl _ _
    | with_reducible apply Keeps.foldl
    | with_reducible apply Keeps.foldl_snd
    | with_reducible apply Keeps.foldl_snd2
    | with_reducible apply Keeps.foldl_st
    | (with_reducible apply Keeps.by (State.putElem_keeps ..); (· decide))
    | (with_reducible apply Keeps.by (State.writeHost_keeps ..); (· decide))
    | split
    | dsimp only
    | intro _

theorem Rounded.settle_keeps (a : Rounded) (q : Nat) :
    Keeps [.counters, .tickets] a.st (Rounded.settle a q) := by
  unfold Rounded.settle
  repeat' first
    | with_reducible assumption
    | with_reducible exact Keeps.refl _ _
    | (with_reducible apply Keeps.by (State.addFlags_keeps ..); (· decide))
    | (with_reducible apply Keeps.by (State.countDraws_keeps ..); (· decide))

theorem State.mismatch_keeps (s : State) (q : Nat) :
    Keeps [.abortSeen, .counters, .free, .mem, .outs, .ports, .regions, .tickets, .written] s (State.mismatch s q) := by
  unfold State.mismatch
  repeat' first
    | with_reducible assumption
    | with_reducible exact Keeps.refl _ _
    | (with_reducible apply Keeps.by (State.bump_keeps ..); (· decide))
    | (with_reducible apply Keeps.by (State.endLaunch_keeps ..); (· decide))

theorem State.trainScores_keeps (s : State) (t : Ticket) :
    Keeps [.counters, .tiles] s (State.trainScores s t).2.2 := by
  unfold State.trainScores
  repeat' first
    | with_reducible assumption
    | with_reducible exact Keeps.refl _ _
    | (with_reducible apply Keeps.by (State.countBeyond_keeps ..); (· decide))
    | (with_reducible apply Keeps.by (State.countClamps_keeps ..); (· decide))
    | (with_reducible apply Keeps.by (State.leaveTiles_keeps ..); (· decide))

theorem State.lossScore_keeps (s : State) (t : Ticket) (r : Running) :
    Keeps [.counters, .ctxs, .tickets, .tiles] s (State.lossScore s t r) := by
  unfold State.lossScore
  repeat' first
    | with_reducible assumption
    | with_reducible exact Keeps.refl _ _
    | with_reducible apply Keeps.foldl
    | with_reducible apply Keeps.foldl_snd
    | with_reducible apply Keeps.foldl_snd2
    | with_reducible apply Keeps.foldl_st
    | (with_reducible apply Keeps.by (State.addFlags_keeps ..); (· decide))
    | (with_reducible apply Keeps.by (State.bump_keeps ..); (· decide))
    | (with_reducible apply Keeps.by (State.modCtx_keeps ..); (· decide))
    | (with_reducible apply Keeps.by (State.startExch_keeps ..); (· decide))
    | (with_reducible apply Keeps.by (State.trainScores_keeps ..); (· decide))
    | split
    | dsimp only
    | intro _

theorem State.lossDone_keeps (s : State) (t : Ticket) (rows : List RowRec) :
    Keeps [.counters, .mem, .outs, .ports, .reads, .tickets, .writes, .written] s (State.lossDone s t rows) := by
  unfold State.lossDone
  repeat' first
    | with_reducible assumption
    | with_reducible exact Keeps.refl _ _
    | with_reducible apply Keeps.foldl
    | with_reducible apply Keeps.foldl_snd
    | with_reducible apply Keeps.foldl_snd2
    | with_reducible apply Keeps.foldl_st
    | (with_reducible apply Keeps.by (State.addFlags_keeps ..); (· decide))
    | (with_reducible apply Keeps.by (State.finishWith_keeps ..); (· decide))
    | (with_reducible apply Keeps.by (State.writeHost_keeps ..); (· decide))
    | split
    | dsimp only
    | intro _

theorem State.doLoss_keeps (s : State) (t : Ticket) (r : Running) :
    Keeps [.abortSeen, .counters, .ctxs, .free, .mem, .outs, .ports, .regions, .tickets, .tiles, .written] s (State.doLoss s t r) := by
  unfold State.doLoss
  repeat' first
    | with_reducible assumption
    | with_reducible exact Keeps.refl _ _
    | (with_reducible apply Keeps.by (State.lossScore_keeps ..); (· decide))
    | (with_reducible apply Keeps.by (State.mismatch_keeps ..); (· decide))
    | split

theorem State.dwRow_keeps (s : State) (t : Ticket) (m : Nat) (top : Int) (ks : List GTok) (j : Nat) (id : Nat) :
    Keeps [.counters, .free, .mem, .outs, .reads, .tickets, .writes, .written] s (State.dwRow s t m top ks j id).2 := by
  unfold State.dwRow
  repeat' first
    | with_reducible assumption
    | with_reducible exact Keeps.refl _ _
    | (with_reducible apply Keeps.by (Rounded.settle_keeps ..); (· decide))
    | (with_reducible apply Keeps.by (State.putElems_keeps ..); (· decide))
    | (with_reducible apply Keeps.by (State.roundLWs_keeps ..); (· decide))

theorem State.dwChunk_keeps (s : State) (t : Ticket) (ids : List Nat) (toks : List GTok) (m : Nat) :
    Keeps [.counters, .free, .mem, .outs, .reads, .tickets, .writes, .written] s (State.dwChunk s t ids toks m).2 := by
  unfold State.dwChunk
  repeat' first
    | with_reducible assumption
    | with_reducible exact Keeps.refl _ _
    | with_reducible apply Keeps.foldl
    | with_reducible apply Keeps.foldl_snd
    | with_reducible apply Keeps.foldl_snd2
    | with_reducible apply Keeps.foldl_st
    | (with_reducible apply Keeps.by (State.dwRow_keeps ..); (· decide))
    | (with_reducible apply Keeps.by (State.putElems_keeps ..); (· decide))
    | split
    | dsimp only
    | intro _

theorem State.dwAll_keeps (s : State) (t : Ticket) (ids : List Nat) (toks : List GTok) :
    Keeps [.counters, .free, .mem, .outs, .reads, .tickets, .writes, .written] s (State.dwAll s t ids toks).2 := by
  unfold State.dwAll
  repeat' first
    | with_reducible assumption
    | with_reducible exact Keeps.refl _ _
    | with_reducible apply Keeps.foldl
    | with_reducible apply Keeps.foldl_snd
    | with_reducible apply Keeps.foldl_snd2
    | with_reducible apply Keeps.foldl_st
    | (with_reducible apply Keeps.by (State.dwChunk_keeps ..); (· decide))
    | split
    | dsimp only
    | intro _

theorem State.gradProducts_keeps (s : State) (t : Ticket) (r : Running) (rows : List (CastRow × List Score)) (fl : U16) :
    Keeps [.counters, .free, .mem, .outs, .reads, .tickets, .writes, .written] s (State.gradProducts s t r rows fl) := by
  unfold State.gradProducts
  repeat' first
    | with_reducible assumption
    | with_reducible exact Keeps.refl _ _
    | (with_reducible apply Keeps.by (State.addFlags_keeps ..); (· decide))
    | (with_reducible apply Keeps.by (State.dwAll_keeps ..); (· decide))
    | (with_reducible apply Keeps.by (State.modRun_keeps ..); (· decide))
    | (with_reducible apply Keeps.by (State.startWords_keeps ..); (· decide))

theorem State.hiddenRow_keeps (s : State) (t : Ticket) (i : Nat) (top : Int) (ws : List LWord) :
    Keeps [.counters, .free, .mem, .outs, .reads, .tickets, .writes, .written] s (State.hiddenRow s t i top ws).2 := by
  unfold State.hiddenRow
  repeat' first
    | with_reducible assumption
    | with_reducible exact Keeps.refl _ _
    | (with_reducible apply Keeps.by (Rounded.settle_keeps ..); (· decide))
    | (with_reducible apply Keeps.by (State.putElems_keeps ..); (· decide))
    | (with_reducible apply Keeps.by (State.roundLWs_keeps ..); (· decide))
    | (with_reducible apply Keeps.by (State.sendAct_keeps ..); (· decide))
    | split
    | dsimp only

theorem State.gradDone_keeps (s : State) (t : Ticket) (r : Running) (ws : List LWord) :
    Keeps [.counters, .free, .mem, .outs, .ports, .reads, .tickets, .writes, .written] s (State.gradDone s t r ws) := by
  unfold State.gradDone
  repeat' first
    | with_reducible assumption
    | with_reducible exact Keeps.refl _ _
    | with_reducible apply Keeps.foldl
    | with_reducible apply Keeps.foldl_snd
    | with_reducible apply Keeps.foldl_snd2
    | with_reducible apply Keeps.foldl_st
    | (with_reducible apply Keeps.by (State.finishWith_keeps ..); (· decide))
    | (with_reducible apply Keeps.by (State.hiddenRow_keeps ..); (· decide))
    | split
    | dsimp only
    | intro _

theorem State.doGrad_keeps (s : State) (t : Ticket) (r : Running) :
    Keeps [.abortSeen, .counters, .free, .mem, .outs, .ports, .reads, .regions, .tickets, .tiles, .writes, .written] s (State.doGrad s t r) := by
  unfold State.doGrad
  repeat' first
    | with_reducible assumption
    | with_reducible exact Keeps.refl _ _
    | (with_reducible apply Keeps.by (State.endLaunch_keeps ..); (· decide))
    | (with_reducible apply Keeps.by (State.gradProducts_keeps ..); (· decide))
    | (with_reducible apply Keeps.by (State.mismatch_keeps ..); (· decide))
    | (with_reducible apply Keeps.by_snd2 (State.trainScores_keeps ..); (· assumption); (· decide))
    | split

theorem State.inBits_keeps (s : State) (d : Tens) (out : Option Tens) :
    Keeps [.free] s (State.inBits s d out).2 := by
  unfold State.inBits
  repeat' first
    | with_reducible assumption
    | with_reducible exact Keeps.refl _ _
    | with_reducible apply Keeps.foldl
    | with_reducible apply Keeps.foldl_snd
    | with_reducible apply Keeps.foldl_snd2
    | with_reducible apply Keeps.foldl_st
    | (with_reducible apply Keeps.by (State.openBytes_keeps ..); (· decide))
    | split
    | dsimp only
    | intro _

theorem State.putTensor_keeps (s : State) (q : Nat) (o : Tens) (inp : Option Tens) (els : List (Nat × Nat)) (others : List (Nat × Nat)) :
    Keeps [.free, .mem, .outs, .reads, .tickets, .writes, .written] s (State.putTensor s q o inp els others) := by
  unfold State.putTensor
  repeat' first
    | with_reducible assumption
    | with_reducible exact Keeps.refl _ _
    | with_reducible apply Keeps.foldl
    | with_reducible apply Keeps.foldl_snd
    | with_reducible apply Keeps.foldl_snd2
    | with_reducible apply Keeps.foldl_st
    | (with_reducible apply Keeps.by (State.putElem_keeps ..); (· decide))
    | split
    | dsimp only
    | intro _

theorem State.doReduce_keeps (s : State) (t : Ticket) (r : Running) :
    Keeps [.tickets] s (State.doReduce s t r) := by
  unfold State.doReduce
  repeat' first
    | with_reducible assumption
    | with_reducible exact Keeps.refl _ _
    | (with_reducible apply Keeps.by (State.startExch_keeps ..); (· decide))

theorem State.reduceSums_keeps (s : State) (t : Ticket) (e : Exch) (tops : List Int) :
    Keeps [.free, .tickets] s (State.reduceSums s t e tops) := by
  unfold State.reduceSums
  repeat' first
    | with_reducible assumption
    | with_reducible exact Keeps.refl _ _
    | (with_reducible apply Keeps.by (State.inBits_keeps ..); (· decide))
    | (with_reducible apply Keeps.by (State.modRun_keeps ..); (· decide))
    | (with_reducible apply Keeps.by (State.startWords_keeps ..); (· decide))

theorem State.reduceRow_keeps (s : State) (t : Ticket) (r : Nat) (top : Int) (ws : List LWord) :
    Keeps [.counters, .free, .mem, .outs, .reads, .tickets, .writes, .written] s (State.reduceRow s t r top ws) := by
  unfold State.reduceRow
  repeat' first
    | with_reducible assumption
    | with_reducible exact Keeps.refl _ _
    | (with_reducible apply Keeps.by (Rounded.settle_keeps ..); (· decide))
    | (with_reducible apply Keeps.by (State.putTensor_keeps ..); (· decide))
    | (with_reducible apply Keeps.by (State.roundLWs_keeps ..); (· decide))
    | (with_reducible apply Keeps.by (State.writeHost_keeps ..); (· decide))
    | split
    | dsimp only

theorem State.reduceDone_keeps (s : State) (t : Ticket) (r : Running) (ws : List LWord) :
    Keeps [.counters, .free, .mem, .outs, .ports, .reads, .tickets, .writes, .written] s (State.reduceDone s t r ws) := by
  unfold State.reduceDone
  repeat' first
    | with_reducible assumption
    | with_reducible exact Keeps.refl _ _
    | with_reducible apply Keeps.foldl
    | with_reducible apply Keeps.foldl_snd
    | with_reducible apply Keeps.foldl_snd2
    | with_reducible apply Keeps.foldl_st
    | (with_reducible apply Keeps.by (State.finishWith_keeps ..); (· decide))
    | (with_reducible apply Keeps.by (State.reduceRow_keeps ..); (· decide))
    | split
    | dsimp only
    | intro _

theorem Rounded.addFunc_keeps (a : Rounded) (prog : Option (MicroProg × List Overlay)) (fid : Nat) (f : NumFmt) (key : Nat × Nat) (stoch : Bool) (tag : Nat) (step : Nat) (i : Nat) (x : F32) :
    Keeps [.free] a.st (Rounded.addFunc a prog fid f key stoch tag step i x).st := by
  unfold Rounded.addFunc
  repeat' first
    | with_reducible assumption
    | with_reducible exact Keeps.refl _ _
    | (with_reducible apply Keeps.by (State.rndRule_keeps ..); (· decide))
    | split

theorem State.doFunc_keeps (s : State) (t : Ticket) :
    Keeps [.counters, .free, .mem, .outs, .ports, .reads, .tickets, .writes, .written] s (State.doFunc s t) := by
  unfold State.doFunc
  repeat' first
    | with_reducible assumption
    | with_reducible exact Keeps.refl _ _
    | with_reducible apply Keeps.foldl
    | with_reducible apply Keeps.foldl_snd
    | with_reducible apply Keeps.foldl_snd2
    | with_reducible apply Keeps.foldl_st
    | (with_reducible apply Keeps.by (Rounded.addFunc_keeps ..); (· decide))
    | (with_reducible apply Keeps.by (Rounded.settle_keeps ..); (· decide))
    | (with_reducible apply Keeps.by (State.finishWith_keeps ..); (· decide))
    | (with_reducible apply Keeps.by (State.inBits_keeps ..); (· decide))
    | (with_reducible apply Keeps.by (State.putTensor_keeps ..); (· decide))
    | split
    | dsimp only
    | intro _

theorem State.fillSleet_keeps (s : State) (normal : Bool) (inverse : Bool) :
    Keeps [.free] s (State.fillSleet s normal inverse).2.2 := by
  unfold State.fillSleet
  repeat' first
    | with_reducible assumption
    | with_reducible exact Keeps.refl _ _
    | (with_reducible apply Keeps.by (State.sleetDraw_keeps ..); (· decide))
    | (with_reducible apply Keeps.by_snd1 (State.sleetDraw_keeps ..); (· assumption); (· decide))
    | split

theorem Rounded.addFill_keeps (a : Rounded) (t : Ticket) (key : Nat × Nat) (i : Nat) :
    Keeps [.free] a.st (Rounded.addFill a t key i).st := by
  unfold Rounded.addFill
  repeat' first
    | with_reducible assumption
    | with_reducible exact Keeps.refl _ _
    | (with_reducible apply Keeps.by (State.fillSleet_keeps ..); (· decide))
    | split

theorem State.doFill_keeps (s : State) (t : Ticket) :
    Keeps [.counters, .free, .mem, .outs, .ports, .reads, .tickets, .writes, .written] s (State.doFill s t) := by
  unfold State.doFill
  repeat' first
    | with_reducible assumption
    | with_reducible exact Keeps.refl _ _
    | with_reducible apply Keeps.foldl
    | with_reducible apply Keeps.foldl_snd
    | with_reducible apply Keeps.foldl_snd2
    | with_reducible apply Keeps.foldl_st
    | (with_reducible apply Keeps.by (Rounded.addFill_keeps ..); (· decide))
    | (with_reducible apply Keeps.by (Rounded.settle_keeps ..); (· decide))
    | (with_reducible apply Keeps.by (State.finishWith_keeps ..); (· decide))
    | (with_reducible apply Keeps.by (State.putTensor_keeps ..); (· decide))
    | split
    | dsimp only
    | intro _

theorem State.doDigest_keeps (s : State) (t : Ticket) :
    Keeps [.counters, .mem, .outs, .ports, .reads, .tickets, .writes, .written] s (State.doDigest s t) := by
  unfold State.doDigest
  repeat' first
    | with_reducible assumption
    | with_reducible exact Keeps.refl _ _
    | (with_reducible apply Keeps.by (State.finishWith_keeps ..); (· decide))
    | (with_reducible apply Keeps.by (State.writeHost_keeps ..); (· decide))

theorem State.exchDone_keeps (s : State) (t : Ticket) (r : Running) (e : Exch) (p : Payload) :
    Keeps [.counters, .ctxs, .free, .mem, .outs, .ports, .reads, .tickets, .writes, .written] s (State.exchDone s t r e p) := by
  unfold State.exchDone
  repeat' first
    | with_reducible assumption
    | with_reducible exact Keeps.refl _ _
    | (with_reducible apply Keeps.by (State.gradDone_keeps ..); (· decide))
    | (with_reducible apply Keeps.by (State.lossDone_keeps ..); (· decide))
    | (with_reducible apply Keeps.by (State.reduceDone_keeps ..); (· decide))
    | (with_reducible apply Keeps.by (State.reduceSums_keeps ..); (· decide))
    | (with_reducible apply Keeps.by (State.round1Done_keeps ..); (· decide))
    | (with_reducible apply Keeps.by (State.round2Done_keeps ..); (· decide))
    | split

theorem State.exchStep_keeps (s : State) (t : Ticket) (r : Running) :
    KeepsOpt [.abortSeen, .counters, .ctxs, .free, .mem, .outs, .ports, .reads, .regions, .tickets, .writes, .written] s (State.exchStep s t r) := by
  unfold State.exchStep
  repeat' first
    | with_reducible assumption
    | with_reducible exact Keeps.refl _ _
    | with_reducible exact KeepsOpt.none
    | with_reducible apply KeepsOpt.some
    | (with_reducible apply Keeps.by (State.closeSegment_keeps ..); (· decide))
    | (with_reducible apply Keeps.by (State.endLaunch_keeps ..); (· decide))
    | (with_reducible apply Keeps.by (State.exchDone_keeps ..); (· decide))
    | (with_reducible apply KeepsOpt.by (State.passStep_keeps ..); (· decide))
    | with_reducible apply KeepsOpt.map
    | split
    | dsimp only
    | intro _

theorem State.popFrame_keeps (s : State) (p : Fin 4) :
    Keeps [.ports] s (State.popFrame s p) := by
  unfold State.popFrame
  repeat' first
    | with_reducible assumption
    | with_reducible exact Keeps.refl _ _
    | (with_reducible apply Keeps.by (State.modPort_keeps ..); (· decide))

theorem State.sequenceFault_keeps (s : State) (p : Fin 4) (t : Ticket) :
    Keeps [.abortSeen, .advancing, .block, .ckpts, .counters, .ctxs, .download, .free, .freshCompletions, .freshHealth, .log, .logWritten, .mem, .outs, .parts, .pendingCompletions, .pendingHealth, .ports, .preemptDue, .reads, .reasons, .regions, .retries, .sleetRunning, .slices, .startup, .tickets, .tiles, .vault, .whiteoutCause, .whiteoutCount, .window, .writes, .written] s (State.sequenceFault s p t) := by
  unfold State.sequenceFault
  repeat' first
    | with_reducible assumption
    | with_reducible exact Keeps.refl _ _
    | (with_reducible apply Keeps.by (State.bump_keeps ..); (· decide))
    | (with_reducible apply Keeps.by (State.endLaunch_keeps ..); (· decide))
    | (with_reducible apply Keeps.by (State.linkFault_keeps ..); (· decide))
    | (with_reducible apply Keeps.by (State.logError_keeps ..); (· decide))
    | (with_reducible apply Keeps.by (State.popFrame_keeps ..); (· decide))
    | (with_reducible apply Keeps.by (State.sendAbort_keeps ..); (· decide))
    | split

theorem State.mergeFrame_keeps (s : State) (p : Fin 4) (t : Ticket) (e : Exch) (f : Frame) (pay : Payload) :
    Keeps [.counters, .outs, .ports, .tickets] s (State.mergeFrame s p t e f pay) := by
  unfold State.mergeFrame
  repeat' first
    | with_reducible assumption
    | with_reducible exact Keeps.refl _ _
    | (with_reducible apply Keeps.by (State.modRun_keeps ..); (· decide))
    | (with_reducible apply Keeps.by (State.popFrame_keeps ..); (· decide))
    | (with_reducible apply Keeps.by (State.sendDown_keeps ..); (· decide))
    | split

theorem State.takeCheck_keeps (s : State) (p : Fin 4) (t : Ticket) (r : Running) (f : Frame) :
    Keeps [.abortSeen, .counters, .free, .mem, .outs, .ports, .reads, .regions, .tickets, .writes, .written] s (State.takeCheck s p t r f) := by
  unfold State.takeCheck
  repeat' first
    | with_reducible assumption
    | with_reducible exact Keeps.refl _ _
    | (with_reducible apply Keeps.by (State.bump_keeps ..); (· decide))
    | (with_reducible apply Keeps.by (State.endLaunch_keeps ..); (· decide))
    | (with_reducible apply Keeps.by (State.modRun_keeps ..); (· decide))
    | (with_reducible apply Keeps.by (State.popFrame_keeps ..); (· decide))
    | (with_reducible apply Keeps.by (State.postAll_keeps ..); (· decide))
    | split
    | dsimp only

theorem State.takeFrame_keeps (s : State) (p : Fin 4) :
    KeepsOpt [.abortSeen, .advancing, .block, .ckpts, .counters, .ctxs, .download, .free, .freshCompletions, .freshHealth, .log, .logWritten, .mem, .outs, .parts, .passed, .pendingCompletions, .pendingHealth, .ports, .preemptDue, .reads, .reasons, .regions, .retries, .sleetRunning, .slices, .startup, .tickets, .tiles, .vault, .whiteoutCause, .whiteoutCount, .window, .writes, .written] s (State.takeFrame s p) := by
  unfold State.takeFrame
  repeat' first
    | with_reducible assumption
    | with_reducible exact Keeps.refl _ _
    | with_reducible exact KeepsOpt.none
    | with_reducible apply KeepsOpt.some
    | (with_reducible apply Keeps.by (State.bump_keeps ..); (· decide))
    | (with_reducible apply Keeps.by (State.mergeFrame_keeps ..); (· decide))
    | (with_reducible apply Keeps.by (State.popFrame_keeps ..); (· decide))
    | (with_reducible apply Keeps.by (State.sequenceFault_keeps ..); (· decide))
    | (with_reducible apply Keeps.by (State.takeCheck_keeps ..); (· decide))
    | split
    | dsimp only
    | with_reducible refine Keeps.set_passed ?_

theorem State.pumpOne_keeps (s : State) : KeepsOpt [.abortSeen, .advancing, .block, .ckpts, .counters, .ctxs, .download, .free, .freshCompletions, .freshHealth, .log, .logWritten, .mem, .outs, .parts, .passed, .pendingCompletions, .pendingHealth, .ports, .preemptDue, .reads, .reasons, .regions, .retries, .sleetRunning, .slices, .startup, .tickets, .tiles, .vault, .whiteoutCause, .whiteoutCount, .window, .writes, .written] s s.pumpOne := by
  unfold State.pumpOne
  dsimp only
  split
  · rename_i u l h
    have hu : u ∈ (sortBy runsBefore (s.tickets.filter Ticket.running)).filterMap (fun t => t.run.bind (s.exchStep t)) := by
      rw [h]; exact List.mem_cons_self
    obtain ⟨t, _, ht⟩ := List.mem_filterMap.1 hu
    obtain ⟨r, _, hr⟩ := Option.bind_eq_some_iff.1 ht
    exact KeepsOpt.some ((Keeps.refl _ _).then (KeepsOpt.of (State.exchStep_keeps s t r) hr))
  · refine ⟨fun u hu => ?_⟩
    obtain ⟨p, _, hp⟩ := List.exists_of_findSome?_eq_some hu
    exact (Keeps.refl _ _).then (KeepsOpt.of (State.takeFrame_keeps s p) hp)

theorem State.pumpAll_keeps (n : Nat) (s : State) : Keeps [.abortSeen, .advancing, .block, .ckpts, .counters, .ctxs, .download, .free, .freshCompletions, .freshHealth, .log, .logWritten, .mem, .outs, .parts, .passed, .pendingCompletions, .pendingHealth, .ports, .preemptDue, .reads, .reasons, .regions, .retries, .sleetRunning, .slices, .startup, .tickets, .tiles, .vault, .whiteoutCause, .whiteoutCount, .window, .writes, .written] s (State.pumpAll n s) := by
  induction n generalizing s with
  | zero => exact Keeps.refl _ _
  | succ n ih =>
    unfold State.pumpAll
    split
    · exact ((Keeps.refl _ _).then (KeepsOpt.of (State.pumpOne_keeps ..) (by assumption))).trans (ih _)
    · exact Keeps.refl _ _

theorem State.pump_keeps (s : State) :
    Keeps [.abortSeen, .advancing, .block, .ckpts, .counters, .ctxs, .download, .free, .freshCompletions, .freshHealth, .log, .logWritten, .mem, .outs, .parts, .passed, .pendingCompletions, .pendingHealth, .ports, .preemptDue, .reads, .reasons, .regions, .retries, .sleetRunning, .slices, .startup, .tickets, .tiles, .vault, .whiteoutCause, .whiteoutCount, .window, .writes, .written] s (State.pump s) := by
  unfold State.pump
  repeat' first
    | with_reducible assumption
    | with_reducible exact Keeps.refl _ _
    | (with_reducible apply Keeps.by (State.pumpAll_keeps ..); (· decide))

theorem State.passOver_keeps (s : State) (t : Ticket) (e : Exch) :
    Keeps [.counters, .outs, .passed, .ports, .tickets] s (State.passOver s t e) := by
  unfold State.passOver
  repeat' first
    | with_reducible assumption
    | with_reducible exact Keeps.refl _ _
    | (with_reducible apply Keeps.by (State.modRun_keeps ..); (· decide))
    | (with_reducible apply Keeps.by (State.sendDown_keeps ..); (· decide))
    | split
    | dsimp only
    | with_reducible refine Keeps.set_passed ?_

theorem execPeerDeadline_keeps (ticket : Nat) (s : State) :
    KeepsOut [.abortSeen, .advancing, .block, .ckpts, .counters, .ctxs, .download, .free, .freshCompletions, .freshHealth, .log, .logWritten, .mem, .outs, .parts, .passed, .pendingCompletions, .pendingHealth, .ports, .preemptDue, .reads, .reasons, .regions, .retries, .sleetRunning, .slices, .startup, .tickets, .tiles, .vault, .whiteoutCause, .whiteoutCount, .window, .writes, .written] s (execPeerDeadline ticket s) := by
  unfold execPeerDeadline
  repeat' first
    | with_reducible assumption
    | with_reducible exact Keeps.refl _ _
    | with_reducible exact KeepsOut.fault
    | with_reducible apply KeepsOut.next
    | with_reducible apply State.awake_keeps
    | (with_reducible apply Keeps.by (State.modRun_keeps ..); (· decide))
    | (with_reducible apply Keeps.by (State.passOver_keeps ..); (· decide))
    | (with_reducible apply Keeps.by (State.pump_keeps ..); (· decide))
    | split
    | dsimp only
    | intro _

theorem execStallLimit_keeps (ticket : Nat) (s : State) :
    KeepsOut [.abortSeen, .advancing, .block, .ckpts, .counters, .ctxs, .download, .free, .freshCompletions, .freshHealth, .log, .logWritten, .mem, .outs, .parts, .passed, .pendingCompletions, .pendingHealth, .ports, .preemptDue, .reads, .reasons, .regions, .retries, .sleetRunning, .slices, .startup, .tickets, .tiles, .vault, .whiteoutCause, .whiteoutCount, .window, .writes, .written] s (execStallLimit ticket s) := by
  unfold execStallLimit
  repeat' first
    | with_reducible assumption
    | with_reducible exact Keeps.refl _ _
    | with_reducible exact KeepsOut.fault
    | with_reducible apply KeepsOut.next
    | with_reducible apply State.awake_keeps
    | (with_reducible apply Keeps.by (State.endLaunch_keeps ..); (· decide))
    | (with_reducible apply Keeps.by (State.pump_keeps ..); (· decide))
    | split
    | dsimp only
    | intro _

theorem execCheckDeadline_keeps (ticket : Nat) (s : State) :
    KeepsOut [.abortSeen, .advancing, .block, .ckpts, .counters, .ctxs, .download, .free, .freshCompletions, .freshHealth, .log, .logWritten, .mem, .outs, .parts, .passed, .pendingCompletions, .pendingHealth, .ports, .preemptDue, .reads, .reasons, .regions, .retries, .sleetRunning, .slices, .startup, .tickets, .tiles, .vault, .whiteoutCause, .whiteoutCount, .window, .writes, .written] s (execCheckDeadline ticket s) := by
  unfold execCheckDeadline
  repeat' first
    | with_reducible assumption
    | with_reducible exact Keeps.refl _ _
    | with_reducible exact KeepsOut.fault
    | with_reducible apply KeepsOut.next
    | with_reducible apply State.awake_keeps
    | (with_reducible apply Keeps.by (State.bump_keeps ..); (· decide))
    | (with_reducible apply Keeps.by (State.endLaunch_keeps ..); (· decide))
    | (with_reducible apply Keeps.by (State.pump_keeps ..); (· decide))
    | split
    | dsimp only
    | intro _

end Sys2Proof.Machine
end

