-- ==== Sys2Proof/Laws/KeepsRows.lean ====
section
/-! SUPPORT. What the commands of the ports, the window, the Vault and the checks leave unchanged. -/
set_option Elab.async false
namespace Sys2Proof.Machine

theorem State.readEffect_keeps (s : State) (i : Nat) (sub : Nat) :
    Keeps [.pendingCompletions, .pendingHealth] s (State.readEffect s i sub) := by
  unfold State.readEffect
  repeat' first
    | with_reducible assumption
    | with_reducible exact Keeps.refl _ _
    | split
    | dsimp only
    | with_reducible refine Keeps.set_pendingCompletions ?_
    | with_reducible refine Keeps.set_pendingHealth ?_

theorem State.writeProfile_keeps (s : State) (i : Nat) (sub : Nat) (v : Nat) :
    KeepsOpt [.profile, .profileDigest] s (State.writeProfile s i sub v) := by
  unfold State.writeProfile
  repeat' first
    | with_reducible assumption
    | with_reducible exact Keeps.refl _ _
    | with_reducible exact KeepsOpt.none
    | with_reducible apply KeepsOpt.some
    | with_reducible apply KeepsOpt.map
    | split
    | dsimp only
    | with_reducible refine Keeps.set_profile_profileDigest ?_
    | intro _

theorem State.writeTiming_keeps (s : State) (i : Nat) (sub : Nat) (v : Nat) :
    KeepsOpt [.parts, .settings] s (State.writeTiming s i sub v) := by
  unfold State.writeTiming
  repeat' first
    | with_reducible assumption
    | with_reducible exact Keeps.refl _ _
    | with_reducible exact KeepsOpt.none
    | with_reducible apply KeepsOpt.some
    | (with_reducible apply Keeps.by (State.modPart_keeps ..); (· decide))
    | split
    | dsimp only
    | with_reducible refine Keeps.set_settings ?_

theorem State.writeMgt_keeps (s : State) (i : Nat) (sub : Nat) (v : Nat) :
    KeepsOpt [.settings] s (State.writeMgt s i sub v) := by
  unfold State.writeMgt
  repeat' first
    | with_reducible assumption
    | with_reducible exact Keeps.refl _ _
    | with_reducible exact KeepsOpt.none
    | with_reducible apply KeepsOpt.some
    | split
    | dsimp only
    | with_reducible refine Keeps.set_settings ?_

theorem State.closePart_keeps (s : State) (p : Nat) :
    Keeps [.ctxs, .parts, .regions] s (State.closePart s p) := by
  unfold State.closePart
  repeat' first
    | with_reducible assumption
    | with_reducible exact Keeps.refl _ _
    | (with_reducible apply Keeps.by (State.modPart_keeps ..); (· decide))
    | (with_reducible apply Keeps.by (State.releaseKeptPart_keeps ..); (· decide))

theorem State.writeState_keeps (s : State) (p : Nat) (v : Nat) :
    KeepsOpt [.ckpts, .ctxs, .parts, .regions, .vault] s (State.writeState s p v) := by
  unfold State.writeState
  repeat' first
    | with_reducible assumption
    | with_reducible exact Keeps.refl _ _
    | with_reducible exact KeepsOpt.none
    | with_reducible apply KeepsOpt.some
    | (with_reducible apply Keeps.by (State.checkpointDue_keeps ..); (· decide))
    | (with_reducible apply Keeps.by (State.closePart_keeps ..); (· decide))
    | (with_reducible apply Keeps.by (State.genesisDue_keeps ..); (· decide))
    | (with_reducible apply Keeps.by (State.modPart_keeps ..); (· decide))
    | split
    | dsimp only

theorem State.writeRegion_keeps (s : State) (r : Nat) (sub : Nat) (v : Nat) :
    KeepsOpt [.regions] s (State.writeRegion s r sub v) := by
  unfold State.writeRegion
  repeat' first
    | with_reducible assumption
    | with_reducible exact Keeps.refl _ _
    | with_reducible exact KeepsOpt.none
    | with_reducible apply KeepsOpt.some
    | (with_reducible apply Keeps.by (State.modRegion_keeps ..); (· decide))
    | split
    | dsimp only

theorem State.writeCtx_keeps (s : State) (c : Nat) (v : Nat) :
    KeepsOpt [.ctxs, .regions] s (State.writeCtx s c v) := by
  unfold State.writeCtx
  repeat' first
    | with_reducible assumption
    | with_reducible exact Keeps.refl _ _
    | with_reducible exact KeepsOpt.none
    | with_reducible apply KeepsOpt.some
    | (with_reducible apply Keeps.by (State.modCtx_keeps ..); (· decide))
    | (with_reducible apply Keeps.by (State.releaseKeptOf_keeps ..); (· decide))
    | split

theorem State.writePart_keeps (s : State) (i : Nat) (sub : Nat) (v : Nat) :
    KeepsOpt [.ckpts, .ctxs, .parts, .regions, .vault] s (State.writePart s i sub v) := by
  unfold State.writePart
  repeat' first
    | with_reducible assumption
    | with_reducible exact Keeps.refl _ _
    | with_reducible exact KeepsOpt.none
    | with_reducible apply KeepsOpt.some
    | (with_reducible apply Keeps.by (State.modPart_keeps ..); (· decide))
    | (with_reducible apply KeepsOpt.by (State.writeCtx_keeps ..); (· decide))
    | (with_reducible apply KeepsOpt.by (State.writeRegion_keeps ..); (· decide))
    | (with_reducible apply KeepsOpt.by (State.writeState_keeps ..); (· decide))
    | with_reducible apply KeepsOpt.map
    | split
    | dsimp only
    | intro _

theorem State.renewLinks_keeps (s : State) :
    Keeps [.memberDepth, .outs, .ports] s (State.renewLinks s) := by
  unfold State.renewLinks
  repeat' first
    | with_reducible assumption
    | with_reducible exact Keeps.refl _ _
    | with_reducible apply Keeps.foldl
    | with_reducible apply Keeps.foldl_snd
    | with_reducible apply Keeps.foldl_snd2
    | with_reducible apply Keeps.foldl_st
    | (with_reducible apply Keeps.by (State.modPort_keeps ..); (· decide))
    | (with_reducible apply Keeps.by (State.sendHello_keeps ..); (· decide))
    | split
    | dsimp only
    | with_reducible refine Keeps.set_memberDepth ?_
    | intro _

theorem State.writeReel_keeps (s : State) (i : Nat) (sub : Nat) (v : Nat) :
    KeepsOpt [.memberDepth, .outs, .ports, .settings] s (State.writeReel s i sub v) := by
  unfold State.writeReel
  repeat' first
    | with_reducible assumption
    | with_reducible exact Keeps.refl _ _
    | with_reducible exact KeepsOpt.none
    | with_reducible apply KeepsOpt.some
    | (with_reducible apply Keeps.by (State.modPort_keeps ..); (· decide))
    | (with_reducible apply Keeps.by (State.renewLinks_keeps ..); (· decide))
    | with_reducible apply KeepsOpt.map
    | split
    | dsimp only
    | with_reducible refine Keeps.set_settings ?_
    | intro _

theorem State.writePin_keeps (s : State) (sub : Nat) (v : Nat) :
    KeepsOpt [.abortSeen, .advancing, .block, .ckpts, .counters, .ctxs, .download, .free, .freshCompletions, .mem, .outs, .parts, .pendingCompletions, .ports, .preemptDue, .reads, .regions, .retries, .sleetRunning, .slices, .startup, .tickets, .tiles, .vault, .whiteoutCause, .whiteoutCount, .window, .writes, .written] s (State.writePin s sub v) := by
  unfold State.writePin
  repeat' first
    | with_reducible assumption
    | with_reducible exact Keeps.refl _ _
    | with_reducible exact KeepsOpt.none
    | with_reducible apply KeepsOpt.some
    | (with_reducible apply Keeps.by (State.enterWhiteout_keeps ..); (· decide))
    | (with_reducible apply Keeps.by (State.modTile_keeps ..); (· decide))
    | split

theorem State.writeObject_keeps (s : State) (i : Nat) (sub : Nat) (v : Nat) :
    KeepsOpt [.abortSeen, .advancing, .block, .ckpts, .counters, .ctxs, .download, .free, .freshCompletions, .mem, .memberDepth, .outs, .parts, .pendingCompletions, .ports, .preemptDue, .profile, .profileDigest, .reads, .regions, .retries, .settings, .sleetRunning, .slices, .startup, .tickets, .tiles, .vault, .whiteoutCause, .whiteoutCount, .window, .writes, .written] s (State.writeObject s i sub v) := by
  unfold State.writeObject
  repeat' first
    | with_reducible assumption
    | with_reducible exact Keeps.refl _ _
    | with_reducible exact KeepsOpt.none
    | with_reducible apply KeepsOpt.some
    | (with_reducible apply KeepsOpt.by (State.writeMgt_keeps ..); (· decide))
    | (with_reducible apply KeepsOpt.by (State.writePart_keeps ..); (· decide))
    | (with_reducible apply KeepsOpt.by (State.writePin_keeps ..); (· decide))
    | (with_reducible apply KeepsOpt.by (State.writeProfile_keeps ..); (· decide))
    | (with_reducible apply KeepsOpt.by (State.writeReel_keeps ..); (· decide))
    | (with_reducible apply KeepsOpt.by (State.writeTiming_keeps ..); (· decide))
    | split

theorem State.dictWrite_keeps (s : State) (p : Nat) (i : Nat) (sub : Nat) (v : Bytes) :
    KeepsOpt [.abortSeen, .advancing, .block, .ckpts, .counters, .ctxs, .download, .free, .freshCompletions, .mem, .memberDepth, .outs, .parts, .pendingCompletions, .ports, .preemptDue, .profile, .profileDigest, .reads, .regions, .retries, .settings, .sleetRunning, .slices, .startup, .tickets, .tiles, .vault, .whiteoutCause, .whiteoutCount, .window, .writes, .written] s (State.dictWrite s p i sub v) := by
  unfold State.dictWrite
  repeat' first
    | with_reducible assumption
    | with_reducible exact Keeps.refl _ _
    | with_reducible exact KeepsOpt.none
    | with_reducible apply KeepsOpt.some
    | (with_reducible apply KeepsOpt.by (State.writeObject_keeps ..); (· decide))
    | split

theorem execDict_keeps (ticket : Nat) (s : State) :
    KeepsOut [.abortSeen, .advancing, .block, .ckpts, .counters, .ctxs, .download, .free, .freshCompletions, .mem, .memberDepth, .outs, .parts, .pendingCompletions, .pendingHealth, .ports, .preemptDue, .profile, .profileDigest, .reads, .regions, .retries, .settings, .sleetRunning, .slices, .startup, .tickets, .tiles, .vault, .whiteoutCause, .whiteoutCount, .window, .writes, .written] s (execDict ticket s) := by
  unfold execDict
  repeat' first
    | with_reducible assumption
    | with_reducible exact Keeps.refl _ _
    | with_reducible exact KeepsOut.fault
    | with_reducible apply KeepsOut.next
    | (with_reducible apply Keeps.by_opt (State.dictWrite_keeps ..); (· assumption); (· decide))
    | with_reducible apply State.engine_keeps
    | decide
    | (with_reducible apply Keeps.by (State.finishWith_keeps ..); (· decide))
    | (with_reducible apply Keeps.by (State.readEffect_keeps ..); (· decide))
    | (with_reducible apply Keeps.by (State.writeHost_keeps ..); (· decide))
    | split
    | dsimp only
    | intro _

theorem State.refetchSet_keeps (s : State) (t : Ticket) (n : Nat) :
    Keeps [.counters, .outs, .reads, .retries, .tickets, .writes] s (State.refetchSet s t n) := by
  unfold State.refetchSet
  repeat' first
    | with_reducible assumption
    | with_reducible exact Keeps.refl _ _
    | (with_reducible apply Keeps.by (State.modRun_keeps ..); (· decide))
    | (with_reducible apply Keeps.by (State.requestSet_keeps ..); (· decide))
    | (with_reducible apply Keeps.by (State.startRetry_keeps ..); (· decide))

theorem State.badSet_keeps (s : State) (t : Ticket) (r : Running) (n : Nat) (kind : ErrKind) :
    Keeps [.abortSeen, .counters, .free, .log, .logWritten, .mem, .outs, .ports, .reads, .regions, .retries, .tickets, .writes, .written] s (State.badSet s t r n kind) := by
  unfold State.badSet
  repeat' first
    | with_reducible assumption
    | with_reducible exact Keeps.refl _ _
    | (with_reducible apply Keeps.by (State.bump_keeps ..); (· decide))
    | (with_reducible apply Keeps.by (State.endLaunch_keeps ..); (· decide))
    | (with_reducible apply Keeps.by (State.logError_keeps ..); (· decide))
    | (with_reducible apply Keeps.by (State.refetchSet_keeps ..); (· decide))
    | split

theorem State.badMeta_keeps (s : State) (t : Ticket) (r : Running) (n : Nat) (counted : Bool) :
    Keeps [.abortSeen, .counters, .free, .mem, .outs, .ports, .reads, .regions, .retries, .tickets, .writes, .written] s (State.badMeta s t r n counted) := by
  unfold State.badMeta
  repeat' first
    | with_reducible assumption
    | with_reducible exact Keeps.refl _ _
    | (with_reducible apply Keeps.by (State.endLaunch_keeps ..); (· decide))
    | (with_reducible apply Keeps.by (State.mismatch_keeps ..); (· decide))
    | (with_reducible apply Keeps.by (State.refetchSet_keeps ..); (· decide))
    | split

theorem State.judgeSet_keeps (s : State) (t : Ticket) (r : Running) (n : Nat) (v : SetVerdict) :
    Keeps [.abortSeen, .counters, .free, .log, .logWritten, .mem, .outs, .ports, .reads, .regions, .retries, .tickets, .writes, .written] s (State.judgeSet s t r n v) := by
  unfold State.judgeSet
  repeat' first
    | with_reducible assumption
    | with_reducible exact Keeps.refl _ _
    | (with_reducible apply Keeps.by (State.badMeta_keeps ..); (· decide))
    | (with_reducible apply Keeps.by (State.badSet_keeps ..); (· decide))
    | (with_reducible apply Keeps.by (State.modRun_keeps ..); (· decide))
    | split

theorem State.doSelect_keeps (s : State) (t : Ticket) (r : Running) :
    Keeps [.abortSeen, .advancing, .block, .ckpts, .counters, .ctxs, .download, .free, .freshCompletions, .freshHealth, .log, .logWritten, .mem, .outs, .parts, .passed, .pendingCompletions, .pendingHealth, .ports, .preemptDue, .reads, .reasons, .regions, .retries, .sleetRunning, .slices, .startup, .tickets, .tiles, .vault, .whiteoutCause, .whiteoutCount, .window, .writes, .written] s (State.doSelect s t r) := by
  unfold State.doSelect
  repeat' first
    | with_reducible assumption
    | with_reducible exact Keeps.refl _ _
    | (with_reducible apply Keeps.by (State.addFlags_keeps ..); (· decide))
    | (with_reducible apply Keeps.by (State.markSleet_keeps ..); (· decide))
    | (with_reducible apply Keeps.by (State.pump_keeps ..); (· decide))
    | (with_reducible apply Keeps.by (State.scoreAll_keeps ..); (· decide))
    | (with_reducible apply Keeps.by (State.startRound1_keeps ..); (· decide))

theorem State.scoreOutputs_keeps (s : State) (t : Ticket) (p : Nat) (scores : List Score) :
    Keeps [.mem, .outs, .reads, .tickets, .writes, .written] s (State.scoreOutputs s t p scores) := by
  unfold State.scoreOutputs
  repeat' first
    | with_reducible assumption
    | with_reducible exact Keeps.refl _ _
    | with_reducible apply Keeps.foldl
    | with_reducible apply Keeps.foldl_snd
    | with_reducible apply Keeps.foldl_snd2
    | with_reducible apply Keeps.foldl_st
    | (with_reducible apply Keeps.by (State.writeHost_keeps ..); (· decide))
    | split
    | dsimp only
    | intro _

theorem State.keepRows_keeps (s : State) (t : Ticket) (rows : List CastRow) :
    Keeps [.firn, .regions] s (State.keepRows s t rows) := by
  unfold State.keepRows
  repeat' first
    | with_reducible assumption
    | with_reducible exact Keeps.refl _ _
    | (with_reducible apply Keeps.by (State.modRegion_keeps ..); (· decide))
    | split
    | dsimp only
    | with_reducible refine Keeps.set_firn ?_ ?_
    | with_reducible exact fun h => Memory.store_wf h _ _

theorem State.doScore_keeps (s : State) (t : Ticket) :
    Keeps [.counters, .ctxs, .firn, .free, .mem, .outs, .ports, .reads, .regions, .tickets, .tiles, .writes, .written] s (State.doScore s t) := by
  unfold State.doScore
  repeat' first
    | with_reducible assumption
    | with_reducible exact Keeps.refl _ _
    | with_reducible apply Keeps.foldl
    | with_reducible apply Keeps.foldl_snd
    | with_reducible apply Keeps.foldl_snd2
    | with_reducible apply Keeps.foldl_st
    | (with_reducible apply Keeps.by (State.addFlags_keeps ..); (· decide))
    | (with_reducible apply Keeps.by (State.finishWith_keeps ..); (· decide))
    | (with_reducible apply Keeps.by (State.keepRows_keeps ..); (· decide))
    | (with_reducible apply Keeps.by (State.modCtx_keeps ..); (· decide))
    | (with_reducible apply Keeps.by (State.scoreAll_keeps ..); (· decide))
    | (with_reducible apply Keeps.by (State.scoreOutputs_keeps ..); (· decide))
    | split
    | dsimp only
    | intro _

theorem execNop_keeps (ticket : Nat) (s : State) :
    KeepsOut [.counters, .outs, .ports, .tickets] s (execNop ticket s) := by
  unfold execNop
  repeat' first
    | with_reducible assumption
    | with_reducible exact Keeps.refl _ _
    | with_reducible exact KeepsOut.fault
    | with_reducible apply KeepsOut.next
    | with_reducible apply State.engine_keeps
    | decide
    | (with_reducible apply Keeps.by (State.finishWith_keeps ..); (· decide))
    | split
    | dsimp only
    | intro _

theorem execStep_keeps (ticket : Nat) (s : State) :
    KeepsOut [.abortSeen, .advancing, .background, .block, .ckpts, .counters, .ctxs, .download, .free, .freshCompletions, .freshHealth, .log, .logWritten, .mem, .outs, .parts, .passed, .pendingCompletions, .pendingHealth, .ports, .preemptDue, .reads, .reasons, .regions, .retries, .seedings, .sleetRunning, .slices, .startup, .tickets, .tiles, .vault, .whiteoutCause, .whiteoutCount, .window, .writes, .written] s (execStep ticket s) := by
  unfold execStep
  repeat' first
    | with_reducible assumption
    | with_reducible exact Keeps.refl _ _
    | with_reducible exact KeepsOut.fault
    | with_reducible apply KeepsOut.next
    | (with_reducible apply Keeps.by (State.doSelect_keeps ..); (· decide))
    | with_reducible apply State.engine_keeps
    | decide
    | with_reducible apply State.unlessStale_keeps
    | decide
    | split
    | dsimp only
    | intro _

theorem execScore_keeps (ticket : Nat) (s : State) :
    KeepsOut [.abortSeen, .advancing, .background, .block, .ckpts, .counters, .ctxs, .download, .firn, .free, .freshCompletions, .freshHealth, .log, .logWritten, .mem, .outs, .parts, .pendingCompletions, .pendingHealth, .ports, .preemptDue, .reads, .reasons, .regions, .retries, .seedings, .sleetRunning, .slices, .startup, .tickets, .tiles, .vault, .whiteoutCause, .whiteoutCount, .window, .writes, .written] s (execScore ticket s) := by
  unfold execScore
  repeat' first
    | with_reducible assumption
    | with_reducible exact Keeps.refl _ _
    | with_reducible exact KeepsOut.fault
    | with_reducible apply KeepsOut.next
    | (with_reducible apply Keeps.by (State.doScore_keeps ..); (· decide))
    | with_reducible apply State.engine_keeps
    | decide
    | with_reducible apply State.unlessStale_keeps
    | decide
    | split
    | dsimp only
    | intro _

theorem execSettle_keeps (ticket : Nat) (s : State) :
    KeepsOut [.abortSeen, .advancing, .background, .block, .ckpts, .counters, .ctxs, .download, .free, .freshCompletions, .freshHealth, .log, .logWritten, .mem, .outs, .parts, .passed, .pendingCompletions, .pendingHealth, .ports, .preemptDue, .reads, .reasons, .regions, .retries, .seedings, .sleetRunning, .slices, .startup, .tickets, .tiles, .vault, .whiteoutCause, .whiteoutCount, .window, .writes, .written] s (execSettle ticket s) := by
  unfold execSettle
  repeat' first
    | with_reducible assumption
    | with_reducible exact Keeps.refl _ _
    | with_reducible exact KeepsOut.fault
    | with_reducible apply KeepsOut.next
    | with_reducible apply State.engine_keeps
    | decide
    | (with_reducible apply Keeps.by (State.markSleet_keeps ..); (· decide))
    | (with_reducible apply Keeps.by (State.pump_keeps ..); (· decide))
    | (with_reducible apply Keeps.by (State.startRound1_keeps ..); (· decide))
    | with_reducible apply State.unlessStale_keeps
    | decide
    | split
    | dsimp only
    | intro _

theorem execVerify_keeps (ticket : Nat) (s : State) :
    KeepsOut [.abortSeen, .advancing, .background, .block, .ckpts, .counters, .ctxs, .download, .free, .freshCompletions, .freshHealth, .log, .logWritten, .mem, .outs, .parts, .passed, .pendingCompletions, .pendingHealth, .ports, .preemptDue, .reads, .reasons, .regions, .retries, .seedings, .sleetRunning, .slices, .startup, .tickets, .tiles, .vault, .whiteoutCause, .whiteoutCount, .window, .writes, .written] s (execVerify ticket s) := by
  unfold execVerify
  repeat' first
    | with_reducible assumption
    | with_reducible exact Keeps.refl _ _
    | with_reducible exact KeepsOut.fault
    | with_reducible apply KeepsOut.next
    | (with_reducible apply Keeps.by (State.doSelect_keeps ..); (· decide))
    | with_reducible apply State.engine_keeps
    | decide
    | with_reducible apply State.unlessStale_keeps
    | decide
    | split
    | dsimp only
    | intro _

theorem execBeam_keeps (ticket : Nat) (s : State) :
    KeepsOut [.abortSeen, .advancing, .background, .block, .ckpts, .counters, .ctxs, .download, .free, .freshCompletions, .freshHealth, .log, .logWritten, .mem, .outs, .parts, .passed, .pendingCompletions, .pendingHealth, .ports, .preemptDue, .reads, .reasons, .regions, .retries, .seedings, .sleetRunning, .slices, .startup, .tickets, .tiles, .vault, .whiteoutCause, .whiteoutCount, .window, .writes, .written] s (execBeam ticket s) := by
  unfold execBeam
  repeat' first
    | with_reducible assumption
    | with_reducible exact Keeps.refl _ _
    | with_reducible exact KeepsOut.fault
    | with_reducible apply KeepsOut.next
    | (with_reducible apply Keeps.by (State.doSelect_keeps ..); (· decide))
    | with_reducible apply State.engine_keeps
    | decide
    | with_reducible apply State.unlessStale_keeps
    | decide
    | split
    | dsimp only
    | intro _

theorem execLoss_keeps (ticket : Nat) (s : State) :
    KeepsOut [.abortSeen, .advancing, .background, .block, .ckpts, .counters, .ctxs, .download, .free, .freshCompletions, .freshHealth, .log, .logWritten, .mem, .outs, .parts, .passed, .pendingCompletions, .pendingHealth, .ports, .preemptDue, .reads, .reasons, .regions, .retries, .seedings, .sleetRunning, .slices, .startup, .tickets, .tiles, .vault, .whiteoutCause, .whiteoutCount, .window, .writes, .written] s (execLoss ticket s) := by
  unfold execLoss
  repeat' first
    | with_reducible assumption
    | with_reducible exact Keeps.refl _ _
    | with_reducible exact KeepsOut.fault
    | with_reducible apply KeepsOut.next
    | (with_reducible apply Keeps.by (State.doLoss_keeps ..); (· decide))
    | with_reducible apply State.engine_keeps
    | decide
    | (with_reducible apply Keeps.by (State.pump_keeps ..); (· decide))
    | with_reducible apply State.unlessStale_keeps
    | decide
    | split
    | dsimp only
    | intro _

theorem execGrad_keeps (ticket : Nat) (s : State) :
    KeepsOut [.abortSeen, .advancing, .background, .block, .ckpts, .counters, .ctxs, .download, .free, .freshCompletions, .freshHealth, .log, .logWritten, .mem, .outs, .parts, .passed, .pendingCompletions, .pendingHealth, .ports, .preemptDue, .reads, .reasons, .regions, .retries, .seedings, .sleetRunning, .slices, .startup, .tickets, .tiles, .vault, .whiteoutCause, .whiteoutCount, .window, .writes, .written] s (execGrad ticket s) := by
  unfold execGrad
  repeat' first
    | with_reducible assumption
    | with_reducible exact Keeps.refl _ _
    | with_reducible exact KeepsOut.fault
    | with_reducible apply KeepsOut.next
    | (with_reducible apply Keeps.by (State.doGrad_keeps ..); (· decide))
    | with_reducible apply State.engine_keeps
    | decide
    | (with_reducible apply Keeps.by (State.pump_keeps ..); (· decide))
    | with_reducible apply State.unlessStale_keeps
    | decide
    | split
    | dsimp only
    | intro _

theorem execReduce_keeps (ticket : Nat) (s : State) :
    KeepsOut [.abortSeen, .advancing, .block, .ckpts, .counters, .ctxs, .download, .free, .freshCompletions, .freshHealth, .log, .logWritten, .mem, .outs, .parts, .passed, .pendingCompletions, .pendingHealth, .ports, .preemptDue, .reads, .reasons, .regions, .retries, .sleetRunning, .slices, .startup, .tickets, .tiles, .vault, .whiteoutCause, .whiteoutCount, .window, .writes, .written] s (execReduce ticket s) := by
  unfold execReduce
  repeat' first
    | with_reducible assumption
    | with_reducible exact Keeps.refl _ _
    | with_reducible exact KeepsOut.fault
    | with_reducible apply KeepsOut.next
    | (with_reducible apply Keeps.by (State.doReduce_keeps ..); (· decide))
    | with_reducible apply State.engine_keeps
    | decide
    | (with_reducible apply Keeps.by (State.pump_keeps ..); (· decide))
    | split
    | dsimp only
    | intro _

theorem execFunc_keeps (ticket : Nat) (s : State) :
    KeepsOut [.counters, .free, .mem, .outs, .ports, .reads, .tickets, .writes, .written] s (execFunc ticket s) := by
  unfold execFunc
  repeat' first
    | with_reducible assumption
    | with_reducible exact Keeps.refl _ _
    | with_reducible exact KeepsOut.fault
    | with_reducible apply KeepsOut.next
    | (with_reducible apply Keeps.by (State.doFunc_keeps ..); (· decide))
    | with_reducible apply State.engine_keeps
    | decide
    | split
    | dsimp only
    | intro _

theorem execFill_keeps (ticket : Nat) (s : State) :
    KeepsOut [.counters, .free, .mem, .outs, .ports, .reads, .tickets, .writes, .written] s (execFill ticket s) := by
  unfold execFill
  repeat' first
    | with_reducible assumption
    | with_reducible exact Keeps.refl _ _
    | with_reducible exact KeepsOut.fault
    | with_reducible apply KeepsOut.next
    | (with_reducible apply Keeps.by (State.doFill_keeps ..); (· decide))
    | with_reducible apply State.engine_keeps
    | decide
    | split
    | dsimp only
    | intro _

theorem execDigest_keeps (ticket : Nat) (s : State) :
    KeepsOut [.counters, .mem, .outs, .ports, .reads, .tickets, .writes, .written] s (execDigest ticket s) := by
  unfold execDigest
  repeat' first
    | with_reducible assumption
    | with_reducible exact Keeps.refl _ _
    | with_reducible exact KeepsOut.fault
    | with_reducible apply KeepsOut.next
    | (with_reducible apply Keeps.by (State.doDigest_keeps ..); (· decide))
    | with_reducible apply State.engine_keeps
    | decide
    | split
    | dsimp only
    | intro _

theorem State.loadDone_keeps (s : State) (t : Ticket) :
    Keeps [.counters, .firn, .outs, .ports, .regions, .tickets] s (State.loadDone s t) := by
  unfold State.loadDone
  repeat' first
    | with_reducible assumption
    | with_reducible exact Keeps.refl _ _
    | (with_reducible apply Keeps.by (State.finishWith_keeps ..); (· decide))
    | (with_reducible apply Keeps.by (State.modRegion_keeps ..); (· decide))
    | split
    | dsimp only
    | with_reducible refine Keeps.set_firn ?_ ?_
    | with_reducible exact fun h => Memory.store_wf h _ _

theorem execLoadw_keeps (ticket : Nat) (s : State) :
    KeepsOut [.abortSeen, .counters, .firn, .free, .log, .logWritten, .mem, .outs, .ports, .reads, .regions, .retries, .tickets, .writes, .written] s (execLoadw ticket s) := by
  unfold execLoadw
  repeat' first
    | with_reducible assumption
    | with_reducible exact Keeps.refl _ _
    | with_reducible exact KeepsOut.fault
    | with_reducible apply KeepsOut.next
    | with_reducible apply State.engine_keeps
    | decide
    | (with_reducible apply Keeps.by (State.judgeSet_keeps ..); (· decide))
    | (with_reducible apply Keeps.by (State.loadDone_keeps ..); (· decide))
    | split
    | dsimp only
    | intro _

theorem execEvictw_keeps (ticket : Nat) (s : State) :
    KeepsOut [.counters, .firn, .outs, .ports, .regions, .tickets] s (execEvictw ticket s) := by
  unfold execEvictw
  repeat' first
    | with_reducible assumption
    | with_reducible exact Keeps.refl _ _
    | with_reducible exact KeepsOut.fault
    | with_reducible apply KeepsOut.next
    | with_reducible apply State.engine_keeps
    | decide
    | (with_reducible apply Keeps.by (State.finishWith_keeps ..); (· decide))
    | (with_reducible apply Keeps.by (State.modRegion_keeps ..); (· decide))
    | split
    | dsimp only
    | with_reducible refine Keeps.set_firn ?_ ?_
    | with_reducible exact fun h => Memory.store_wf h _ _
    | with_reducible exact fun h => Memory.storeHost_wf h _ _
    | intro _

theorem execSave_keeps (ticket : Nat) (s : State) :
    KeepsOut [.counters, .mem, .outs, .ports, .reads, .tickets, .writes, .written] s (execSave ticket s) := by
  unfold execSave
  repeat' first
    | with_reducible assumption
    | with_reducible exact Keeps.refl _ _
    | with_reducible exact KeepsOut.fault
    | with_reducible apply KeepsOut.next
    | with_reducible apply State.engine_keeps
    | decide
    | (with_reducible apply Keeps.by (State.finishWith_keeps ..); (· decide))
    | (with_reducible apply Keeps.by (State.writeHost_keeps ..); (· decide))
    | split
    | dsimp only
    | intro _

theorem execRestore_keeps (ticket : Nat) (s : State) :
    KeepsOut [.counters, .ctxs, .outs, .ports, .seedings, .sleetRunning, .slices, .tickets, .vault] s (execRestore ticket s) := by
  unfold execRestore
  repeat' first
    | with_reducible assumption
    | with_reducible exact Keeps.refl _ _
    | with_reducible exact KeepsOut.fault
    | with_reducible apply KeepsOut.next
    | (with_reducible apply Keeps.by (State.bump_keeps ..); (· decide))
    | with_reducible apply State.engine_keeps
    | decide
    | (with_reducible apply Keeps.by (State.finishWith_keeps ..); (· decide))
    | (with_reducible apply Keeps.by (State.modCtx_keeps ..); (· decide))
    | (with_reducible apply Keeps.by (State.modRun_keeps ..); (· decide))
    | (with_reducible apply Keeps.by (State.seedSleet_keeps ..); (· decide))
    | split
    | dsimp only
    | intro _

theorem execWaitcount_keeps (ticket : Nat) (s : State) :
    KeepsOut [.counters, .outs, .ports, .tickets] s (execWaitcount ticket s) := by
  unfold execWaitcount
  repeat' first
    | with_reducible assumption
    | with_reducible exact Keeps.refl _ _
    | with_reducible exact KeepsOut.fault
    | with_reducible apply KeepsOut.next
    | with_reducible apply State.engine_keeps
    | decide
    | (with_reducible apply Keeps.by (State.finishWith_keeps ..); (· decide))
    | split
    | dsimp only
    | intro _

theorem execFence_keeps (ticket : Nat) (s : State) :
    KeepsOut [.counters, .outs, .ports, .tickets] s (execFence ticket s) := by
  unfold execFence
  repeat' first
    | with_reducible assumption
    | with_reducible exact Keeps.refl _ _
    | with_reducible exact KeepsOut.fault
    | with_reducible apply KeepsOut.next
    | with_reducible apply State.engine_keeps
    | decide
    | (with_reducible apply Keeps.by (State.finishWith_keeps ..); (· decide))
    | split
    | dsimp only
    | intro _

theorem State.cancelTicket_keeps (s : State) (q : Nat) :
    Keeps [.abortSeen, .ckpts, .counters, .ctxs, .free, .freshCompletions, .mem, .outs, .parts, .pendingCompletions, .ports, .reads, .regions, .tickets, .writes, .written] s (State.cancelTicket s q) := by
  unfold State.cancelTicket
  repeat' first
    | with_reducible assumption
    | with_reducible exact Keeps.refl _ _
    | (with_reducible apply Keeps.by (State.endLaunch_keeps ..); (· decide))
    | (with_reducible apply Keeps.by (State.finish_keeps ..); (· decide))
    | (with_reducible apply Keeps.by (State.freeBanks_keeps ..); (· decide))
    | (with_reducible apply Keeps.by (State.modTicket_keeps _ _ _ _); (· decide))
    | ((with_reducible intro _); exact rfl)
    | split

theorem execHalt_keeps (ticket : Nat) (s : State) :
    KeepsOut [.abortSeen, .ckpts, .counters, .ctxs, .free, .freshCompletions, .mem, .outs, .parts, .pendingCompletions, .ports, .reads, .regions, .tickets, .writes, .written] s (execHalt ticket s) := by
  unfold execHalt
  repeat' first
    | with_reducible assumption
    | with_reducible exact Keeps.refl _ _
    | with_reducible exact KeepsOut.fault
    | with_reducible apply KeepsOut.next
    | with_reducible apply Keeps.foldl
    | with_reducible apply Keeps.foldl_snd
    | with_reducible apply Keeps.foldl_snd2
    | with_reducible apply Keeps.foldl_st
    | (with_reducible apply Keeps.by (State.cancelTicket_keeps ..); (· decide))
    | with_reducible apply State.engine_keeps
    | decide
    | (with_reducible apply Keeps.by (State.finishWith_keeps ..); (· decide))
    | (with_reducible apply Keeps.by (State.modPart_keeps ..); (· decide))
    | (with_reducible apply Keeps.by (State.releaseKeptPart_keeps ..); (· decide))
    | split
    | dsimp only
    | intro _

theorem State.onError_keeps {w : List Fld} {s t : State} {f : State → Out} (h : Keeps w s t)
    (k : ∀ u, Keeps w s u → KeepsOut w s (f u)) : KeepsOut w s (t.onError f) := by
  refine State.awake_keeps h fun u hu => ?_
  try dsimp only
  split
  · exact KeepsOut.next hu
  · exact k u hu

theorem State.pendColumn_keeps (s : State) (tile : Nat) (col : Nat) :
    Keeps [.tiles] s (State.pendColumn s tile col) := by
  unfold State.pendColumn
  repeat' first
    | with_reducible assumption
    | with_reducible exact Keeps.refl _ _
    | (with_reducible apply Keeps.by (State.modTile_keeps ..); (· decide))

theorem State.spoilCell_keeps (s : State) (tile : Nat) (row : Nat) (col : Nat) :
    Keeps [.tiles] s (State.spoilCell s tile row col) := by
  unfold State.spoilCell
  repeat' first
    | with_reducible assumption
    | with_reducible exact Keeps.refl _ _
    | (with_reducible apply Keeps.by (State.modTile_keeps ..); (· decide))

theorem execCellResidueError_keeps (tile : Nat) (row : Nat) (col : Nat) (use : Sys2Proof.ArrayUse) (s : State) :
    KeepsOut [.abortSeen, .advancing, .background, .block, .ckpts, .counters, .ctxs, .download, .free, .freshCompletions, .freshHealth, .log, .logWritten, .mem, .outs, .parts, .pendingCompletions, .pendingHealth, .ports, .preemptDue, .reads, .reasons, .regions, .retries, .seedings, .sleetRunning, .slices, .startup, .tickets, .tiles, .vault, .whiteoutCause, .whiteoutCount, .window, .writes, .written] s (execCellResidueError tile row col use s) := by
  unfold execCellResidueError
  repeat' first
    | with_reducible assumption
    | with_reducible exact Keeps.refl _ _
    | with_reducible exact KeepsOut.fault
    | with_reducible apply KeepsOut.next
    | (with_reducible apply Keeps.by (State.bump_keeps ..); (· decide))
    | (with_reducible apply Keeps.by (State.hit_keeps ..); (· decide))
    | with_reducible apply State.onError_keeps
    | (with_reducible apply Keeps.by (State.pendColumn_keeps ..); (· decide))
    | split
    | dsimp only
    | intro _

theorem execRegisterParityError_keeps (tile : Nat) (row : Nat) (col : Nat) (use : Sys2Proof.ArrayUse) (s : State) :
    KeepsOut [.abortSeen, .advancing, .background, .block, .ckpts, .counters, .ctxs, .download, .free, .freshCompletions, .freshHealth, .log, .logWritten, .mem, .outs, .parts, .pendingCompletions, .pendingHealth, .ports, .preemptDue, .reads, .reasons, .regions, .retries, .seedings, .sleetRunning, .slices, .startup, .tickets, .tiles, .vault, .whiteoutCause, .whiteoutCount, .window, .writes, .written] s (execRegisterParityError tile row col use s) := by
  unfold execRegisterParityError
  repeat' first
    | with_reducible assumption
    | with_reducible exact Keeps.refl _ _
    | with_reducible exact KeepsOut.fault
    | with_reducible apply KeepsOut.next
    | (with_reducible apply Keeps.by (State.bump_keeps ..); (· decide))
    | (with_reducible apply Keeps.by (State.hit_keeps ..); (· decide))
    | with_reducible apply State.onError_keeps
    | (with_reducible apply Keeps.by (State.pendColumn_keeps ..); (· decide))
    | (with_reducible apply Keeps.by (State.spoilCell_keeps ..); (· decide))
    | split
    | dsimp only
    | intro _

theorem execAccumulatorResidueError_keeps (bank : Sys2Proof.AccBank) (use : Sys2Proof.ArrayUse) (s : State) :
    KeepsOut [.abortSeen, .advancing, .background, .block, .ckpts, .counters, .ctxs, .download, .free, .freshCompletions, .freshHealth, .log, .logWritten, .mem, .outs, .parts, .pendingCompletions, .pendingHealth, .ports, .preemptDue, .reads, .reasons, .regions, .retries, .seedings, .sleetRunning, .slices, .startup, .tickets, .tiles, .vault, .whiteoutCause, .whiteoutCount, .window, .writes, .written] s (execAccumulatorResidueError bank use s) := by
  unfold execAccumulatorResidueError
  repeat' first
    | with_reducible assumption
    | with_reducible exact Keeps.refl _ _
    | with_reducible exact KeepsOut.fault
    | with_reducible apply KeepsOut.next
    | (with_reducible apply Keeps.by (State.bump_keeps ..); (· decide))
    | (with_reducible apply Keeps.by (State.hit_keeps ..); (· decide))
    | with_reducible apply State.onError_keeps
    | (with_reducible apply Keeps.by (State.pendColumn_keeps ..); (· decide))
    | split
    | dsimp only
    | intro _

theorem execAccumulatorUncorrectable_keeps (bank : Sys2Proof.AccBank) (use : Sys2Proof.ArrayUse) (s : State) :
    KeepsOut [.abortSeen, .advancing, .background, .block, .ckpts, .counters, .ctxs, .download, .free, .freshCompletions, .freshHealth, .log, .logWritten, .mem, .outs, .parts, .pendingCompletions, .pendingHealth, .ports, .preemptDue, .reads, .reasons, .regions, .retries, .seedings, .sleetRunning, .slices, .startup, .tickets, .tiles, .vault, .whiteoutCause, .whiteoutCount, .window, .writes, .written] s (execAccumulatorUncorrectable bank use s) := by
  unfold execAccumulatorUncorrectable
  repeat' first
    | with_reducible assumption
    | with_reducible exact Keeps.refl _ _
    | with_reducible exact KeepsOut.fault
    | with_reducible apply KeepsOut.next
    | (with_reducible apply Keeps.by (State.bump_keeps ..); (· decide))
    | (with_reducible apply Keeps.by (State.hit_keeps ..); (· decide))
    | with_reducible apply State.onError_keeps
    | split
    | dsimp only
    | intro _

theorem execLaneMismatch_keeps (slice : Nat) (unit : Sys2Proof.LaneUnit) (use : Sys2Proof.LaneUse) (ticket : Option Nat) (s : State) :
    KeepsOut [.abortSeen, .advancing, .background, .block, .ckpts, .counters, .ctxs, .download, .free, .freshCompletions, .freshHealth, .log, .logWritten, .mem, .outs, .parts, .pendingCompletions, .pendingHealth, .ports, .preemptDue, .reads, .reasons, .regions, .retries, .seedings, .sleetRunning, .slices, .startup, .tickets, .tiles, .vault, .whiteoutCause, .whiteoutCount, .window, .writes, .written] s (execLaneMismatch slice unit use ticket s) := by
  unfold execLaneMismatch
  repeat' first
    | with_reducible assumption
    | with_reducible exact Keeps.refl _ _
    | with_reducible exact KeepsOut.fault
    | with_reducible apply KeepsOut.next
    | (with_reducible apply Keeps.by (State.bump_keeps ..); (· decide))
    | (with_reducible apply Keeps.by (State.detect_keeps ..); (· decide))
    | with_reducible apply State.onError_keeps
    | split
    | dsimp only
    | intro _

theorem execMoraineMismatch_keeps (ticket : Option Nat) (s : State) :
    KeepsOut [.abortSeen, .advancing, .background, .block, .ckpts, .counters, .ctxs, .download, .free, .freshCompletions, .freshHealth, .log, .logWritten, .mem, .outs, .parts, .pendingCompletions, .pendingHealth, .ports, .preemptDue, .reads, .reasons, .regions, .retries, .seedings, .sleetRunning, .slices, .startup, .tickets, .tiles, .vault, .whiteoutCause, .whiteoutCount, .window, .writes, .written] s (execMoraineMismatch ticket s) := by
  unfold execMoraineMismatch
  repeat' first
    | with_reducible assumption
    | with_reducible exact Keeps.refl _ _
    | with_reducible exact KeepsOut.fault
    | with_reducible apply KeepsOut.next
    | (with_reducible apply Keeps.by (State.bump_keeps ..); (· decide))
    | (with_reducible apply Keeps.by (State.hit_keeps ..); (· decide))
    | with_reducible apply State.onError_keeps
    | split
    | dsimp only
    | intro _

theorem execFlurryMismatch_keeps (unit : Sys2Proof.FlurryUnit) (ticket : Option Nat) (s : State) :
    KeepsOut [.abortSeen, .advancing, .background, .block, .ckpts, .counters, .ctxs, .download, .free, .freshCompletions, .freshHealth, .log, .logWritten, .mem, .outs, .parts, .pendingCompletions, .pendingHealth, .ports, .preemptDue, .reads, .reasons, .regions, .retries, .seedings, .sleetRunning, .slices, .startup, .tickets, .tiles, .vault, .whiteoutCause, .whiteoutCount, .window, .writes, .written] s (execFlurryMismatch unit ticket s) := by
  unfold execFlurryMismatch
  repeat' first
    | with_reducible assumption
    | with_reducible exact Keeps.refl _ _
    | with_reducible exact KeepsOut.fault
    | with_reducible apply KeepsOut.next
    | (with_reducible apply Keeps.by (State.bump_keeps ..); (· decide))
    | (with_reducible apply Keeps.by (State.detect_keeps ..); (· decide))
    | (with_reducible apply Keeps.by (State.escalate_keeps ..); (· decide))
    | (with_reducible apply Keeps.by (State.hit_keeps ..); (· decide))
    | with_reducible apply State.onError_keeps
    | split
    | dsimp only
    | intro _

theorem execSleetParityError_keeps (slice : Nat) (s : State) :
    KeepsOut [.abortSeen, .advancing, .background, .block, .ckpts, .counters, .ctxs, .download, .free, .freshCompletions, .log, .logWritten, .mem, .outs, .parts, .pendingCompletions, .ports, .preemptDue, .reads, .reasons, .regions, .retries, .seedings, .sleetRunning, .slices, .startup, .tickets, .tiles, .vault, .whiteoutCause, .whiteoutCount, .window, .writes, .written] s (execSleetParityError slice s) := by
  unfold execSleetParityError
  repeat' first
    | with_reducible assumption
    | with_reducible exact Keeps.refl _ _
    | with_reducible exact KeepsOut.fault
    | with_reducible apply KeepsOut.next
    | (with_reducible apply Keeps.by (State.bump_keeps ..); (· decide))
    | with_reducible apply State.onError_keeps
    | (with_reducible apply Keeps.by (State.perform_keeps ..); (· decide))
    | split
    | dsimp only
    | intro _

theorem execFirnUncorrectableWeight_keeps (region : Nat) (set : Nat) (bank : Nat) (ticket : Option Nat) (s : State) :
    KeepsOut [.abortSeen, .advancing, .background, .block, .ckpts, .counters, .ctxs, .download, .free, .freshCompletions, .freshHealth, .log, .logWritten, .mem, .outs, .parts, .pendingCompletions, .pendingHealth, .ports, .preemptDue, .reads, .reasons, .regions, .retries, .seedings, .sleetRunning, .slices, .startup, .tickets, .tiles, .vault, .whiteoutCause, .whiteoutCount, .window, .writes, .written] s (execFirnUncorrectableWeight region set bank ticket s) := by
  unfold execFirnUncorrectableWeight
  repeat' first
    | with_reducible assumption
    | with_reducible exact Keeps.refl _ _
    | with_reducible exact KeepsOut.fault
    | with_reducible apply KeepsOut.next
    | (with_reducible apply Keeps.by (State.bump_keeps ..); (· decide))
    | (with_reducible apply Keeps.by (State.detect_keeps ..); (· decide))
    | with_reducible apply State.onError_keeps
    | split
    | dsimp only
    | intro _

theorem execFirnUncorrectableWorkArea_keeps (region : Nat) (bank : Nat) (ticket : Option Nat) (s : State) :
    KeepsOut [.abortSeen, .advancing, .background, .block, .ckpts, .counters, .ctxs, .download, .free, .freshCompletions, .freshHealth, .log, .logWritten, .mem, .outs, .parts, .pendingCompletions, .pendingHealth, .ports, .preemptDue, .reads, .reasons, .regions, .retries, .seedings, .sleetRunning, .slices, .startup, .tickets, .tiles, .vault, .whiteoutCause, .whiteoutCount, .window, .writes, .written] s (execFirnUncorrectableWorkArea region bank ticket s) := by
  unfold execFirnUncorrectableWorkArea
  repeat' first
    | with_reducible assumption
    | with_reducible exact Keeps.refl _ _
    | with_reducible exact KeepsOut.fault
    | with_reducible apply KeepsOut.next
    | (with_reducible apply Keeps.by (State.bump_keeps ..); (· decide))
    | (with_reducible apply Keeps.by (State.hit_keeps ..); (· decide))
    | with_reducible apply State.onError_keeps
    | split
    | dsimp only
    | intro _

theorem State.writeBack_keeps (s : State) (region set : Nat) : Keeps [.firn] s (s.writeBack region set) := by
  refine Keeps.set_firn (Keeps.refl _ _) ?_
  have k : ∀ (l : List ((Nat × Nat) × (Nat × Nat))) (m : Memory), m.wf = true →
      (l.foldl (fun (m : Memory) (p : (Nat × Nat) × (Nat × Nat)) => m.store p.2.1 (s.mem.load p.1.1 p.1.2)) m).wf = true := by
    intro l
    induction l with
    | nil => intro m h; exact h
    | cons p l ih => intro m h; exact ih _ (Memory.store_wf h _ _)
  exact k _ _

theorem State.stillBad_keeps (s : State) (kind : ErrKind) (bank : Nat) (region : Nat) (ticket : Option Nat) (stillFails : Bool) :
    Keeps [.bankSpares, .counters, .log, .logWritten, .reasons, .regions] s (State.stillBad s kind bank region ticket stillFails) := by
  unfold State.stillBad
  repeat' first
    | with_reducible assumption
    | with_reducible exact Keeps.refl _ _
    | (with_reducible apply Keeps.by (State.retireWord_keeps ..); (· decide))
    | split

theorem State.retryReloads_keeps (s : State) (r : Retry) :
    Keeps [.tiles] s (State.retryReloads s r) := by
  unfold State.retryReloads
  repeat' first
    | with_reducible assumption
    | with_reducible exact Keeps.refl _ _
    | (with_reducible apply Keeps.by (State.modTile_keeps ..); (· decide))
    | split

theorem State.popRetry_keeps (s : State) (r : Retry) :
    Keeps [.abortSeen, .abortTable, .advancing, .background, .block, .ckpts, .counters, .ctxs, .download, .free, .freshCompletions, .groupDone, .log, .logWritten, .mem, .outs, .parts, .pendingCompletions, .ports, .preemptDue, .reads, .reasons, .regions, .retries, .seedings, .sleetRunning, .slices, .startup, .tickets, .tiles, .vault, .whiteoutCause, .whiteoutCount, .window, .writes, .written] s (State.popRetry s r) := by
  unfold State.popRetry
  repeat' first
    | with_reducible assumption
    | with_reducible exact Keeps.refl _ _
    | (with_reducible apply Keeps.by (State.preemptAfter_keeps ..); (· decide))
    | (with_reducible apply Keeps.by (State.release_keeps ..); (· decide))
    | (with_reducible apply Keeps.by (State.retryReloads_keeps ..); (· decide))
    | (with_reducible apply Keeps.by (State.settleHandlers_keeps ..); (· decide))
    | split
    | dsimp only
    | with_reducible refine Keeps.set_retries ?_

theorem State.endReread_keeps (s : State) (r : Retry) (e : Err) (stillFails : Bool) :
    Keeps [.abortSeen, .abortTable, .advancing, .background, .bankSpares, .block, .ckpts, .counters, .ctxs, .download, .firn, .free, .freshCompletions, .groupDone, .log, .logWritten, .mem, .outs, .parts, .pendingCompletions, .ports, .preemptDue, .reads, .reasons, .regions, .retries, .seedings, .sleetRunning, .slices, .startup, .tickets, .tiles, .vault, .whiteoutCause, .whiteoutCount, .window, .writes, .written] s (State.endReread s r e stillFails) := by
  unfold State.endReread
  repeat' first
    | with_reducible assumption
    | with_reducible exact Keeps.refl _ _
    | (with_reducible apply Keeps.by (State.bump_keeps ..); (· decide))
    | (with_reducible apply Keeps.by (State.degrade_keeps ..); (· decide))
    | (with_reducible apply Keeps.by (State.endLaunch?_keeps ..); (· decide))
    | (with_reducible apply Keeps.by (State.logError_keeps ..); (· decide))
    | (with_reducible apply Keeps.by (State.popRetry_keeps ..); (· decide))
    | (with_reducible apply Keeps.by (State.requestSet_keeps ..); (· decide))
    | (with_reducible apply Keeps.by (State.startRetry_keeps ..); (· decide))
    | (with_reducible apply Keeps.by (State.stillBad_keeps ..); (· decide))
    | (with_reducible apply Keeps.by (State.writeBack_keeps ..); (· decide))
    | split
    | dsimp only
    | with_reducible refine Keeps.set_retries ?_

theorem execRetryEnd_keeps (stillFails : Bool) (s : State) :
    KeepsOut [.abortSeen, .abortTable, .advancing, .background, .bankSpares, .block, .ckpts, .counters, .ctxs, .download, .firn, .free, .freshCompletions, .groupDone, .log, .logWritten, .mem, .outs, .parts, .pendingCompletions, .ports, .preemptDue, .reads, .reasons, .regions, .retries, .seedings, .sleetRunning, .slices, .startup, .tickets, .tiles, .vault, .whiteoutCause, .whiteoutCount, .window, .writes, .written] s (execRetryEnd stillFails s) := by
  unfold execRetryEnd
  repeat' first
    | with_reducible assumption
    | with_reducible exact Keeps.refl _ _
    | with_reducible exact KeepsOut.fault
    | with_reducible apply KeepsOut.next
    | (with_reducible apply Keeps.by (State.endReread_keeps ..); (· decide))
    | with_reducible apply State.onError_keeps
    | (with_reducible apply Keeps.by (State.popRetry_keeps ..); (· decide))
    | split
    | dsimp only
    | with_reducible refine Keeps.set_retries ?_
    | intro _

theorem State.scrubBad_keeps (s : State) (w : Nat) (region : Nat) :
    Keeps [.abortSeen, .advancing, .background, .block, .ckpts, .counters, .ctxs, .download, .free, .freshCompletions, .freshHealth, .log, .logWritten, .mem, .outs, .parts, .pendingCompletions, .pendingHealth, .ports, .preemptDue, .reads, .reasons, .regions, .retries, .seedings, .sleetRunning, .slices, .startup, .tickets, .tiles, .vault, .whiteoutCause, .whiteoutCount, .window, .writes, .written] s (State.scrubBad s w region) := by
  unfold State.scrubBad
  repeat' first
    | with_reducible assumption
    | with_reducible exact Keeps.refl _ _
    | (with_reducible apply Keeps.by (State.bump_keeps ..); (· decide))
    | (with_reducible apply Keeps.by (State.detect_keeps ..); (· decide))
    | split

theorem State.scrubAt_keeps {s u : State} {w r : Nat} (h : s.scrubAt = some (w, r, u)) : Keeps [.counters] s u := by
  unfold State.scrubAt at h
  split at h
  · cases h; exact Keeps.refl _ _
  · cases m : s.scrubNext 0 with
    | none => rw [m] at h; cases h
    | some p => rw [m] at h; cases h; exact (Keeps.refl _ _).then (State.bump_keeps ..)

theorem execScrubRead_keeps (found : Sys2Proof.ScrubFound) (s : State) : KeepsOut [.abortSeen, .advancing, .background, .bankSpares, .block, .ckpts, .counters, .ctxs, .download, .free, .freshCompletions, .freshHealth, .log, .logWritten, .mem, .outs, .parts, .pendingCompletions, .pendingHealth, .ports, .preemptDue, .reads, .reasons, .regions, .retries, .scrub, .seedings, .sleetRunning, .slices, .startup, .tickets, .tiles, .vault, .whiteoutCause, .whiteoutCount, .window, .writes, .written] s (execScrubRead found s) := by
  refine State.onError_keeps (Keeps.refl _ _) fun u hu => ?_
  dsimp only
  split
  · exact KeepsOut.next (Keeps.set_scrub hu)
  · rename_i w r u1 h
    have h1 : Keeps [.abortSeen, .advancing, .background, .bankSpares, .block, .ckpts, .counters, .ctxs, .download, .free, .freshCompletions, .freshHealth, .log, .logWritten, .mem, .outs, .parts, .pendingCompletions, .pendingHealth, .ports, .preemptDue, .reads, .reasons, .regions, .retries, .scrub, .seedings, .sleetRunning, .slices, .startup, .tickets, .tiles, .vault, .whiteoutCause, .whiteoutCount, .window, .writes, .written] s u1 := hu.then (State.scrubAt_keeps h)
    split
    · exact KeepsOut.next (Keeps.set_scrub h1)
    · exact KeepsOut.next (((Keeps.set_scrub h1).then (State.bump_keeps ..)).then (State.stillBad_keeps ..))
    · exact KeepsOut.next ((Keeps.set_scrub h1).then (State.scrubBad_keeps ..))

theorem State.endBackground_keeps (s : State) (b : Background) :
    Keeps [.abortSeen, .advancing, .background, .block, .ckpts, .counters, .ctxs, .download, .free, .freshCompletions, .log, .logWritten, .mem, .outs, .parts, .pendingCompletions, .ports, .preemptDue, .reads, .reasons, .regions, .retries, .seedings, .sleetRunning, .slices, .startup, .tickets, .tiles, .vault, .whiteoutCause, .whiteoutCount, .window, .writes, .written] s (State.endBackground s b) := by
  unfold State.endBackground
  repeat' first
    | with_reducible assumption
    | with_reducible exact Keeps.refl _ _
    | (with_reducible apply Keeps.by (State.release_keeps ..); (· decide))
    | split
    | dsimp only
    | with_reducible refine Keeps.set_background ?_

theorem execBackgroundRereadDone_keeps (region : Nat) (set : Nat) (stillFails : Bool) (s : State) :
    KeepsOut [.abortSeen, .advancing, .background, .bankSpares, .block, .ckpts, .counters, .ctxs, .download, .firn, .free, .freshCompletions, .log, .logWritten, .mem, .outs, .parts, .pendingCompletions, .ports, .preemptDue, .reads, .reasons, .regions, .retries, .seedings, .sleetRunning, .slices, .startup, .tickets, .tiles, .vault, .whiteoutCause, .whiteoutCount, .window, .writes, .written] s (execBackgroundRereadDone region set stillFails s) := by
  unfold execBackgroundRereadDone
  repeat' first
    | with_reducible assumption
    | with_reducible exact Keeps.refl _ _
    | with_reducible exact KeepsOut.fault
    | with_reducible apply KeepsOut.next
    | (with_reducible apply Keeps.by (State.bump_keeps ..); (· decide))
    | (with_reducible apply Keeps.by (State.degrade_keeps ..); (· decide))
    | (with_reducible apply Keeps.by (State.endBackground_keeps ..); (· decide))
    | (with_reducible apply Keeps.by (State.logError_keeps ..); (· decide))
    | with_reducible apply State.onError_keeps
    | (with_reducible apply Keeps.by (State.requestSet_keeps ..); (· decide))
    | (with_reducible apply Keeps.by (State.stillBad_keeps ..); (· decide))
    | (with_reducible apply Keeps.by (State.writeBack_keeps ..); (· decide))
    | split
    | dsimp only
    | with_reducible refine Keeps.set_background ?_
    | intro _

theorem execTableMemoryError_keeps (slice : Nat) (_mem : Sys2Proof.TableMem) (ticket : Option Nat) (s : State) :
    KeepsOut [.abortSeen, .advancing, .background, .block, .ckpts, .counters, .ctxs, .download, .free, .freshCompletions, .freshHealth, .log, .logWritten, .mem, .outs, .parts, .pendingCompletions, .pendingHealth, .ports, .preemptDue, .reads, .reasons, .regions, .retries, .seedings, .sleetRunning, .slices, .startup, .tickets, .tiles, .vault, .whiteoutCause, .whiteoutCount, .window, .writes, .written] s (execTableMemoryError slice _mem ticket s) := by
  unfold execTableMemoryError
  repeat' first
    | with_reducible assumption
    | with_reducible exact Keeps.refl _ _
    | with_reducible exact KeepsOut.fault
    | with_reducible apply KeepsOut.next
    | (with_reducible apply Keeps.by (State.hit_keeps ..); (· decide))
    | (with_reducible apply Keeps.by (State.modSlice_keeps ..); (· decide))
    | with_reducible apply State.onError_keeps
    | split
    | dsimp only
    | intro _

theorem execTableReloadDone_keeps (slice : Nat) (verified : Bool) (s : State) :
    KeepsOut [.abortSeen, .advancing, .background, .block, .ckpts, .counters, .ctxs, .download, .free, .freshCompletions, .log, .logWritten, .mem, .outs, .parts, .pendingCompletions, .ports, .preemptDue, .reads, .reasons, .regions, .retries, .seedings, .sleetRunning, .slices, .startup, .tableReloaded, .tickets, .tiles, .vault, .whiteoutCause, .whiteoutCount, .window, .writes, .written] s (execTableReloadDone slice verified s) := by
  unfold execTableReloadDone
  repeat' first
    | with_reducible assumption
    | with_reducible exact Keeps.refl _ _
    | with_reducible exact KeepsOut.fault
    | with_reducible apply KeepsOut.next
    | (with_reducible apply Keeps.by (State.bump_keeps ..); (· decide))
    | (with_reducible apply Keeps.by (State.enterWhiteout_keeps ..); (· decide))
    | (with_reducible apply Keeps.by (State.logError_keeps ..); (· decide))
    | (with_reducible apply Keeps.by (State.modSlice_keeps ..); (· decide))
    | with_reducible apply State.onError_keeps
    | (with_reducible apply Keeps.by (State.release_keeps ..); (· decide))
    | split
    | dsimp only
    | with_reducible refine Keeps.set_tableReloaded ?_
    | intro _

theorem execContextMemoryError_keeps (ctx : Nat) (ticket : Option Nat) (s : State) :
    KeepsOut [.abortSeen, .advancing, .background, .block, .ckpts, .counters, .ctxs, .download, .free, .freshCompletions, .freshHealth, .log, .logWritten, .mem, .outs, .parts, .pendingCompletions, .pendingHealth, .ports, .preemptDue, .reads, .reasons, .regions, .retries, .seedings, .sleetRunning, .slices, .startup, .tickets, .tiles, .vault, .whiteoutCause, .whiteoutCount, .window, .writes, .written] s (execContextMemoryError ctx ticket s) := by
  unfold execContextMemoryError
  repeat' first
    | with_reducible assumption
    | with_reducible exact Keeps.refl _ _
    | with_reducible exact KeepsOut.fault
    | with_reducible apply KeepsOut.next
    | (with_reducible apply Keeps.by (State.hit_keeps ..); (· decide))
    | with_reducible apply State.onError_keeps
    | split
    | dsimp only
    | intro _

theorem execCrossingDatumLate_keeps (ticket : Nat) (s : State) :
    KeepsOut [.abortSeen, .advancing, .background, .block, .ckpts, .counters, .ctxs, .download, .free, .freshCompletions, .freshHealth, .log, .logWritten, .mem, .outs, .parts, .pendingCompletions, .pendingHealth, .ports, .preemptDue, .reads, .reasons, .regions, .retries, .seedings, .sleetRunning, .slices, .startup, .tickets, .tiles, .vault, .whiteoutCause, .whiteoutCount, .window, .writes, .written] s (execCrossingDatumLate ticket s) := by
  unfold execCrossingDatumLate
  repeat' first
    | with_reducible assumption
    | with_reducible exact Keeps.refl _ _
    | with_reducible exact KeepsOut.fault
    | with_reducible apply KeepsOut.next
    | (with_reducible apply Keeps.by (State.bump_keeps ..); (· decide))
    | (with_reducible apply Keeps.by (State.hit_keeps ..); (· decide))
    | with_reducible apply State.onError_keeps
    | split
    | dsimp only
    | intro _

theorem execStreamedSetCheck_keeps (ticket : Nat) (set : Nat) (s : State) :
    KeepsOut [.abortSeen, .counters, .free, .log, .logWritten, .mem, .outs, .ports, .reads, .regions, .retries, .tickets, .writes, .written] s (execStreamedSetCheck ticket set s) := by
  unfold execStreamedSetCheck
  repeat' first
    | with_reducible assumption
    | with_reducible exact Keeps.refl _ _
    | with_reducible exact KeepsOut.fault
    | with_reducible apply KeepsOut.next
    | (with_reducible apply Keeps.by (State.judgeSet_keeps ..); (· decide))
    | (with_reducible apply Keeps.by (State.modRun_keeps ..); (· decide))
    | with_reducible apply State.onError_keeps
    | split
    | dsimp only
    | intro _

theorem State.spoilReread_keeps (s : State) (n : Nat) :
    Keeps [.background, .log, .logWritten, .retries] s (State.spoilReread s n) := by
  unfold State.spoilReread
  repeat' first
    | with_reducible assumption
    | with_reducible exact Keeps.refl _ _
    | (with_reducible apply Keeps.by (State.logError_keeps ..); (· decide))
    | split
    | dsimp only
    | with_reducible refine Keeps.set_retries ?_
    | with_reducible refine Keeps.set_background ?_

theorem State.splitBad_keeps (s : State) (tile : Nat) (row : Nat) (work : Sys2Proof.ArrayWork) (ticket : Option Nat) :
    Keeps [.abortSeen, .advancing, .background, .block, .ckpts, .counters, .ctxs, .download, .free, .freshCompletions, .freshHealth, .log, .logWritten, .mem, .outs, .parts, .pendingCompletions, .pendingHealth, .ports, .preemptDue, .reads, .reasons, .regions, .retries, .seedings, .sleetRunning, .slices, .startup, .tickets, .tiles, .vault, .whiteoutCause, .whiteoutCount, .window, .writes, .written] s (State.splitBad s tile row work ticket) := by
  unfold State.splitBad
  repeat' first
    | with_reducible assumption
    | with_reducible exact Keeps.refl _ _
    | (with_reducible apply Keeps.by (State.hit_keeps ..); (· decide))
    | (with_reducible apply Keeps.by (State.modTile_keeps ..); (· decide))
    | split

theorem State.parityEnds_keeps (s : State) (ticket : Option Nat) :
    Keeps [.abortSeen, .counters, .free, .log, .logWritten, .mem, .outs, .ports, .regions, .tickets, .written] s (State.parityEnds s ticket) := by
  unfold State.parityEnds
  repeat' first
    | with_reducible assumption
    | with_reducible exact Keeps.refl _ _
    | (with_reducible apply Keeps.by (State.endLaunch?_keeps ..); (· decide))
    | (with_reducible apply Keeps.by (State.logError_keeps ..); (· decide))

theorem execByteParityError_keeps (path : Sys2Proof.ParityPath) (ticket : Option Nat) (s : State) :
    KeepsOut [.abortSeen, .advancing, .background, .block, .ckpts, .counters, .ctxs, .download, .free, .freshCompletions, .freshHealth, .log, .logWritten, .mem, .outs, .parts, .pendingCompletions, .pendingHealth, .ports, .preemptDue, .reads, .reasons, .regions, .retries, .seedings, .sleetRunning, .slices, .startup, .tickets, .tiles, .vault, .whiteoutCause, .whiteoutCount, .window, .writes, .written] s (execByteParityError path ticket s) := by
  unfold execByteParityError
  repeat' first
    | with_reducible assumption
    | with_reducible exact Keeps.refl _ _
    | with_reducible exact KeepsOut.fault
    | with_reducible apply KeepsOut.next
    | (with_reducible apply Keeps.by (State.badSet_keeps ..); (· decide))
    | (with_reducible apply Keeps.by (State.bump_keeps ..); (· decide))
    | (with_reducible apply Keeps.by (State.modRun_keeps ..); (· decide))
    | with_reducible apply State.onError_keeps
    | (with_reducible apply Keeps.by (State.parityEnds_keeps ..); (· decide))
    | (with_reducible apply Keeps.by (State.splitBad_keeps ..); (· decide))
    | (with_reducible apply Keeps.by (State.spoilReread_keeps ..); (· decide))
    | split
    | dsimp only
    | intro _

theorem State.followParts_keeps (s : State) :
    Keeps [.startup] s (State.followParts s) := by
  unfold State.followParts
  repeat' first
    | with_reducible assumption
    | with_reducible exact Keeps.refl _ _
    | split
    | dsimp only
    | with_reducible refine Keeps.set_startup ?_

theorem State.grant_keeps (s : State) (part : Nat) (queue : Nat) (slot : Nat) :
    Keeps [.nextSeq, .outs, .reads, .tickets, .writes] s (State.grant s part queue slot) := by
  unfold State.grant
  repeat' first
    | with_reducible assumption
    | with_reducible exact Keeps.refl _ _
    | (with_reducible apply Keeps.by (State.issueRead_keeps ..); (· decide))
    | split
    | dsimp only
    | with_reducible refine Keeps.set_tickets_nextSeq ?_

theorem State.acceptDoorbell_keeps (s : State) (b : BitVec 64) :
    Keeps [.nextSeq, .outs, .parts, .reads, .tickets, .writes] s (State.acceptDoorbell s b) := by
  unfold State.acceptDoorbell
  repeat' first
    | with_reducible assumption
    | with_reducible exact Keeps.refl _ _
    | with_reducible apply Keeps.foldl
    | with_reducible apply Keeps.foldl_snd
    | with_reducible apply Keeps.foldl_snd2
    | with_reducible apply Keeps.foldl_st
    | (with_reducible apply Keeps.by (State.grant_keeps ..); (· decide))
    | (with_reducible apply Keeps.by (State.modPart_keeps ..); (· decide))
    | split
    | dsimp only
    | intro _

theorem execDoorbell_keeps (beat : BitVec 64) (parityOk : Bool) (s : State) :
    KeepsOut [.counters, .ins, .nextSeq, .outs, .parts, .portErrors, .reads, .tickets, .writes] s (execDoorbell beat parityOk s) := by
  unfold execDoorbell
  repeat' first
    | with_reducible assumption
    | with_reducible exact Keeps.refl _ _
    | with_reducible exact KeepsOut.fault
    | with_reducible apply KeepsOut.next
    | (with_reducible apply Keeps.by (State.acceptDoorbell_keeps ..); (· decide))
    | with_reducible apply State.awake_keeps
    | (with_reducible apply Keeps.by (State.bump_keeps ..); (· decide))
    | (with_reducible apply Keeps.by (State.emit_keeps ..); (· decide))
    | with_reducible apply State.onPort_keeps
    | decide
    | (with_reducible apply Keeps.by (State.portError_keeps ..); (· decide))
    | split
    | dsimp only
    | intro _

theorem State.complete_keeps (s : State) (t : Ticket) (r : Running) :
    Keeps [.ckpts, .counters, .ctxs, .free, .freshCompletions, .mem, .outs, .parts, .pendingCompletions, .reads, .regions, .tickets, .writes, .written] s (State.complete s t r) := by
  unfold State.complete
  repeat' first
    | with_reducible assumption
    | with_reducible exact Keeps.refl _ _
    | with_reducible apply Keeps.foldl
    | with_reducible apply Keeps.foldl_snd
    | with_reducible apply Keeps.foldl_snd2
    | with_reducible apply Keeps.foldl_st
    | (with_reducible apply Keeps.by (State.finish_keeps ..); (· decide))
    | (with_reducible apply Keeps.by (State.openWritten_keeps ..); (· decide))
    | (with_reducible apply Keeps.by (State.releaseKeptOf_keeps ..); (· decide))
    | split
    | dsimp only
    | intro _

theorem State.haltDue_keeps (s : State) (t : Ticket) (r : Running) :
    Keeps [.ckpts, .parts, .tickets] s (State.haltDue s t r) := by
  unfold State.haltDue
  repeat' first
    | with_reducible assumption
    | with_reducible exact Keeps.refl _ _
    | (with_reducible apply Keeps.by (State.checkpointDue_keeps ..); (· decide))
    | (with_reducible apply Keeps.by (State.modTicket_keeps _ _ _ _); (· decide))
    | ((with_reducible intro _); exact rfl)
    | split

theorem execCommandCompletion_keeps (ticket : Nat) (s : State) :
    KeepsOut [.abortSeen, .advancing, .background, .block, .ckpts, .counters, .ctxs, .download, .free, .freshCompletions, .log, .logWritten, .mem, .outs, .parts, .pendingCompletions, .ports, .preemptDue, .reads, .reasons, .regions, .retries, .seedings, .sleetRunning, .slices, .startup, .tickets, .tiles, .vault, .whiteoutCause, .whiteoutCount, .window, .writes, .written] s (execCommandCompletion ticket s) := by
  unfold execCommandCompletion
  repeat' first
    | with_reducible assumption
    | with_reducible exact Keeps.refl _ _
    | with_reducible exact KeepsOut.fault
    | with_reducible apply KeepsOut.next
    | with_reducible apply State.awake_keeps
    | (with_reducible apply Keeps.by (State.complete_keeps ..); (· decide))
    | (with_reducible apply Keeps.by (State.finish_keeps ..); (· decide))
    | (with_reducible apply Keeps.by (State.haltDue_keeps ..); (· decide))
    | (with_reducible apply Keeps.by (State.modRun_keeps ..); (· decide))
    | (with_reducible apply Keeps.by (State.settleHandlers_keeps ..); (· decide))
    | split
    | dsimp only
    | intro _

theorem State.ckptDone_keeps (s : State) (c : Ckpt) :
    Keeps [.abortSeen, .advancing, .background, .block, .ckpts, .counters, .ctxs, .download, .free, .freshCompletions, .log, .logWritten, .mem, .outs, .parts, .pendingCompletions, .ports, .preemptDue, .reads, .reasons, .regions, .retries, .seedings, .sleetRunning, .slices, .startup, .tickets, .tiles, .vault, .whiteoutCause, .whiteoutCount, .window, .writes, .written] s (State.ckptDone s c) := by
  unfold State.ckptDone
  repeat' first
    | with_reducible assumption
    | with_reducible exact Keeps.refl _ _
    | (with_reducible apply Keeps.by (State.closePart_keeps ..); (· decide))
    | (with_reducible apply Keeps.by (State.modPart_keeps ..); (· decide))
    | (with_reducible apply Keeps.by (State.putCompletion_keeps ..); (· decide))
    | (with_reducible apply Keeps.by (State.respond_keeps ..); (· decide))
    | (with_reducible apply Keeps.by (State.settleHandlers_keeps ..); (· decide))
    | split
    | dsimp only

theorem execCheckpointSigned_keeps (s : State) :
    KeepsOut [.abortSeen, .advancing, .background, .block, .ckpts, .counters, .ctxs, .download, .free, .freshCompletions, .log, .logWritten, .mem, .outs, .parts, .pendingCompletions, .ports, .preemptDue, .reads, .reasons, .regions, .retries, .seedings, .sleetRunning, .slices, .startup, .tickets, .tiles, .vault, .whiteoutCause, .whiteoutCount, .window, .writes, .written] s (execCheckpointSigned s) := by
  unfold execCheckpointSigned
  repeat' first
    | with_reducible assumption
    | with_reducible exact Keeps.refl _ _
    | with_reducible exact KeepsOut.fault
    | with_reducible apply KeepsOut.next
    | with_reducible apply State.awake_keeps
    | (with_reducible apply Keeps.by (State.ckptDone_keeps ..); (· decide))
    | (with_reducible apply Keeps.by (State.followParts_keeps ..); (· decide))
    | (with_reducible apply Keeps.by (State.writeCheckpoint_keeps ..); (· decide))
    | split
    | dsimp only
    | with_reducible refine Keeps.set_ckpts ?_
    | intro _

theorem State.readFails_keeps (s : State) (q : Nat) :
    Keeps [.abortSeen, .counters, .free, .mem, .outs, .ports, .regions, .tickets, .written] s (State.readFails s q) := by
  unfold State.readFails
  repeat' first
    | with_reducible assumption
    | with_reducible exact Keeps.refl _ _
    | (with_reducible apply Keeps.by (State.endLaunch_keeps ..); (· decide))
    | (with_reducible apply Keeps.by (State.modTicket_keeps _ _ _ _); (· decide))
    | ((with_reducible intro _); exact rfl)
    | split

theorem State.badResponse_keeps (s : State) (r : ReadReq) :
    Keeps [.abortSeen, .background, .counters, .free, .mem, .outs, .ports, .reads, .regions, .retries, .tickets, .writes, .written] s (State.badResponse s r) := by
  unfold State.badResponse
  repeat' first
    | with_reducible assumption
    | with_reducible exact Keeps.refl _ _
    | (with_reducible apply Keeps.by (State.issueRead_keeps ..); (· decide))
    | (with_reducible apply Keeps.by (State.modRun_keeps ..); (· decide))
    | (with_reducible apply Keeps.by (State.readFails_keeps ..); (· decide))
    | split
    | dsimp only
    | with_reducible refine Keeps.set_retries ?_
    | with_reducible refine Keeps.set_background ?_

theorem execReadResponse_keeps (chan : MemChan) (tag : Nat) (data : Bytes) (parityOk : Bool) (s : State) :
    KeepsOut [.abortSeen, .actIn, .background, .counters, .ctxs, .free, .ins, .mem, .outs, .parts, .portErrors, .ports, .reads, .regions, .retries, .tickets, .writes, .written] s (execReadResponse chan tag data parityOk s) := by
  unfold execReadResponse
  repeat' first
    | with_reducible assumption
    | with_reducible exact Keeps.refl _ _
    | with_reducible exact KeepsOut.fault
    | with_reducible apply KeepsOut.next
    | with_reducible apply State.awake_keeps
    | (with_reducible apply Keeps.by (State.badResponse_keeps ..); (· decide))
    | (with_reducible apply Keeps.by (State.drainChannel_keeps ..); (· decide))
    | with_reducible apply State.onPort_keeps
    | decide
    | (with_reducible apply Keeps.by (State.portError_keeps ..); (· decide))
    | (with_reducible apply Keeps.by (State.pumpIn_keeps ..); (· decide))
    | split
    | dsimp only
    | with_reducible refine Keeps.set_reads ?_
    | with_reducible refine Keeps.set_mem ?_ ?_
    | with_reducible exact fun h => Memory.store_wf h _ _
    | with_reducible exact fun h => Memory.storeHost_wf h _ _
    | intro _

theorem execWriteAcknowledgement_keeps (chan : MemChan) (tag : Nat) (parityOk : Bool) (s : State) :
    KeepsOut [.counters, .ins, .outs, .portErrors, .reads, .writes] s (execWriteAcknowledgement chan tag parityOk s) := by
  unfold execWriteAcknowledgement
  repeat' first
    | with_reducible assumption
    | with_reducible exact Keeps.refl _ _
    | with_reducible exact KeepsOut.fault
    | with_reducible apply KeepsOut.next
    | with_reducible apply State.awake_keeps
    | (with_reducible apply Keeps.by (State.drainChannel_keeps ..); (· decide))
    | with_reducible apply State.onPort_keeps
    | decide
    | (with_reducible apply Keeps.by (State.portError_keeps ..); (· decide))
    | split
    | dsimp only
    | with_reducible refine Keeps.set_writes ?_
    | intro _

theorem execWriteAckTimeout_keeps (chan : MemChan) (tag : Nat) (s : State) :
    KeepsOut [.outs] s (execWriteAckTimeout chan tag s) := by
  unfold execWriteAckTimeout
  repeat' first
    | with_reducible assumption
    | with_reducible exact Keeps.refl _ _
    | with_reducible exact KeepsOut.fault
    | with_reducible apply KeepsOut.next
    | with_reducible apply State.awake_keeps
    | (with_reducible apply Keeps.by (State.emit_keeps ..); (· decide))
    | split
    | dsimp only
    | intro _

theorem execHiddenRow_keeps (beats : Bytes) (parityOk : Bool) (s : State) :
    KeepsOut [.abortSeen, .actIn, .counters, .free, .ins, .mem, .outs, .portErrors, .ports, .regions, .tickets, .written] s (execHiddenRow beats parityOk s) := by
  unfold execHiddenRow
  repeat' first
    | with_reducible assumption
    | with_reducible exact Keeps.refl _ _
    | with_reducible exact KeepsOut.fault
    | with_reducible apply KeepsOut.next
    | (with_reducible apply Keeps.by (State.portError_keeps ..); (· decide))
    | (with_reducible apply Keeps.by (State.pumpRows_keeps ..); (· decide))
    | (with_reducible apply Keeps.by (State.returnCredit_keeps ..); (· decide))
    | split
    | dsimp only
    | with_reducible refine Keeps.set_actIn ?_

theorem execSubChannelCredit_keeps (sub : OutSub) (s : State) :
    KeepsOut [.outs] s (execSubChannelCredit sub s) := by
  unfold execSubChannelCredit
  repeat' first
    | with_reducible assumption
    | with_reducible exact Keeps.refl _ _
    | with_reducible exact KeepsOut.fault
    | with_reducible apply KeepsOut.next
    | split
    | dsimp only
    | with_reducible refine Keeps.set_outs ?_

theorem State.onReel_keeps {w : List Fld} {s t : State} {f : State → Out} (h : Keeps w s t)
    (k : ∀ u, Keeps w s u → KeepsOut w s (f u)) : KeepsOut w s (t.onReel f) := by
  refine State.awake_keeps h fun u hu => ?_
  try dsimp only
  split
  · exact k u hu
  · exact KeepsOut.next hu

theorem State.failChecks_keeps (s : State) (p : Fin 4) :
    Keeps [.abortSeen, .counters, .free, .mem, .outs, .ports, .regions, .tickets, .written] s (State.failChecks s p) := by
  unfold State.failChecks
  repeat' first
    | with_reducible assumption
    | with_reducible exact Keeps.refl _ _
    | with_reducible apply Keeps.foldl
    | with_reducible apply Keeps.foldl_snd
    | with_reducible apply Keeps.foldl_snd2
    | with_reducible apply Keeps.foldl_st
    | (with_reducible apply Keeps.by (State.bump_keeps ..); (· decide))
    | (with_reducible apply Keeps.by (State.endLaunch_keeps ..); (· decide))
    | split
    | dsimp only
    | intro _

theorem State.dropLink_keeps (s : State) (p : Fin 4) :
    Keeps [.abortSeen, .advancing, .block, .ckpts, .counters, .ctxs, .download, .free, .freshCompletions, .freshHealth, .log, .logWritten, .mem, .outs, .parts, .passed, .pendingCompletions, .pendingHealth, .ports, .preemptDue, .reads, .reasons, .regions, .retries, .sleetRunning, .slices, .startup, .tickets, .tiles, .vault, .whiteoutCause, .whiteoutCount, .window, .writes, .written] s (State.dropLink s p) := by
  unfold State.dropLink
  repeat' first
    | with_reducible assumption
    | with_reducible exact Keeps.refl _ _
    | with_reducible apply Keeps.foldl
    | with_reducible apply Keeps.foldl_snd
    | with_reducible apply Keeps.foldl_snd2
    | with_reducible apply Keeps.foldl_st
    | (with_reducible apply Keeps.by (State.endLaunch_keeps ..); (· decide))
    | (with_reducible apply Keeps.by (State.failChecks_keeps ..); (· decide))
    | (with_reducible apply Keeps.by (State.linkDown_keeps ..); (· decide))
    | (with_reducible apply Keeps.by (State.linkFault_keeps ..); (· decide))
    | (with_reducible apply Keeps.by (State.pump_keeps ..); (· decide))
    | split
    | dsimp only
    | intro _

theorem State.receive_keeps {w : List Fld} {s t : State} {f : Sys2Proof.RxFrame} {kind : Nat}
    {g : State → Frame → Out} (h : Keeps w s t) (k : ∀ u fr, Keeps w s u → KeepsOut w s (g u fr))
    (hw : ([.counters, .ins, .outs, .ports] : List Fld) ⊆ w := by decide) : KeepsOut w s (t.receive f kind g) := by
  refine State.onPort_keeps h (fun x hx => State.onReel_keeps hx fun u hu => ?_) (List.Subset.trans (by decide) hw)
  try dsimp only
  split
  · exact KeepsOut.next (hu.then (State.bump_keeps ..) (List.Subset.trans (by decide) hw))
  · split
    · exact KeepsOut.next hu
    · split
      · exact k u _ hu
      · split
        · exact KeepsOut.next hu
        · exact k _ _ (hu.then (State.takeAck_keeps ..) (List.Subset.trans (by decide) hw))

theorem State.acceptFrame_keeps (s : State) (p : Fin 4) (f : Frame) :
    Keeps [.ports] s (State.acceptFrame s p f) := by
  unfold State.acceptFrame
  repeat' first
    | with_reducible assumption
    | with_reducible exact Keeps.refl _ _
    | (with_reducible apply Keeps.by (State.modPort_keeps ..); (· decide))
    | split
    | dsimp only

theorem execExchange_keeps (f : Sys2Proof.RxFrame) (s : State) :
    KeepsOut [.abortSeen, .advancing, .block, .ckpts, .counters, .ctxs, .download, .free, .freshCompletions, .freshHealth, .ins, .log, .logWritten, .mem, .outs, .parts, .passed, .pendingCompletions, .pendingHealth, .ports, .preemptDue, .reads, .reasons, .regions, .retries, .sleetRunning, .slices, .startup, .tickets, .tiles, .vault, .whiteoutCause, .whiteoutCount, .window, .writes, .written] s (execExchange f s) := by
  unfold execExchange
  repeat' first
    | with_reducible assumption
    | with_reducible exact Keeps.refl _ _
    | with_reducible exact KeepsOut.fault
    | with_reducible apply KeepsOut.next
    | (with_reducible apply Keeps.by (State.acceptFrame_keeps ..); (· decide))
    | (with_reducible apply Keeps.by (State.pump_keeps ..); (· decide))
    | with_reducible apply State.receive_keeps
    | decide
    | split
    | dsimp only
    | intro _

theorem execCheck_keeps (f : Sys2Proof.RxFrame) (s : State) :
    KeepsOut [.abortSeen, .advancing, .block, .ckpts, .counters, .ctxs, .download, .free, .freshCompletions, .freshHealth, .ins, .log, .logWritten, .mem, .outs, .parts, .passed, .pendingCompletions, .pendingHealth, .ports, .preemptDue, .reads, .reasons, .regions, .retries, .sleetRunning, .slices, .startup, .tickets, .tiles, .vault, .whiteoutCause, .whiteoutCount, .window, .writes, .written] s (execCheck f s) := by
  unfold execCheck
  repeat' first
    | with_reducible assumption
    | with_reducible exact Keeps.refl _ _
    | with_reducible exact KeepsOut.fault
    | with_reducible apply KeepsOut.next
    | (with_reducible apply Keeps.by (State.acceptFrame_keeps ..); (· decide))
    | (with_reducible apply Keeps.by (State.pump_keeps ..); (· decide))
    | with_reducible apply State.receive_keeps
    | decide
    | split
    | dsimp only
    | intro _

theorem execIdle_keeps (f : Sys2Proof.RxFrame) (s : State) :
    KeepsOut [.abortSeen, .advancing, .block, .ckpts, .counters, .ctxs, .download, .free, .freshCompletions, .freshHealth, .ins, .log, .logWritten, .mem, .outs, .parts, .passed, .pendingCompletions, .pendingHealth, .ports, .preemptDue, .reads, .reasons, .regions, .retries, .sleetRunning, .slices, .startup, .tickets, .tiles, .vault, .whiteoutCause, .whiteoutCount, .window, .writes, .written] s (execIdle f s) := by
  unfold execIdle
  repeat' first
    | with_reducible assumption
    | with_reducible exact Keeps.refl _ _
    | with_reducible exact KeepsOut.fault
    | with_reducible apply KeepsOut.next
    | (with_reducible apply Keeps.by (State.pump_keeps ..); (· decide))
    | with_reducible apply State.receive_keeps
    | decide
    | split
    | dsimp only
    | intro _

theorem State.resendAll_keeps (s : State) (p : Fin 4) :
    Keeps [.counters, .outs, .ports] s (State.resendAll s p) := by
  unfold State.resendAll
  repeat' first
    | with_reducible assumption
    | with_reducible exact Keeps.refl _ _
    | with_reducible apply Keeps.foldl
    | with_reducible apply Keeps.foldl_snd
    | with_reducible apply Keeps.foldl_snd2
    | with_reducible apply Keeps.foldl_st
    | (with_reducible apply Keeps.by (State.bump_keeps ..); (· decide))
    | (with_reducible apply Keeps.by (State.putFrame_keeps ..); (· decide))
    | split
    | dsimp only
    | intro _

theorem execNak_keeps (f : Sys2Proof.RxFrame) (s : State) :
    KeepsOut [.abortSeen, .advancing, .block, .ckpts, .counters, .ctxs, .download, .free, .freshCompletions, .freshHealth, .ins, .log, .logWritten, .mem, .outs, .parts, .passed, .pendingCompletions, .pendingHealth, .ports, .preemptDue, .reads, .reasons, .regions, .retries, .sleetRunning, .slices, .startup, .tickets, .tiles, .vault, .whiteoutCause, .whiteoutCount, .window, .writes, .written] s (execNak f s) := by
  unfold execNak
  repeat' first
    | with_reducible assumption
    | with_reducible exact Keeps.refl _ _
    | with_reducible exact KeepsOut.fault
    | with_reducible apply KeepsOut.next
    | (with_reducible apply Keeps.by (State.pump_keeps ..); (· decide))
    | with_reducible apply State.receive_keeps
    | decide
    | (with_reducible apply Keeps.by (State.resendAll_keeps ..); (· decide))
    | split
    | dsimp only
    | intro _

theorem State.keepAbort_keeps (s : State) (a : AbortEnt) :
    Keeps [.abortTable] s (State.keepAbort s a) := by
  unfold State.keepAbort
  repeat' first
    | with_reducible assumption
    | with_reducible exact Keeps.refl _ _
    | split
    | dsimp only
    | with_reducible refine Keeps.set_abortTable ?_

theorem State.takeAbort_keeps (s : State) (a : AbortEnt) :
    Keeps [.abortTable, .free, .mem, .regions, .tickets, .written] s (State.takeAbort s a) := by
  unfold State.takeAbort
  repeat' first
    | with_reducible assumption
    | with_reducible exact Keeps.refl _ _
    | (with_reducible apply Keeps.by (State.endQuietly_keeps ..); (· decide))
    | (with_reducible apply Keeps.by (State.keepAbort_keeps ..); (· decide))
    | split

theorem execAbort_keeps (f : Sys2Proof.RxFrame) (s : State) :
    KeepsOut [.abortSeen, .abortTable, .advancing, .block, .ckpts, .counters, .ctxs, .download, .free, .freshCompletions, .freshHealth, .ins, .log, .logWritten, .mem, .outs, .parts, .passed, .pendingCompletions, .pendingHealth, .ports, .preemptDue, .reads, .reasons, .regions, .retries, .sleetRunning, .slices, .startup, .tickets, .tiles, .vault, .whiteoutCause, .whiteoutCount, .window, .writes, .written] s (execAbort f s) := by
  unfold execAbort
  repeat' first
    | with_reducible assumption
    | with_reducible exact Keeps.refl _ _
    | with_reducible exact KeepsOut.fault
    | with_reducible apply KeepsOut.next
    | (with_reducible apply Keeps.by (State.bump_keeps ..); (· decide))
    | (with_reducible apply Keeps.by (State.pump_keeps ..); (· decide))
    | (with_reducible apply Keeps.by (State.putFrames_keeps ..); (· decide))
    | with_reducible apply State.receive_keeps
    | decide
    | (with_reducible apply Keeps.by (State.takeAbort_keeps ..); (· decide))
    | split
    | dsimp only
    | with_reducible refine Keeps.set_abortSeen ?_
    | intro _

theorem State.takeHello_keeps (s : State) (p : Fin 4) (r : Report) :
    Keeps [.memberDepth, .ports] s (State.takeHello s p r) := by
  unfold State.takeHello
  repeat' first
    | with_reducible assumption
    | with_reducible exact Keeps.refl _ _
    | (with_reducible apply Keeps.by (State.modPort_keeps ..); (· decide))
    | split
    | dsimp only
    | with_reducible refine Keeps.set_memberDepth ?_

theorem execHello_keeps (f : Sys2Proof.RxFrame) (s : State) :
    KeepsOut [.abortSeen, .advancing, .block, .ckpts, .counters, .ctxs, .download, .free, .freshCompletions, .freshHealth, .ins, .log, .logWritten, .mem, .memberDepth, .outs, .parts, .passed, .pendingCompletions, .pendingHealth, .ports, .preemptDue, .reads, .reasons, .regions, .retries, .sleetRunning, .slices, .startup, .tickets, .tiles, .vault, .whiteoutCause, .whiteoutCount, .window, .writes, .written] s (execHello f s) := by
  unfold execHello
  repeat' first
    | with_reducible assumption
    | with_reducible exact Keeps.refl _ _
    | with_reducible exact KeepsOut.fault
    | with_reducible apply KeepsOut.next
    | (with_reducible apply Keeps.by (State.dropLink_keeps ..); (· decide))
    | with_reducible apply State.receive_keeps
    | decide
    | (with_reducible apply Keeps.by (State.takeHello_keeps ..); (· decide))
    | split
    | dsimp only
    | intro _

theorem execHelloTimer_keeps (port : Fin 4) (s : State) :
    KeepsOut [.outs, .ports] s (execHelloTimer port s) := by
  unfold execHelloTimer
  repeat' first
    | with_reducible assumption
    | with_reducible exact Keeps.refl _ _
    | with_reducible exact KeepsOut.fault
    | with_reducible apply KeepsOut.next
    | (with_reducible apply Keeps.by (State.modPort_keeps ..); (· decide))
    | with_reducible apply State.onReel_keeps
    | (with_reducible apply Keeps.by (State.sendHello_keeps ..); (· decide))
    | split
    | dsimp only
    | intro _

theorem execIdleTimer_keeps (port : Fin 4) (s : State) :
    KeepsOut [.outs, .ports] s (execIdleTimer port s) := by
  unfold execIdleTimer
  repeat' first
    | with_reducible assumption
    | with_reducible exact Keeps.refl _ _
    | with_reducible exact KeepsOut.fault
    | with_reducible apply KeepsOut.next
    | with_reducible apply State.onReel_keeps
    | (with_reducible apply Keeps.by (State.sendControl_keeps ..); (· decide))
    | split
    | dsimp only
    | intro _

theorem execLinkReceiveTimeout_keeps (port : Fin 4) (s : State) :
    KeepsOut [.abortSeen, .advancing, .block, .ckpts, .counters, .ctxs, .download, .free, .freshCompletions, .freshHealth, .log, .logWritten, .mem, .outs, .parts, .passed, .pendingCompletions, .pendingHealth, .ports, .preemptDue, .reads, .reasons, .regions, .retries, .sleetRunning, .slices, .startup, .tickets, .tiles, .vault, .whiteoutCause, .whiteoutCount, .window, .writes, .written] s (execLinkReceiveTimeout port s) := by
  unfold execLinkReceiveTimeout
  repeat' first
    | with_reducible assumption
    | with_reducible exact Keeps.refl _ _
    | with_reducible exact KeepsOut.fault
    | with_reducible apply KeepsOut.next
    | (with_reducible apply Keeps.by (State.dropLink_keeps ..); (· decide))
    | with_reducible apply State.onReel_keeps
    | split
    | dsimp only
    | intro _

theorem execReelFrameCrcFailure_keeps (port : Fin 4) (arrival : Sys2Proof.BadFrame) (s : State) :
    KeepsOut [.abortSeen, .advancing, .background, .block, .ckpts, .counters, .ctxs, .download, .free, .freshCompletions, .freshHealth, .ins, .log, .logWritten, .mem, .outs, .parts, .passed, .pendingCompletions, .pendingHealth, .portErrors, .ports, .preemptDue, .reads, .reasons, .regions, .retries, .seedings, .sleetRunning, .slices, .startup, .tickets, .tiles, .vault, .whiteoutCause, .whiteoutCount, .window, .writes, .written] s (execReelFrameCrcFailure port arrival s) := by
  unfold execReelFrameCrcFailure
  repeat' first
    | with_reducible assumption
    | with_reducible exact Keeps.refl _ _
    | with_reducible exact KeepsOut.fault
    | with_reducible apply KeepsOut.next
    | (with_reducible apply Keeps.by (State.bump_keeps ..); (· decide))
    | (with_reducible apply Keeps.by (State.dropLink_keeps ..); (· decide))
    | (with_reducible apply Keeps.by (State.hit_keeps ..); (· decide))
    | with_reducible apply State.onPort_keeps
    | decide
    | with_reducible apply State.onReel_keeps
    | (with_reducible apply Keeps.by (State.portError_keeps ..); (· decide))
    | (with_reducible apply Keeps.by (State.sendControl_keeps ..); (· decide))
    | split
    | dsimp only
    | intro _

theorem State.atCount_keeps (s : State) :
    Keeps [.abortSeen, .abortTable, .actIn, .advancing, .block, .ckpts, .counters, .ctxs, .download, .free, .freshCompletions, .freshHealth, .groupDone, .ins, .log, .logWritten, .mem, .outs, .parts, .passed, .pendingCompletions, .pendingHealth, .ports, .preemptDue, .reads, .reasons, .regions, .retries, .sleetRunning, .slices, .startup, .tickets, .tiles, .vault, .whiteoutCause, .whiteoutCount, .window, .writes, .written] s (State.atCount s) := by
  unfold State.atCount
  repeat' first
    | with_reducible assumption
    | with_reducible exact Keeps.refl _ _
    | with_reducible apply Keeps.foldl
    | with_reducible apply Keeps.foldl_snd
    | with_reducible apply Keeps.foldl_snd2
    | with_reducible apply Keeps.foldl_st
    | (with_reducible apply Keeps.by (State.countWaits_keeps ..); (· decide))
    | (with_reducible apply Keeps.by (State.launchAll_keeps ..); (· decide))
    | (with_reducible apply Keeps.by (State.listHolds_keeps ..); (· decide))
    | (with_reducible apply Keeps.by (State.pump_keeps ..); (· decide))
    | (with_reducible apply Keeps.by (State.pumpIn_keeps ..); (· decide))
    | split
    | dsimp only
    | intro _

theorem execPavaneCountLoad_keeps (pav : BitVec 64) (s : State) :
    KeepsOut [.count, .countLoaded, .inputDiff] s (execPavaneCountLoad pav s) := by
  unfold execPavaneCountLoad
  repeat' first
    | with_reducible assumption
    | with_reducible exact Keeps.refl _ _
    | with_reducible exact KeepsOut.fault
    | with_reducible apply KeepsOut.next
    | with_reducible apply State.awake_keeps
    | split
    | dsimp only
    | with_reducible refine Keeps.set_count_countLoaded_inputDiff ?_
    | intro _

theorem execPavaneAdvance_keeps (pav : BitVec 64) (s : State) :
    KeepsOut [.abortSeen, .abortTable, .actIn, .advancing, .block, .ckpts, .count, .counters, .ctxs, .download, .free, .freshCompletions, .freshHealth, .groupDone, .inputDiff, .ins, .log, .logWritten, .mem, .outs, .parts, .passed, .pendingCompletions, .pendingHealth, .ports, .preemptDue, .reads, .reasons, .regions, .retries, .sleetRunning, .slices, .slipPending, .startup, .tick, .tickets, .tiles, .vault, .whiteoutCause, .whiteoutCount, .window, .writes, .written] s (execPavaneAdvance pav s) := by
  unfold execPavaneAdvance
  repeat' first
    | with_reducible assumption
    | with_reducible exact Keeps.refl _ _
    | with_reducible exact KeepsOut.fault
    | with_reducible apply KeepsOut.next
    | (with_reducible apply Keeps.by (State.atCount_keeps ..); (· decide))
    | with_reducible apply State.awake_keeps
    | (with_reducible apply Keeps.by (State.setCount_keeps ..); (· decide))
    | (with_reducible apply Keeps.by (State.takeSlip_keeps ..); (· decide))
    | split
    | dsimp only
    | intro _

theorem execPavaneSlip_keeps (pav : BitVec 64) (s : State) :
    KeepsOut [.abortSeen, .abortTable, .actIn, .advancing, .block, .ckpts, .count, .counters, .ctxs, .download, .free, .freshCompletions, .freshHealth, .groupDone, .inputDiff, .ins, .log, .logWritten, .mem, .outs, .parts, .passed, .pendingCompletions, .pendingHealth, .ports, .preemptDue, .reads, .reasons, .regions, .retries, .sleetRunning, .slices, .slipPending, .startup, .tick, .tickets, .tiles, .vault, .whiteoutCause, .whiteoutCount, .window, .writes, .written] s (execPavaneSlip pav s) := by
  unfold execPavaneSlip
  repeat' first
    | with_reducible assumption
    | with_reducible exact Keeps.refl _ _
    | with_reducible exact KeepsOut.fault
    | with_reducible apply KeepsOut.next
    | (with_reducible apply Keeps.by (State.atCount_keeps ..); (· decide))
    | with_reducible apply State.awake_keeps
    | (with_reducible apply Keeps.by (State.takeSlip_keeps ..); (· decide))
    | split
    | dsimp only
    | intro _

theorem execFrameBoundaryPreemption_keeps (s : State) :
    KeepsOut [.abortSeen, .abortTable, .counters, .ctxs, .free, .groupDone, .mem, .outs, .ports, .preemptDue, .reads, .regions, .tickets, .writes, .written] s (execFrameBoundaryPreemption s) := by
  unfold execFrameBoundaryPreemption
  repeat' first
    | with_reducible assumption
    | with_reducible exact Keeps.refl _ _
    | with_reducible exact KeepsOut.fault
    | with_reducible apply KeepsOut.next
    | with_reducible apply State.awake_keeps
    | (with_reducible apply Keeps.by (State.preempt_keeps ..); (· decide))
    | split
    | dsimp only
    | with_reducible refine Keeps.set_preemptDue ?_
    | intro _

theorem execSuspendedFigureResume_keeps (s : State) :
    KeepsOut [.tickets] s (execSuspendedFigureResume s) := by
  unfold execSuspendedFigureResume
  repeat' first
    | with_reducible assumption
    | with_reducible exact Keeps.refl _ _
    | with_reducible exact KeepsOut.fault
    | with_reducible apply KeepsOut.next
    | with_reducible apply State.awake_keeps
    | (with_reducible apply Keeps.by (State.mapRuns_keeps ..); (· decide))
    | split
    | dsimp only
    | intro _

theorem State.mgtZero_keeps (s : State) :
    Keeps [.outs] s (State.mgtZero s) := by
  unfold State.mgtZero
  repeat' first
    | with_reducible assumption
    | with_reducible exact Keeps.refl _ _
    | (with_reducible apply Keeps.by (State.emit_keeps ..); (· decide))

theorem State.mgtParity_keeps (s : State) :
    Keeps [.counters, .outs, .portErrors] s (State.mgtParity s) := by
  unfold State.mgtParity
  repeat' first
    | with_reducible assumption
    | with_reducible exact Keeps.refl _ _
    | (with_reducible apply Keeps.by (State.emit_keeps ..); (· decide))
    | (with_reducible apply Keeps.by (State.portError_keeps ..); (· decide))

theorem State.badFrame_keeps (s : State) :
    Keeps [.counters, .window] s (State.badFrame s) := by
  unfold State.badFrame
  repeat' first
    | with_reducible assumption
    | with_reducible exact Keeps.refl _ _
    | (with_reducible apply Keeps.by (State.bump_keeps ..); (· decide))
    | (with_reducible apply Keeps.by (State.respondWith_keeps ..); (· decide))

theorem State.badAuth_keeps (s : State) :
    Keeps [.counters, .window] s (State.badAuth s) := by
  unfold State.badAuth
  repeat' first
    | with_reducible assumption
    | with_reducible exact Keeps.refl _ _
    | (with_reducible apply Keeps.by (State.bump_keeps ..); (· decide))
    | (with_reducible apply Keeps.by (State.respondWith_keeps ..); (· decide))

theorem State.acceptCounter_keeps (s : State) :
    Keeps [.vault] s (State.acceptCounter s) := by
  unfold State.acceptCounter
  repeat' first
    | with_reducible assumption
    | with_reducible exact Keeps.refl _ _
    | (with_reducible apply Keeps.by (State.modVault_keeps ..); (· decide))
    | split
    | dsimp only

theorem State.send_keeps (s : State) (length : BitVec 11) :
    Keeps [.counters, .vault, .window] s (State.send s length) := by
  unfold State.send
  repeat' first
    | with_reducible assumption
    | with_reducible exact Keeps.refl _ _
    | (with_reducible apply Keeps.by (State.acceptCounter_keeps ..); (· decide))
    | (with_reducible apply Keeps.by (State.badAuth_keeps ..); (· decide))
    | (with_reducible apply Keeps.by (State.badFrame_keeps ..); (· decide))
    | (with_reducible apply Keeps.by (State.modWindow_keeps ..); (· decide))
    | split
    | dsimp only

theorem State.releaseResponse_keeps (s : State) :
    Keeps [.window] s (State.releaseResponse s) := by
  unfold State.releaseResponse
  repeat' first
    | with_reducible assumption
    | with_reducible exact Keeps.refl _ _
    | (with_reducible apply Keeps.by (State.modWindow_keeps ..); (· decide))

theorem State.clearOverrun_keeps (s : State) :
    Keeps [.window] s (State.clearOverrun s) := by
  unfold State.clearOverrun
  repeat' first
    | with_reducible assumption
    | with_reducible exact Keeps.refl _ _
    | (with_reducible apply Keeps.by (State.modWindow_keeps ..); (· decide))

theorem State.nextSlot_keeps (s : State) :
    Keeps [.window] s (State.nextSlot s) := by
  unfold State.nextSlot
  repeat' first
    | with_reducible assumption
    | with_reducible exact Keeps.refl _ _
    | (with_reducible apply Keeps.by (State.modWindow_keeps ..); (· decide))

theorem State.onWindow_keeps {w : List Fld} {s t : State} {ok : Bool} {f : State → State} (h : Keeps w s t)
    (k : ∀ u, Keeps w s u → Keeps w s (f u)) (hw : ([.counters, .ins, .outs, .portErrors] : List Fld) ⊆ w := by decide) :
    KeepsOut w s (t.onWindow ok f) := by
  refine State.onPort_keeps h (fun u hu => ?_) (List.Subset.trans (by decide) hw)
  try dsimp only
  split
  · exact KeepsOut.next hu
  · split
    · exact KeepsOut.next (k u hu)
    · exact KeepsOut.next (hu.then (State.mgtParity_keeps ..) (List.Subset.trans (by decide) hw))

theorem State.writeCtrl_keeps (s : State) (v : BitVec 32) :
    Keeps [.counters, .vault, .window] s (State.writeCtrl s v) := by
  unfold State.writeCtrl
  repeat' first
    | with_reducible assumption
    | with_reducible exact Keeps.refl _ _
    | (with_reducible apply Keeps.by (State.clearOverrun_keeps ..); (· decide))
    | (with_reducible apply Keeps.by (State.modWindow_keeps ..); (· decide))
    | (with_reducible apply Keeps.by (State.releaseResponse_keeps ..); (· decide))
    | (with_reducible apply Keeps.by (State.send_keeps ..); (· decide))
    | split

theorem execMgtSend_keeps (length : BitVec 11) (parityOk : Bool) (s : State) :
    KeepsOut [.counters, .ins, .outs, .portErrors, .vault, .window] s (execMgtSend length parityOk s) := by
  unfold execMgtSend
  repeat' first
    | with_reducible assumption
    | with_reducible exact Keeps.refl _ _
    | with_reducible exact KeepsOut.fault
    | with_reducible apply KeepsOut.next
    | (with_reducible apply Keeps.by (State.mgtZero_keeps ..); (· decide))
    | with_reducible apply State.onWindow_keeps
    | decide
    | (with_reducible apply Keeps.by (State.send_keeps ..); (· decide))
    | split
    | dsimp only
    | intro _

theorem execMgtRelease_keeps (parityOk : Bool) (s : State) :
    KeepsOut [.counters, .ins, .outs, .portErrors, .vault, .window] s (execMgtRelease parityOk s) := by
  unfold execMgtRelease
  repeat' first
    | with_reducible assumption
    | with_reducible exact Keeps.refl _ _
    | with_reducible exact KeepsOut.fault
    | with_reducible apply KeepsOut.next
    | (with_reducible apply Keeps.by (State.mgtZero_keeps ..); (· decide))
    | with_reducible apply State.onWindow_keeps
    | decide
    | (with_reducible apply Keeps.by (State.writeCtrl_keeps ..); (· decide))
    | split
    | dsimp only
    | intro _

theorem execMgtClearOverrun_keeps (parityOk : Bool) (s : State) :
    KeepsOut [.counters, .ins, .outs, .portErrors, .vault, .window] s (execMgtClearOverrun parityOk s) := by
  unfold execMgtClearOverrun
  repeat' first
    | with_reducible assumption
    | with_reducible exact Keeps.refl _ _
    | with_reducible exact KeepsOut.fault
    | with_reducible apply KeepsOut.next
    | (with_reducible apply Keeps.by (State.mgtZero_keeps ..); (· decide))
    | with_reducible apply State.onWindow_keeps
    | decide
    | (with_reducible apply Keeps.by (State.writeCtrl_keeps ..); (· decide))
    | split
    | dsimp only
    | intro _

theorem execMgtData3Access_keeps (write : Option (BitVec 32)) (parityOk : Bool) (s : State) :
    KeepsOut [.counters, .ins, .outs, .portErrors, .window] s (execMgtData3Access write parityOk s) := by
  unfold execMgtData3Access
  repeat' first
    | with_reducible assumption
    | with_reducible exact Keeps.refl _ _
    | with_reducible exact KeepsOut.fault
    | with_reducible apply KeepsOut.next
    | (with_reducible apply Keeps.by (State.emit_keeps ..); (· decide))
    | (with_reducible apply Keeps.by (State.mgtZero_keeps ..); (· decide))
    | (with_reducible apply Keeps.by (State.modWindow_keeps ..); (· decide))
    | (with_reducible apply Keeps.by (State.nextSlot_keeps ..); (· decide))
    | with_reducible apply State.onWindow_keeps
    | decide
    | split
    | dsimp only
    | intro _

theorem State.writeWindow_keeps (s : State) (offset : BitVec 8) (value : BitVec 32) :
    Keeps [.counters, .vault, .window] s (State.writeWindow s offset value) := by
  unfold State.writeWindow
  repeat' first
    | with_reducible assumption
    | with_reducible exact Keeps.refl _ _
    | (with_reducible apply Keeps.by (State.modWindow_keeps ..); (· decide))
    | (with_reducible apply Keeps.by (State.nextSlot_keeps ..); (· decide))
    | (with_reducible apply Keeps.by (State.writeCtrl_keeps ..); (· decide))
    | split

theorem State.answerRead_keeps (s : State) (offset : BitVec 8) :
    Keeps [.outs, .window] s (State.answerRead s offset) := by
  unfold State.answerRead
  repeat' first
    | with_reducible assumption
    | with_reducible exact Keeps.refl _ _
    | (with_reducible apply Keeps.by (State.emit_keeps ..); (· decide))
    | (with_reducible apply Keeps.by (State.nextSlot_keeps ..); (· decide))
    | split

theorem execMgtRegisterWrite_keeps (offset : BitVec 8) (value : Option (BitVec 32)) (parityOk : Bool) (s : State) :
    KeepsOut [.counters, .ins, .outs, .portErrors, .vault, .window] s (execMgtRegisterWrite offset value parityOk s) := by
  unfold execMgtRegisterWrite
  repeat' first
    | with_reducible assumption
    | with_reducible exact Keeps.refl _ _
    | with_reducible exact KeepsOut.fault
    | with_reducible apply KeepsOut.next
    | (with_reducible apply Keeps.by (State.answerRead_keeps ..); (· decide))
    | (with_reducible apply Keeps.by (State.mgtZero_keeps ..); (· decide))
    | with_reducible apply State.onWindow_keeps
    | decide
    | (with_reducible apply Keeps.by (State.writeWindow_keeps ..); (· decide))
    | split
    | dsimp only
    | intro _

theorem State.doRead_keeps (s : State) :
    Keeps [.pendingCompletions, .pendingHealth, .window] s (State.doRead s) := by
  unfold State.doRead
  repeat' first
    | with_reducible assumption
    | with_reducible exact Keeps.refl _ _
    | (with_reducible apply Keeps.by (State.readEffect_keeps ..); (· decide))
    | (with_reducible apply Keeps.by (State.respond_keeps ..); (· decide))
    | split
    | dsimp only

theorem State.answerWrite_keeps (s : State) (i : Nat) :
    Keeps [.startup, .window] s (State.answerWrite s i) := by
  unfold State.answerWrite
  repeat' first
    | with_reducible assumption
    | with_reducible exact Keeps.refl _ _
    | (with_reducible apply Keeps.by (State.followParts_keeps ..); (· decide))
    | (with_reducible apply Keeps.by (State.modWindow_keeps ..); (· decide))
    | (with_reducible apply Keeps.by (State.respond_keeps ..); (· decide))
    | split
    | dsimp only

theorem State.doWrite_keeps (s : State) :
    Keeps [.abortSeen, .advancing, .block, .ckpts, .counters, .ctxs, .download, .free, .freshCompletions, .mem, .memberDepth, .outs, .parts, .pendingCompletions, .ports, .preemptDue, .profile, .profileDigest, .reads, .regions, .retries, .settings, .sleetRunning, .slices, .startup, .tickets, .tiles, .vault, .whiteoutCause, .whiteoutCount, .window, .writes, .written] s (State.doWrite s) := by
  unfold State.doWrite
  repeat' first
    | with_reducible assumption
    | with_reducible exact Keeps.refl _ _
    | (with_reducible apply Keeps.by (State.answerWrite_keeps ..); (· decide))
    | (with_reducible apply Keeps.by (State.respond_keeps ..); (· decide))
    | (with_reducible apply Keeps.by_opt (State.writeObject_keeps ..); (· assumption); (· decide))
    | split
    | dsimp only

theorem State.doDescribe_keeps (s : State) :
    Keeps [.window] s (State.doDescribe s) := by
  unfold State.doDescribe
  repeat' first
    | with_reducible assumption
    | with_reducible exact Keeps.refl _ _
    | (with_reducible apply Keeps.by (State.respond_keeps ..); (· decide))
    | split
    | dsimp only

theorem State.onRequest_keeps {w : List Fld} {s t : State} {op : Nat} {f : State → State} (h : Keeps w s t)
    (k : ∀ u, Keeps w s u → Keeps w s (f u)) (hw : ([.window] : List Fld) ⊆ w := by decide) :
    KeepsOut w s (t.onRequest op f) := by
  unfold State.onRequest
  split
  · exact KeepsOut.next h
  · split
    · exact KeepsOut.next h
    · split
      · exact KeepsOut.next (h.then (State.respond_keeps ..) (List.Subset.trans (by decide) hw))
      · exact KeepsOut.next (k t h)

theorem execRead_keeps (s : State) :
    KeepsOut [.pendingCompletions, .pendingHealth, .window] s (execRead s) := by
  unfold execRead
  repeat' first
    | with_reducible assumption
    | with_reducible exact Keeps.refl _ _
    | with_reducible exact KeepsOut.fault
    | with_reducible apply KeepsOut.next
    | (with_reducible apply Keeps.by (State.doRead_keeps ..); (· decide))
    | with_reducible apply State.onRequest_keeps
    | decide
    | split
    | dsimp only
    | intro _

theorem execWrite_keeps (s : State) :
    KeepsOut [.abortSeen, .advancing, .block, .ckpts, .counters, .ctxs, .download, .free, .freshCompletions, .mem, .memberDepth, .outs, .parts, .pendingCompletions, .ports, .preemptDue, .profile, .profileDigest, .reads, .regions, .retries, .settings, .sleetRunning, .slices, .startup, .tickets, .tiles, .vault, .whiteoutCause, .whiteoutCount, .window, .writes, .written] s (execWrite s) := by
  unfold execWrite
  repeat' first
    | with_reducible assumption
    | with_reducible exact Keeps.refl _ _
    | with_reducible exact KeepsOut.fault
    | with_reducible apply KeepsOut.next
    | (with_reducible apply Keeps.by (State.doWrite_keeps ..); (· decide))
    | with_reducible apply State.onRequest_keeps
    | decide
    | split
    | dsimp only
    | intro _

theorem execDescribe_keeps (s : State) :
    KeepsOut [.window] s (execDescribe s) := by
  unfold execDescribe
  repeat' first
    | with_reducible assumption
    | with_reducible exact Keeps.refl _ _
    | with_reducible exact KeepsOut.fault
    | with_reducible apply KeepsOut.next
    | (with_reducible apply Keeps.by (State.doDescribe_keeps ..); (· decide))
    | with_reducible apply State.onRequest_keeps
    | decide
    | split
    | dsimp only
    | intro _

theorem execDictionaryAccessRelease_keeps (s : State) :
    KeepsOut [.abortSeen, .advancing, .block, .ckpts, .counters, .ctxs, .download, .free, .freshCompletions, .mem, .memberDepth, .outs, .parts, .pendingCompletions, .pendingHealth, .ports, .preemptDue, .profile, .profileDigest, .reads, .regions, .retries, .settings, .sleetRunning, .slices, .startup, .tickets, .tiles, .vault, .whiteoutCause, .whiteoutCount, .window, .writes, .written] s (execDictionaryAccessRelease s) := by
  unfold execDictionaryAccessRelease
  repeat' first
    | with_reducible assumption
    | with_reducible exact Keeps.refl _ _
    | with_reducible exact KeepsOut.fault
    | with_reducible apply KeepsOut.next
    | (with_reducible apply Keeps.by (State.doDescribe_keeps ..); (· decide))
    | (with_reducible apply Keeps.by (State.doRead_keeps ..); (· decide))
    | (with_reducible apply Keeps.by (State.doWrite_keeps ..); (· decide))
    | (with_reducible apply Keeps.by (State.modWindow_keeps ..); (· decide))
    | (with_reducible apply Keeps.by (State.respond_keeps ..); (· decide))
    | split

theorem State.onDownload_keeps {w : List Fld} {s t : State} {op : Nat} {f : State → State} (h : Keeps w s t)
    (k : ∀ u, Keeps w s u → Keeps w s (f u)) (hw : ([.window] : List Fld) ⊆ w := by decide) :
    KeepsOut w s (t.onDownload op f) := by
  refine State.onRequest_keeps h (fun u hu => ?_) hw
  try dsimp only
  split
  · exact hu.then (State.respond_keeps ..) (List.Subset.trans (by decide) hw)
  · exact k u hu

theorem State.breakDownload_keeps (s : State) :
    Keeps [.download, .window] s (State.breakDownload s) := by
  unfold State.breakDownload
  repeat' first
    | with_reducible assumption
    | with_reducible exact Keeps.refl _ _
    | (with_reducible apply Keeps.by (State.respond_keeps ..); (· decide))
    | split
    | dsimp only
    | with_reducible refine Keeps.set_download ?_

theorem execDownloadBegin_keeps (s : State) :
    KeepsOut [.download, .window] s (execDownloadBegin s) := by
  unfold execDownloadBegin
  repeat' first
    | with_reducible assumption
    | with_reducible exact Keeps.refl _ _
    | with_reducible exact KeepsOut.fault
    | with_reducible apply KeepsOut.next
    | with_reducible apply State.onDownload_keeps
    | decide
    | (with_reducible apply Keeps.by (State.respond_keeps ..); (· decide))
    | split
    | dsimp only
    | with_reducible refine Keeps.set_download ?_
    | intro _

theorem execDownloadData_keeps (s : State) :
    KeepsOut [.download, .window] s (execDownloadData s) := by
  unfold execDownloadData
  repeat' first
    | with_reducible assumption
    | with_reducible exact Keeps.refl _ _
    | with_reducible exact KeepsOut.fault
    | with_reducible apply KeepsOut.next
    | (with_reducible apply Keeps.by (State.breakDownload_keeps ..); (· decide))
    | with_reducible apply State.onDownload_keeps
    | decide
    | (with_reducible apply Keeps.by (State.respond_keeps ..); (· decide))
    | split
    | dsimp only
    | with_reducible refine Keeps.set_download ?_
    | intro _

theorem State.loadImage_keeps (s : State) (intake : Nat) (im : Bytes) :
    KeepsOpt [.figures, .micros, .overlays] s (State.loadImage s intake im) := by
  unfold State.loadImage
  repeat' first
    | with_reducible assumption
    | with_reducible exact Keeps.refl _ _
    | with_reducible exact KeepsOpt.none
    | with_reducible apply KeepsOpt.some
    | split
    | dsimp only
    | with_reducible refine Keeps.set_micros ?_
    | with_reducible refine Keeps.set_figures ?_
    | with_reducible refine Keeps.set_overlays ?_

theorem execDownloadEnd_keeps (s : State) :
    KeepsOut [.counters, .download, .figures, .micros, .overlays, .window] s (execDownloadEnd s) := by
  unfold execDownloadEnd
  repeat' first
    | with_reducible assumption
    | with_reducible exact Keeps.refl _ _
    | with_reducible exact KeepsOut.fault
    | with_reducible apply KeepsOut.next
    | (with_reducible apply Keeps.by (State.breakDownload_keeps ..); (· decide))
    | (with_reducible apply Keeps.by (State.bump_keeps ..); (· decide))
    | (with_reducible apply Keeps.by_opt (State.loadImage_keeps ..); (· assumption); (· decide))
    | with_reducible apply State.onDownload_keeps
    | decide
    | (with_reducible apply Keeps.by (State.respond_keeps ..); (· decide))
    | split
    | dsimp only
    | with_reducible refine Keeps.set_download ?_
    | intro _

theorem State.service_keeps {w : List Fld} {s t : State} {code : Nat} {inWhiteout stateOk : Bool} {c : Caller} {len : Nat}
    {f : State → State} (h : Keeps w s t) (k : ∀ u, Keeps w s u → Keeps w s (f u))
    (hw : ([.window] : List Fld) ⊆ w := by decide) : KeepsOut w s (t.service code inWhiteout stateOk c len f) := by
  refine State.onRequest_keeps h (fun u hu => ?_) hw
  try dsimp only
  split
  · exact hu.then (State.respond_keeps ..) (List.Subset.trans (by decide) hw)
  · split
    · exact hu.then (State.respond_keeps ..) (List.Subset.trans (by decide) hw)
    · split
      · exact hu.then (State.respond_keeps ..) (List.Subset.trans (by decide) hw)
      · split
        · exact hu.then (State.respond_keeps ..) (List.Subset.trans (by decide) hw)
        · exact k u hu

theorem State.challenge_keeps (s : State) :
    Keeps [.vault] s (State.challenge s).2 := by
  unfold State.challenge
  repeat' first
    | with_reducible assumption
    | with_reducible exact Keeps.refl _ _
    | (with_reducible apply Keeps.by (State.vaultDraw_keeps ..); (· decide))
    | split

theorem State.openSession_keeps (s : State) (role : Role) :
    Keeps [.vault, .window] s (State.openSession s role) := by
  unfold State.openSession
  repeat' first
    | with_reducible assumption
    | with_reducible exact Keeps.refl _ _
    | (with_reducible apply Keeps.by (State.challenge_keeps ..); (· decide))
    | (with_reducible apply Keeps.by (State.modVault_keeps ..); (· decide))
    | (with_reducible apply Keeps.by (State.respond_keeps ..); (· decide))

theorem execOpenChallenge_keeps (s : State) :
    KeepsOut [.vault, .window] s (execOpenChallenge s) := by
  unfold execOpenChallenge
  repeat' first
    | with_reducible assumption
    | with_reducible exact Keeps.refl _ _
    | with_reducible exact KeepsOut.fault
    | with_reducible apply KeepsOut.next
    | (with_reducible apply Keeps.by (State.openSession_keeps ..); (· decide))
    | (with_reducible apply Keeps.by (State.respond_keeps ..); (· decide))
    | with_reducible apply State.service_keeps
    | decide
    | split
    | dsimp only
    | intro _

theorem State.dropSession_keeps (s : State) (id : Nat) :
    Keeps [.vault] s (State.dropSession s id) := by
  unfold State.dropSession
  repeat' first
    | with_reducible assumption
    | with_reducible exact Keeps.refl _ _
    | (with_reducible apply Keeps.by (State.modVault_keeps ..); (· decide))

theorem State.proofFails_keeps (s : State) (x : Session) :
    Keeps [.counters, .vault, .window] s (State.proofFails s x) := by
  unfold State.proofFails
  repeat' first
    | with_reducible assumption
    | with_reducible exact Keeps.refl _ _
    | (with_reducible apply Keeps.by (State.bump_keeps ..); (· decide))
    | (with_reducible apply Keeps.by (State.dropSession_keeps ..); (· decide))
    | (with_reducible apply Keeps.by (State.modVault_keeps ..); (· decide))
    | (with_reducible apply Keeps.by (State.respondWith_keeps ..); (· decide))

theorem execOpenProve_keeps (s : State) :
    KeepsOut [.counters, .vault, .window] s (execOpenProve s) := by
  unfold execOpenProve
  repeat' first
    | with_reducible assumption
    | with_reducible exact Keeps.refl _ _
    | with_reducible exact KeepsOut.fault
    | with_reducible apply KeepsOut.next
    | (with_reducible apply Keeps.by (State.badAuth_keeps ..); (· decide))
    | (with_reducible apply Keeps.by (State.bump_keeps ..); (· decide))
    | (with_reducible apply Keeps.by (State.modVault_keeps ..); (· decide))
    | with_reducible apply State.onRequest_keeps
    | decide
    | (with_reducible apply Keeps.by (State.proofFails_keeps ..); (· decide))
    | (with_reducible apply Keeps.by (State.respond_keeps ..); (· decide))
    | split
    | dsimp only
    | intro _

theorem execClose_keeps (s : State) :
    KeepsOut [.vault, .window] s (execClose s) := by
  unfold execClose
  repeat' first
    | with_reducible assumption
    | with_reducible exact Keeps.refl _ _
    | with_reducible exact KeepsOut.fault
    | with_reducible apply KeepsOut.next
    | (with_reducible apply Keeps.by (State.dropSession_keeps ..); (· decide))
    | (with_reducible apply Keeps.by (State.respond_keeps ..); (· decide))
    | with_reducible apply State.service_keeps
    | decide
    | split
    | dsimp only
    | intro _

theorem execSessionIdleTimeout_keeps (session : BitVec 32) (s : State) :
    KeepsOut [.vault] s (execSessionIdleTimeout session s) := by
  unfold execSessionIdleTimeout
  repeat' first
    | with_reducible assumption
    | with_reducible exact Keeps.refl _ _
    | with_reducible exact KeepsOut.fault
    | with_reducible apply KeepsOut.next
    | with_reducible apply State.awake_keeps
    | (with_reducible apply Keeps.by (State.dropSession_keeps ..); (· decide))
    | split
    | dsimp only
    | intro _

theorem execPendingSessionTimeout_keeps (session : BitVec 32) (s : State) :
    KeepsOut [.vault] s (execPendingSessionTimeout session s) := by
  unfold execPendingSessionTimeout
  repeat' first
    | with_reducible assumption
    | with_reducible exact Keeps.refl _ _
    | with_reducible exact KeepsOut.fault
    | with_reducible apply KeepsOut.next
    | with_reducible apply State.awake_keeps
    | (with_reducible apply Keeps.by (State.dropSession_keeps ..); (· decide))
    | split
    | dsimp only
    | intro _

theorem State.leaveSelftest_keeps (s : State) :
    Keeps [.startup, .vault] s (State.leaveSelftest s) := by
  unfold State.leaveSelftest
  repeat' first
    | with_reducible assumption
    | with_reducible exact Keeps.refl _ _
    | split
    | dsimp only
    | with_reducible refine Keeps.set_startup_vault ?_

theorem execEnrol_keeps (s : State) :
    KeepsOut [.startup, .vault, .window] s (execEnrol s) := by
  unfold execEnrol
  repeat' first
    | with_reducible assumption
    | with_reducible exact Keeps.refl _ _
    | with_reducible exact KeepsOut.fault
    | with_reducible apply KeepsOut.next
    | (with_reducible apply Keeps.by (State.leaveSelftest_keeps ..); (· decide))
    | (with_reducible apply Keeps.by (State.modVault_keeps ..); (· decide))
    | (with_reducible apply Keeps.by (State.respond_keeps ..); (· decide))
    | with_reducible apply State.service_keeps
    | decide
    | split
    | dsimp only
    | intro _

theorem State.putSeed_keeps (s : State) (p : Nat) (sd : Seed) :
    Keeps [.parts] s (State.putSeed s p sd) := by
  unfold State.putSeed
  repeat' first
    | with_reducible assumption
    | with_reducible exact Keeps.refl _ _
    | (with_reducible apply Keeps.by (State.modPart_keeps ..); (· decide))

theorem execSeedImport_keeps (s : State) :
    KeepsOut [.counters, .parts, .window] s (execSeedImport s) := by
  unfold execSeedImport
  repeat' first
    | with_reducible assumption
    | with_reducible exact Keeps.refl _ _
    | with_reducible exact KeepsOut.fault
    | with_reducible apply KeepsOut.next
    | (with_reducible apply Keeps.by (State.bump_keeps ..); (· decide))
    | (with_reducible apply Keeps.by (State.modPart_keeps ..); (· decide))
    | (with_reducible apply Keeps.by (State.modWindow_keeps ..); (· decide))
    | (with_reducible apply Keeps.by (State.putSeed_keeps ..); (· decide))
    | (with_reducible apply Keeps.by (State.respond_keeps ..); (· decide))
    | with_reducible apply State.service_keeps
    | decide
    | split
    | dsimp only
    | intro _

theorem execSeedKeyDeferredWrite_keeps (part : Nat) (s : State) :
    KeepsOut [.parts, .window] s (execSeedKeyDeferredWrite part s) := by
  unfold execSeedKeyDeferredWrite
  repeat' first
    | with_reducible assumption
    | with_reducible exact Keeps.refl _ _
    | with_reducible exact KeepsOut.fault
    | with_reducible apply KeepsOut.next
    | with_reducible apply State.awake_keeps
    | (with_reducible apply Keeps.by (State.putSeed_keeps ..); (· decide))
    | (with_reducible apply Keeps.by (State.respond_keeps ..); (· decide))
    | split
    | dsimp only
    | intro _

theorem execAuditKey_keeps (s : State) :
    KeepsOut [.window] s (execAuditKey s) := by
  unfold execAuditKey
  repeat' first
    | with_reducible assumption
    | with_reducible exact Keeps.refl _ _
    | with_reducible exact KeepsOut.fault
    | with_reducible apply KeepsOut.next
    | (with_reducible apply Keeps.by (State.respond_keeps ..); (· decide))
    | with_reducible apply State.service_keeps
    | decide
    | split
    | dsimp only
    | intro _

theorem execVerifyKey_keeps (s : State) :
    KeepsOut [.vault, .window] s (execVerifyKey s) := by
  unfold execVerifyKey
  repeat' first
    | with_reducible assumption
    | with_reducible exact Keeps.refl _ _
    | with_reducible exact KeepsOut.fault
    | with_reducible apply KeepsOut.next
    | (with_reducible apply Keeps.by (State.modVault_keeps ..); (· decide))
    | (with_reducible apply Keeps.by (State.respond_keeps ..); (· decide))
    | with_reducible apply State.service_keeps
    | decide
    | split
    | dsimp only
    | intro _

theorem execSelftest_keeps (failed : BitVec 32) (s : State) :
    KeepsOut [.abortSeen, .advancing, .block, .ckpts, .counters, .ctxs, .download, .free, .freshCompletions, .mem, .outs, .parts, .pendingCompletions, .ports, .preemptDue, .reads, .regions, .retries, .sleetRunning, .slices, .startup, .tickets, .tiles, .vault, .whiteoutCause, .whiteoutCount, .window, .writes, .written] s (execSelftest failed s) := by
  unfold execSelftest
  repeat' first
    | with_reducible assumption
    | with_reducible exact Keeps.refl _ _
    | with_reducible exact KeepsOut.fault
    | with_reducible apply KeepsOut.next
    | (with_reducible apply Keeps.by (State.enterWhiteout_keeps ..); (· decide))
    | (with_reducible apply Keeps.by (State.modVault_keeps ..); (· decide))
    | (with_reducible apply Keeps.by (State.respond_keeps ..); (· decide))
    | with_reducible apply State.service_keeps
    | decide
    | split
    | dsimp only
    | intro _

theorem State.vaultFails_keeps (s : State) (bits : U32) :
    Keeps [.abortSeen, .advancing, .block, .ckpts, .counters, .ctxs, .download, .free, .freshCompletions, .mem, .outs, .parts, .pendingCompletions, .ports, .preemptDue, .reads, .regions, .retries, .sleetRunning, .slices, .startup, .tickets, .tiles, .vault, .whiteoutCause, .whiteoutCount, .window, .writes, .written] s (State.vaultFails s bits) := by
  unfold State.vaultFails
  repeat' first
    | with_reducible assumption
    | with_reducible exact Keeps.refl _ _
    | (with_reducible apply Keeps.by (State.enterWhiteout_keeps ..); (· decide))
    | (with_reducible apply Keeps.by (State.modVault_keeps ..); (· decide))

theorem State.makeAuditKey_keeps (s : State) (d : Drbg) :
    Keeps [.abortSeen, .advancing, .block, .ckpts, .counters, .ctxs, .download, .free, .freshCompletions, .mem, .outs, .parts, .pendingCompletions, .ports, .preemptDue, .reads, .regions, .retries, .sleetRunning, .slices, .startup, .tickets, .tiles, .vault, .whiteoutCause, .whiteoutCount, .window, .writes, .written] s (State.makeAuditKey s d) := by
  unfold State.makeAuditKey
  repeat' first
    | with_reducible assumption
    | with_reducible exact Keeps.refl _ _
    | (with_reducible apply Keeps.by (State.modVault_keeps ..); (· decide))
    | (with_reducible apply Keeps.by (State.setDrbg_keeps ..); (· decide))
    | (with_reducible apply Keeps.by (State.vaultFails_keeps ..); (· decide))
    | split
    | dsimp only

theorem State.credit_keeps (s : State) (x : Byte) :
    Keeps [.abortSeen, .advancing, .block, .ckpts, .counters, .ctxs, .download, .free, .freshCompletions, .mem, .outs, .parts, .pendingCompletions, .ports, .preemptDue, .reads, .regions, .retries, .sleetRunning, .slices, .startup, .tickets, .tiles, .vault, .whiteoutCause, .whiteoutCount, .window, .writes, .written] s (State.credit s x) := by
  unfold State.credit
  repeat' first
    | with_reducible assumption
    | with_reducible exact Keeps.refl _ _
    | (with_reducible apply Keeps.by (State.bump_keeps ..); (· decide))
    | (with_reducible apply Keeps.by (State.makeAuditKey_keeps ..); (· decide))
    | (with_reducible apply Keeps.by (State.modVault_keeps ..); (· decide))
    | split
    | dsimp only

theorem execEntropySample_keeps (sample : Byte) (parityOk : Bool) (s : State) :
    KeepsOut [.abortSeen, .advancing, .block, .ckpts, .counters, .ctxs, .download, .free, .freshCompletions, .ins, .mem, .outs, .parts, .pendingCompletions, .portErrors, .ports, .preemptDue, .reads, .regions, .retries, .sleetRunning, .slices, .startup, .tickets, .tiles, .vault, .whiteoutCause, .whiteoutCount, .window, .writes, .written] s (execEntropySample sample parityOk s) := by
  unfold execEntropySample
  repeat' first
    | with_reducible assumption
    | with_reducible exact Keeps.refl _ _
    | with_reducible exact KeepsOut.fault
    | with_reducible apply KeepsOut.next
    | with_reducible apply State.awake_keeps
    | (with_reducible apply Keeps.by (State.credit_keeps ..); (· decide))
    | (with_reducible apply Keeps.by (State.modVault_keeps ..); (· decide))
    | with_reducible apply State.onPort_keeps
    | decide
    | (with_reducible apply Keeps.by (State.portError_keeps ..); (· decide))
    | (with_reducible apply Keeps.by (State.vaultFails_keeps ..); (· decide))
    | split
    | dsimp only
    | intro _

theorem State.beginZeroise_keeps (s : State) :
    Keeps [.abortSeen, .ckpts, .counters, .ctxs, .download, .free, .freshCompletions, .mem, .outs, .parts, .pendingCompletions, .ports, .preemptDue, .reads, .regions, .retries, .startup, .tickets, .vault, .window, .writes, .written] s (State.beginZeroise s) := by
  unfold State.beginZeroise
  repeat' first
    | with_reducible assumption
    | with_reducible exact Keeps.refl _ _
    | (with_reducible apply Keeps.by (State.followParts_keeps ..); (· decide))
    | (with_reducible apply Keeps.by (State.zeroiseBlock_keeps ..); (· decide))

theorem execZeroise_keeps (s : State) :
    KeepsOut [.abortSeen, .ckpts, .counters, .ctxs, .download, .free, .freshCompletions, .mem, .outs, .parts, .pendingCompletions, .ports, .preemptDue, .reads, .regions, .retries, .startup, .tickets, .vault, .window, .writes, .written] s (execZeroise s) := by
  unfold execZeroise
  repeat' first
    | with_reducible assumption
    | with_reducible exact Keeps.refl _ _
    | with_reducible exact KeepsOut.fault
    | with_reducible apply KeepsOut.next
    | (with_reducible apply Keeps.by (State.beginZeroise_keeps ..); (· decide))
    | (with_reducible apply Keeps.by (State.respond_keeps ..); (· decide))
    | with_reducible apply State.service_keeps
    | decide
    | split
    | dsimp only
    | intro _

theorem execZeroiseInput_keeps (s : State) :
    KeepsOut [.abortSeen, .ckpts, .counters, .ctxs, .download, .free, .freshCompletions, .mem, .outs, .parts, .pendingCompletions, .ports, .preemptDue, .reads, .regions, .retries, .startup, .tickets, .vault, .window, .writes, .written, .zeroisePin] s (execZeroiseInput s) := by
  unfold execZeroiseInput
  repeat' first
    | with_reducible assumption
    | with_reducible exact Keeps.refl _ _
    | with_reducible exact KeepsOut.fault
    | with_reducible apply KeepsOut.next
    | (with_reducible apply Keeps.by (State.beginZeroise_keeps ..); (· decide))
    | split
    | dsimp only
    | with_reducible refine Keeps.set_zeroisePin ?_

theorem execTamperInput_keeps (cycles : Nat) (s : State) :
    KeepsOut [.abortSeen, .ckpts, .counters, .ctxs, .download, .free, .freshCompletions, .mem, .outs, .parts, .pendingCompletions, .ports, .preemptDue, .reads, .regions, .retries, .startup, .tamperPin, .tickets, .vault, .window, .writes, .written] s (execTamperInput cycles s) := by
  unfold execTamperInput
  repeat' first
    | with_reducible assumption
    | with_reducible exact Keeps.refl _ _
    | with_reducible exact KeepsOut.fault
    | with_reducible apply KeepsOut.next
    | (with_reducible apply Keeps.by (State.beginZeroise_keeps ..); (· decide))
    | split
    | dsimp only
    | with_reducible refine Keeps.set_tamperPin ?_

theorem execRstNAssert_keeps (s : State) : KeepsOut [.startup, .rstAsserted, .testMode, .released, .testsDone, .advancing, .portErrors, .count, .countLoaded, .slipPending, .inputDiff, .tick, .profile, .profileDigest, .settings, .parts, .tickets, .nextSeq, .ckpts, .ctxs, .regions, .firn, .bankSpares, .scrub, .background, .reads, .writes, .written, .outs, .ins, .tiles, .slices, .block, .retries, .preemptDue, .sleetRunning, .seedings, .overlays, .micros, .figures, .ports, .memberDepth, .abortTable, .abortSeen, .groupDone, .passed, .actIn, .vault, .window, .download, .pendingCompletions, .pendingHealth, .freshCompletions, .freshHealth, .linksBegun, .whiteoutCause, .whiteoutCount, .tableReloaded, .reasons, .log, .logWritten, .counters] s
    (execRstNAssert s) :=
  KeepsOut.next ⟨rfl, rfl, rfl, fun n => absurd (by decide) n, id, fun _ => rfl,
    by intro f hf; cases f <;> first | rfl | exact absurd (by decide) hf⟩

theorem execResetRelease_keeps (testMode : Bool) (zeroisePin : Bool) (tamperPin : Bool) (s : State) :
    KeepsOut [.ins, .released, .rstAsserted, .tamperPin, .testMode, .zeroisePin] s (execResetRelease testMode zeroisePin tamperPin s) := by
  unfold execResetRelease
  repeat' first
    | with_reducible assumption
    | with_reducible exact Keeps.refl _ _
    | with_reducible exact KeepsOut.fault
    | with_reducible apply KeepsOut.next
    | split
    | dsimp only
    | with_reducible refine Keeps.set_rstAsserted_released_ins_testMode_zeroisePin_tamperPin ?_

theorem execSelftestEntry_keeps (s : State) :
    KeepsOut [.abortSeen, .ckpts, .counters, .ctxs, .download, .free, .freshCompletions, .mem, .outs, .parts, .pendingCompletions, .ports, .preemptDue, .reads, .regions, .retries, .startup, .tickets, .vault, .window, .writes, .written] s (execSelftestEntry s) := by
  unfold execSelftestEntry
  repeat' first
    | with_reducible assumption
    | with_reducible exact Keeps.refl _ _
    | with_reducible exact KeepsOut.fault
    | with_reducible apply KeepsOut.next
    | (with_reducible apply Keeps.by (State.beginZeroise_keeps ..); (· decide))
    | split
    | dsimp only
    | with_reducible refine Keeps.set_startup ?_

theorem State.takeReport_keeps (s : State) (r : Sys2Proof.TestReport) :
    Keeps [.bankSpares, .reasons, .testsDone, .tiles, .vault] s (State.takeReport s r) := by
  unfold State.takeReport
  repeat' first
    | with_reducible assumption
    | with_reducible exact Keeps.refl _ _
    | with_reducible apply Keeps.foldl
    | with_reducible apply Keeps.foldl_snd
    | with_reducible apply Keeps.foldl_snd2
    | with_reducible apply Keeps.foldl_st
    | (with_reducible apply Keeps.by (State.modTile_keeps ..); (· decide))
    | split
    | dsimp only
    | with_reducible refine Keeps.set_bankSpares ?_
    | with_reducible refine Keeps.set_testsDone_reasons_vault ?_
    | intro _

theorem execSelftestComplete_keeps (report : Sys2Proof.TestReport) (s : State) :
    KeepsOut [.abortSeen, .advancing, .bankSpares, .block, .ckpts, .counters, .ctxs, .download, .free, .freshCompletions, .mem, .outs, .parts, .pendingCompletions, .ports, .preemptDue, .reads, .reasons, .regions, .retries, .sleetRunning, .slices, .startup, .testsDone, .tickets, .tiles, .vault, .whiteoutCause, .whiteoutCount, .window, .writes, .written] s (execSelftestComplete report s) := by
  unfold execSelftestComplete
  repeat' first
    | with_reducible assumption
    | with_reducible exact Keeps.refl _ _
    | with_reducible exact KeepsOut.fault
    | with_reducible apply KeepsOut.next
    | (with_reducible apply Keeps.by (State.enterWhiteout_keeps ..); (· decide))
    | (with_reducible apply Keeps.by (State.leaveSelftest_keeps ..); (· decide))
    | (with_reducible apply Keeps.by (State.takeReport_keeps ..); (· decide))
    | split
    | dsimp only
    | with_reducible refine Keeps.set_vault ?_

theorem execMgtAdvance_keeps (s : State) :
    KeepsOut [.advancing, .download, .startup] s (execMgtAdvance s) := by
  unfold execMgtAdvance
  repeat' first
    | with_reducible assumption
    | with_reducible exact Keeps.refl _ _
    | with_reducible exact KeepsOut.fault
    | with_reducible apply KeepsOut.next
    | with_reducible apply State.awake_keeps
    | split
    | dsimp only
    | with_reducible refine Keeps.set_startup_download ?_
    | with_reducible refine Keeps.set_advancing ?_
    | intro _

theorem execReadyEntry_keeps (s : State) :
    KeepsOut [.abortSeen, .advancing, .block, .ckpts, .counters, .ctxs, .download, .free, .freshCompletions, .linksBegun, .mem, .memberDepth, .outs, .parts, .pendingCompletions, .ports, .preemptDue, .reads, .regions, .retries, .seedings, .sleetRunning, .slices, .startup, .tickets, .tiles, .vault, .whiteoutCause, .whiteoutCount, .window, .writes, .written] s (execReadyEntry s) := by
  unfold execReadyEntry
  repeat' first
    | with_reducible assumption
    | with_reducible exact Keeps.refl _ _
    | with_reducible exact KeepsOut.fault
    | with_reducible apply KeepsOut.next
    | with_reducible apply State.awake_keeps
    | (with_reducible apply Keeps.by (State.enterWhiteout_keeps ..); (· decide))
    | (with_reducible apply Keeps.by (State.renewLinks_keeps ..); (· decide))
    | (with_reducible apply Keeps.by (State.seedSleet_keeps ..); (· decide))
    | split
    | dsimp only
    | with_reducible refine Keeps.set_startup_advancing_linksBegun_tiles ?_
    | intro _

theorem execTestWrapperAccess_keeps (instrument : Sys2Proof.Instrument) (s : State) :
    KeepsOut [.free, .testReading] s (execTestWrapperAccess instrument s) := by
  unfold execTestWrapperAccess
  repeat' first
    | with_reducible assumption
    | with_reducible exact Keeps.refl _ _
    | with_reducible exact KeepsOut.fault
    | with_reducible apply KeepsOut.next
    | (with_reducible apply Keeps.by (State.fresh_keeps ..); (· decide))
    | split
    | dsimp only
    | with_reducible refine Keeps.set_testReading ?_

end Sys2Proof.Machine
end

