-- ==== Sys2Proof/Laws/State.lean ====
section
/-! SUPPORT. What each update of one part of the state leaves in every field, and what it puts into its own. -/
set_option Elab.async false
namespace Sys2Proof.Machine

section
variable (s : State) (p : Nat) (f : Partition → Partition)
@[simp] theorem State.modPart_pending : (s.modPart p f).pending = s.pending := rfl
@[simp] theorem State.modPart_free : (s.modPart p f).free = s.free := rfl
@[simp] theorem State.modPart_grade : (s.modPart p f).grade = s.grade := rfl
@[simp] theorem State.modPart_stepping : (s.modPart p f).stepping = s.stepping := rfl
@[simp] theorem State.modPart_startup : (s.modPart p f).startup = s.startup := rfl
@[simp] theorem State.modPart_rstAsserted : (s.modPart p f).rstAsserted = s.rstAsserted := rfl
@[simp] theorem State.modPart_testMode : (s.modPart p f).testMode = s.testMode := rfl
@[simp] theorem State.modPart_released : (s.modPart p f).released = s.released := rfl
@[simp] theorem State.modPart_testsDone : (s.modPart p f).testsDone = s.testsDone := rfl
@[simp] theorem State.modPart_advancing : (s.modPart p f).advancing = s.advancing := rfl
@[simp] theorem State.modPart_zeroisePin : (s.modPart p f).zeroisePin = s.zeroisePin := rfl
@[simp] theorem State.modPart_tamperPin : (s.modPart p f).tamperPin = s.tamperPin := rfl
@[simp] theorem State.modPart_portErrors : (s.modPart p f).portErrors = s.portErrors := rfl
@[simp] theorem State.modPart_testReading : (s.modPart p f).testReading = s.testReading := rfl
@[simp] theorem State.modPart_count : (s.modPart p f).count = s.count := rfl
@[simp] theorem State.modPart_countLoaded : (s.modPart p f).countLoaded = s.countLoaded := rfl
@[simp] theorem State.modPart_slipPending : (s.modPart p f).slipPending = s.slipPending := rfl
@[simp] theorem State.modPart_inputDiff : (s.modPart p f).inputDiff = s.inputDiff := rfl
@[simp] theorem State.modPart_tick : (s.modPart p f).tick = s.tick := rfl
@[simp] theorem State.modPart_profile : (s.modPart p f).profile = s.profile := rfl
@[simp] theorem State.modPart_profileDigest : (s.modPart p f).profileDigest = s.profileDigest := rfl
@[simp] theorem State.modPart_settings : (s.modPart p f).settings = s.settings := rfl
@[simp] theorem State.modPart_parts : (s.modPart p f).parts = vset s.parts p (f (s.part p)) := rfl
@[simp] theorem State.modPart_tickets : (s.modPart p f).tickets = s.tickets := rfl
@[simp] theorem State.modPart_nextSeq : (s.modPart p f).nextSeq = s.nextSeq := rfl
@[simp] theorem State.modPart_ckpts : (s.modPart p f).ckpts = s.ckpts := rfl
@[simp] theorem State.modPart_ctxs : (s.modPart p f).ctxs = s.ctxs := rfl
@[simp] theorem State.modPart_regions : (s.modPart p f).regions = s.regions := rfl
@[simp] theorem State.modPart_firn : (s.modPart p f).firn = s.firn := rfl
@[simp] theorem State.modPart_bankSpares : (s.modPart p f).bankSpares = s.bankSpares := rfl
@[simp] theorem State.modPart_scrub : (s.modPart p f).scrub = s.scrub := rfl
@[simp] theorem State.modPart_background : (s.modPart p f).background = s.background := rfl
@[simp] theorem State.modPart_mem : (s.modPart p f).mem = s.mem := rfl
@[simp] theorem State.modPart_reads : (s.modPart p f).reads = s.reads := rfl
@[simp] theorem State.modPart_writes : (s.modPart p f).writes = s.writes := rfl
@[simp] theorem State.modPart_outs : (s.modPart p f).outs = s.outs := rfl
@[simp] theorem State.modPart_ins : (s.modPart p f).ins = s.ins := rfl
@[simp] theorem State.modPart_tiles : (s.modPart p f).tiles = s.tiles := rfl
@[simp] theorem State.modPart_slices : (s.modPart p f).slices = s.slices := rfl
@[simp] theorem State.modPart_block : (s.modPart p f).block = s.block := rfl
@[simp] theorem State.modPart_retries : (s.modPart p f).retries = s.retries := rfl
@[simp] theorem State.modPart_preemptDue : (s.modPart p f).preemptDue = s.preemptDue := rfl
@[simp] theorem State.modPart_sleetRunning : (s.modPart p f).sleetRunning = s.sleetRunning := rfl
@[simp] theorem State.modPart_seedings : (s.modPart p f).seedings = s.seedings := rfl
@[simp] theorem State.modPart_overlays : (s.modPart p f).overlays = s.overlays := rfl
@[simp] theorem State.modPart_micros : (s.modPart p f).micros = s.micros := rfl
@[simp] theorem State.modPart_figures : (s.modPart p f).figures = s.figures := rfl
@[simp] theorem State.modPart_ports : (s.modPart p f).ports = s.ports := rfl
@[simp] theorem State.modPart_memberDepth : (s.modPart p f).memberDepth = s.memberDepth := rfl
@[simp] theorem State.modPart_abortTable : (s.modPart p f).abortTable = s.abortTable := rfl
@[simp] theorem State.modPart_abortSeen : (s.modPart p f).abortSeen = s.abortSeen := rfl
@[simp] theorem State.modPart_groupDone : (s.modPart p f).groupDone = s.groupDone := rfl
@[simp] theorem State.modPart_passed : (s.modPart p f).passed = s.passed := rfl
@[simp] theorem State.modPart_actIn : (s.modPart p f).actIn = s.actIn := rfl
@[simp] theorem State.modPart_vault : (s.modPart p f).vault = s.vault := rfl
@[simp] theorem State.modPart_window : (s.modPart p f).window = s.window := rfl
@[simp] theorem State.modPart_download : (s.modPart p f).download = s.download := rfl
@[simp] theorem State.modPart_pendingCompletions : (s.modPart p f).pendingCompletions = s.pendingCompletions := rfl
@[simp] theorem State.modPart_pendingHealth : (s.modPart p f).pendingHealth = s.pendingHealth := rfl
@[simp] theorem State.modPart_freshCompletions : (s.modPart p f).freshCompletions = s.freshCompletions := rfl
@[simp] theorem State.modPart_freshHealth : (s.modPart p f).freshHealth = s.freshHealth := rfl
@[simp] theorem State.modPart_linksBegun : (s.modPart p f).linksBegun = s.linksBegun := rfl
@[simp] theorem State.modPart_whiteoutCause : (s.modPart p f).whiteoutCause = s.whiteoutCause := rfl
@[simp] theorem State.modPart_whiteoutCount : (s.modPart p f).whiteoutCount = s.whiteoutCount := rfl
@[simp] theorem State.modPart_tableReloaded : (s.modPart p f).tableReloaded = s.tableReloaded := rfl
@[simp] theorem State.modPart_reasons : (s.modPart p f).reasons = s.reasons := rfl
@[simp] theorem State.modPart_log : (s.modPart p f).log = s.log := rfl
@[simp] theorem State.modPart_logWritten : (s.modPart p f).logWritten = s.logWritten := rfl
@[simp] theorem State.modPart_counters : (s.modPart p f).counters = s.counters := rfl
end

section
variable (s : State) (q : Nat) (f : Ticket → Ticket)
@[simp] theorem State.modTicket_pending : (s.modTicket q f).pending = s.pending := rfl
@[simp] theorem State.modTicket_free : (s.modTicket q f).free = s.free := rfl
@[simp] theorem State.modTicket_grade : (s.modTicket q f).grade = s.grade := rfl
@[simp] theorem State.modTicket_stepping : (s.modTicket q f).stepping = s.stepping := rfl
@[simp] theorem State.modTicket_startup : (s.modTicket q f).startup = s.startup := rfl
@[simp] theorem State.modTicket_rstAsserted : (s.modTicket q f).rstAsserted = s.rstAsserted := rfl
@[simp] theorem State.modTicket_testMode : (s.modTicket q f).testMode = s.testMode := rfl
@[simp] theorem State.modTicket_released : (s.modTicket q f).released = s.released := rfl
@[simp] theorem State.modTicket_testsDone : (s.modTicket q f).testsDone = s.testsDone := rfl
@[simp] theorem State.modTicket_advancing : (s.modTicket q f).advancing = s.advancing := rfl
@[simp] theorem State.modTicket_zeroisePin : (s.modTicket q f).zeroisePin = s.zeroisePin := rfl
@[simp] theorem State.modTicket_tamperPin : (s.modTicket q f).tamperPin = s.tamperPin := rfl
@[simp] theorem State.modTicket_portErrors : (s.modTicket q f).portErrors = s.portErrors := rfl
@[simp] theorem State.modTicket_testReading : (s.modTicket q f).testReading = s.testReading := rfl
@[simp] theorem State.modTicket_count : (s.modTicket q f).count = s.count := rfl
@[simp] theorem State.modTicket_countLoaded : (s.modTicket q f).countLoaded = s.countLoaded := rfl
@[simp] theorem State.modTicket_slipPending : (s.modTicket q f).slipPending = s.slipPending := rfl
@[simp] theorem State.modTicket_inputDiff : (s.modTicket q f).inputDiff = s.inputDiff := rfl
@[simp] theorem State.modTicket_tick : (s.modTicket q f).tick = s.tick := rfl
@[simp] theorem State.modTicket_profile : (s.modTicket q f).profile = s.profile := rfl
@[simp] theorem State.modTicket_profileDigest : (s.modTicket q f).profileDigest = s.profileDigest := rfl
@[simp] theorem State.modTicket_settings : (s.modTicket q f).settings = s.settings := rfl
@[simp] theorem State.modTicket_parts : (s.modTicket q f).parts = s.parts := rfl
@[simp] theorem State.modTicket_tickets : (s.modTicket q f).tickets = s.tickets.map (fun t => if t.seq = q then f t else t) := rfl
@[simp] theorem State.modTicket_nextSeq : (s.modTicket q f).nextSeq = s.nextSeq := rfl
@[simp] theorem State.modTicket_ckpts : (s.modTicket q f).ckpts = s.ckpts := rfl
@[simp] theorem State.modTicket_ctxs : (s.modTicket q f).ctxs = s.ctxs := rfl
@[simp] theorem State.modTicket_regions : (s.modTicket q f).regions = s.regions := rfl
@[simp] theorem State.modTicket_firn : (s.modTicket q f).firn = s.firn := rfl
@[simp] theorem State.modTicket_bankSpares : (s.modTicket q f).bankSpares = s.bankSpares := rfl
@[simp] theorem State.modTicket_scrub : (s.modTicket q f).scrub = s.scrub := rfl
@[simp] theorem State.modTicket_background : (s.modTicket q f).background = s.background := rfl
@[simp] theorem State.modTicket_mem : (s.modTicket q f).mem = s.mem := rfl
@[simp] theorem State.modTicket_reads : (s.modTicket q f).reads = s.reads := rfl
@[simp] theorem State.modTicket_writes : (s.modTicket q f).writes = s.writes := rfl
@[simp] theorem State.modTicket_outs : (s.modTicket q f).outs = s.outs := rfl
@[simp] theorem State.modTicket_ins : (s.modTicket q f).ins = s.ins := rfl
@[simp] theorem State.modTicket_tiles : (s.modTicket q f).tiles = s.tiles := rfl
@[simp] theorem State.modTicket_slices : (s.modTicket q f).slices = s.slices := rfl
@[simp] theorem State.modTicket_block : (s.modTicket q f).block = s.block := rfl
@[simp] theorem State.modTicket_retries : (s.modTicket q f).retries = s.retries := rfl
@[simp] theorem State.modTicket_preemptDue : (s.modTicket q f).preemptDue = s.preemptDue := rfl
@[simp] theorem State.modTicket_sleetRunning : (s.modTicket q f).sleetRunning = s.sleetRunning := rfl
@[simp] theorem State.modTicket_seedings : (s.modTicket q f).seedings = s.seedings := rfl
@[simp] theorem State.modTicket_overlays : (s.modTicket q f).overlays = s.overlays := rfl
@[simp] theorem State.modTicket_micros : (s.modTicket q f).micros = s.micros := rfl
@[simp] theorem State.modTicket_figures : (s.modTicket q f).figures = s.figures := rfl
@[simp] theorem State.modTicket_ports : (s.modTicket q f).ports = s.ports := rfl
@[simp] theorem State.modTicket_memberDepth : (s.modTicket q f).memberDepth = s.memberDepth := rfl
@[simp] theorem State.modTicket_abortTable : (s.modTicket q f).abortTable = s.abortTable := rfl
@[simp] theorem State.modTicket_abortSeen : (s.modTicket q f).abortSeen = s.abortSeen := rfl
@[simp] theorem State.modTicket_groupDone : (s.modTicket q f).groupDone = s.groupDone := rfl
@[simp] theorem State.modTicket_passed : (s.modTicket q f).passed = s.passed := rfl
@[simp] theorem State.modTicket_actIn : (s.modTicket q f).actIn = s.actIn := rfl
@[simp] theorem State.modTicket_vault : (s.modTicket q f).vault = s.vault := rfl
@[simp] theorem State.modTicket_window : (s.modTicket q f).window = s.window := rfl
@[simp] theorem State.modTicket_download : (s.modTicket q f).download = s.download := rfl
@[simp] theorem State.modTicket_pendingCompletions : (s.modTicket q f).pendingCompletions = s.pendingCompletions := rfl
@[simp] theorem State.modTicket_pendingHealth : (s.modTicket q f).pendingHealth = s.pendingHealth := rfl
@[simp] theorem State.modTicket_freshCompletions : (s.modTicket q f).freshCompletions = s.freshCompletions := rfl
@[simp] theorem State.modTicket_freshHealth : (s.modTicket q f).freshHealth = s.freshHealth := rfl
@[simp] theorem State.modTicket_linksBegun : (s.modTicket q f).linksBegun = s.linksBegun := rfl
@[simp] theorem State.modTicket_whiteoutCause : (s.modTicket q f).whiteoutCause = s.whiteoutCause := rfl
@[simp] theorem State.modTicket_whiteoutCount : (s.modTicket q f).whiteoutCount = s.whiteoutCount := rfl
@[simp] theorem State.modTicket_tableReloaded : (s.modTicket q f).tableReloaded = s.tableReloaded := rfl
@[simp] theorem State.modTicket_reasons : (s.modTicket q f).reasons = s.reasons := rfl
@[simp] theorem State.modTicket_log : (s.modTicket q f).log = s.log := rfl
@[simp] theorem State.modTicket_logWritten : (s.modTicket q f).logWritten = s.logWritten := rfl
@[simp] theorem State.modTicket_counters : (s.modTicket q f).counters = s.counters := rfl
end

section
variable (s : State) (q : Nat)
@[simp] theorem State.dropTicket_pending : (s.dropTicket q).pending = s.pending := rfl
@[simp] theorem State.dropTicket_free : (s.dropTicket q).free = s.free := rfl
@[simp] theorem State.dropTicket_grade : (s.dropTicket q).grade = s.grade := rfl
@[simp] theorem State.dropTicket_stepping : (s.dropTicket q).stepping = s.stepping := rfl
@[simp] theorem State.dropTicket_startup : (s.dropTicket q).startup = s.startup := rfl
@[simp] theorem State.dropTicket_rstAsserted : (s.dropTicket q).rstAsserted = s.rstAsserted := rfl
@[simp] theorem State.dropTicket_testMode : (s.dropTicket q).testMode = s.testMode := rfl
@[simp] theorem State.dropTicket_released : (s.dropTicket q).released = s.released := rfl
@[simp] theorem State.dropTicket_testsDone : (s.dropTicket q).testsDone = s.testsDone := rfl
@[simp] theorem State.dropTicket_advancing : (s.dropTicket q).advancing = s.advancing := rfl
@[simp] theorem State.dropTicket_zeroisePin : (s.dropTicket q).zeroisePin = s.zeroisePin := rfl
@[simp] theorem State.dropTicket_tamperPin : (s.dropTicket q).tamperPin = s.tamperPin := rfl
@[simp] theorem State.dropTicket_portErrors : (s.dropTicket q).portErrors = s.portErrors := rfl
@[simp] theorem State.dropTicket_testReading : (s.dropTicket q).testReading = s.testReading := rfl
@[simp] theorem State.dropTicket_count : (s.dropTicket q).count = s.count := rfl
@[simp] theorem State.dropTicket_countLoaded : (s.dropTicket q).countLoaded = s.countLoaded := rfl
@[simp] theorem State.dropTicket_slipPending : (s.dropTicket q).slipPending = s.slipPending := rfl
@[simp] theorem State.dropTicket_inputDiff : (s.dropTicket q).inputDiff = s.inputDiff := rfl
@[simp] theorem State.dropTicket_tick : (s.dropTicket q).tick = s.tick := rfl
@[simp] theorem State.dropTicket_profile : (s.dropTicket q).profile = s.profile := rfl
@[simp] theorem State.dropTicket_profileDigest : (s.dropTicket q).profileDigest = s.profileDigest := rfl
@[simp] theorem State.dropTicket_settings : (s.dropTicket q).settings = s.settings := rfl
@[simp] theorem State.dropTicket_parts : (s.dropTicket q).parts = s.parts := rfl
@[simp] theorem State.dropTicket_tickets : (s.dropTicket q).tickets = s.tickets.filter (fun t => t.seq != q) := rfl
@[simp] theorem State.dropTicket_nextSeq : (s.dropTicket q).nextSeq = s.nextSeq := rfl
@[simp] theorem State.dropTicket_ckpts : (s.dropTicket q).ckpts = s.ckpts := rfl
@[simp] theorem State.dropTicket_ctxs : (s.dropTicket q).ctxs = s.ctxs := rfl
@[simp] theorem State.dropTicket_regions : (s.dropTicket q).regions = s.regions := rfl
@[simp] theorem State.dropTicket_firn : (s.dropTicket q).firn = s.firn := rfl
@[simp] theorem State.dropTicket_bankSpares : (s.dropTicket q).bankSpares = s.bankSpares := rfl
@[simp] theorem State.dropTicket_scrub : (s.dropTicket q).scrub = s.scrub := rfl
@[simp] theorem State.dropTicket_background : (s.dropTicket q).background = s.background := rfl
@[simp] theorem State.dropTicket_mem : (s.dropTicket q).mem = s.mem := rfl
@[simp] theorem State.dropTicket_reads : (s.dropTicket q).reads = s.reads := rfl
@[simp] theorem State.dropTicket_writes : (s.dropTicket q).writes = s.writes := rfl
@[simp] theorem State.dropTicket_outs : (s.dropTicket q).outs = s.outs := rfl
@[simp] theorem State.dropTicket_ins : (s.dropTicket q).ins = s.ins := rfl
@[simp] theorem State.dropTicket_tiles : (s.dropTicket q).tiles = s.tiles := rfl
@[simp] theorem State.dropTicket_slices : (s.dropTicket q).slices = s.slices := rfl
@[simp] theorem State.dropTicket_block : (s.dropTicket q).block = s.block := rfl
@[simp] theorem State.dropTicket_retries : (s.dropTicket q).retries = s.retries := rfl
@[simp] theorem State.dropTicket_preemptDue : (s.dropTicket q).preemptDue = s.preemptDue := rfl
@[simp] theorem State.dropTicket_sleetRunning : (s.dropTicket q).sleetRunning = s.sleetRunning := rfl
@[simp] theorem State.dropTicket_seedings : (s.dropTicket q).seedings = s.seedings := rfl
@[simp] theorem State.dropTicket_overlays : (s.dropTicket q).overlays = s.overlays := rfl
@[simp] theorem State.dropTicket_micros : (s.dropTicket q).micros = s.micros := rfl
@[simp] theorem State.dropTicket_figures : (s.dropTicket q).figures = s.figures := rfl
@[simp] theorem State.dropTicket_ports : (s.dropTicket q).ports = s.ports := rfl
@[simp] theorem State.dropTicket_memberDepth : (s.dropTicket q).memberDepth = s.memberDepth := rfl
@[simp] theorem State.dropTicket_abortTable : (s.dropTicket q).abortTable = s.abortTable := rfl
@[simp] theorem State.dropTicket_abortSeen : (s.dropTicket q).abortSeen = s.abortSeen := rfl
@[simp] theorem State.dropTicket_groupDone : (s.dropTicket q).groupDone = s.groupDone := rfl
@[simp] theorem State.dropTicket_passed : (s.dropTicket q).passed = s.passed := rfl
@[simp] theorem State.dropTicket_actIn : (s.dropTicket q).actIn = s.actIn := rfl
@[simp] theorem State.dropTicket_vault : (s.dropTicket q).vault = s.vault := rfl
@[simp] theorem State.dropTicket_window : (s.dropTicket q).window = s.window := rfl
@[simp] theorem State.dropTicket_download : (s.dropTicket q).download = s.download := rfl
@[simp] theorem State.dropTicket_pendingCompletions : (s.dropTicket q).pendingCompletions = s.pendingCompletions := rfl
@[simp] theorem State.dropTicket_pendingHealth : (s.dropTicket q).pendingHealth = s.pendingHealth := rfl
@[simp] theorem State.dropTicket_freshCompletions : (s.dropTicket q).freshCompletions = s.freshCompletions := rfl
@[simp] theorem State.dropTicket_freshHealth : (s.dropTicket q).freshHealth = s.freshHealth := rfl
@[simp] theorem State.dropTicket_linksBegun : (s.dropTicket q).linksBegun = s.linksBegun := rfl
@[simp] theorem State.dropTicket_whiteoutCause : (s.dropTicket q).whiteoutCause = s.whiteoutCause := rfl
@[simp] theorem State.dropTicket_whiteoutCount : (s.dropTicket q).whiteoutCount = s.whiteoutCount := rfl
@[simp] theorem State.dropTicket_tableReloaded : (s.dropTicket q).tableReloaded = s.tableReloaded := rfl
@[simp] theorem State.dropTicket_reasons : (s.dropTicket q).reasons = s.reasons := rfl
@[simp] theorem State.dropTicket_log : (s.dropTicket q).log = s.log := rfl
@[simp] theorem State.dropTicket_logWritten : (s.dropTicket q).logWritten = s.logWritten := rfl
@[simp] theorem State.dropTicket_counters : (s.dropTicket q).counters = s.counters := rfl
end

section
variable (s : State) (q : Nat) (f : Running → Running)
@[simp] theorem State.modRun_pending : (s.modRun q f).pending = s.pending := rfl
@[simp] theorem State.modRun_free : (s.modRun q f).free = s.free := rfl
@[simp] theorem State.modRun_grade : (s.modRun q f).grade = s.grade := rfl
@[simp] theorem State.modRun_stepping : (s.modRun q f).stepping = s.stepping := rfl
@[simp] theorem State.modRun_startup : (s.modRun q f).startup = s.startup := rfl
@[simp] theorem State.modRun_rstAsserted : (s.modRun q f).rstAsserted = s.rstAsserted := rfl
@[simp] theorem State.modRun_testMode : (s.modRun q f).testMode = s.testMode := rfl
@[simp] theorem State.modRun_released : (s.modRun q f).released = s.released := rfl
@[simp] theorem State.modRun_testsDone : (s.modRun q f).testsDone = s.testsDone := rfl
@[simp] theorem State.modRun_advancing : (s.modRun q f).advancing = s.advancing := rfl
@[simp] theorem State.modRun_zeroisePin : (s.modRun q f).zeroisePin = s.zeroisePin := rfl
@[simp] theorem State.modRun_tamperPin : (s.modRun q f).tamperPin = s.tamperPin := rfl
@[simp] theorem State.modRun_portErrors : (s.modRun q f).portErrors = s.portErrors := rfl
@[simp] theorem State.modRun_testReading : (s.modRun q f).testReading = s.testReading := rfl
@[simp] theorem State.modRun_count : (s.modRun q f).count = s.count := rfl
@[simp] theorem State.modRun_countLoaded : (s.modRun q f).countLoaded = s.countLoaded := rfl
@[simp] theorem State.modRun_slipPending : (s.modRun q f).slipPending = s.slipPending := rfl
@[simp] theorem State.modRun_inputDiff : (s.modRun q f).inputDiff = s.inputDiff := rfl
@[simp] theorem State.modRun_tick : (s.modRun q f).tick = s.tick := rfl
@[simp] theorem State.modRun_profile : (s.modRun q f).profile = s.profile := rfl
@[simp] theorem State.modRun_profileDigest : (s.modRun q f).profileDigest = s.profileDigest := rfl
@[simp] theorem State.modRun_settings : (s.modRun q f).settings = s.settings := rfl
@[simp] theorem State.modRun_parts : (s.modRun q f).parts = s.parts := rfl
@[simp] theorem State.modRun_tickets : (s.modRun q f).tickets = s.tickets.map (fun t => if t.seq = q then { t with run := t.run.map f } else t) := rfl
@[simp] theorem State.modRun_nextSeq : (s.modRun q f).nextSeq = s.nextSeq := rfl
@[simp] theorem State.modRun_ckpts : (s.modRun q f).ckpts = s.ckpts := rfl
@[simp] theorem State.modRun_ctxs : (s.modRun q f).ctxs = s.ctxs := rfl
@[simp] theorem State.modRun_regions : (s.modRun q f).regions = s.regions := rfl
@[simp] theorem State.modRun_firn : (s.modRun q f).firn = s.firn := rfl
@[simp] theorem State.modRun_bankSpares : (s.modRun q f).bankSpares = s.bankSpares := rfl
@[simp] theorem State.modRun_scrub : (s.modRun q f).scrub = s.scrub := rfl
@[simp] theorem State.modRun_background : (s.modRun q f).background = s.background := rfl
@[simp] theorem State.modRun_mem : (s.modRun q f).mem = s.mem := rfl
@[simp] theorem State.modRun_reads : (s.modRun q f).reads = s.reads := rfl
@[simp] theorem State.modRun_writes : (s.modRun q f).writes = s.writes := rfl
@[simp] theorem State.modRun_outs : (s.modRun q f).outs = s.outs := rfl
@[simp] theorem State.modRun_ins : (s.modRun q f).ins = s.ins := rfl
@[simp] theorem State.modRun_tiles : (s.modRun q f).tiles = s.tiles := rfl
@[simp] theorem State.modRun_slices : (s.modRun q f).slices = s.slices := rfl
@[simp] theorem State.modRun_block : (s.modRun q f).block = s.block := rfl
@[simp] theorem State.modRun_retries : (s.modRun q f).retries = s.retries := rfl
@[simp] theorem State.modRun_preemptDue : (s.modRun q f).preemptDue = s.preemptDue := rfl
@[simp] theorem State.modRun_sleetRunning : (s.modRun q f).sleetRunning = s.sleetRunning := rfl
@[simp] theorem State.modRun_seedings : (s.modRun q f).seedings = s.seedings := rfl
@[simp] theorem State.modRun_overlays : (s.modRun q f).overlays = s.overlays := rfl
@[simp] theorem State.modRun_micros : (s.modRun q f).micros = s.micros := rfl
@[simp] theorem State.modRun_figures : (s.modRun q f).figures = s.figures := rfl
@[simp] theorem State.modRun_ports : (s.modRun q f).ports = s.ports := rfl
@[simp] theorem State.modRun_memberDepth : (s.modRun q f).memberDepth = s.memberDepth := rfl
@[simp] theorem State.modRun_abortTable : (s.modRun q f).abortTable = s.abortTable := rfl
@[simp] theorem State.modRun_abortSeen : (s.modRun q f).abortSeen = s.abortSeen := rfl
@[simp] theorem State.modRun_groupDone : (s.modRun q f).groupDone = s.groupDone := rfl
@[simp] theorem State.modRun_passed : (s.modRun q f).passed = s.passed := rfl
@[simp] theorem State.modRun_actIn : (s.modRun q f).actIn = s.actIn := rfl
@[simp] theorem State.modRun_vault : (s.modRun q f).vault = s.vault := rfl
@[simp] theorem State.modRun_window : (s.modRun q f).window = s.window := rfl
@[simp] theorem State.modRun_download : (s.modRun q f).download = s.download := rfl
@[simp] theorem State.modRun_pendingCompletions : (s.modRun q f).pendingCompletions = s.pendingCompletions := rfl
@[simp] theorem State.modRun_pendingHealth : (s.modRun q f).pendingHealth = s.pendingHealth := rfl
@[simp] theorem State.modRun_freshCompletions : (s.modRun q f).freshCompletions = s.freshCompletions := rfl
@[simp] theorem State.modRun_freshHealth : (s.modRun q f).freshHealth = s.freshHealth := rfl
@[simp] theorem State.modRun_linksBegun : (s.modRun q f).linksBegun = s.linksBegun := rfl
@[simp] theorem State.modRun_whiteoutCause : (s.modRun q f).whiteoutCause = s.whiteoutCause := rfl
@[simp] theorem State.modRun_whiteoutCount : (s.modRun q f).whiteoutCount = s.whiteoutCount := rfl
@[simp] theorem State.modRun_tableReloaded : (s.modRun q f).tableReloaded = s.tableReloaded := rfl
@[simp] theorem State.modRun_reasons : (s.modRun q f).reasons = s.reasons := rfl
@[simp] theorem State.modRun_log : (s.modRun q f).log = s.log := rfl
@[simp] theorem State.modRun_logWritten : (s.modRun q f).logWritten = s.logWritten := rfl
@[simp] theorem State.modRun_counters : (s.modRun q f).counters = s.counters := rfl
end

section
variable (s : State) (f : Ticket → Running → Running)
@[simp] theorem State.mapRuns_pending : (s.mapRuns f).pending = s.pending := rfl
@[simp] theorem State.mapRuns_free : (s.mapRuns f).free = s.free := rfl
@[simp] theorem State.mapRuns_grade : (s.mapRuns f).grade = s.grade := rfl
@[simp] theorem State.mapRuns_stepping : (s.mapRuns f).stepping = s.stepping := rfl
@[simp] theorem State.mapRuns_startup : (s.mapRuns f).startup = s.startup := rfl
@[simp] theorem State.mapRuns_rstAsserted : (s.mapRuns f).rstAsserted = s.rstAsserted := rfl
@[simp] theorem State.mapRuns_testMode : (s.mapRuns f).testMode = s.testMode := rfl
@[simp] theorem State.mapRuns_released : (s.mapRuns f).released = s.released := rfl
@[simp] theorem State.mapRuns_testsDone : (s.mapRuns f).testsDone = s.testsDone := rfl
@[simp] theorem State.mapRuns_advancing : (s.mapRuns f).advancing = s.advancing := rfl
@[simp] theorem State.mapRuns_zeroisePin : (s.mapRuns f).zeroisePin = s.zeroisePin := rfl
@[simp] theorem State.mapRuns_tamperPin : (s.mapRuns f).tamperPin = s.tamperPin := rfl
@[simp] theorem State.mapRuns_portErrors : (s.mapRuns f).portErrors = s.portErrors := rfl
@[simp] theorem State.mapRuns_testReading : (s.mapRuns f).testReading = s.testReading := rfl
@[simp] theorem State.mapRuns_count : (s.mapRuns f).count = s.count := rfl
@[simp] theorem State.mapRuns_countLoaded : (s.mapRuns f).countLoaded = s.countLoaded := rfl
@[simp] theorem State.mapRuns_slipPending : (s.mapRuns f).slipPending = s.slipPending := rfl
@[simp] theorem State.mapRuns_inputDiff : (s.mapRuns f).inputDiff = s.inputDiff := rfl
@[simp] theorem State.mapRuns_tick : (s.mapRuns f).tick = s.tick := rfl
@[simp] theorem State.mapRuns_profile : (s.mapRuns f).profile = s.profile := rfl
@[simp] theorem State.mapRuns_profileDigest : (s.mapRuns f).profileDigest = s.profileDigest := rfl
@[simp] theorem State.mapRuns_settings : (s.mapRuns f).settings = s.settings := rfl
@[simp] theorem State.mapRuns_parts : (s.mapRuns f).parts = s.parts := rfl
@[simp] theorem State.mapRuns_tickets : (s.mapRuns f).tickets = s.tickets.map (fun t => { t with run := t.run.map (f t) }) := rfl
@[simp] theorem State.mapRuns_nextSeq : (s.mapRuns f).nextSeq = s.nextSeq := rfl
@[simp] theorem State.mapRuns_ckpts : (s.mapRuns f).ckpts = s.ckpts := rfl
@[simp] theorem State.mapRuns_ctxs : (s.mapRuns f).ctxs = s.ctxs := rfl
@[simp] theorem State.mapRuns_regions : (s.mapRuns f).regions = s.regions := rfl
@[simp] theorem State.mapRuns_firn : (s.mapRuns f).firn = s.firn := rfl
@[simp] theorem State.mapRuns_bankSpares : (s.mapRuns f).bankSpares = s.bankSpares := rfl
@[simp] theorem State.mapRuns_scrub : (s.mapRuns f).scrub = s.scrub := rfl
@[simp] theorem State.mapRuns_background : (s.mapRuns f).background = s.background := rfl
@[simp] theorem State.mapRuns_mem : (s.mapRuns f).mem = s.mem := rfl
@[simp] theorem State.mapRuns_reads : (s.mapRuns f).reads = s.reads := rfl
@[simp] theorem State.mapRuns_writes : (s.mapRuns f).writes = s.writes := rfl
@[simp] theorem State.mapRuns_outs : (s.mapRuns f).outs = s.outs := rfl
@[simp] theorem State.mapRuns_ins : (s.mapRuns f).ins = s.ins := rfl
@[simp] theorem State.mapRuns_tiles : (s.mapRuns f).tiles = s.tiles := rfl
@[simp] theorem State.mapRuns_slices : (s.mapRuns f).slices = s.slices := rfl
@[simp] theorem State.mapRuns_block : (s.mapRuns f).block = s.block := rfl
@[simp] theorem State.mapRuns_retries : (s.mapRuns f).retries = s.retries := rfl
@[simp] theorem State.mapRuns_preemptDue : (s.mapRuns f).preemptDue = s.preemptDue := rfl
@[simp] theorem State.mapRuns_sleetRunning : (s.mapRuns f).sleetRunning = s.sleetRunning := rfl
@[simp] theorem State.mapRuns_seedings : (s.mapRuns f).seedings = s.seedings := rfl
@[simp] theorem State.mapRuns_overlays : (s.mapRuns f).overlays = s.overlays := rfl
@[simp] theorem State.mapRuns_micros : (s.mapRuns f).micros = s.micros := rfl
@[simp] theorem State.mapRuns_figures : (s.mapRuns f).figures = s.figures := rfl
@[simp] theorem State.mapRuns_ports : (s.mapRuns f).ports = s.ports := rfl
@[simp] theorem State.mapRuns_memberDepth : (s.mapRuns f).memberDepth = s.memberDepth := rfl
@[simp] theorem State.mapRuns_abortTable : (s.mapRuns f).abortTable = s.abortTable := rfl
@[simp] theorem State.mapRuns_abortSeen : (s.mapRuns f).abortSeen = s.abortSeen := rfl
@[simp] theorem State.mapRuns_groupDone : (s.mapRuns f).groupDone = s.groupDone := rfl
@[simp] theorem State.mapRuns_passed : (s.mapRuns f).passed = s.passed := rfl
@[simp] theorem State.mapRuns_actIn : (s.mapRuns f).actIn = s.actIn := rfl
@[simp] theorem State.mapRuns_vault : (s.mapRuns f).vault = s.vault := rfl
@[simp] theorem State.mapRuns_window : (s.mapRuns f).window = s.window := rfl
@[simp] theorem State.mapRuns_download : (s.mapRuns f).download = s.download := rfl
@[simp] theorem State.mapRuns_pendingCompletions : (s.mapRuns f).pendingCompletions = s.pendingCompletions := rfl
@[simp] theorem State.mapRuns_pendingHealth : (s.mapRuns f).pendingHealth = s.pendingHealth := rfl
@[simp] theorem State.mapRuns_freshCompletions : (s.mapRuns f).freshCompletions = s.freshCompletions := rfl
@[simp] theorem State.mapRuns_freshHealth : (s.mapRuns f).freshHealth = s.freshHealth := rfl
@[simp] theorem State.mapRuns_linksBegun : (s.mapRuns f).linksBegun = s.linksBegun := rfl
@[simp] theorem State.mapRuns_whiteoutCause : (s.mapRuns f).whiteoutCause = s.whiteoutCause := rfl
@[simp] theorem State.mapRuns_whiteoutCount : (s.mapRuns f).whiteoutCount = s.whiteoutCount := rfl
@[simp] theorem State.mapRuns_tableReloaded : (s.mapRuns f).tableReloaded = s.tableReloaded := rfl
@[simp] theorem State.mapRuns_reasons : (s.mapRuns f).reasons = s.reasons := rfl
@[simp] theorem State.mapRuns_log : (s.mapRuns f).log = s.log := rfl
@[simp] theorem State.mapRuns_logWritten : (s.mapRuns f).logWritten = s.logWritten := rfl
@[simp] theorem State.mapRuns_counters : (s.mapRuns f).counters = s.counters := rfl
end

section
variable (s : State) (c : Nat) (f : Ctx → Ctx)
@[simp] theorem State.modCtx_pending : (s.modCtx c f).pending = s.pending := rfl
@[simp] theorem State.modCtx_free : (s.modCtx c f).free = s.free := rfl
@[simp] theorem State.modCtx_grade : (s.modCtx c f).grade = s.grade := rfl
@[simp] theorem State.modCtx_stepping : (s.modCtx c f).stepping = s.stepping := rfl
@[simp] theorem State.modCtx_startup : (s.modCtx c f).startup = s.startup := rfl
@[simp] theorem State.modCtx_rstAsserted : (s.modCtx c f).rstAsserted = s.rstAsserted := rfl
@[simp] theorem State.modCtx_testMode : (s.modCtx c f).testMode = s.testMode := rfl
@[simp] theorem State.modCtx_released : (s.modCtx c f).released = s.released := rfl
@[simp] theorem State.modCtx_testsDone : (s.modCtx c f).testsDone = s.testsDone := rfl
@[simp] theorem State.modCtx_advancing : (s.modCtx c f).advancing = s.advancing := rfl
@[simp] theorem State.modCtx_zeroisePin : (s.modCtx c f).zeroisePin = s.zeroisePin := rfl
@[simp] theorem State.modCtx_tamperPin : (s.modCtx c f).tamperPin = s.tamperPin := rfl
@[simp] theorem State.modCtx_portErrors : (s.modCtx c f).portErrors = s.portErrors := rfl
@[simp] theorem State.modCtx_testReading : (s.modCtx c f).testReading = s.testReading := rfl
@[simp] theorem State.modCtx_count : (s.modCtx c f).count = s.count := rfl
@[simp] theorem State.modCtx_countLoaded : (s.modCtx c f).countLoaded = s.countLoaded := rfl
@[simp] theorem State.modCtx_slipPending : (s.modCtx c f).slipPending = s.slipPending := rfl
@[simp] theorem State.modCtx_inputDiff : (s.modCtx c f).inputDiff = s.inputDiff := rfl
@[simp] theorem State.modCtx_tick : (s.modCtx c f).tick = s.tick := rfl
@[simp] theorem State.modCtx_profile : (s.modCtx c f).profile = s.profile := rfl
@[simp] theorem State.modCtx_profileDigest : (s.modCtx c f).profileDigest = s.profileDigest := rfl
@[simp] theorem State.modCtx_settings : (s.modCtx c f).settings = s.settings := rfl
@[simp] theorem State.modCtx_parts : (s.modCtx c f).parts = s.parts := rfl
@[simp] theorem State.modCtx_tickets : (s.modCtx c f).tickets = s.tickets := rfl
@[simp] theorem State.modCtx_nextSeq : (s.modCtx c f).nextSeq = s.nextSeq := rfl
@[simp] theorem State.modCtx_ckpts : (s.modCtx c f).ckpts = s.ckpts := rfl
@[simp] theorem State.modCtx_ctxs : (s.modCtx c f).ctxs = vset s.ctxs c (f (s.ctx c)) := rfl
@[simp] theorem State.modCtx_regions : (s.modCtx c f).regions = s.regions := rfl
@[simp] theorem State.modCtx_firn : (s.modCtx c f).firn = s.firn := rfl
@[simp] theorem State.modCtx_bankSpares : (s.modCtx c f).bankSpares = s.bankSpares := rfl
@[simp] theorem State.modCtx_scrub : (s.modCtx c f).scrub = s.scrub := rfl
@[simp] theorem State.modCtx_background : (s.modCtx c f).background = s.background := rfl
@[simp] theorem State.modCtx_mem : (s.modCtx c f).mem = s.mem := rfl
@[simp] theorem State.modCtx_reads : (s.modCtx c f).reads = s.reads := rfl
@[simp] theorem State.modCtx_writes : (s.modCtx c f).writes = s.writes := rfl
@[simp] theorem State.modCtx_outs : (s.modCtx c f).outs = s.outs := rfl
@[simp] theorem State.modCtx_ins : (s.modCtx c f).ins = s.ins := rfl
@[simp] theorem State.modCtx_tiles : (s.modCtx c f).tiles = s.tiles := rfl
@[simp] theorem State.modCtx_slices : (s.modCtx c f).slices = s.slices := rfl
@[simp] theorem State.modCtx_block : (s.modCtx c f).block = s.block := rfl
@[simp] theorem State.modCtx_retries : (s.modCtx c f).retries = s.retries := rfl
@[simp] theorem State.modCtx_preemptDue : (s.modCtx c f).preemptDue = s.preemptDue := rfl
@[simp] theorem State.modCtx_sleetRunning : (s.modCtx c f).sleetRunning = s.sleetRunning := rfl
@[simp] theorem State.modCtx_seedings : (s.modCtx c f).seedings = s.seedings := rfl
@[simp] theorem State.modCtx_overlays : (s.modCtx c f).overlays = s.overlays := rfl
@[simp] theorem State.modCtx_micros : (s.modCtx c f).micros = s.micros := rfl
@[simp] theorem State.modCtx_figures : (s.modCtx c f).figures = s.figures := rfl
@[simp] theorem State.modCtx_ports : (s.modCtx c f).ports = s.ports := rfl
@[simp] theorem State.modCtx_memberDepth : (s.modCtx c f).memberDepth = s.memberDepth := rfl
@[simp] theorem State.modCtx_abortTable : (s.modCtx c f).abortTable = s.abortTable := rfl
@[simp] theorem State.modCtx_abortSeen : (s.modCtx c f).abortSeen = s.abortSeen := rfl
@[simp] theorem State.modCtx_groupDone : (s.modCtx c f).groupDone = s.groupDone := rfl
@[simp] theorem State.modCtx_passed : (s.modCtx c f).passed = s.passed := rfl
@[simp] theorem State.modCtx_actIn : (s.modCtx c f).actIn = s.actIn := rfl
@[simp] theorem State.modCtx_vault : (s.modCtx c f).vault = s.vault := rfl
@[simp] theorem State.modCtx_window : (s.modCtx c f).window = s.window := rfl
@[simp] theorem State.modCtx_download : (s.modCtx c f).download = s.download := rfl
@[simp] theorem State.modCtx_pendingCompletions : (s.modCtx c f).pendingCompletions = s.pendingCompletions := rfl
@[simp] theorem State.modCtx_pendingHealth : (s.modCtx c f).pendingHealth = s.pendingHealth := rfl
@[simp] theorem State.modCtx_freshCompletions : (s.modCtx c f).freshCompletions = s.freshCompletions := rfl
@[simp] theorem State.modCtx_freshHealth : (s.modCtx c f).freshHealth = s.freshHealth := rfl
@[simp] theorem State.modCtx_linksBegun : (s.modCtx c f).linksBegun = s.linksBegun := rfl
@[simp] theorem State.modCtx_whiteoutCause : (s.modCtx c f).whiteoutCause = s.whiteoutCause := rfl
@[simp] theorem State.modCtx_whiteoutCount : (s.modCtx c f).whiteoutCount = s.whiteoutCount := rfl
@[simp] theorem State.modCtx_tableReloaded : (s.modCtx c f).tableReloaded = s.tableReloaded := rfl
@[simp] theorem State.modCtx_reasons : (s.modCtx c f).reasons = s.reasons := rfl
@[simp] theorem State.modCtx_log : (s.modCtx c f).log = s.log := rfl
@[simp] theorem State.modCtx_logWritten : (s.modCtx c f).logWritten = s.logWritten := rfl
@[simp] theorem State.modCtx_counters : (s.modCtx c f).counters = s.counters := rfl
end

section
variable (s : State) (r : Nat) (f : Region → Region)
@[simp] theorem State.modRegion_pending : (s.modRegion r f).pending = s.pending := rfl
@[simp] theorem State.modRegion_free : (s.modRegion r f).free = s.free := rfl
@[simp] theorem State.modRegion_grade : (s.modRegion r f).grade = s.grade := rfl
@[simp] theorem State.modRegion_stepping : (s.modRegion r f).stepping = s.stepping := rfl
@[simp] theorem State.modRegion_startup : (s.modRegion r f).startup = s.startup := rfl
@[simp] theorem State.modRegion_rstAsserted : (s.modRegion r f).rstAsserted = s.rstAsserted := rfl
@[simp] theorem State.modRegion_testMode : (s.modRegion r f).testMode = s.testMode := rfl
@[simp] theorem State.modRegion_released : (s.modRegion r f).released = s.released := rfl
@[simp] theorem State.modRegion_testsDone : (s.modRegion r f).testsDone = s.testsDone := rfl
@[simp] theorem State.modRegion_advancing : (s.modRegion r f).advancing = s.advancing := rfl
@[simp] theorem State.modRegion_zeroisePin : (s.modRegion r f).zeroisePin = s.zeroisePin := rfl
@[simp] theorem State.modRegion_tamperPin : (s.modRegion r f).tamperPin = s.tamperPin := rfl
@[simp] theorem State.modRegion_portErrors : (s.modRegion r f).portErrors = s.portErrors := rfl
@[simp] theorem State.modRegion_testReading : (s.modRegion r f).testReading = s.testReading := rfl
@[simp] theorem State.modRegion_count : (s.modRegion r f).count = s.count := rfl
@[simp] theorem State.modRegion_countLoaded : (s.modRegion r f).countLoaded = s.countLoaded := rfl
@[simp] theorem State.modRegion_slipPending : (s.modRegion r f).slipPending = s.slipPending := rfl
@[simp] theorem State.modRegion_inputDiff : (s.modRegion r f).inputDiff = s.inputDiff := rfl
@[simp] theorem State.modRegion_tick : (s.modRegion r f).tick = s.tick := rfl
@[simp] theorem State.modRegion_profile : (s.modRegion r f).profile = s.profile := rfl
@[simp] theorem State.modRegion_profileDigest : (s.modRegion r f).profileDigest = s.profileDigest := rfl
@[simp] theorem State.modRegion_settings : (s.modRegion r f).settings = s.settings := rfl
@[simp] theorem State.modRegion_parts : (s.modRegion r f).parts = s.parts := rfl
@[simp] theorem State.modRegion_tickets : (s.modRegion r f).tickets = s.tickets := rfl
@[simp] theorem State.modRegion_nextSeq : (s.modRegion r f).nextSeq = s.nextSeq := rfl
@[simp] theorem State.modRegion_ckpts : (s.modRegion r f).ckpts = s.ckpts := rfl
@[simp] theorem State.modRegion_ctxs : (s.modRegion r f).ctxs = s.ctxs := rfl
@[simp] theorem State.modRegion_regions : (s.modRegion r f).regions = vset s.regions r (f (s.region r)) := rfl
@[simp] theorem State.modRegion_firn : (s.modRegion r f).firn = s.firn := rfl
@[simp] theorem State.modRegion_bankSpares : (s.modRegion r f).bankSpares = s.bankSpares := rfl
@[simp] theorem State.modRegion_scrub : (s.modRegion r f).scrub = s.scrub := rfl
@[simp] theorem State.modRegion_background : (s.modRegion r f).background = s.background := rfl
@[simp] theorem State.modRegion_mem : (s.modRegion r f).mem = s.mem := rfl
@[simp] theorem State.modRegion_reads : (s.modRegion r f).reads = s.reads := rfl
@[simp] theorem State.modRegion_writes : (s.modRegion r f).writes = s.writes := rfl
@[simp] theorem State.modRegion_outs : (s.modRegion r f).outs = s.outs := rfl
@[simp] theorem State.modRegion_ins : (s.modRegion r f).ins = s.ins := rfl
@[simp] theorem State.modRegion_tiles : (s.modRegion r f).tiles = s.tiles := rfl
@[simp] theorem State.modRegion_slices : (s.modRegion r f).slices = s.slices := rfl
@[simp] theorem State.modRegion_block : (s.modRegion r f).block = s.block := rfl
@[simp] theorem State.modRegion_retries : (s.modRegion r f).retries = s.retries := rfl
@[simp] theorem State.modRegion_preemptDue : (s.modRegion r f).preemptDue = s.preemptDue := rfl
@[simp] theorem State.modRegion_sleetRunning : (s.modRegion r f).sleetRunning = s.sleetRunning := rfl
@[simp] theorem State.modRegion_seedings : (s.modRegion r f).seedings = s.seedings := rfl
@[simp] theorem State.modRegion_overlays : (s.modRegion r f).overlays = s.overlays := rfl
@[simp] theorem State.modRegion_micros : (s.modRegion r f).micros = s.micros := rfl
@[simp] theorem State.modRegion_figures : (s.modRegion r f).figures = s.figures := rfl
@[simp] theorem State.modRegion_ports : (s.modRegion r f).ports = s.ports := rfl
@[simp] theorem State.modRegion_memberDepth : (s.modRegion r f).memberDepth = s.memberDepth := rfl
@[simp] theorem State.modRegion_abortTable : (s.modRegion r f).abortTable = s.abortTable := rfl
@[simp] theorem State.modRegion_abortSeen : (s.modRegion r f).abortSeen = s.abortSeen := rfl
@[simp] theorem State.modRegion_groupDone : (s.modRegion r f).groupDone = s.groupDone := rfl
@[simp] theorem State.modRegion_passed : (s.modRegion r f).passed = s.passed := rfl
@[simp] theorem State.modRegion_actIn : (s.modRegion r f).actIn = s.actIn := rfl
@[simp] theorem State.modRegion_vault : (s.modRegion r f).vault = s.vault := rfl
@[simp] theorem State.modRegion_window : (s.modRegion r f).window = s.window := rfl
@[simp] theorem State.modRegion_download : (s.modRegion r f).download = s.download := rfl
@[simp] theorem State.modRegion_pendingCompletions : (s.modRegion r f).pendingCompletions = s.pendingCompletions := rfl
@[simp] theorem State.modRegion_pendingHealth : (s.modRegion r f).pendingHealth = s.pendingHealth := rfl
@[simp] theorem State.modRegion_freshCompletions : (s.modRegion r f).freshCompletions = s.freshCompletions := rfl
@[simp] theorem State.modRegion_freshHealth : (s.modRegion r f).freshHealth = s.freshHealth := rfl
@[simp] theorem State.modRegion_linksBegun : (s.modRegion r f).linksBegun = s.linksBegun := rfl
@[simp] theorem State.modRegion_whiteoutCause : (s.modRegion r f).whiteoutCause = s.whiteoutCause := rfl
@[simp] theorem State.modRegion_whiteoutCount : (s.modRegion r f).whiteoutCount = s.whiteoutCount := rfl
@[simp] theorem State.modRegion_tableReloaded : (s.modRegion r f).tableReloaded = s.tableReloaded := rfl
@[simp] theorem State.modRegion_reasons : (s.modRegion r f).reasons = s.reasons := rfl
@[simp] theorem State.modRegion_log : (s.modRegion r f).log = s.log := rfl
@[simp] theorem State.modRegion_logWritten : (s.modRegion r f).logWritten = s.logWritten := rfl
@[simp] theorem State.modRegion_counters : (s.modRegion r f).counters = s.counters := rfl
end

section
variable (s : State) (i : Nat) (f : Tile → Tile)
@[simp] theorem State.modTile_pending : (s.modTile i f).pending = s.pending := rfl
@[simp] theorem State.modTile_free : (s.modTile i f).free = s.free := rfl
@[simp] theorem State.modTile_grade : (s.modTile i f).grade = s.grade := rfl
@[simp] theorem State.modTile_stepping : (s.modTile i f).stepping = s.stepping := rfl
@[simp] theorem State.modTile_startup : (s.modTile i f).startup = s.startup := rfl
@[simp] theorem State.modTile_rstAsserted : (s.modTile i f).rstAsserted = s.rstAsserted := rfl
@[simp] theorem State.modTile_testMode : (s.modTile i f).testMode = s.testMode := rfl
@[simp] theorem State.modTile_released : (s.modTile i f).released = s.released := rfl
@[simp] theorem State.modTile_testsDone : (s.modTile i f).testsDone = s.testsDone := rfl
@[simp] theorem State.modTile_advancing : (s.modTile i f).advancing = s.advancing := rfl
@[simp] theorem State.modTile_zeroisePin : (s.modTile i f).zeroisePin = s.zeroisePin := rfl
@[simp] theorem State.modTile_tamperPin : (s.modTile i f).tamperPin = s.tamperPin := rfl
@[simp] theorem State.modTile_portErrors : (s.modTile i f).portErrors = s.portErrors := rfl
@[simp] theorem State.modTile_testReading : (s.modTile i f).testReading = s.testReading := rfl
@[simp] theorem State.modTile_count : (s.modTile i f).count = s.count := rfl
@[simp] theorem State.modTile_countLoaded : (s.modTile i f).countLoaded = s.countLoaded := rfl
@[simp] theorem State.modTile_slipPending : (s.modTile i f).slipPending = s.slipPending := rfl
@[simp] theorem State.modTile_inputDiff : (s.modTile i f).inputDiff = s.inputDiff := rfl
@[simp] theorem State.modTile_tick : (s.modTile i f).tick = s.tick := rfl
@[simp] theorem State.modTile_profile : (s.modTile i f).profile = s.profile := rfl
@[simp] theorem State.modTile_profileDigest : (s.modTile i f).profileDigest = s.profileDigest := rfl
@[simp] theorem State.modTile_settings : (s.modTile i f).settings = s.settings := rfl
@[simp] theorem State.modTile_parts : (s.modTile i f).parts = s.parts := rfl
@[simp] theorem State.modTile_tickets : (s.modTile i f).tickets = s.tickets := rfl
@[simp] theorem State.modTile_nextSeq : (s.modTile i f).nextSeq = s.nextSeq := rfl
@[simp] theorem State.modTile_ckpts : (s.modTile i f).ckpts = s.ckpts := rfl
@[simp] theorem State.modTile_ctxs : (s.modTile i f).ctxs = s.ctxs := rfl
@[simp] theorem State.modTile_regions : (s.modTile i f).regions = s.regions := rfl
@[simp] theorem State.modTile_firn : (s.modTile i f).firn = s.firn := rfl
@[simp] theorem State.modTile_bankSpares : (s.modTile i f).bankSpares = s.bankSpares := rfl
@[simp] theorem State.modTile_scrub : (s.modTile i f).scrub = s.scrub := rfl
@[simp] theorem State.modTile_background : (s.modTile i f).background = s.background := rfl
@[simp] theorem State.modTile_mem : (s.modTile i f).mem = s.mem := rfl
@[simp] theorem State.modTile_reads : (s.modTile i f).reads = s.reads := rfl
@[simp] theorem State.modTile_writes : (s.modTile i f).writes = s.writes := rfl
@[simp] theorem State.modTile_outs : (s.modTile i f).outs = s.outs := rfl
@[simp] theorem State.modTile_ins : (s.modTile i f).ins = s.ins := rfl
@[simp] theorem State.modTile_tiles : (s.modTile i f).tiles = vset s.tiles i (f (s.tile i)) := rfl
@[simp] theorem State.modTile_slices : (s.modTile i f).slices = s.slices := rfl
@[simp] theorem State.modTile_block : (s.modTile i f).block = s.block := rfl
@[simp] theorem State.modTile_retries : (s.modTile i f).retries = s.retries := rfl
@[simp] theorem State.modTile_preemptDue : (s.modTile i f).preemptDue = s.preemptDue := rfl
@[simp] theorem State.modTile_sleetRunning : (s.modTile i f).sleetRunning = s.sleetRunning := rfl
@[simp] theorem State.modTile_seedings : (s.modTile i f).seedings = s.seedings := rfl
@[simp] theorem State.modTile_overlays : (s.modTile i f).overlays = s.overlays := rfl
@[simp] theorem State.modTile_micros : (s.modTile i f).micros = s.micros := rfl
@[simp] theorem State.modTile_figures : (s.modTile i f).figures = s.figures := rfl
@[simp] theorem State.modTile_ports : (s.modTile i f).ports = s.ports := rfl
@[simp] theorem State.modTile_memberDepth : (s.modTile i f).memberDepth = s.memberDepth := rfl
@[simp] theorem State.modTile_abortTable : (s.modTile i f).abortTable = s.abortTable := rfl
@[simp] theorem State.modTile_abortSeen : (s.modTile i f).abortSeen = s.abortSeen := rfl
@[simp] theorem State.modTile_groupDone : (s.modTile i f).groupDone = s.groupDone := rfl
@[simp] theorem State.modTile_passed : (s.modTile i f).passed = s.passed := rfl
@[simp] theorem State.modTile_actIn : (s.modTile i f).actIn = s.actIn := rfl
@[simp] theorem State.modTile_vault : (s.modTile i f).vault = s.vault := rfl
@[simp] theorem State.modTile_window : (s.modTile i f).window = s.window := rfl
@[simp] theorem State.modTile_download : (s.modTile i f).download = s.download := rfl
@[simp] theorem State.modTile_pendingCompletions : (s.modTile i f).pendingCompletions = s.pendingCompletions := rfl
@[simp] theorem State.modTile_pendingHealth : (s.modTile i f).pendingHealth = s.pendingHealth := rfl
@[simp] theorem State.modTile_freshCompletions : (s.modTile i f).freshCompletions = s.freshCompletions := rfl
@[simp] theorem State.modTile_freshHealth : (s.modTile i f).freshHealth = s.freshHealth := rfl
@[simp] theorem State.modTile_linksBegun : (s.modTile i f).linksBegun = s.linksBegun := rfl
@[simp] theorem State.modTile_whiteoutCause : (s.modTile i f).whiteoutCause = s.whiteoutCause := rfl
@[simp] theorem State.modTile_whiteoutCount : (s.modTile i f).whiteoutCount = s.whiteoutCount := rfl
@[simp] theorem State.modTile_tableReloaded : (s.modTile i f).tableReloaded = s.tableReloaded := rfl
@[simp] theorem State.modTile_reasons : (s.modTile i f).reasons = s.reasons := rfl
@[simp] theorem State.modTile_log : (s.modTile i f).log = s.log := rfl
@[simp] theorem State.modTile_logWritten : (s.modTile i f).logWritten = s.logWritten := rfl
@[simp] theorem State.modTile_counters : (s.modTile i f).counters = s.counters := rfl
end

section
variable (s : State) (i : Nat) (f : Slice → Slice)
@[simp] theorem State.modSlice_pending : (s.modSlice i f).pending = s.pending := rfl
@[simp] theorem State.modSlice_free : (s.modSlice i f).free = s.free := rfl
@[simp] theorem State.modSlice_grade : (s.modSlice i f).grade = s.grade := rfl
@[simp] theorem State.modSlice_stepping : (s.modSlice i f).stepping = s.stepping := rfl
@[simp] theorem State.modSlice_startup : (s.modSlice i f).startup = s.startup := rfl
@[simp] theorem State.modSlice_rstAsserted : (s.modSlice i f).rstAsserted = s.rstAsserted := rfl
@[simp] theorem State.modSlice_testMode : (s.modSlice i f).testMode = s.testMode := rfl
@[simp] theorem State.modSlice_released : (s.modSlice i f).released = s.released := rfl
@[simp] theorem State.modSlice_testsDone : (s.modSlice i f).testsDone = s.testsDone := rfl
@[simp] theorem State.modSlice_advancing : (s.modSlice i f).advancing = s.advancing := rfl
@[simp] theorem State.modSlice_zeroisePin : (s.modSlice i f).zeroisePin = s.zeroisePin := rfl
@[simp] theorem State.modSlice_tamperPin : (s.modSlice i f).tamperPin = s.tamperPin := rfl
@[simp] theorem State.modSlice_portErrors : (s.modSlice i f).portErrors = s.portErrors := rfl
@[simp] theorem State.modSlice_testReading : (s.modSlice i f).testReading = s.testReading := rfl
@[simp] theorem State.modSlice_count : (s.modSlice i f).count = s.count := rfl
@[simp] theorem State.modSlice_countLoaded : (s.modSlice i f).countLoaded = s.countLoaded := rfl
@[simp] theorem State.modSlice_slipPending : (s.modSlice i f).slipPending = s.slipPending := rfl
@[simp] theorem State.modSlice_inputDiff : (s.modSlice i f).inputDiff = s.inputDiff := rfl
@[simp] theorem State.modSlice_tick : (s.modSlice i f).tick = s.tick := rfl
@[simp] theorem State.modSlice_profile : (s.modSlice i f).profile = s.profile := rfl
@[simp] theorem State.modSlice_profileDigest : (s.modSlice i f).profileDigest = s.profileDigest := rfl
@[simp] theorem State.modSlice_settings : (s.modSlice i f).settings = s.settings := rfl
@[simp] theorem State.modSlice_parts : (s.modSlice i f).parts = s.parts := rfl
@[simp] theorem State.modSlice_tickets : (s.modSlice i f).tickets = s.tickets := rfl
@[simp] theorem State.modSlice_nextSeq : (s.modSlice i f).nextSeq = s.nextSeq := rfl
@[simp] theorem State.modSlice_ckpts : (s.modSlice i f).ckpts = s.ckpts := rfl
@[simp] theorem State.modSlice_ctxs : (s.modSlice i f).ctxs = s.ctxs := rfl
@[simp] theorem State.modSlice_regions : (s.modSlice i f).regions = s.regions := rfl
@[simp] theorem State.modSlice_firn : (s.modSlice i f).firn = s.firn := rfl
@[simp] theorem State.modSlice_bankSpares : (s.modSlice i f).bankSpares = s.bankSpares := rfl
@[simp] theorem State.modSlice_scrub : (s.modSlice i f).scrub = s.scrub := rfl
@[simp] theorem State.modSlice_background : (s.modSlice i f).background = s.background := rfl
@[simp] theorem State.modSlice_mem : (s.modSlice i f).mem = s.mem := rfl
@[simp] theorem State.modSlice_reads : (s.modSlice i f).reads = s.reads := rfl
@[simp] theorem State.modSlice_writes : (s.modSlice i f).writes = s.writes := rfl
@[simp] theorem State.modSlice_outs : (s.modSlice i f).outs = s.outs := rfl
@[simp] theorem State.modSlice_ins : (s.modSlice i f).ins = s.ins := rfl
@[simp] theorem State.modSlice_tiles : (s.modSlice i f).tiles = s.tiles := rfl
@[simp] theorem State.modSlice_slices : (s.modSlice i f).slices = vset s.slices i (f (s.sliceOf i)) := rfl
@[simp] theorem State.modSlice_block : (s.modSlice i f).block = s.block := rfl
@[simp] theorem State.modSlice_retries : (s.modSlice i f).retries = s.retries := rfl
@[simp] theorem State.modSlice_preemptDue : (s.modSlice i f).preemptDue = s.preemptDue := rfl
@[simp] theorem State.modSlice_sleetRunning : (s.modSlice i f).sleetRunning = s.sleetRunning := rfl
@[simp] theorem State.modSlice_seedings : (s.modSlice i f).seedings = s.seedings := rfl
@[simp] theorem State.modSlice_overlays : (s.modSlice i f).overlays = s.overlays := rfl
@[simp] theorem State.modSlice_micros : (s.modSlice i f).micros = s.micros := rfl
@[simp] theorem State.modSlice_figures : (s.modSlice i f).figures = s.figures := rfl
@[simp] theorem State.modSlice_ports : (s.modSlice i f).ports = s.ports := rfl
@[simp] theorem State.modSlice_memberDepth : (s.modSlice i f).memberDepth = s.memberDepth := rfl
@[simp] theorem State.modSlice_abortTable : (s.modSlice i f).abortTable = s.abortTable := rfl
@[simp] theorem State.modSlice_abortSeen : (s.modSlice i f).abortSeen = s.abortSeen := rfl
@[simp] theorem State.modSlice_groupDone : (s.modSlice i f).groupDone = s.groupDone := rfl
@[simp] theorem State.modSlice_passed : (s.modSlice i f).passed = s.passed := rfl
@[simp] theorem State.modSlice_actIn : (s.modSlice i f).actIn = s.actIn := rfl
@[simp] theorem State.modSlice_vault : (s.modSlice i f).vault = s.vault := rfl
@[simp] theorem State.modSlice_window : (s.modSlice i f).window = s.window := rfl
@[simp] theorem State.modSlice_download : (s.modSlice i f).download = s.download := rfl
@[simp] theorem State.modSlice_pendingCompletions : (s.modSlice i f).pendingCompletions = s.pendingCompletions := rfl
@[simp] theorem State.modSlice_pendingHealth : (s.modSlice i f).pendingHealth = s.pendingHealth := rfl
@[simp] theorem State.modSlice_freshCompletions : (s.modSlice i f).freshCompletions = s.freshCompletions := rfl
@[simp] theorem State.modSlice_freshHealth : (s.modSlice i f).freshHealth = s.freshHealth := rfl
@[simp] theorem State.modSlice_linksBegun : (s.modSlice i f).linksBegun = s.linksBegun := rfl
@[simp] theorem State.modSlice_whiteoutCause : (s.modSlice i f).whiteoutCause = s.whiteoutCause := rfl
@[simp] theorem State.modSlice_whiteoutCount : (s.modSlice i f).whiteoutCount = s.whiteoutCount := rfl
@[simp] theorem State.modSlice_tableReloaded : (s.modSlice i f).tableReloaded = s.tableReloaded := rfl
@[simp] theorem State.modSlice_reasons : (s.modSlice i f).reasons = s.reasons := rfl
@[simp] theorem State.modSlice_log : (s.modSlice i f).log = s.log := rfl
@[simp] theorem State.modSlice_logWritten : (s.modSlice i f).logWritten = s.logWritten := rfl
@[simp] theorem State.modSlice_counters : (s.modSlice i f).counters = s.counters := rfl
end

section
variable (s : State) (i : Fin 4) (f : Port → Port)
@[simp] theorem State.modPort_pending : (s.modPort i f).pending = s.pending := rfl
@[simp] theorem State.modPort_free : (s.modPort i f).free = s.free := rfl
@[simp] theorem State.modPort_grade : (s.modPort i f).grade = s.grade := rfl
@[simp] theorem State.modPort_stepping : (s.modPort i f).stepping = s.stepping := rfl
@[simp] theorem State.modPort_startup : (s.modPort i f).startup = s.startup := rfl
@[simp] theorem State.modPort_rstAsserted : (s.modPort i f).rstAsserted = s.rstAsserted := rfl
@[simp] theorem State.modPort_testMode : (s.modPort i f).testMode = s.testMode := rfl
@[simp] theorem State.modPort_released : (s.modPort i f).released = s.released := rfl
@[simp] theorem State.modPort_testsDone : (s.modPort i f).testsDone = s.testsDone := rfl
@[simp] theorem State.modPort_advancing : (s.modPort i f).advancing = s.advancing := rfl
@[simp] theorem State.modPort_zeroisePin : (s.modPort i f).zeroisePin = s.zeroisePin := rfl
@[simp] theorem State.modPort_tamperPin : (s.modPort i f).tamperPin = s.tamperPin := rfl
@[simp] theorem State.modPort_portErrors : (s.modPort i f).portErrors = s.portErrors := rfl
@[simp] theorem State.modPort_testReading : (s.modPort i f).testReading = s.testReading := rfl
@[simp] theorem State.modPort_count : (s.modPort i f).count = s.count := rfl
@[simp] theorem State.modPort_countLoaded : (s.modPort i f).countLoaded = s.countLoaded := rfl
@[simp] theorem State.modPort_slipPending : (s.modPort i f).slipPending = s.slipPending := rfl
@[simp] theorem State.modPort_inputDiff : (s.modPort i f).inputDiff = s.inputDiff := rfl
@[simp] theorem State.modPort_tick : (s.modPort i f).tick = s.tick := rfl
@[simp] theorem State.modPort_profile : (s.modPort i f).profile = s.profile := rfl
@[simp] theorem State.modPort_profileDigest : (s.modPort i f).profileDigest = s.profileDigest := rfl
@[simp] theorem State.modPort_settings : (s.modPort i f).settings = s.settings := rfl
@[simp] theorem State.modPort_parts : (s.modPort i f).parts = s.parts := rfl
@[simp] theorem State.modPort_tickets : (s.modPort i f).tickets = s.tickets := rfl
@[simp] theorem State.modPort_nextSeq : (s.modPort i f).nextSeq = s.nextSeq := rfl
@[simp] theorem State.modPort_ckpts : (s.modPort i f).ckpts = s.ckpts := rfl
@[simp] theorem State.modPort_ctxs : (s.modPort i f).ctxs = s.ctxs := rfl
@[simp] theorem State.modPort_regions : (s.modPort i f).regions = s.regions := rfl
@[simp] theorem State.modPort_firn : (s.modPort i f).firn = s.firn := rfl
@[simp] theorem State.modPort_bankSpares : (s.modPort i f).bankSpares = s.bankSpares := rfl
@[simp] theorem State.modPort_scrub : (s.modPort i f).scrub = s.scrub := rfl
@[simp] theorem State.modPort_background : (s.modPort i f).background = s.background := rfl
@[simp] theorem State.modPort_mem : (s.modPort i f).mem = s.mem := rfl
@[simp] theorem State.modPort_reads : (s.modPort i f).reads = s.reads := rfl
@[simp] theorem State.modPort_writes : (s.modPort i f).writes = s.writes := rfl
@[simp] theorem State.modPort_outs : (s.modPort i f).outs = s.outs := rfl
@[simp] theorem State.modPort_ins : (s.modPort i f).ins = s.ins := rfl
@[simp] theorem State.modPort_tiles : (s.modPort i f).tiles = s.tiles := rfl
@[simp] theorem State.modPort_slices : (s.modPort i f).slices = s.slices := rfl
@[simp] theorem State.modPort_block : (s.modPort i f).block = s.block := rfl
@[simp] theorem State.modPort_retries : (s.modPort i f).retries = s.retries := rfl
@[simp] theorem State.modPort_preemptDue : (s.modPort i f).preemptDue = s.preemptDue := rfl
@[simp] theorem State.modPort_sleetRunning : (s.modPort i f).sleetRunning = s.sleetRunning := rfl
@[simp] theorem State.modPort_seedings : (s.modPort i f).seedings = s.seedings := rfl
@[simp] theorem State.modPort_overlays : (s.modPort i f).overlays = s.overlays := rfl
@[simp] theorem State.modPort_micros : (s.modPort i f).micros = s.micros := rfl
@[simp] theorem State.modPort_figures : (s.modPort i f).figures = s.figures := rfl
@[simp] theorem State.modPort_ports : (s.modPort i f).ports = s.ports.set i (f (s.port i)) := rfl
@[simp] theorem State.modPort_memberDepth : (s.modPort i f).memberDepth = s.memberDepth := rfl
@[simp] theorem State.modPort_abortTable : (s.modPort i f).abortTable = s.abortTable := rfl
@[simp] theorem State.modPort_abortSeen : (s.modPort i f).abortSeen = s.abortSeen := rfl
@[simp] theorem State.modPort_groupDone : (s.modPort i f).groupDone = s.groupDone := rfl
@[simp] theorem State.modPort_passed : (s.modPort i f).passed = s.passed := rfl
@[simp] theorem State.modPort_actIn : (s.modPort i f).actIn = s.actIn := rfl
@[simp] theorem State.modPort_vault : (s.modPort i f).vault = s.vault := rfl
@[simp] theorem State.modPort_window : (s.modPort i f).window = s.window := rfl
@[simp] theorem State.modPort_download : (s.modPort i f).download = s.download := rfl
@[simp] theorem State.modPort_pendingCompletions : (s.modPort i f).pendingCompletions = s.pendingCompletions := rfl
@[simp] theorem State.modPort_pendingHealth : (s.modPort i f).pendingHealth = s.pendingHealth := rfl
@[simp] theorem State.modPort_freshCompletions : (s.modPort i f).freshCompletions = s.freshCompletions := rfl
@[simp] theorem State.modPort_freshHealth : (s.modPort i f).freshHealth = s.freshHealth := rfl
@[simp] theorem State.modPort_linksBegun : (s.modPort i f).linksBegun = s.linksBegun := rfl
@[simp] theorem State.modPort_whiteoutCause : (s.modPort i f).whiteoutCause = s.whiteoutCause := rfl
@[simp] theorem State.modPort_whiteoutCount : (s.modPort i f).whiteoutCount = s.whiteoutCount := rfl
@[simp] theorem State.modPort_tableReloaded : (s.modPort i f).tableReloaded = s.tableReloaded := rfl
@[simp] theorem State.modPort_reasons : (s.modPort i f).reasons = s.reasons := rfl
@[simp] theorem State.modPort_log : (s.modPort i f).log = s.log := rfl
@[simp] theorem State.modPort_logWritten : (s.modPort i f).logWritten = s.logWritten := rfl
@[simp] theorem State.modPort_counters : (s.modPort i f).counters = s.counters := rfl
end

section
variable (s : State) (f : Vault → Vault)
@[simp] theorem State.modVault_pending : (s.modVault f).pending = s.pending := rfl
@[simp] theorem State.modVault_free : (s.modVault f).free = s.free := rfl
@[simp] theorem State.modVault_grade : (s.modVault f).grade = s.grade := rfl
@[simp] theorem State.modVault_stepping : (s.modVault f).stepping = s.stepping := rfl
@[simp] theorem State.modVault_startup : (s.modVault f).startup = s.startup := rfl
@[simp] theorem State.modVault_rstAsserted : (s.modVault f).rstAsserted = s.rstAsserted := rfl
@[simp] theorem State.modVault_testMode : (s.modVault f).testMode = s.testMode := rfl
@[simp] theorem State.modVault_released : (s.modVault f).released = s.released := rfl
@[simp] theorem State.modVault_testsDone : (s.modVault f).testsDone = s.testsDone := rfl
@[simp] theorem State.modVault_advancing : (s.modVault f).advancing = s.advancing := rfl
@[simp] theorem State.modVault_zeroisePin : (s.modVault f).zeroisePin = s.zeroisePin := rfl
@[simp] theorem State.modVault_tamperPin : (s.modVault f).tamperPin = s.tamperPin := rfl
@[simp] theorem State.modVault_portErrors : (s.modVault f).portErrors = s.portErrors := rfl
@[simp] theorem State.modVault_testReading : (s.modVault f).testReading = s.testReading := rfl
@[simp] theorem State.modVault_count : (s.modVault f).count = s.count := rfl
@[simp] theorem State.modVault_countLoaded : (s.modVault f).countLoaded = s.countLoaded := rfl
@[simp] theorem State.modVault_slipPending : (s.modVault f).slipPending = s.slipPending := rfl
@[simp] theorem State.modVault_inputDiff : (s.modVault f).inputDiff = s.inputDiff := rfl
@[simp] theorem State.modVault_tick : (s.modVault f).tick = s.tick := rfl
@[simp] theorem State.modVault_profile : (s.modVault f).profile = s.profile := rfl
@[simp] theorem State.modVault_profileDigest : (s.modVault f).profileDigest = s.profileDigest := rfl
@[simp] theorem State.modVault_settings : (s.modVault f).settings = s.settings := rfl
@[simp] theorem State.modVault_parts : (s.modVault f).parts = s.parts := rfl
@[simp] theorem State.modVault_tickets : (s.modVault f).tickets = s.tickets := rfl
@[simp] theorem State.modVault_nextSeq : (s.modVault f).nextSeq = s.nextSeq := rfl
@[simp] theorem State.modVault_ckpts : (s.modVault f).ckpts = s.ckpts := rfl
@[simp] theorem State.modVault_ctxs : (s.modVault f).ctxs = s.ctxs := rfl
@[simp] theorem State.modVault_regions : (s.modVault f).regions = s.regions := rfl
@[simp] theorem State.modVault_firn : (s.modVault f).firn = s.firn := rfl
@[simp] theorem State.modVault_bankSpares : (s.modVault f).bankSpares = s.bankSpares := rfl
@[simp] theorem State.modVault_scrub : (s.modVault f).scrub = s.scrub := rfl
@[simp] theorem State.modVault_background : (s.modVault f).background = s.background := rfl
@[simp] theorem State.modVault_mem : (s.modVault f).mem = s.mem := rfl
@[simp] theorem State.modVault_reads : (s.modVault f).reads = s.reads := rfl
@[simp] theorem State.modVault_writes : (s.modVault f).writes = s.writes := rfl
@[simp] theorem State.modVault_outs : (s.modVault f).outs = s.outs := rfl
@[simp] theorem State.modVault_ins : (s.modVault f).ins = s.ins := rfl
@[simp] theorem State.modVault_tiles : (s.modVault f).tiles = s.tiles := rfl
@[simp] theorem State.modVault_slices : (s.modVault f).slices = s.slices := rfl
@[simp] theorem State.modVault_block : (s.modVault f).block = s.block := rfl
@[simp] theorem State.modVault_retries : (s.modVault f).retries = s.retries := rfl
@[simp] theorem State.modVault_preemptDue : (s.modVault f).preemptDue = s.preemptDue := rfl
@[simp] theorem State.modVault_sleetRunning : (s.modVault f).sleetRunning = s.sleetRunning := rfl
@[simp] theorem State.modVault_seedings : (s.modVault f).seedings = s.seedings := rfl
@[simp] theorem State.modVault_overlays : (s.modVault f).overlays = s.overlays := rfl
@[simp] theorem State.modVault_micros : (s.modVault f).micros = s.micros := rfl
@[simp] theorem State.modVault_figures : (s.modVault f).figures = s.figures := rfl
@[simp] theorem State.modVault_ports : (s.modVault f).ports = s.ports := rfl
@[simp] theorem State.modVault_memberDepth : (s.modVault f).memberDepth = s.memberDepth := rfl
@[simp] theorem State.modVault_abortTable : (s.modVault f).abortTable = s.abortTable := rfl
@[simp] theorem State.modVault_abortSeen : (s.modVault f).abortSeen = s.abortSeen := rfl
@[simp] theorem State.modVault_groupDone : (s.modVault f).groupDone = s.groupDone := rfl
@[simp] theorem State.modVault_passed : (s.modVault f).passed = s.passed := rfl
@[simp] theorem State.modVault_actIn : (s.modVault f).actIn = s.actIn := rfl
@[simp] theorem State.modVault_vault : (s.modVault f).vault = f s.vault := rfl
@[simp] theorem State.modVault_window : (s.modVault f).window = s.window := rfl
@[simp] theorem State.modVault_download : (s.modVault f).download = s.download := rfl
@[simp] theorem State.modVault_pendingCompletions : (s.modVault f).pendingCompletions = s.pendingCompletions := rfl
@[simp] theorem State.modVault_pendingHealth : (s.modVault f).pendingHealth = s.pendingHealth := rfl
@[simp] theorem State.modVault_freshCompletions : (s.modVault f).freshCompletions = s.freshCompletions := rfl
@[simp] theorem State.modVault_freshHealth : (s.modVault f).freshHealth = s.freshHealth := rfl
@[simp] theorem State.modVault_linksBegun : (s.modVault f).linksBegun = s.linksBegun := rfl
@[simp] theorem State.modVault_whiteoutCause : (s.modVault f).whiteoutCause = s.whiteoutCause := rfl
@[simp] theorem State.modVault_whiteoutCount : (s.modVault f).whiteoutCount = s.whiteoutCount := rfl
@[simp] theorem State.modVault_tableReloaded : (s.modVault f).tableReloaded = s.tableReloaded := rfl
@[simp] theorem State.modVault_reasons : (s.modVault f).reasons = s.reasons := rfl
@[simp] theorem State.modVault_log : (s.modVault f).log = s.log := rfl
@[simp] theorem State.modVault_logWritten : (s.modVault f).logWritten = s.logWritten := rfl
@[simp] theorem State.modVault_counters : (s.modVault f).counters = s.counters := rfl
end

section
variable (s : State) (f : Window → Window)
@[simp] theorem State.modWindow_pending : (s.modWindow f).pending = s.pending := rfl
@[simp] theorem State.modWindow_free : (s.modWindow f).free = s.free := rfl
@[simp] theorem State.modWindow_grade : (s.modWindow f).grade = s.grade := rfl
@[simp] theorem State.modWindow_stepping : (s.modWindow f).stepping = s.stepping := rfl
@[simp] theorem State.modWindow_startup : (s.modWindow f).startup = s.startup := rfl
@[simp] theorem State.modWindow_rstAsserted : (s.modWindow f).rstAsserted = s.rstAsserted := rfl
@[simp] theorem State.modWindow_testMode : (s.modWindow f).testMode = s.testMode := rfl
@[simp] theorem State.modWindow_released : (s.modWindow f).released = s.released := rfl
@[simp] theorem State.modWindow_testsDone : (s.modWindow f).testsDone = s.testsDone := rfl
@[simp] theorem State.modWindow_advancing : (s.modWindow f).advancing = s.advancing := rfl
@[simp] theorem State.modWindow_zeroisePin : (s.modWindow f).zeroisePin = s.zeroisePin := rfl
@[simp] theorem State.modWindow_tamperPin : (s.modWindow f).tamperPin = s.tamperPin := rfl
@[simp] theorem State.modWindow_portErrors : (s.modWindow f).portErrors = s.portErrors := rfl
@[simp] theorem State.modWindow_testReading : (s.modWindow f).testReading = s.testReading := rfl
@[simp] theorem State.modWindow_count : (s.modWindow f).count = s.count := rfl
@[simp] theorem State.modWindow_countLoaded : (s.modWindow f).countLoaded = s.countLoaded := rfl
@[simp] theorem State.modWindow_slipPending : (s.modWindow f).slipPending = s.slipPending := rfl
@[simp] theorem State.modWindow_inputDiff : (s.modWindow f).inputDiff = s.inputDiff := rfl
@[simp] theorem State.modWindow_tick : (s.modWindow f).tick = s.tick := rfl
@[simp] theorem State.modWindow_profile : (s.modWindow f).profile = s.profile := rfl
@[simp] theorem State.modWindow_profileDigest : (s.modWindow f).profileDigest = s.profileDigest := rfl
@[simp] theorem State.modWindow_settings : (s.modWindow f).settings = s.settings := rfl
@[simp] theorem State.modWindow_parts : (s.modWindow f).parts = s.parts := rfl
@[simp] theorem State.modWindow_tickets : (s.modWindow f).tickets = s.tickets := rfl
@[simp] theorem State.modWindow_nextSeq : (s.modWindow f).nextSeq = s.nextSeq := rfl
@[simp] theorem State.modWindow_ckpts : (s.modWindow f).ckpts = s.ckpts := rfl
@[simp] theorem State.modWindow_ctxs : (s.modWindow f).ctxs = s.ctxs := rfl
@[simp] theorem State.modWindow_regions : (s.modWindow f).regions = s.regions := rfl
@[simp] theorem State.modWindow_firn : (s.modWindow f).firn = s.firn := rfl
@[simp] theorem State.modWindow_bankSpares : (s.modWindow f).bankSpares = s.bankSpares := rfl
@[simp] theorem State.modWindow_scrub : (s.modWindow f).scrub = s.scrub := rfl
@[simp] theorem State.modWindow_background : (s.modWindow f).background = s.background := rfl
@[simp] theorem State.modWindow_mem : (s.modWindow f).mem = s.mem := rfl
@[simp] theorem State.modWindow_reads : (s.modWindow f).reads = s.reads := rfl
@[simp] theorem State.modWindow_writes : (s.modWindow f).writes = s.writes := rfl
@[simp] theorem State.modWindow_outs : (s.modWindow f).outs = s.outs := rfl
@[simp] theorem State.modWindow_ins : (s.modWindow f).ins = s.ins := rfl
@[simp] theorem State.modWindow_tiles : (s.modWindow f).tiles = s.tiles := rfl
@[simp] theorem State.modWindow_slices : (s.modWindow f).slices = s.slices := rfl
@[simp] theorem State.modWindow_block : (s.modWindow f).block = s.block := rfl
@[simp] theorem State.modWindow_retries : (s.modWindow f).retries = s.retries := rfl
@[simp] theorem State.modWindow_preemptDue : (s.modWindow f).preemptDue = s.preemptDue := rfl
@[simp] theorem State.modWindow_sleetRunning : (s.modWindow f).sleetRunning = s.sleetRunning := rfl
@[simp] theorem State.modWindow_seedings : (s.modWindow f).seedings = s.seedings := rfl
@[simp] theorem State.modWindow_overlays : (s.modWindow f).overlays = s.overlays := rfl
@[simp] theorem State.modWindow_micros : (s.modWindow f).micros = s.micros := rfl
@[simp] theorem State.modWindow_figures : (s.modWindow f).figures = s.figures := rfl
@[simp] theorem State.modWindow_ports : (s.modWindow f).ports = s.ports := rfl
@[simp] theorem State.modWindow_memberDepth : (s.modWindow f).memberDepth = s.memberDepth := rfl
@[simp] theorem State.modWindow_abortTable : (s.modWindow f).abortTable = s.abortTable := rfl
@[simp] theorem State.modWindow_abortSeen : (s.modWindow f).abortSeen = s.abortSeen := rfl
@[simp] theorem State.modWindow_groupDone : (s.modWindow f).groupDone = s.groupDone := rfl
@[simp] theorem State.modWindow_passed : (s.modWindow f).passed = s.passed := rfl
@[simp] theorem State.modWindow_actIn : (s.modWindow f).actIn = s.actIn := rfl
@[simp] theorem State.modWindow_vault : (s.modWindow f).vault = s.vault := rfl
@[simp] theorem State.modWindow_window : (s.modWindow f).window = f s.window := rfl
@[simp] theorem State.modWindow_download : (s.modWindow f).download = s.download := rfl
@[simp] theorem State.modWindow_pendingCompletions : (s.modWindow f).pendingCompletions = s.pendingCompletions := rfl
@[simp] theorem State.modWindow_pendingHealth : (s.modWindow f).pendingHealth = s.pendingHealth := rfl
@[simp] theorem State.modWindow_freshCompletions : (s.modWindow f).freshCompletions = s.freshCompletions := rfl
@[simp] theorem State.modWindow_freshHealth : (s.modWindow f).freshHealth = s.freshHealth := rfl
@[simp] theorem State.modWindow_linksBegun : (s.modWindow f).linksBegun = s.linksBegun := rfl
@[simp] theorem State.modWindow_whiteoutCause : (s.modWindow f).whiteoutCause = s.whiteoutCause := rfl
@[simp] theorem State.modWindow_whiteoutCount : (s.modWindow f).whiteoutCount = s.whiteoutCount := rfl
@[simp] theorem State.modWindow_tableReloaded : (s.modWindow f).tableReloaded = s.tableReloaded := rfl
@[simp] theorem State.modWindow_reasons : (s.modWindow f).reasons = s.reasons := rfl
@[simp] theorem State.modWindow_log : (s.modWindow f).log = s.log := rfl
@[simp] theorem State.modWindow_logWritten : (s.modWindow f).logWritten = s.logWritten := rfl
@[simp] theorem State.modWindow_counters : (s.modWindow f).counters = s.counters := rfl
end

section
variable (s : State) (c : Counter) (n : Nat)
@[simp] theorem State.bump_pending : (s.bump c n).pending = s.pending := rfl
@[simp] theorem State.bump_free : (s.bump c n).free = s.free := rfl
@[simp] theorem State.bump_grade : (s.bump c n).grade = s.grade := rfl
@[simp] theorem State.bump_stepping : (s.bump c n).stepping = s.stepping := rfl
@[simp] theorem State.bump_startup : (s.bump c n).startup = s.startup := rfl
@[simp] theorem State.bump_rstAsserted : (s.bump c n).rstAsserted = s.rstAsserted := rfl
@[simp] theorem State.bump_testMode : (s.bump c n).testMode = s.testMode := rfl
@[simp] theorem State.bump_released : (s.bump c n).released = s.released := rfl
@[simp] theorem State.bump_testsDone : (s.bump c n).testsDone = s.testsDone := rfl
@[simp] theorem State.bump_advancing : (s.bump c n).advancing = s.advancing := rfl
@[simp] theorem State.bump_zeroisePin : (s.bump c n).zeroisePin = s.zeroisePin := rfl
@[simp] theorem State.bump_tamperPin : (s.bump c n).tamperPin = s.tamperPin := rfl
@[simp] theorem State.bump_portErrors : (s.bump c n).portErrors = s.portErrors := rfl
@[simp] theorem State.bump_testReading : (s.bump c n).testReading = s.testReading := rfl
@[simp] theorem State.bump_count : (s.bump c n).count = s.count := rfl
@[simp] theorem State.bump_countLoaded : (s.bump c n).countLoaded = s.countLoaded := rfl
@[simp] theorem State.bump_slipPending : (s.bump c n).slipPending = s.slipPending := rfl
@[simp] theorem State.bump_inputDiff : (s.bump c n).inputDiff = s.inputDiff := rfl
@[simp] theorem State.bump_tick : (s.bump c n).tick = s.tick := rfl
@[simp] theorem State.bump_profile : (s.bump c n).profile = s.profile := rfl
@[simp] theorem State.bump_profileDigest : (s.bump c n).profileDigest = s.profileDigest := rfl
@[simp] theorem State.bump_settings : (s.bump c n).settings = s.settings := rfl
@[simp] theorem State.bump_parts : (s.bump c n).parts = s.parts := rfl
@[simp] theorem State.bump_tickets : (s.bump c n).tickets = s.tickets := rfl
@[simp] theorem State.bump_nextSeq : (s.bump c n).nextSeq = s.nextSeq := rfl
@[simp] theorem State.bump_ckpts : (s.bump c n).ckpts = s.ckpts := rfl
@[simp] theorem State.bump_ctxs : (s.bump c n).ctxs = s.ctxs := rfl
@[simp] theorem State.bump_regions : (s.bump c n).regions = s.regions := rfl
@[simp] theorem State.bump_firn : (s.bump c n).firn = s.firn := rfl
@[simp] theorem State.bump_bankSpares : (s.bump c n).bankSpares = s.bankSpares := rfl
@[simp] theorem State.bump_scrub : (s.bump c n).scrub = s.scrub := rfl
@[simp] theorem State.bump_background : (s.bump c n).background = s.background := rfl
@[simp] theorem State.bump_mem : (s.bump c n).mem = s.mem := rfl
@[simp] theorem State.bump_reads : (s.bump c n).reads = s.reads := rfl
@[simp] theorem State.bump_writes : (s.bump c n).writes = s.writes := rfl
@[simp] theorem State.bump_outs : (s.bump c n).outs = s.outs := rfl
@[simp] theorem State.bump_ins : (s.bump c n).ins = s.ins := rfl
@[simp] theorem State.bump_tiles : (s.bump c n).tiles = s.tiles := rfl
@[simp] theorem State.bump_slices : (s.bump c n).slices = s.slices := rfl
@[simp] theorem State.bump_block : (s.bump c n).block = s.block := rfl
@[simp] theorem State.bump_retries : (s.bump c n).retries = s.retries := rfl
@[simp] theorem State.bump_preemptDue : (s.bump c n).preemptDue = s.preemptDue := rfl
@[simp] theorem State.bump_sleetRunning : (s.bump c n).sleetRunning = s.sleetRunning := rfl
@[simp] theorem State.bump_seedings : (s.bump c n).seedings = s.seedings := rfl
@[simp] theorem State.bump_overlays : (s.bump c n).overlays = s.overlays := rfl
@[simp] theorem State.bump_micros : (s.bump c n).micros = s.micros := rfl
@[simp] theorem State.bump_figures : (s.bump c n).figures = s.figures := rfl
@[simp] theorem State.bump_ports : (s.bump c n).ports = s.ports := rfl
@[simp] theorem State.bump_memberDepth : (s.bump c n).memberDepth = s.memberDepth := rfl
@[simp] theorem State.bump_abortTable : (s.bump c n).abortTable = s.abortTable := rfl
@[simp] theorem State.bump_abortSeen : (s.bump c n).abortSeen = s.abortSeen := rfl
@[simp] theorem State.bump_groupDone : (s.bump c n).groupDone = s.groupDone := rfl
@[simp] theorem State.bump_passed : (s.bump c n).passed = s.passed := rfl
@[simp] theorem State.bump_actIn : (s.bump c n).actIn = s.actIn := rfl
@[simp] theorem State.bump_vault : (s.bump c n).vault = s.vault := rfl
@[simp] theorem State.bump_window : (s.bump c n).window = s.window := rfl
@[simp] theorem State.bump_download : (s.bump c n).download = s.download := rfl
@[simp] theorem State.bump_pendingCompletions : (s.bump c n).pendingCompletions = s.pendingCompletions := rfl
@[simp] theorem State.bump_pendingHealth : (s.bump c n).pendingHealth = s.pendingHealth := rfl
@[simp] theorem State.bump_freshCompletions : (s.bump c n).freshCompletions = s.freshCompletions := rfl
@[simp] theorem State.bump_freshHealth : (s.bump c n).freshHealth = s.freshHealth := rfl
@[simp] theorem State.bump_linksBegun : (s.bump c n).linksBegun = s.linksBegun := rfl
@[simp] theorem State.bump_whiteoutCause : (s.bump c n).whiteoutCause = s.whiteoutCause := rfl
@[simp] theorem State.bump_whiteoutCount : (s.bump c n).whiteoutCount = s.whiteoutCount := rfl
@[simp] theorem State.bump_tableReloaded : (s.bump c n).tableReloaded = s.tableReloaded := rfl
@[simp] theorem State.bump_reasons : (s.bump c n).reasons = s.reasons := rfl
@[simp] theorem State.bump_log : (s.bump c n).log = s.log := rfl
@[simp] theorem State.bump_logWritten : (s.bump c n).logWritten = s.logWritten := rfl
@[simp] theorem State.bump_counters : (s.bump c n).counters = vset s.counters c.idx (vget s.counters c.idx + BitVec.ofNat 64 n) := rfl
end

section
variable (s : State) (sub : OutSub) (msg : Bytes)
@[simp] theorem State.emit_pending : (s.emit sub msg).pending = s.pending := rfl
@[simp] theorem State.emit_free : (s.emit sub msg).free = s.free := rfl
@[simp] theorem State.emit_grade : (s.emit sub msg).grade = s.grade := rfl
@[simp] theorem State.emit_stepping : (s.emit sub msg).stepping = s.stepping := rfl
@[simp] theorem State.emit_startup : (s.emit sub msg).startup = s.startup := rfl
@[simp] theorem State.emit_rstAsserted : (s.emit sub msg).rstAsserted = s.rstAsserted := rfl
@[simp] theorem State.emit_testMode : (s.emit sub msg).testMode = s.testMode := rfl
@[simp] theorem State.emit_released : (s.emit sub msg).released = s.released := rfl
@[simp] theorem State.emit_testsDone : (s.emit sub msg).testsDone = s.testsDone := rfl
@[simp] theorem State.emit_advancing : (s.emit sub msg).advancing = s.advancing := rfl
@[simp] theorem State.emit_zeroisePin : (s.emit sub msg).zeroisePin = s.zeroisePin := rfl
@[simp] theorem State.emit_tamperPin : (s.emit sub msg).tamperPin = s.tamperPin := rfl
@[simp] theorem State.emit_portErrors : (s.emit sub msg).portErrors = s.portErrors := rfl
@[simp] theorem State.emit_testReading : (s.emit sub msg).testReading = s.testReading := rfl
@[simp] theorem State.emit_count : (s.emit sub msg).count = s.count := rfl
@[simp] theorem State.emit_countLoaded : (s.emit sub msg).countLoaded = s.countLoaded := rfl
@[simp] theorem State.emit_slipPending : (s.emit sub msg).slipPending = s.slipPending := rfl
@[simp] theorem State.emit_inputDiff : (s.emit sub msg).inputDiff = s.inputDiff := rfl
@[simp] theorem State.emit_tick : (s.emit sub msg).tick = s.tick := rfl
@[simp] theorem State.emit_profile : (s.emit sub msg).profile = s.profile := rfl
@[simp] theorem State.emit_profileDigest : (s.emit sub msg).profileDigest = s.profileDigest := rfl
@[simp] theorem State.emit_settings : (s.emit sub msg).settings = s.settings := rfl
@[simp] theorem State.emit_parts : (s.emit sub msg).parts = s.parts := rfl
@[simp] theorem State.emit_tickets : (s.emit sub msg).tickets = s.tickets := rfl
@[simp] theorem State.emit_nextSeq : (s.emit sub msg).nextSeq = s.nextSeq := rfl
@[simp] theorem State.emit_ckpts : (s.emit sub msg).ckpts = s.ckpts := rfl
@[simp] theorem State.emit_ctxs : (s.emit sub msg).ctxs = s.ctxs := rfl
@[simp] theorem State.emit_regions : (s.emit sub msg).regions = s.regions := rfl
@[simp] theorem State.emit_firn : (s.emit sub msg).firn = s.firn := rfl
@[simp] theorem State.emit_bankSpares : (s.emit sub msg).bankSpares = s.bankSpares := rfl
@[simp] theorem State.emit_scrub : (s.emit sub msg).scrub = s.scrub := rfl
@[simp] theorem State.emit_background : (s.emit sub msg).background = s.background := rfl
@[simp] theorem State.emit_mem : (s.emit sub msg).mem = s.mem := rfl
@[simp] theorem State.emit_reads : (s.emit sub msg).reads = s.reads := rfl
@[simp] theorem State.emit_writes : (s.emit sub msg).writes = s.writes := rfl
@[simp] theorem State.emit_ins : (s.emit sub msg).ins = s.ins := rfl
@[simp] theorem State.emit_tiles : (s.emit sub msg).tiles = s.tiles := rfl
@[simp] theorem State.emit_slices : (s.emit sub msg).slices = s.slices := rfl
@[simp] theorem State.emit_block : (s.emit sub msg).block = s.block := rfl
@[simp] theorem State.emit_retries : (s.emit sub msg).retries = s.retries := rfl
@[simp] theorem State.emit_preemptDue : (s.emit sub msg).preemptDue = s.preemptDue := rfl
@[simp] theorem State.emit_sleetRunning : (s.emit sub msg).sleetRunning = s.sleetRunning := rfl
@[simp] theorem State.emit_seedings : (s.emit sub msg).seedings = s.seedings := rfl
@[simp] theorem State.emit_overlays : (s.emit sub msg).overlays = s.overlays := rfl
@[simp] theorem State.emit_micros : (s.emit sub msg).micros = s.micros := rfl
@[simp] theorem State.emit_figures : (s.emit sub msg).figures = s.figures := rfl
@[simp] theorem State.emit_ports : (s.emit sub msg).ports = s.ports := rfl
@[simp] theorem State.emit_memberDepth : (s.emit sub msg).memberDepth = s.memberDepth := rfl
@[simp] theorem State.emit_abortTable : (s.emit sub msg).abortTable = s.abortTable := rfl
@[simp] theorem State.emit_abortSeen : (s.emit sub msg).abortSeen = s.abortSeen := rfl
@[simp] theorem State.emit_groupDone : (s.emit sub msg).groupDone = s.groupDone := rfl
@[simp] theorem State.emit_passed : (s.emit sub msg).passed = s.passed := rfl
@[simp] theorem State.emit_actIn : (s.emit sub msg).actIn = s.actIn := rfl
@[simp] theorem State.emit_vault : (s.emit sub msg).vault = s.vault := rfl
@[simp] theorem State.emit_window : (s.emit sub msg).window = s.window := rfl
@[simp] theorem State.emit_download : (s.emit sub msg).download = s.download := rfl
@[simp] theorem State.emit_pendingCompletions : (s.emit sub msg).pendingCompletions = s.pendingCompletions := rfl
@[simp] theorem State.emit_pendingHealth : (s.emit sub msg).pendingHealth = s.pendingHealth := rfl
@[simp] theorem State.emit_freshCompletions : (s.emit sub msg).freshCompletions = s.freshCompletions := rfl
@[simp] theorem State.emit_freshHealth : (s.emit sub msg).freshHealth = s.freshHealth := rfl
@[simp] theorem State.emit_linksBegun : (s.emit sub msg).linksBegun = s.linksBegun := rfl
@[simp] theorem State.emit_whiteoutCause : (s.emit sub msg).whiteoutCause = s.whiteoutCause := rfl
@[simp] theorem State.emit_whiteoutCount : (s.emit sub msg).whiteoutCount = s.whiteoutCount := rfl
@[simp] theorem State.emit_tableReloaded : (s.emit sub msg).tableReloaded = s.tableReloaded := rfl
@[simp] theorem State.emit_reasons : (s.emit sub msg).reasons = s.reasons := rfl
@[simp] theorem State.emit_log : (s.emit sub msg).log = s.log := rfl
@[simp] theorem State.emit_logWritten : (s.emit sub msg).logWritten = s.logWritten := rfl
@[simp] theorem State.emit_counters : (s.emit sub msg).counters = s.counters := rfl
end

section
variable (s : State)
@[simp] theorem State.healthEvent_pending : (s.healthEvent).pending = s.pending := rfl
@[simp] theorem State.healthEvent_free : (s.healthEvent).free = s.free := rfl
@[simp] theorem State.healthEvent_grade : (s.healthEvent).grade = s.grade := rfl
@[simp] theorem State.healthEvent_stepping : (s.healthEvent).stepping = s.stepping := rfl
@[simp] theorem State.healthEvent_startup : (s.healthEvent).startup = s.startup := rfl
@[simp] theorem State.healthEvent_rstAsserted : (s.healthEvent).rstAsserted = s.rstAsserted := rfl
@[simp] theorem State.healthEvent_testMode : (s.healthEvent).testMode = s.testMode := rfl
@[simp] theorem State.healthEvent_released : (s.healthEvent).released = s.released := rfl
@[simp] theorem State.healthEvent_testsDone : (s.healthEvent).testsDone = s.testsDone := rfl
@[simp] theorem State.healthEvent_advancing : (s.healthEvent).advancing = s.advancing := rfl
@[simp] theorem State.healthEvent_zeroisePin : (s.healthEvent).zeroisePin = s.zeroisePin := rfl
@[simp] theorem State.healthEvent_tamperPin : (s.healthEvent).tamperPin = s.tamperPin := rfl
@[simp] theorem State.healthEvent_portErrors : (s.healthEvent).portErrors = s.portErrors := rfl
@[simp] theorem State.healthEvent_testReading : (s.healthEvent).testReading = s.testReading := rfl
@[simp] theorem State.healthEvent_count : (s.healthEvent).count = s.count := rfl
@[simp] theorem State.healthEvent_countLoaded : (s.healthEvent).countLoaded = s.countLoaded := rfl
@[simp] theorem State.healthEvent_slipPending : (s.healthEvent).slipPending = s.slipPending := rfl
@[simp] theorem State.healthEvent_inputDiff : (s.healthEvent).inputDiff = s.inputDiff := rfl
@[simp] theorem State.healthEvent_tick : (s.healthEvent).tick = s.tick := rfl
@[simp] theorem State.healthEvent_profile : (s.healthEvent).profile = s.profile := rfl
@[simp] theorem State.healthEvent_profileDigest : (s.healthEvent).profileDigest = s.profileDigest := rfl
@[simp] theorem State.healthEvent_settings : (s.healthEvent).settings = s.settings := rfl
@[simp] theorem State.healthEvent_parts : (s.healthEvent).parts = s.parts := rfl
@[simp] theorem State.healthEvent_tickets : (s.healthEvent).tickets = s.tickets := rfl
@[simp] theorem State.healthEvent_nextSeq : (s.healthEvent).nextSeq = s.nextSeq := rfl
@[simp] theorem State.healthEvent_ckpts : (s.healthEvent).ckpts = s.ckpts := rfl
@[simp] theorem State.healthEvent_ctxs : (s.healthEvent).ctxs = s.ctxs := rfl
@[simp] theorem State.healthEvent_regions : (s.healthEvent).regions = s.regions := rfl
@[simp] theorem State.healthEvent_firn : (s.healthEvent).firn = s.firn := rfl
@[simp] theorem State.healthEvent_bankSpares : (s.healthEvent).bankSpares = s.bankSpares := rfl
@[simp] theorem State.healthEvent_scrub : (s.healthEvent).scrub = s.scrub := rfl
@[simp] theorem State.healthEvent_background : (s.healthEvent).background = s.background := rfl
@[simp] theorem State.healthEvent_mem : (s.healthEvent).mem = s.mem := rfl
@[simp] theorem State.healthEvent_reads : (s.healthEvent).reads = s.reads := rfl
@[simp] theorem State.healthEvent_writes : (s.healthEvent).writes = s.writes := rfl
@[simp] theorem State.healthEvent_outs : (s.healthEvent).outs = s.outs := rfl
@[simp] theorem State.healthEvent_ins : (s.healthEvent).ins = s.ins := rfl
@[simp] theorem State.healthEvent_tiles : (s.healthEvent).tiles = s.tiles := rfl
@[simp] theorem State.healthEvent_slices : (s.healthEvent).slices = s.slices := rfl
@[simp] theorem State.healthEvent_block : (s.healthEvent).block = s.block := rfl
@[simp] theorem State.healthEvent_retries : (s.healthEvent).retries = s.retries := rfl
@[simp] theorem State.healthEvent_preemptDue : (s.healthEvent).preemptDue = s.preemptDue := rfl
@[simp] theorem State.healthEvent_sleetRunning : (s.healthEvent).sleetRunning = s.sleetRunning := rfl
@[simp] theorem State.healthEvent_seedings : (s.healthEvent).seedings = s.seedings := rfl
@[simp] theorem State.healthEvent_overlays : (s.healthEvent).overlays = s.overlays := rfl
@[simp] theorem State.healthEvent_micros : (s.healthEvent).micros = s.micros := rfl
@[simp] theorem State.healthEvent_figures : (s.healthEvent).figures = s.figures := rfl
@[simp] theorem State.healthEvent_ports : (s.healthEvent).ports = s.ports := rfl
@[simp] theorem State.healthEvent_memberDepth : (s.healthEvent).memberDepth = s.memberDepth := rfl
@[simp] theorem State.healthEvent_abortTable : (s.healthEvent).abortTable = s.abortTable := rfl
@[simp] theorem State.healthEvent_abortSeen : (s.healthEvent).abortSeen = s.abortSeen := rfl
@[simp] theorem State.healthEvent_groupDone : (s.healthEvent).groupDone = s.groupDone := rfl
@[simp] theorem State.healthEvent_passed : (s.healthEvent).passed = s.passed := rfl
@[simp] theorem State.healthEvent_actIn : (s.healthEvent).actIn = s.actIn := rfl
@[simp] theorem State.healthEvent_vault : (s.healthEvent).vault = s.vault := rfl
@[simp] theorem State.healthEvent_window : (s.healthEvent).window = s.window := rfl
@[simp] theorem State.healthEvent_download : (s.healthEvent).download = s.download := rfl
@[simp] theorem State.healthEvent_pendingCompletions : (s.healthEvent).pendingCompletions = s.pendingCompletions := rfl
@[simp] theorem State.healthEvent_freshCompletions : (s.healthEvent).freshCompletions = s.freshCompletions := rfl
@[simp] theorem State.healthEvent_linksBegun : (s.healthEvent).linksBegun = s.linksBegun := rfl
@[simp] theorem State.healthEvent_whiteoutCause : (s.healthEvent).whiteoutCause = s.whiteoutCause := rfl
@[simp] theorem State.healthEvent_whiteoutCount : (s.healthEvent).whiteoutCount = s.whiteoutCount := rfl
@[simp] theorem State.healthEvent_tableReloaded : (s.healthEvent).tableReloaded = s.tableReloaded := rfl
@[simp] theorem State.healthEvent_reasons : (s.healthEvent).reasons = s.reasons := rfl
@[simp] theorem State.healthEvent_log : (s.healthEvent).log = s.log := rfl
@[simp] theorem State.healthEvent_logWritten : (s.healthEvent).logWritten = s.logWritten := rfl
@[simp] theorem State.healthEvent_counters : (s.healthEvent).counters = s.counters := rfl
end

section
variable (s : State) (i : InSub)
@[simp] theorem State.returnCredit_pending : (s.returnCredit i).pending = s.pending := rfl
@[simp] theorem State.returnCredit_free : (s.returnCredit i).free = s.free := rfl
@[simp] theorem State.returnCredit_grade : (s.returnCredit i).grade = s.grade := rfl
@[simp] theorem State.returnCredit_stepping : (s.returnCredit i).stepping = s.stepping := rfl
@[simp] theorem State.returnCredit_startup : (s.returnCredit i).startup = s.startup := rfl
@[simp] theorem State.returnCredit_rstAsserted : (s.returnCredit i).rstAsserted = s.rstAsserted := rfl
@[simp] theorem State.returnCredit_testMode : (s.returnCredit i).testMode = s.testMode := rfl
@[simp] theorem State.returnCredit_released : (s.returnCredit i).released = s.released := rfl
@[simp] theorem State.returnCredit_testsDone : (s.returnCredit i).testsDone = s.testsDone := rfl
@[simp] theorem State.returnCredit_advancing : (s.returnCredit i).advancing = s.advancing := rfl
@[simp] theorem State.returnCredit_zeroisePin : (s.returnCredit i).zeroisePin = s.zeroisePin := rfl
@[simp] theorem State.returnCredit_tamperPin : (s.returnCredit i).tamperPin = s.tamperPin := rfl
@[simp] theorem State.returnCredit_portErrors : (s.returnCredit i).portErrors = s.portErrors := rfl
@[simp] theorem State.returnCredit_testReading : (s.returnCredit i).testReading = s.testReading := rfl
@[simp] theorem State.returnCredit_count : (s.returnCredit i).count = s.count := rfl
@[simp] theorem State.returnCredit_countLoaded : (s.returnCredit i).countLoaded = s.countLoaded := rfl
@[simp] theorem State.returnCredit_slipPending : (s.returnCredit i).slipPending = s.slipPending := rfl
@[simp] theorem State.returnCredit_inputDiff : (s.returnCredit i).inputDiff = s.inputDiff := rfl
@[simp] theorem State.returnCredit_tick : (s.returnCredit i).tick = s.tick := rfl
@[simp] theorem State.returnCredit_profile : (s.returnCredit i).profile = s.profile := rfl
@[simp] theorem State.returnCredit_profileDigest : (s.returnCredit i).profileDigest = s.profileDigest := rfl
@[simp] theorem State.returnCredit_settings : (s.returnCredit i).settings = s.settings := rfl
@[simp] theorem State.returnCredit_parts : (s.returnCredit i).parts = s.parts := rfl
@[simp] theorem State.returnCredit_tickets : (s.returnCredit i).tickets = s.tickets := rfl
@[simp] theorem State.returnCredit_nextSeq : (s.returnCredit i).nextSeq = s.nextSeq := rfl
@[simp] theorem State.returnCredit_ckpts : (s.returnCredit i).ckpts = s.ckpts := rfl
@[simp] theorem State.returnCredit_ctxs : (s.returnCredit i).ctxs = s.ctxs := rfl
@[simp] theorem State.returnCredit_regions : (s.returnCredit i).regions = s.regions := rfl
@[simp] theorem State.returnCredit_firn : (s.returnCredit i).firn = s.firn := rfl
@[simp] theorem State.returnCredit_bankSpares : (s.returnCredit i).bankSpares = s.bankSpares := rfl
@[simp] theorem State.returnCredit_scrub : (s.returnCredit i).scrub = s.scrub := rfl
@[simp] theorem State.returnCredit_background : (s.returnCredit i).background = s.background := rfl
@[simp] theorem State.returnCredit_mem : (s.returnCredit i).mem = s.mem := rfl
@[simp] theorem State.returnCredit_reads : (s.returnCredit i).reads = s.reads := rfl
@[simp] theorem State.returnCredit_writes : (s.returnCredit i).writes = s.writes := rfl
@[simp] theorem State.returnCredit_outs : (s.returnCredit i).outs = s.outs := rfl
@[simp] theorem State.returnCredit_tiles : (s.returnCredit i).tiles = s.tiles := rfl
@[simp] theorem State.returnCredit_slices : (s.returnCredit i).slices = s.slices := rfl
@[simp] theorem State.returnCredit_block : (s.returnCredit i).block = s.block := rfl
@[simp] theorem State.returnCredit_retries : (s.returnCredit i).retries = s.retries := rfl
@[simp] theorem State.returnCredit_preemptDue : (s.returnCredit i).preemptDue = s.preemptDue := rfl
@[simp] theorem State.returnCredit_sleetRunning : (s.returnCredit i).sleetRunning = s.sleetRunning := rfl
@[simp] theorem State.returnCredit_seedings : (s.returnCredit i).seedings = s.seedings := rfl
@[simp] theorem State.returnCredit_overlays : (s.returnCredit i).overlays = s.overlays := rfl
@[simp] theorem State.returnCredit_micros : (s.returnCredit i).micros = s.micros := rfl
@[simp] theorem State.returnCredit_figures : (s.returnCredit i).figures = s.figures := rfl
@[simp] theorem State.returnCredit_ports : (s.returnCredit i).ports = s.ports := rfl
@[simp] theorem State.returnCredit_memberDepth : (s.returnCredit i).memberDepth = s.memberDepth := rfl
@[simp] theorem State.returnCredit_abortTable : (s.returnCredit i).abortTable = s.abortTable := rfl
@[simp] theorem State.returnCredit_abortSeen : (s.returnCredit i).abortSeen = s.abortSeen := rfl
@[simp] theorem State.returnCredit_groupDone : (s.returnCredit i).groupDone = s.groupDone := rfl
@[simp] theorem State.returnCredit_passed : (s.returnCredit i).passed = s.passed := rfl
@[simp] theorem State.returnCredit_actIn : (s.returnCredit i).actIn = s.actIn := rfl
@[simp] theorem State.returnCredit_vault : (s.returnCredit i).vault = s.vault := rfl
@[simp] theorem State.returnCredit_window : (s.returnCredit i).window = s.window := rfl
@[simp] theorem State.returnCredit_download : (s.returnCredit i).download = s.download := rfl
@[simp] theorem State.returnCredit_pendingCompletions : (s.returnCredit i).pendingCompletions = s.pendingCompletions := rfl
@[simp] theorem State.returnCredit_pendingHealth : (s.returnCredit i).pendingHealth = s.pendingHealth := rfl
@[simp] theorem State.returnCredit_freshCompletions : (s.returnCredit i).freshCompletions = s.freshCompletions := rfl
@[simp] theorem State.returnCredit_freshHealth : (s.returnCredit i).freshHealth = s.freshHealth := rfl
@[simp] theorem State.returnCredit_linksBegun : (s.returnCredit i).linksBegun = s.linksBegun := rfl
@[simp] theorem State.returnCredit_whiteoutCause : (s.returnCredit i).whiteoutCause = s.whiteoutCause := rfl
@[simp] theorem State.returnCredit_whiteoutCount : (s.returnCredit i).whiteoutCount = s.whiteoutCount := rfl
@[simp] theorem State.returnCredit_tableReloaded : (s.returnCredit i).tableReloaded = s.tableReloaded := rfl
@[simp] theorem State.returnCredit_reasons : (s.returnCredit i).reasons = s.reasons := rfl
@[simp] theorem State.returnCredit_log : (s.returnCredit i).log = s.log := rfl
@[simp] theorem State.returnCredit_logWritten : (s.returnCredit i).logWritten = s.logWritten := rfl
@[simp] theorem State.returnCredit_counters : (s.returnCredit i).counters = s.counters := rfl
end

section
variable (s : State) (p : Nat)
@[simp] theorem State.completionEvent_pending : (s.completionEvent p).pending = s.pending := rfl
@[simp] theorem State.completionEvent_free : (s.completionEvent p).free = s.free := rfl
@[simp] theorem State.completionEvent_grade : (s.completionEvent p).grade = s.grade := rfl
@[simp] theorem State.completionEvent_stepping : (s.completionEvent p).stepping = s.stepping := rfl
@[simp] theorem State.completionEvent_startup : (s.completionEvent p).startup = s.startup := rfl
@[simp] theorem State.completionEvent_rstAsserted : (s.completionEvent p).rstAsserted = s.rstAsserted := rfl
@[simp] theorem State.completionEvent_testMode : (s.completionEvent p).testMode = s.testMode := rfl
@[simp] theorem State.completionEvent_released : (s.completionEvent p).released = s.released := rfl
@[simp] theorem State.completionEvent_testsDone : (s.completionEvent p).testsDone = s.testsDone := rfl
@[simp] theorem State.completionEvent_advancing : (s.completionEvent p).advancing = s.advancing := rfl
@[simp] theorem State.completionEvent_zeroisePin : (s.completionEvent p).zeroisePin = s.zeroisePin := rfl
@[simp] theorem State.completionEvent_tamperPin : (s.completionEvent p).tamperPin = s.tamperPin := rfl
@[simp] theorem State.completionEvent_portErrors : (s.completionEvent p).portErrors = s.portErrors := rfl
@[simp] theorem State.completionEvent_testReading : (s.completionEvent p).testReading = s.testReading := rfl
@[simp] theorem State.completionEvent_count : (s.completionEvent p).count = s.count := rfl
@[simp] theorem State.completionEvent_countLoaded : (s.completionEvent p).countLoaded = s.countLoaded := rfl
@[simp] theorem State.completionEvent_slipPending : (s.completionEvent p).slipPending = s.slipPending := rfl
@[simp] theorem State.completionEvent_inputDiff : (s.completionEvent p).inputDiff = s.inputDiff := rfl
@[simp] theorem State.completionEvent_tick : (s.completionEvent p).tick = s.tick := rfl
@[simp] theorem State.completionEvent_profile : (s.completionEvent p).profile = s.profile := rfl
@[simp] theorem State.completionEvent_profileDigest : (s.completionEvent p).profileDigest = s.profileDigest := rfl
@[simp] theorem State.completionEvent_settings : (s.completionEvent p).settings = s.settings := rfl
@[simp] theorem State.completionEvent_parts : (s.completionEvent p).parts = s.parts := rfl
@[simp] theorem State.completionEvent_tickets : (s.completionEvent p).tickets = s.tickets := rfl
@[simp] theorem State.completionEvent_nextSeq : (s.completionEvent p).nextSeq = s.nextSeq := rfl
@[simp] theorem State.completionEvent_ckpts : (s.completionEvent p).ckpts = s.ckpts := rfl
@[simp] theorem State.completionEvent_ctxs : (s.completionEvent p).ctxs = s.ctxs := rfl
@[simp] theorem State.completionEvent_regions : (s.completionEvent p).regions = s.regions := rfl
@[simp] theorem State.completionEvent_firn : (s.completionEvent p).firn = s.firn := rfl
@[simp] theorem State.completionEvent_bankSpares : (s.completionEvent p).bankSpares = s.bankSpares := rfl
@[simp] theorem State.completionEvent_scrub : (s.completionEvent p).scrub = s.scrub := rfl
@[simp] theorem State.completionEvent_background : (s.completionEvent p).background = s.background := rfl
@[simp] theorem State.completionEvent_mem : (s.completionEvent p).mem = s.mem := rfl
@[simp] theorem State.completionEvent_reads : (s.completionEvent p).reads = s.reads := rfl
@[simp] theorem State.completionEvent_writes : (s.completionEvent p).writes = s.writes := rfl
@[simp] theorem State.completionEvent_outs : (s.completionEvent p).outs = s.outs := rfl
@[simp] theorem State.completionEvent_ins : (s.completionEvent p).ins = s.ins := rfl
@[simp] theorem State.completionEvent_tiles : (s.completionEvent p).tiles = s.tiles := rfl
@[simp] theorem State.completionEvent_slices : (s.completionEvent p).slices = s.slices := rfl
@[simp] theorem State.completionEvent_block : (s.completionEvent p).block = s.block := rfl
@[simp] theorem State.completionEvent_retries : (s.completionEvent p).retries = s.retries := rfl
@[simp] theorem State.completionEvent_preemptDue : (s.completionEvent p).preemptDue = s.preemptDue := rfl
@[simp] theorem State.completionEvent_sleetRunning : (s.completionEvent p).sleetRunning = s.sleetRunning := rfl
@[simp] theorem State.completionEvent_seedings : (s.completionEvent p).seedings = s.seedings := rfl
@[simp] theorem State.completionEvent_overlays : (s.completionEvent p).overlays = s.overlays := rfl
@[simp] theorem State.completionEvent_micros : (s.completionEvent p).micros = s.micros := rfl
@[simp] theorem State.completionEvent_figures : (s.completionEvent p).figures = s.figures := rfl
@[simp] theorem State.completionEvent_ports : (s.completionEvent p).ports = s.ports := rfl
@[simp] theorem State.completionEvent_memberDepth : (s.completionEvent p).memberDepth = s.memberDepth := rfl
@[simp] theorem State.completionEvent_abortTable : (s.completionEvent p).abortTable = s.abortTable := rfl
@[simp] theorem State.completionEvent_abortSeen : (s.completionEvent p).abortSeen = s.abortSeen := rfl
@[simp] theorem State.completionEvent_groupDone : (s.completionEvent p).groupDone = s.groupDone := rfl
@[simp] theorem State.completionEvent_passed : (s.completionEvent p).passed = s.passed := rfl
@[simp] theorem State.completionEvent_actIn : (s.completionEvent p).actIn = s.actIn := rfl
@[simp] theorem State.completionEvent_vault : (s.completionEvent p).vault = s.vault := rfl
@[simp] theorem State.completionEvent_window : (s.completionEvent p).window = s.window := rfl
@[simp] theorem State.completionEvent_download : (s.completionEvent p).download = s.download := rfl
@[simp] theorem State.completionEvent_pendingHealth : (s.completionEvent p).pendingHealth = s.pendingHealth := rfl
@[simp] theorem State.completionEvent_freshHealth : (s.completionEvent p).freshHealth = s.freshHealth := rfl
@[simp] theorem State.completionEvent_linksBegun : (s.completionEvent p).linksBegun = s.linksBegun := rfl
@[simp] theorem State.completionEvent_whiteoutCause : (s.completionEvent p).whiteoutCause = s.whiteoutCause := rfl
@[simp] theorem State.completionEvent_whiteoutCount : (s.completionEvent p).whiteoutCount = s.whiteoutCount := rfl
@[simp] theorem State.completionEvent_tableReloaded : (s.completionEvent p).tableReloaded = s.tableReloaded := rfl
@[simp] theorem State.completionEvent_reasons : (s.completionEvent p).reasons = s.reasons := rfl
@[simp] theorem State.completionEvent_log : (s.completionEvent p).log = s.log := rfl
@[simp] theorem State.completionEvent_logWritten : (s.completionEvent p).logWritten = s.logWritten := rfl
@[simp] theorem State.completionEvent_counters : (s.completionEvent p).counters = s.counters := rfl
end

section
variable (s : State)
@[simp] theorem State.portError_pending : (s.portError).pending = s.pending := rfl
@[simp] theorem State.portError_free : (s.portError).free = s.free := rfl
@[simp] theorem State.portError_grade : (s.portError).grade = s.grade := rfl
@[simp] theorem State.portError_stepping : (s.portError).stepping = s.stepping := rfl
@[simp] theorem State.portError_startup : (s.portError).startup = s.startup := rfl
@[simp] theorem State.portError_rstAsserted : (s.portError).rstAsserted = s.rstAsserted := rfl
@[simp] theorem State.portError_testMode : (s.portError).testMode = s.testMode := rfl
@[simp] theorem State.portError_released : (s.portError).released = s.released := rfl
@[simp] theorem State.portError_testsDone : (s.portError).testsDone = s.testsDone := rfl
@[simp] theorem State.portError_advancing : (s.portError).advancing = s.advancing := rfl
@[simp] theorem State.portError_zeroisePin : (s.portError).zeroisePin = s.zeroisePin := rfl
@[simp] theorem State.portError_tamperPin : (s.portError).tamperPin = s.tamperPin := rfl
@[simp] theorem State.portError_testReading : (s.portError).testReading = s.testReading := rfl
@[simp] theorem State.portError_count : (s.portError).count = s.count := rfl
@[simp] theorem State.portError_countLoaded : (s.portError).countLoaded = s.countLoaded := rfl
@[simp] theorem State.portError_slipPending : (s.portError).slipPending = s.slipPending := rfl
@[simp] theorem State.portError_inputDiff : (s.portError).inputDiff = s.inputDiff := rfl
@[simp] theorem State.portError_tick : (s.portError).tick = s.tick := rfl
@[simp] theorem State.portError_profile : (s.portError).profile = s.profile := rfl
@[simp] theorem State.portError_profileDigest : (s.portError).profileDigest = s.profileDigest := rfl
@[simp] theorem State.portError_settings : (s.portError).settings = s.settings := rfl
@[simp] theorem State.portError_parts : (s.portError).parts = s.parts := rfl
@[simp] theorem State.portError_tickets : (s.portError).tickets = s.tickets := rfl
@[simp] theorem State.portError_nextSeq : (s.portError).nextSeq = s.nextSeq := rfl
@[simp] theorem State.portError_ckpts : (s.portError).ckpts = s.ckpts := rfl
@[simp] theorem State.portError_ctxs : (s.portError).ctxs = s.ctxs := rfl
@[simp] theorem State.portError_regions : (s.portError).regions = s.regions := rfl
@[simp] theorem State.portError_firn : (s.portError).firn = s.firn := rfl
@[simp] theorem State.portError_bankSpares : (s.portError).bankSpares = s.bankSpares := rfl
@[simp] theorem State.portError_scrub : (s.portError).scrub = s.scrub := rfl
@[simp] theorem State.portError_background : (s.portError).background = s.background := rfl
@[simp] theorem State.portError_mem : (s.portError).mem = s.mem := rfl
@[simp] theorem State.portError_reads : (s.portError).reads = s.reads := rfl
@[simp] theorem State.portError_writes : (s.portError).writes = s.writes := rfl
@[simp] theorem State.portError_outs : (s.portError).outs = s.outs := rfl
@[simp] theorem State.portError_ins : (s.portError).ins = s.ins := rfl
@[simp] theorem State.portError_tiles : (s.portError).tiles = s.tiles := rfl
@[simp] theorem State.portError_slices : (s.portError).slices = s.slices := rfl
@[simp] theorem State.portError_block : (s.portError).block = s.block := rfl
@[simp] theorem State.portError_retries : (s.portError).retries = s.retries := rfl
@[simp] theorem State.portError_preemptDue : (s.portError).preemptDue = s.preemptDue := rfl
@[simp] theorem State.portError_sleetRunning : (s.portError).sleetRunning = s.sleetRunning := rfl
@[simp] theorem State.portError_seedings : (s.portError).seedings = s.seedings := rfl
@[simp] theorem State.portError_overlays : (s.portError).overlays = s.overlays := rfl
@[simp] theorem State.portError_micros : (s.portError).micros = s.micros := rfl
@[simp] theorem State.portError_figures : (s.portError).figures = s.figures := rfl
@[simp] theorem State.portError_ports : (s.portError).ports = s.ports := rfl
@[simp] theorem State.portError_memberDepth : (s.portError).memberDepth = s.memberDepth := rfl
@[simp] theorem State.portError_abortTable : (s.portError).abortTable = s.abortTable := rfl
@[simp] theorem State.portError_abortSeen : (s.portError).abortSeen = s.abortSeen := rfl
@[simp] theorem State.portError_groupDone : (s.portError).groupDone = s.groupDone := rfl
@[simp] theorem State.portError_passed : (s.portError).passed = s.passed := rfl
@[simp] theorem State.portError_actIn : (s.portError).actIn = s.actIn := rfl
@[simp] theorem State.portError_vault : (s.portError).vault = s.vault := rfl
@[simp] theorem State.portError_window : (s.portError).window = s.window := rfl
@[simp] theorem State.portError_download : (s.portError).download = s.download := rfl
@[simp] theorem State.portError_pendingCompletions : (s.portError).pendingCompletions = s.pendingCompletions := rfl
@[simp] theorem State.portError_pendingHealth : (s.portError).pendingHealth = s.pendingHealth := rfl
@[simp] theorem State.portError_freshCompletions : (s.portError).freshCompletions = s.freshCompletions := rfl
@[simp] theorem State.portError_freshHealth : (s.portError).freshHealth = s.freshHealth := rfl
@[simp] theorem State.portError_linksBegun : (s.portError).linksBegun = s.linksBegun := rfl
@[simp] theorem State.portError_whiteoutCause : (s.portError).whiteoutCause = s.whiteoutCause := rfl
@[simp] theorem State.portError_whiteoutCount : (s.portError).whiteoutCount = s.whiteoutCount := rfl
@[simp] theorem State.portError_tableReloaded : (s.portError).tableReloaded = s.tableReloaded := rfl
@[simp] theorem State.portError_reasons : (s.portError).reasons = s.reasons := rfl
@[simp] theorem State.portError_log : (s.portError).log = s.log := rfl
@[simp] theorem State.portError_logWritten : (s.portError).logWritten = s.logWritten := rfl
end

section
variable (s : State) (q : List Instr)
@[simp] theorem State.withPending_pending : (s.withPending q).pending = q := rfl
@[simp] theorem State.withPending_free : (s.withPending q).free = s.free := rfl
@[simp] theorem State.withPending_grade : (s.withPending q).grade = s.grade := rfl
@[simp] theorem State.withPending_stepping : (s.withPending q).stepping = s.stepping := rfl
@[simp] theorem State.withPending_startup : (s.withPending q).startup = s.startup := rfl
@[simp] theorem State.withPending_rstAsserted : (s.withPending q).rstAsserted = s.rstAsserted := rfl
@[simp] theorem State.withPending_testMode : (s.withPending q).testMode = s.testMode := rfl
@[simp] theorem State.withPending_released : (s.withPending q).released = s.released := rfl
@[simp] theorem State.withPending_testsDone : (s.withPending q).testsDone = s.testsDone := rfl
@[simp] theorem State.withPending_advancing : (s.withPending q).advancing = s.advancing := rfl
@[simp] theorem State.withPending_zeroisePin : (s.withPending q).zeroisePin = s.zeroisePin := rfl
@[simp] theorem State.withPending_tamperPin : (s.withPending q).tamperPin = s.tamperPin := rfl
@[simp] theorem State.withPending_portErrors : (s.withPending q).portErrors = s.portErrors := rfl
@[simp] theorem State.withPending_testReading : (s.withPending q).testReading = s.testReading := rfl
@[simp] theorem State.withPending_count : (s.withPending q).count = s.count := rfl
@[simp] theorem State.withPending_countLoaded : (s.withPending q).countLoaded = s.countLoaded := rfl
@[simp] theorem State.withPending_slipPending : (s.withPending q).slipPending = s.slipPending := rfl
@[simp] theorem State.withPending_inputDiff : (s.withPending q).inputDiff = s.inputDiff := rfl
@[simp] theorem State.withPending_tick : (s.withPending q).tick = s.tick := rfl
@[simp] theorem State.withPending_profile : (s.withPending q).profile = s.profile := rfl
@[simp] theorem State.withPending_profileDigest : (s.withPending q).profileDigest = s.profileDigest := rfl
@[simp] theorem State.withPending_settings : (s.withPending q).settings = s.settings := rfl
@[simp] theorem State.withPending_parts : (s.withPending q).parts = s.parts := rfl
@[simp] theorem State.withPending_tickets : (s.withPending q).tickets = s.tickets := rfl
@[simp] theorem State.withPending_nextSeq : (s.withPending q).nextSeq = s.nextSeq := rfl
@[simp] theorem State.withPending_ckpts : (s.withPending q).ckpts = s.ckpts := rfl
@[simp] theorem State.withPending_ctxs : (s.withPending q).ctxs = s.ctxs := rfl
@[simp] theorem State.withPending_regions : (s.withPending q).regions = s.regions := rfl
@[simp] theorem State.withPending_firn : (s.withPending q).firn = s.firn := rfl
@[simp] theorem State.withPending_bankSpares : (s.withPending q).bankSpares = s.bankSpares := rfl
@[simp] theorem State.withPending_scrub : (s.withPending q).scrub = s.scrub := rfl
@[simp] theorem State.withPending_background : (s.withPending q).background = s.background := rfl
@[simp] theorem State.withPending_mem : (s.withPending q).mem = s.mem := rfl
@[simp] theorem State.withPending_reads : (s.withPending q).reads = s.reads := rfl
@[simp] theorem State.withPending_writes : (s.withPending q).writes = s.writes := rfl
@[simp] theorem State.withPending_outs : (s.withPending q).outs = s.outs := rfl
@[simp] theorem State.withPending_ins : (s.withPending q).ins = s.ins := rfl
@[simp] theorem State.withPending_tiles : (s.withPending q).tiles = s.tiles := rfl
@[simp] theorem State.withPending_slices : (s.withPending q).slices = s.slices := rfl
@[simp] theorem State.withPending_block : (s.withPending q).block = s.block := rfl
@[simp] theorem State.withPending_retries : (s.withPending q).retries = s.retries := rfl
@[simp] theorem State.withPending_preemptDue : (s.withPending q).preemptDue = s.preemptDue := rfl
@[simp] theorem State.withPending_sleetRunning : (s.withPending q).sleetRunning = s.sleetRunning := rfl
@[simp] theorem State.withPending_seedings : (s.withPending q).seedings = s.seedings := rfl
@[simp] theorem State.withPending_overlays : (s.withPending q).overlays = s.overlays := rfl
@[simp] theorem State.withPending_micros : (s.withPending q).micros = s.micros := rfl
@[simp] theorem State.withPending_figures : (s.withPending q).figures = s.figures := rfl
@[simp] theorem State.withPending_ports : (s.withPending q).ports = s.ports := rfl
@[simp] theorem State.withPending_memberDepth : (s.withPending q).memberDepth = s.memberDepth := rfl
@[simp] theorem State.withPending_abortTable : (s.withPending q).abortTable = s.abortTable := rfl
@[simp] theorem State.withPending_abortSeen : (s.withPending q).abortSeen = s.abortSeen := rfl
@[simp] theorem State.withPending_groupDone : (s.withPending q).groupDone = s.groupDone := rfl
@[simp] theorem State.withPending_passed : (s.withPending q).passed = s.passed := rfl
@[simp] theorem State.withPending_actIn : (s.withPending q).actIn = s.actIn := rfl
@[simp] theorem State.withPending_vault : (s.withPending q).vault = s.vault := rfl
@[simp] theorem State.withPending_window : (s.withPending q).window = s.window := rfl
@[simp] theorem State.withPending_download : (s.withPending q).download = s.download := rfl
@[simp] theorem State.withPending_pendingCompletions : (s.withPending q).pendingCompletions = s.pendingCompletions := rfl
@[simp] theorem State.withPending_pendingHealth : (s.withPending q).pendingHealth = s.pendingHealth := rfl
@[simp] theorem State.withPending_freshCompletions : (s.withPending q).freshCompletions = s.freshCompletions := rfl
@[simp] theorem State.withPending_freshHealth : (s.withPending q).freshHealth = s.freshHealth := rfl
@[simp] theorem State.withPending_linksBegun : (s.withPending q).linksBegun = s.linksBegun := rfl
@[simp] theorem State.withPending_whiteoutCause : (s.withPending q).whiteoutCause = s.whiteoutCause := rfl
@[simp] theorem State.withPending_whiteoutCount : (s.withPending q).whiteoutCount = s.whiteoutCount := rfl
@[simp] theorem State.withPending_tableReloaded : (s.withPending q).tableReloaded = s.tableReloaded := rfl
@[simp] theorem State.withPending_reasons : (s.withPending q).reasons = s.reasons := rfl
@[simp] theorem State.withPending_log : (s.withPending q).log = s.log := rfl
@[simp] theorem State.withPending_logWritten : (s.withPending q).logWritten = s.logWritten := rfl
@[simp] theorem State.withPending_counters : (s.withPending q).counters = s.counters := rfl
end

section
variable (s : State) (c : U64) (l : Level) (k : ErrKind) (u d : Nat) (a : ErrAction) (t : Option Nat)
@[simp] theorem State.logAt_pending : (s.logAt c l k u d a t).pending = s.pending := rfl
@[simp] theorem State.logAt_free : (s.logAt c l k u d a t).free = s.free := rfl
@[simp] theorem State.logAt_grade : (s.logAt c l k u d a t).grade = s.grade := rfl
@[simp] theorem State.logAt_stepping : (s.logAt c l k u d a t).stepping = s.stepping := rfl
@[simp] theorem State.logAt_startup : (s.logAt c l k u d a t).startup = s.startup := rfl
@[simp] theorem State.logAt_rstAsserted : (s.logAt c l k u d a t).rstAsserted = s.rstAsserted := rfl
@[simp] theorem State.logAt_testMode : (s.logAt c l k u d a t).testMode = s.testMode := rfl
@[simp] theorem State.logAt_released : (s.logAt c l k u d a t).released = s.released := rfl
@[simp] theorem State.logAt_testsDone : (s.logAt c l k u d a t).testsDone = s.testsDone := rfl
@[simp] theorem State.logAt_advancing : (s.logAt c l k u d a t).advancing = s.advancing := rfl
@[simp] theorem State.logAt_zeroisePin : (s.logAt c l k u d a t).zeroisePin = s.zeroisePin := rfl
@[simp] theorem State.logAt_tamperPin : (s.logAt c l k u d a t).tamperPin = s.tamperPin := rfl
@[simp] theorem State.logAt_portErrors : (s.logAt c l k u d a t).portErrors = s.portErrors := rfl
@[simp] theorem State.logAt_testReading : (s.logAt c l k u d a t).testReading = s.testReading := rfl
@[simp] theorem State.logAt_count : (s.logAt c l k u d a t).count = s.count := rfl
@[simp] theorem State.logAt_countLoaded : (s.logAt c l k u d a t).countLoaded = s.countLoaded := rfl
@[simp] theorem State.logAt_slipPending : (s.logAt c l k u d a t).slipPending = s.slipPending := rfl
@[simp] theorem State.logAt_inputDiff : (s.logAt c l k u d a t).inputDiff = s.inputDiff := rfl
@[simp] theorem State.logAt_tick : (s.logAt c l k u d a t).tick = s.tick := rfl
@[simp] theorem State.logAt_profile : (s.logAt c l k u d a t).profile = s.profile := rfl
@[simp] theorem State.logAt_profileDigest : (s.logAt c l k u d a t).profileDigest = s.profileDigest := rfl
@[simp] theorem State.logAt_settings : (s.logAt c l k u d a t).settings = s.settings := rfl
@[simp] theorem State.logAt_parts : (s.logAt c l k u d a t).parts = s.parts := rfl
@[simp] theorem State.logAt_tickets : (s.logAt c l k u d a t).tickets = s.tickets := rfl
@[simp] theorem State.logAt_nextSeq : (s.logAt c l k u d a t).nextSeq = s.nextSeq := rfl
@[simp] theorem State.logAt_ckpts : (s.logAt c l k u d a t).ckpts = s.ckpts := rfl
@[simp] theorem State.logAt_ctxs : (s.logAt c l k u d a t).ctxs = s.ctxs := rfl
@[simp] theorem State.logAt_regions : (s.logAt c l k u d a t).regions = s.regions := rfl
@[simp] theorem State.logAt_firn : (s.logAt c l k u d a t).firn = s.firn := rfl
@[simp] theorem State.logAt_bankSpares : (s.logAt c l k u d a t).bankSpares = s.bankSpares := rfl
@[simp] theorem State.logAt_scrub : (s.logAt c l k u d a t).scrub = s.scrub := rfl
@[simp] theorem State.logAt_background : (s.logAt c l k u d a t).background = s.background := rfl
@[simp] theorem State.logAt_mem : (s.logAt c l k u d a t).mem = s.mem := rfl
@[simp] theorem State.logAt_reads : (s.logAt c l k u d a t).reads = s.reads := rfl
@[simp] theorem State.logAt_writes : (s.logAt c l k u d a t).writes = s.writes := rfl
@[simp] theorem State.logAt_outs : (s.logAt c l k u d a t).outs = s.outs := rfl
@[simp] theorem State.logAt_ins : (s.logAt c l k u d a t).ins = s.ins := rfl
@[simp] theorem State.logAt_tiles : (s.logAt c l k u d a t).tiles = s.tiles := rfl
@[simp] theorem State.logAt_slices : (s.logAt c l k u d a t).slices = s.slices := rfl
@[simp] theorem State.logAt_block : (s.logAt c l k u d a t).block = s.block := rfl
@[simp] theorem State.logAt_retries : (s.logAt c l k u d a t).retries = s.retries := rfl
@[simp] theorem State.logAt_preemptDue : (s.logAt c l k u d a t).preemptDue = s.preemptDue := rfl
@[simp] theorem State.logAt_sleetRunning : (s.logAt c l k u d a t).sleetRunning = s.sleetRunning := rfl
@[simp] theorem State.logAt_seedings : (s.logAt c l k u d a t).seedings = s.seedings := rfl
@[simp] theorem State.logAt_overlays : (s.logAt c l k u d a t).overlays = s.overlays := rfl
@[simp] theorem State.logAt_micros : (s.logAt c l k u d a t).micros = s.micros := rfl
@[simp] theorem State.logAt_figures : (s.logAt c l k u d a t).figures = s.figures := rfl
@[simp] theorem State.logAt_ports : (s.logAt c l k u d a t).ports = s.ports := rfl
@[simp] theorem State.logAt_memberDepth : (s.logAt c l k u d a t).memberDepth = s.memberDepth := rfl
@[simp] theorem State.logAt_abortTable : (s.logAt c l k u d a t).abortTable = s.abortTable := rfl
@[simp] theorem State.logAt_abortSeen : (s.logAt c l k u d a t).abortSeen = s.abortSeen := rfl
@[simp] theorem State.logAt_groupDone : (s.logAt c l k u d a t).groupDone = s.groupDone := rfl
@[simp] theorem State.logAt_passed : (s.logAt c l k u d a t).passed = s.passed := rfl
@[simp] theorem State.logAt_actIn : (s.logAt c l k u d a t).actIn = s.actIn := rfl
@[simp] theorem State.logAt_vault : (s.logAt c l k u d a t).vault = s.vault := rfl
@[simp] theorem State.logAt_window : (s.logAt c l k u d a t).window = s.window := rfl
@[simp] theorem State.logAt_download : (s.logAt c l k u d a t).download = s.download := rfl
@[simp] theorem State.logAt_pendingCompletions : (s.logAt c l k u d a t).pendingCompletions = s.pendingCompletions := rfl
@[simp] theorem State.logAt_pendingHealth : (s.logAt c l k u d a t).pendingHealth = s.pendingHealth := rfl
@[simp] theorem State.logAt_freshCompletions : (s.logAt c l k u d a t).freshCompletions = s.freshCompletions := rfl
@[simp] theorem State.logAt_freshHealth : (s.logAt c l k u d a t).freshHealth = s.freshHealth := rfl
@[simp] theorem State.logAt_linksBegun : (s.logAt c l k u d a t).linksBegun = s.linksBegun := rfl
@[simp] theorem State.logAt_whiteoutCause : (s.logAt c l k u d a t).whiteoutCause = s.whiteoutCause := rfl
@[simp] theorem State.logAt_whiteoutCount : (s.logAt c l k u d a t).whiteoutCount = s.whiteoutCount := rfl
@[simp] theorem State.logAt_tableReloaded : (s.logAt c l k u d a t).tableReloaded = s.tableReloaded := rfl
@[simp] theorem State.logAt_reasons : (s.logAt c l k u d a t).reasons = s.reasons := rfl
@[simp] theorem State.logAt_counters : (s.logAt c l k u d a t).counters = s.counters := rfl
end

section
variable (s : State) (l : Level) (k : ErrKind) (u d : Nat) (a : ErrAction) (t : Option Nat)
@[simp] theorem State.logError_pending : (s.logError l k u d a t).pending = s.pending := rfl
@[simp] theorem State.logError_free : (s.logError l k u d a t).free = s.free := rfl
@[simp] theorem State.logError_grade : (s.logError l k u d a t).grade = s.grade := rfl
@[simp] theorem State.logError_stepping : (s.logError l k u d a t).stepping = s.stepping := rfl
@[simp] theorem State.logError_startup : (s.logError l k u d a t).startup = s.startup := rfl
@[simp] theorem State.logError_rstAsserted : (s.logError l k u d a t).rstAsserted = s.rstAsserted := rfl
@[simp] theorem State.logError_testMode : (s.logError l k u d a t).testMode = s.testMode := rfl
@[simp] theorem State.logError_released : (s.logError l k u d a t).released = s.released := rfl
@[simp] theorem State.logError_testsDone : (s.logError l k u d a t).testsDone = s.testsDone := rfl
@[simp] theorem State.logError_advancing : (s.logError l k u d a t).advancing = s.advancing := rfl
@[simp] theorem State.logError_zeroisePin : (s.logError l k u d a t).zeroisePin = s.zeroisePin := rfl
@[simp] theorem State.logError_tamperPin : (s.logError l k u d a t).tamperPin = s.tamperPin := rfl
@[simp] theorem State.logError_portErrors : (s.logError l k u d a t).portErrors = s.portErrors := rfl
@[simp] theorem State.logError_testReading : (s.logError l k u d a t).testReading = s.testReading := rfl
@[simp] theorem State.logError_count : (s.logError l k u d a t).count = s.count := rfl
@[simp] theorem State.logError_countLoaded : (s.logError l k u d a t).countLoaded = s.countLoaded := rfl
@[simp] theorem State.logError_slipPending : (s.logError l k u d a t).slipPending = s.slipPending := rfl
@[simp] theorem State.logError_inputDiff : (s.logError l k u d a t).inputDiff = s.inputDiff := rfl
@[simp] theorem State.logError_tick : (s.logError l k u d a t).tick = s.tick := rfl
@[simp] theorem State.logError_profile : (s.logError l k u d a t).profile = s.profile := rfl
@[simp] theorem State.logError_profileDigest : (s.logError l k u d a t).profileDigest = s.profileDigest := rfl
@[simp] theorem State.logError_settings : (s.logError l k u d a t).settings = s.settings := rfl
@[simp] theorem State.logError_parts : (s.logError l k u d a t).parts = s.parts := rfl
@[simp] theorem State.logError_tickets : (s.logError l k u d a t).tickets = s.tickets := rfl
@[simp] theorem State.logError_nextSeq : (s.logError l k u d a t).nextSeq = s.nextSeq := rfl
@[simp] theorem State.logError_ckpts : (s.logError l k u d a t).ckpts = s.ckpts := rfl
@[simp] theorem State.logError_ctxs : (s.logError l k u d a t).ctxs = s.ctxs := rfl
@[simp] theorem State.logError_regions : (s.logError l k u d a t).regions = s.regions := rfl
@[simp] theorem State.logError_firn : (s.logError l k u d a t).firn = s.firn := rfl
@[simp] theorem State.logError_bankSpares : (s.logError l k u d a t).bankSpares = s.bankSpares := rfl
@[simp] theorem State.logError_scrub : (s.logError l k u d a t).scrub = s.scrub := rfl
@[simp] theorem State.logError_background : (s.logError l k u d a t).background = s.background := rfl
@[simp] theorem State.logError_mem : (s.logError l k u d a t).mem = s.mem := rfl
@[simp] theorem State.logError_reads : (s.logError l k u d a t).reads = s.reads := rfl
@[simp] theorem State.logError_writes : (s.logError l k u d a t).writes = s.writes := rfl
@[simp] theorem State.logError_outs : (s.logError l k u d a t).outs = s.outs := rfl
@[simp] theorem State.logError_ins : (s.logError l k u d a t).ins = s.ins := rfl
@[simp] theorem State.logError_tiles : (s.logError l k u d a t).tiles = s.tiles := rfl
@[simp] theorem State.logError_slices : (s.logError l k u d a t).slices = s.slices := rfl
@[simp] theorem State.logError_block : (s.logError l k u d a t).block = s.block := rfl
@[simp] theorem State.logError_retries : (s.logError l k u d a t).retries = s.retries := rfl
@[simp] theorem State.logError_preemptDue : (s.logError l k u d a t).preemptDue = s.preemptDue := rfl
@[simp] theorem State.logError_sleetRunning : (s.logError l k u d a t).sleetRunning = s.sleetRunning := rfl
@[simp] theorem State.logError_seedings : (s.logError l k u d a t).seedings = s.seedings := rfl
@[simp] theorem State.logError_overlays : (s.logError l k u d a t).overlays = s.overlays := rfl
@[simp] theorem State.logError_micros : (s.logError l k u d a t).micros = s.micros := rfl
@[simp] theorem State.logError_figures : (s.logError l k u d a t).figures = s.figures := rfl
@[simp] theorem State.logError_ports : (s.logError l k u d a t).ports = s.ports := rfl
@[simp] theorem State.logError_memberDepth : (s.logError l k u d a t).memberDepth = s.memberDepth := rfl
@[simp] theorem State.logError_abortTable : (s.logError l k u d a t).abortTable = s.abortTable := rfl
@[simp] theorem State.logError_abortSeen : (s.logError l k u d a t).abortSeen = s.abortSeen := rfl
@[simp] theorem State.logError_groupDone : (s.logError l k u d a t).groupDone = s.groupDone := rfl
@[simp] theorem State.logError_passed : (s.logError l k u d a t).passed = s.passed := rfl
@[simp] theorem State.logError_actIn : (s.logError l k u d a t).actIn = s.actIn := rfl
@[simp] theorem State.logError_vault : (s.logError l k u d a t).vault = s.vault := rfl
@[simp] theorem State.logError_window : (s.logError l k u d a t).window = s.window := rfl
@[simp] theorem State.logError_download : (s.logError l k u d a t).download = s.download := rfl
@[simp] theorem State.logError_pendingCompletions : (s.logError l k u d a t).pendingCompletions = s.pendingCompletions := rfl
@[simp] theorem State.logError_pendingHealth : (s.logError l k u d a t).pendingHealth = s.pendingHealth := rfl
@[simp] theorem State.logError_freshCompletions : (s.logError l k u d a t).freshCompletions = s.freshCompletions := rfl
@[simp] theorem State.logError_freshHealth : (s.logError l k u d a t).freshHealth = s.freshHealth := rfl
@[simp] theorem State.logError_linksBegun : (s.logError l k u d a t).linksBegun = s.linksBegun := rfl
@[simp] theorem State.logError_whiteoutCause : (s.logError l k u d a t).whiteoutCause = s.whiteoutCause := rfl
@[simp] theorem State.logError_whiteoutCount : (s.logError l k u d a t).whiteoutCount = s.whiteoutCount := rfl
@[simp] theorem State.logError_tableReloaded : (s.logError l k u d a t).tableReloaded = s.tableReloaded := rfl
@[simp] theorem State.logError_reasons : (s.logError l k u d a t).reasons = s.reasons := rfl
@[simp] theorem State.logError_counters : (s.logError l k u d a t).counters = s.counters := rfl
end

end Sys2Proof.Machine
end

