-- ==== Sys2Proof/Laws/Engines.lean ====
section
/-! SUPPORT. When an opcode row runs, and what the end of a command's work leaves (R54, R333). -/
set_option Elab.async false
namespace Sys2Proof.Machine

/-- A ready command's row is the work of its engines. -/
theorem State.engine_ready {s : State} {q : Nat} {o : Op} {t : Ticket} {r : Running} {f : Ticket → Running → Out}
    (h : Ready s q o t r) : s.engine q o f = f t r := by
  obtain ⟨h0, h1, h2, h3, h4, h5⟩ := h
  subst h2
  simp [State.engine, State.awake, State.dormant, h0, h1, h3, h4, h5]

theorem State.launched_congr {s u : State} (h : u.tickets = s.tickets) (q : Nat) : u.launched q = s.launched q := by
  unfold State.launched State.ticket; rw [h]

theorem State.ticket_modTicket (s : State) (q : Nat) (f : Ticket → Ticket) (hf : ∀ t, (f t).seq = t.seq) :
    (s.modTicket q f).ticket q = (s.ticket q).map f := by
  unfold State.ticket
  rw [State.modTicket_tickets]
  induction s.tickets with
  | nil => rfl
  | cons x l ih =>
    by_cases hx : x.seq = q
    · simp [hx, hf]
    · simp [hx, ih]

/-- The running figure of the changed ticket. -/
theorem State.launched_modRun {s : State} {q : Nat} {t : Ticket} {r : Running} (f : Running → Running)
    (h : s.launched q = some (t, r)) :
    (s.modRun q f).launched q = some ({ t with run := some (f r) }, f r) := by
  unfold State.launched at h ⊢
  unfold State.modRun
  rw [State.ticket_modTicket s q (fun t => { t with run := t.run.map f }) (fun _ => rfl)]
  cases ht : s.ticket q with
  | none => rw [ht] at h; cases h
  | some x =>
    rw [ht] at h
    simp only [Option.map_some] at h ⊢
    split at h
    · rename_i hr he
      cases h
      simp [hr, he]
    · cases h

/-- The end of a command's work: its figure is finished, or its CHECK frame has gone out (R54). -/
theorem State.finishWith_finished {s : State} {q : Nat} {t : Ticket} {r : Running} (f : Result → Result)
    (h : s.launched q = some (t, r)) : Finished (s.finishWith q f) q t (f r.result) := by
  have h1 := State.launched_modRun (fun r => { r with result := f r.result }) h
  unfold State.finishWith State.finishRun
  rw [h1]
  dsimp only
  have hc : ∀ x : Option Running, ({ t with run := x } : Ticket).crossCheck = t.crossCheck := fun _ => rfl
  rw [hc]
  split
  · rename_i hx
    have h2 := State.launched_modRun (fun r => { r with phase := .checking, exch := none, holding := false, checkWaited := 0 }) h1
    exact ⟨_, _, (State.launched_congr ((State.sendCredited_keeps ..).same .tickets (by decide)) q).trans h2,
      rfl, rfl, by simp [hx], rfl⟩
  · rename_i hx
    have h2 := State.launched_modRun (fun r => { r with phase := .finished, exch := none, holding := false }) h1
    exact ⟨_, _, h2, rfl, rfl, by simp [hx], rfl⟩

end Sys2Proof.Machine
end

