-- ==== Sys2Proof/Laws/HostPort.lean ====
section
/-! SUPPORT. What a doorbell grants (R328, R329), what a credit sends (R456), and what a vector holds after a change. -/
set_option Elab.async false
namespace Sys2Proof.Machine

theorem vget_vset {α : Type} {n : Nat} [Inhabited α] (v : Vector α n) (i : Nat) (a : α) (h : i < n) :
    vget (vset v i a) i = a := by
  simp [vget, vset, h]

theorem vget_vset_ne {α : Type} {n : Nat} [Inhabited α] (v : Vector α n) (i j : Nat) (a : α) (h : i ≠ j) :
    vget (vset v i a) j = vget v j := by
  simp [vget, vset, Vector.getElem?_setIfInBounds, h]

theorem State.issueRead_tickets (s : State) (ch : Sys2Proof.MemChan) (a n : Nat) (w : ReadFor) (g : Bool) :
    (s.issueRead ch a n w g).tickets = s.tickets :=
  (State.issueRead_keeps s ch a n w g).same .tickets (by decide)
theorem State.issueRead_nextSeq (s : State) (ch : Sys2Proof.MemChan) (a n : Nat) (w : ReadFor) (g : Bool) :
    (s.issueRead ch a n w g).nextSeq = s.nextSeq :=
  (State.issueRead_keeps s ch a n w g).same .nextSeq (by decide)

/-- The tickets of one doorbell: sequences rise from the next, and slots from the tail (R329). -/
theorem foldl_grant (p q : Nat) (slot : Nat → Nat) (n : Nat) (s : State) :
    (((upto n).foldl (fun (s : State) k => s.grant p q (slot k)) s).tickets =
      s.tickets ++ (upto n).map (fun k => Ticket.granted (s.nextSeq + k) p q (slot k))) ∧
    ((upto n).foldl (fun (s : State) k => s.grant p q (slot k)) s).nextSeq = s.nextSeq + n := by
  induction n with
  | zero => simp [upto]
  | succ n ih =>
    obtain ⟨h1, h2⟩ := ih
    simp only [upto] at h1 h2 ⊢
    rw [List.range_succ, List.foldl_append, List.map_append]
    simp only [List.foldl_cons, List.foldl_nil, List.map_cons, List.map_nil]
    constructor
    · refine (State.issueRead_tickets ..).trans ?_
      show (State.tickets _) ++ [Ticket.granted _ p q (slot n)] = _
      rw [h1, h2, List.append_assoc]
    · refine (State.issueRead_nextSeq ..).trans ?_
      show State.nextSeq _ + 1 = _
      rw [h2]; omega

/-- An accepted doorbell's tickets and the next sequence (R328, R329). -/
theorem State.acceptDoorbell_tickets (s : State) (b : BitVec 64) :
    let r := vget (s.part (dbPart b)).rings (dbQueue b)
    (s.acceptDoorbell b).tickets = s.tickets ++ (upto (dbCount r (dbTail b))).map
      (fun k => Ticket.granted (s.nextSeq + k) (dbPart b) (dbQueue b) ((r.tail.toNat + k) % r.slots)) ∧
    (s.acceptDoorbell b).nextSeq = s.nextSeq + dbCount r (dbTail b) :=
  foldl_grant _ _ _ _ _

end Sys2Proof.Machine
end

