-- ==== Sys2Proof/Laws/Stores.lean ====
section
/-! SUPPORT. Stores to host memory, and one partition, context, region, tile, counter or port after a change of another. -/
set_option Elab.async false
namespace Sys2Proof.Machine

theorem Memory.byte_storeHost_other (m : Memory) (a : Nat) (bs : Bytes) (x : Nat)
    (h : ∀ i : Nat, i < bs.length → hostAddr (a + i) ≠ x) : (m.storeHost a bs).byte x = m.byte x := by
  have hp : 0 < pow2 52 := by decide
  have hlo : hostAddr a < pow2 52 := Nat.mod_lt _ hp
  have hin : ∀ i : Nat, hostAddr a + i < pow2 52 → hostAddr (a + i) = hostAddr a + i := fun i hi => by
    unfold hostAddr at hi ⊢
    rw [Nat.add_mod, Nat.mod_eq_of_lt (a := i) (by omega), Nat.mod_eq_of_lt hi]
  have hover : ∀ i : Nat, i < pow2 52 → hostAddr (a + (pow2 52 - hostAddr a + i)) = i := fun i hi => by
    have : a + (pow2 52 - hostAddr a + i) = pow2 52 * (a / pow2 52 + 1) + i := by
      have := Nat.div_add_mod a (pow2 52)
      rw [Nat.mul_add]; unfold hostAddr at hlo ⊢; omega
    unfold hostAddr at this ⊢
    rw [this, Nat.mul_add_mod, Nat.mod_eq_of_lt hi]
  unfold Memory.storeHost
  dsimp only
  split
  · rename_i hk
    rw [Memory.byte_store, if_neg]
    rintro ⟨h1, h2⟩
    refine h (x - hostAddr a) (by omega) ?_
    rw [hin _ (by omega)]; omega
  · rename_i hk
    have hk' : pow2 52 - hostAddr a < bs.length := by omega
    have hmin : min bs.length (pow2 52 - hostAddr a) = pow2 52 - hostAddr a := by omega
    rw [hmin, Memory.byte_store, if_neg, Memory.byte_store, if_neg]
    · rintro ⟨h1, h2⟩
      rw [List.length_take] at h2
      refine h (x - hostAddr a) (by omega) ?_
      rw [hin _ (by omega)]; omega
    · rintro ⟨_, h2⟩
      rw [List.length_take, List.length_drop] at h2
      exact h (pow2 52 - hostAddr a + x) (by omega) (hover x (by omega))

/-- A store to host memory puts its bytes there and leaves every other byte. -/
theorem Memory.storeHost_storedAt (m : Memory) (a : Nat) (bs : Bytes) : StoredAt m (m.storeHost a bs) a bs :=
  ⟨fun x hx => Memory.byte_storeHost_other m a bs x hx, fun h i hi => by
    rw [Memory.byte_storeHost _ _ _ _ h, if_pos (by omega)]; congr 1; omega⟩

theorem StoredAt.nil (m : Memory) (a : Nat) : StoredAt m m a [] :=
  ⟨fun _ _ => rfl, fun _ i hi => absurd hi (Nat.not_lt_zero i)⟩

theorem State.writeRecord_mem (s : State) (q : Option Nat) (a : Nat) (bs : Bytes) :
    (s.writeRecord q a bs).mem = s.mem.storeHost a bs :=
  (Keeps.foldl (w := [.outs, .reads, .writes]) (Keeps.refl _ { s with mem := s.mem.storeHost a bs }) fun u p =>
    State.issueWrite_keeps u _ _ _ _).same .mem (by decide)

theorem State.writeDrift_storedAt (s : State) (q : Option Nat) (a : Nat) (bs : Bytes) :
    StoredAt s.mem (s.writeDrift q a bs).mem a bs := by
  unfold State.writeDrift
  split
  · rename_i h; rw [List.isEmpty_iff.1 h]; exact StoredAt.nil _ _
  · have h := (Keeps.foldl (w := [.outs, .reads, .writes]) (xs := requestPieces a bs.length)
      (f := fun (s : State) p => s.issueWrite (drfOf p.1) p.1 p.2 q)
      (Keeps.refl _ { s with mem := s.mem.storeHost a bs }) fun u p => State.issueWrite_keeps u _ _ _ _).same .mem (by decide)
    change StoredAt _ (State.mem _) _ _
    rw [h]; exact Memory.storeHost_storedAt _ _ _

/-- A command that is not cross-checked writes its result at once (R54). -/
theorem State.writeHost_storedAt (s : State) (q a : Nat) (bs : Bytes) (h : s.holdsPosts q = false) :
    StoredAt s.mem (s.writeHost q a bs).mem a bs := by
  unfold State.writeHost
  rw [h]
  exact State.writeDrift_storedAt s (some q) a bs

theorem State.part_modPart (s : State) (p : Nat) (f : Partition → Partition) (h : p < 64) :
    (s.modPart p f).part p = f (s.part p) := by simp [State.part, State.modPart, vset, h]
theorem State.part_modPart_ne (s : State) (p n : Nat) (f : Partition → Partition) (h : n ≠ p) :
    (s.modPart p f).part n = s.part n := by
  simp [State.part, State.modPart, vset, Vector.getElem?_setIfInBounds, Ne.symm h]
theorem State.ctx_modCtx (s : State) (p : Nat) (f : Ctx → Ctx) (h : p < 256) : (s.modCtx p f).ctx p = f (s.ctx p) := by
  simp [State.ctx, State.modCtx, vset, h]
theorem State.ctx_modCtx_ne (s : State) (p n : Nat) (f : Ctx → Ctx) (h : n ≠ p) : (s.modCtx p f).ctx n = s.ctx n := by
  simp [State.ctx, State.modCtx, vset, Vector.getElem?_setIfInBounds, Ne.symm h]
theorem State.region_modRegion (s : State) (p : Nat) (f : Region → Region) (h : p < 64) :
    (s.modRegion p f).region p = f (s.region p) := by simp [State.region, State.modRegion, vset, h]
theorem State.region_modRegion_ne (s : State) (p n : Nat) (f : Region → Region) (h : n ≠ p) :
    (s.modRegion p f).region n = s.region n := by
  simp [State.region, State.modRegion, vset, Vector.getElem?_setIfInBounds, Ne.symm h]
theorem State.tile_modTile (s : State) (p : Nat) (f : Tile → Tile) (h : p < 16) : (s.modTile p f).tile p = f (s.tile p) := by
  simp [State.tile, State.modTile, vset, h]
theorem State.sliceOf_modSlice (s : State) (p : Nat) (f : Slice → Slice) (h : p < 4) :
    (s.modSlice p f).sliceOf p = f (s.sliceOf p) := by simp [State.sliceOf, State.modSlice, vset, h]
theorem State.port_modPort (s : State) (p : Fin 4) (f : Port → Port) : (s.modPort p f).port p = f (s.port p) := by
  simp [State.port, State.modPort]

theorem Counter.idx_lt (c : Counter) : c.idx < 80 := by cases c <;> decide
theorem State.counter_bump (s : State) (c : Counter) (n : Nat) :
    (s.bump c n).counter c = s.counter c + BitVec.ofNat 64 n := by
  unfold State.counter State.bump
  exact vget_vset _ _ _ c.idx_lt
theorem State.counter_bump_ne (s : State) (c d : Counter) (n : Nat) (h : c.idx ≠ d.idx) :
    (s.bump c n).counter d = s.counter d := by
  unfold State.counter State.bump
  exact vget_vset_ne _ _ _ _ h

end Sys2Proof.Machine
end

