-- ==== Sys2Proof/Laws/Exchange.lean ====
section
/-! SUPPORT. What an exchange does to the figure that begins it: with its children awaited it stands still, and alone in its
tree it goes through to what follows the exchange (R216, R305, R314). -/
set_option Elab.async false
set_option maxRecDepth 4000
namespace Sys2Proof.Machine

/-- Tickets change only in the figures of ticket `q`. -/
def RunsMapped (q : Nat) (s u : State) : Prop :=
  ∃ f : Running → Running, u.tickets = s.tickets.map (fun t => if t.seq = q then { t with run := t.run.map f } else t)

theorem RunsMapped.of_tickets {q : Nat} {s u : State} (h : u.tickets = s.tickets) : RunsMapped q s u := by
  refine ⟨id, ?_⟩
  rw [h]
  symm
  rw [List.map_congr_left (g := id)]
  · simp
  · intro t _; split
    · simp
    · rfl

theorem RunsMapped.trans {q : Nat} {s u v : State} (h : RunsMapped q s u) (k : RunsMapped q u v) : RunsMapped q s v := by
  obtain ⟨f, hf⟩ := h
  obtain ⟨g, hg⟩ := k
  refine ⟨g ∘ f, ?_⟩
  rw [hg, hf, List.map_map]
  apply List.map_congr_left
  intro t _
  by_cases ht : t.seq = q <;> simp [ht]

theorem RunsMapped.modRun (q : Nat) (s : State) (f : Running → Running) : RunsMapped q s (s.modRun q f) :=
  ⟨f, by rfl⟩

theorem keyRow_tickets (s : State) (sl sm : Bool) (k : Nat × Nat) (a b : Nat) (l : List Score) :
    (s.keyRow sl sm k a b l).2.2.2.tickets = s.tickets := (State.keyRow_keeps ..).same .tickets (by decide)

theorem scoreInto_runs (s : State) (t : Ticket) (cols : List Column) (row : CastRow) (i : Nat) :
    RunsMapped t.seq s (s.scoreInto t cols row i).2.2 := by
  unfold State.scoreInto
  dsimp only
  have hk := keyRow_tickets s (s.profile.gumbelSrc == 1) (s.rowSamples t i) (s.partKey t.part) (t.stream (t.rowPos i)).id
    (t.rowStep i) (s.rowScores t cols row i).1
  split
  · refine RunsMapped.of_tickets ?_
    split <;> simpa using hk
  · unfold State.countDraws
    rw [if_neg (by assumption)]
    refine RunsMapped.trans (RunsMapped.of_tickets ?_) (RunsMapped.modRun ..)
    split <;> simpa using hk

theorem leaveTiles_tickets (s : State) (t : Ticket) (d : Desc) (m : Memory) (rows : List CastRow) :
    (s.leaveTiles t d m rows).tickets = s.tickets := (State.leaveTiles_keeps s t d m rows).same .tickets (by decide)

theorem scoreAll_runs (s : State) (t : Ticket) : RunsMapped t.seq s (s.scoreAll t).2.2.2 := by
  unfold State.scoreAll
  dsimp only
  have h0 : ∀ cols n, RunsMapped t.seq s (((s.countClamps n).countBeyond cols).1) := fun cols n =>
    RunsMapped.of_tickets (by unfold State.countBeyond State.countClamps; dsimp only; split <;> split <;> simp)
  generalize (s.shard t).1.cols (s.shard t).2 = cols
  generalize s.castRows t = cr
  have h1 := h0 cols cr.clamps
  generalize ((s.countClamps cr.clamps).countBeyond cols) = z at h1
  obtain ⟨s1, fl⟩ := z
  dsimp only at h1 ⊢
  refine RunsMapped.trans ?_ (RunsMapped.of_tickets (leaveTiles_tickets ..))
  generalize cr.rows.zip (upto cr.rows.length) = l
  suffices h : ∀ (a : List (List Score)) (b : U16) (st : State), RunsMapped t.seq s st →
      RunsMapped t.seq s (l.foldl (fun (acc : List (List Score) × U16 × State) e =>
        (acc.1 ++ [(acc.2.2.scoreInto t cols e.1 e.2).1], acc.2.1 ||| (acc.2.2.scoreInto t cols e.1 e.2).2.1,
          (acc.2.2.scoreInto t cols e.1 e.2).2.2)) (a, b, st)).2.2 from h _ _ _ h1
  induction l with
  | nil => intro a b st h; exact h
  | cons x l ih => intro a b st h; exact ih _ _ _ (h.trans (scoreInto_runs ..))

theorem insertBy_mem {α : Type} (lt : α → α → Bool) (a x : α) (l : List α) : x ∈ insertBy lt a l ↔ x = a ∨ x ∈ l := by
  induction l with
  | nil => simp [insertBy]
  | cons b l ih =>
    unfold insertBy
    split
    · rw [List.mem_cons, ih, List.mem_cons]; tauto
    · simp
theorem sortBy_mem {α : Type} (lt : α → α → Bool) (x : α) (l : List α) : x ∈ sortBy lt l ↔ x ∈ l := by
  induction l with
  | nil => rfl
  | cons a l ih => rw [List.mem_cons, ← ih]; exact insertBy_mem ..
theorem RunsMapped.alone {q : Nat} {s u : State} (h : RunsMapped q s u) (ha : ∀ x ∈ s.tickets, x.seq = q ∨ x.run = none) :
    ∀ x ∈ u.tickets, x.seq = q ∨ x.run = none := by
  obtain ⟨f, hf⟩ := h
  rw [hf]
  intro x hx
  obtain ⟨y, hy, rfl⟩ := List.mem_map.1 hx
  rcases ha y hy with h | h
  · left; split <;> exact h
  · right; split
    · simp [h]
    · exact h

theorem RunsMapped.launched {q : Nat} {s u : State} {t : Ticket} {r : Running} (h : RunsMapped q s u) (hl : s.launched q = some (t, r)) :
    ∃ r', u.launched q = some ({ t with run := some r' }, r') := by
  obtain ⟨f, hf⟩ := h
  have : u.launched q = (s.modRun q f).launched q := State.launched_congr (by
    rw [hf]; rfl) q
  exact ⟨f r, this.trans (State.launched_modRun f hl)⟩

theorem RunsMapped.trans' {q : Nat} {s u v : State} (h : RunsMapped q s u) (k : v.tickets = u.tickets) : RunsMapped q s v :=
  h.trans (RunsMapped.of_tickets k)

theorem Quiet.mapped {s u : State} {q : Nat} (h : Quiet s q) (k : RunsMapped q s u) (hs : u.settings = s.settings) (hp : u.ports = s.ports) :
    Quiet u q := by
  have hk : u.childPorts = s.childPorts := by unfold State.childPorts; rw [hs]
  have ho : ∀ p, u.port p = s.port p := fun p => by unfold State.port; rw [hp]
  exact ⟨by rw [hs]; exact h.depth, by rw [hk]; exact h.kids, by rw [hk]; intro p hp; rw [ho]; exact h.up p hp,
    by intro p; rw [ho]; exact h.queues p, k.alone h.alone⟩

theorem pumpAll_none (n : Nat) (s : State) (h : s.pumpOne = none) : State.pumpAll n s = s := by
  cases n with
  | zero => rfl
  | succ n => simp only [State.pumpAll, h]

/-- A figure whose exchange awaits its children stands still: nothing is left to pump. -/
theorem exch_awaits {s v : State} {q kind : Nat} {t : Ticket} {r : Running} (hq : Quiet s q) (hl : s.launched q = some (t, r))
    (he : ∃ e : Exch, v = s.modRun q (fun r => { r with phase := .exchanging, exch := some e, holding := false }) ∧
      e.kind = kind ∧ e.segment = 0 ∧ e.down = 0 ∧ e.need = s.childPorts ∧ 0 < e.segments) :
    v.pump = v ∧ AwaitsChildren v q t kind := by
  obtain ⟨e, he, h1, h2, h3, h4, h5⟩ := he
  rw [he]
  generalize hu : s.modRun q (fun r => { r with phase := .exchanging, exch := some e, holding := false }) = u
  have hm : RunsMapped q s u := hu ▸ RunsMapped.modRun ..
  have hQ : Quiet u q := hq.mapped hm (by rw [← hu]; rfl) (by rw [← hu]; rfl)
  have hL := State.launched_modRun (fun r => { r with phase := .exchanging, exch := some e, holding := false }) hl
  rw [hu] at hL
  have hcp : u.childPorts = s.childPorts := by rw [← hu]; rfl
  refine ⟨?_, _, _, e, hL, rfl, rfl, rfl, rfl, h1, h2, h3, by rw [hcp, h4]⟩
  refine pumpAll_none _ _ ?_
  have hpt : ∀ p, u.takeFrame p = none := by
    intro p; unfold State.takeFrame; rw [hQ.queues p]
  have hst : ∀ (x : Ticket) (r : Running), r.exch = some e → u.exchStep x r = none := by
    intro x r hr
    unfold State.exchStep
    rw [hr]; dsimp only
    have hll : u.linkLost e = false := by
      unfold State.linkLost State.awaited Exch.merging Exch.descending
      simp only [h2, h3, h4, h5, decide_true, if_true, Nat.lt_irrefl, decide_false, Bool.false_eq_true, if_false, List.append_nil]
      rw [List.any_eq_false]
      intro p hp
      have := hQ.up p (by rw [hcp]; exact hp)
      simp [this]
    split
    · rfl
    · rw [hll]
      have hne : e.need.isEmpty = false := by rw [h4]; simpa using hq.kids
      have hres : e.result = none := by unfold Exch.result; rw [if_neg (by omega)]
      simp [hne, hres]
  unfold State.pumpOne
  have hruns : (sortBy runsBefore (u.tickets.filter Ticket.running)).filterMap (fun t => t.run.bind (u.exchStep t)) = [] := by
    rw [List.filterMap_eq_nil_iff]
    intro x hx
    have hx' : x ∈ u.tickets := by
      have := (sortBy_mem _ _ _).1 hx
      exact (List.mem_filter.1 this).1
    have hx2 : x ∈ s.tickets.map (fun t => if t.seq = q then { t with run := t.run.map (fun r => { r with phase := .exchanging, exch := some e, holding := false }) } else t) := by
      have := hx'
      rw [← hu] at this
      simpa [State.modRun, State.modTicket_tickets] using this
    obtain ⟨y, hy, rfl⟩ := List.mem_map.1 hx2
    rcases hq.alone y hy with h | h
    · rw [if_pos h]
      cases hr : y.run with
      | none => simp
      | some r0 => simpa using hst _ _ rfl
    · split <;> simp [h]
  rw [hruns]
  simp [hpt]

theorem startExch_awaits {s : State} {q kind g t0 slot : Nat} {t : Ticket} {r : Running} {own : Payload} (hq : Quiet s q)
    (hl : s.launched q = some (t, r)) :
    (s.startExch q kind g t0 slot own).pump = s.startExch q kind g t0 slot own ∧
    AwaitsChildren (s.startExch q kind g t0 slot own) q t kind :=
  exch_awaits hq hl ⟨_, rfl, rfl, rfl, rfl, if_neg hq.depth, Nat.one_pos⟩

theorem startWords_awaits {s : State} {q slot : Nat} {t : Ticket} {r : Running} {parts : List (Nat × Nat)} {own : List LWord}
    (hq : Quiet s q) (hl : s.launched q = some (t, r))
    (hp : 0 < (parts.foldl (fun (l : List (Nat × Nat)) p => segmentsFrom s.segmentWords slot l p.1 p.2) []).length) :
    (s.startWords q slot parts own).pump = s.startWords q slot parts own ∧
    AwaitsChildren (s.startWords q slot parts own) q t exWords :=
  exch_awaits hq hl ⟨_, rfl, rfl, rfl, rfl, if_neg hq.depth, hp⟩

theorem seqOf {s : State} {q : Nat} {t : Ticket} {r : Running} (h : s.launched q = some (t, r)) : t.seq = q ∧ t ∈ s.tickets ∧ t.run = some r ∧ t.ended = none := by
  unfold State.launched State.ticket at h
  split at h
  · rename_i x hx
    split at h
    · rename_i h1 h2
      cases h
      have := List.find?_some hx
      exact ⟨by simpa using this, List.mem_of_find?_eq_some hx, h1, h2⟩
    · cases h
  · cases h

theorem RunsMapped.lone {s u : State} {t : Ticket} {r : Running} (h : RunsMapped t.seq s u) (hl : s.launched t.seq = some (t, r))
    (ha : Lone s t) (hs : u.settings = s.settings) (hp : ∀ p, (u.port p).rxq = (s.port p).rxq) :
    ∃ r', u.launched t.seq = some ({ t with run := some r' }, r') ∧ Lone u { t with run := some r' } := by
  obtain ⟨f, hf⟩ := h
  obtain ⟨_, _, hr, _⟩ := seqOf hl
  have h9 : u.launched t.seq = (s.modRun t.seq f).launched t.seq := State.launched_congr (by rw [hf]; rfl) _
  refine ⟨f r, h9.trans (State.launched_modRun f hl), by rw [hs]; exact ha.depth, by intro p; rw [hp]; exact ha.queues p, ?_⟩
  rw [hf]
  intro x hx
  obtain ⟨y, hy, rfl⟩ := List.mem_map.1 hx
  rcases ha.alone y hy with h | h
  · left; subst h; simp [hr]
  · right; split
    · simp [h]
    · exact h

/-- With one figure and empty queues, the pump takes the steps of its exchange. -/
theorem Lone.pumpOne {s : State} {t : Ticket} {r : Running} (ha : Lone s t) (hl : s.launched t.seq = some (t, r)) :
    s.pumpOne = s.exchStep t r := by
  obtain ⟨_, hm, hr, he⟩ := seqOf hl
  have hpt : ∀ p, s.takeFrame p = none := by
    intro p; unfold State.takeFrame; rw [ha.queues p]
  unfold State.pumpOne
  have hall : ∀ x ∈ sortBy runsBefore (s.tickets.filter Ticket.running), x = t := by
    intro x hx
    have h1 := List.mem_filter.1 ((sortBy_mem _ _ _).1 hx)
    rcases ha.alone x h1.1 with h | h
    · exact h
    · have := h1.2; unfold Ticket.running at this; rw [h] at this; simp at this
  have hmem : t ∈ sortBy runsBefore (s.tickets.filter Ticket.running) := by
    rw [sortBy_mem, List.mem_filter]
    exact ⟨hm, by unfold Ticket.running; rw [hr, he]; rfl⟩
  generalize sortBy runsBefore (s.tickets.filter Ticket.running) = l at hall hmem
  have key : ∀ l : List Ticket, (∀ x ∈ l, x = t) → l.filterMap (fun t => t.run.bind (s.exchStep t)) = (l.filterMap fun _ => s.exchStep t r) := by
    intro l h
    induction l with
    | nil => rfl
    | cons x l ih =>
      have hx := h x List.mem_cons_self
      subst hx
      rw [List.filterMap_cons, List.filterMap_cons, ih (fun y hy => h y (List.mem_cons_of_mem _ hy)), hr]
      rfl
  rw [key l hall]
  cases hs : s.exchStep t r with
  | none => simp [hpt]
  | some u =>
    cases l with
    | nil => simp at hmem
    | cons x l => simp

theorem pumpAll_some (n : Nat) (s u : State) (h : s.pumpOne = some u) : State.pumpAll (n + 1) s = State.pumpAll n u := by
  simp only [State.pumpAll, h]

theorem Lone.pump {s : State} {t : Ticket} {r : Running} {kind g t0 slot : Nat} {own : Payload} (ha : Lone s t)
    (hl : s.launched t.seq = some (t, r)) (ho : ∀ l, own ≠ .words l) :
    ∃ (v : State) (r' : Running) (e : Exch) (f : Running → Running), v = s.modRun t.seq f ∧
      v.launched t.seq = some ({ t with run := some r' }, r') ∧ Lone v { t with run := some r' } ∧ r'.rows = r.rows ∧
      r'.result = r.result ∧ e.missing = false ∧ ∀ (u : State) (t2 : Ticket) (r2 : Running), v.exchDone { t with run := some r' } r' e own = u →
        t2.seq = t.seq → u.launched t.seq = some (t2, r2) → Lone u t2 → r2.exch = none ∧ r2.phase ≠ .exchanging → (s.startExch t.seq kind g t0 slot own).pump = u := by
  obtain ⟨e, he, h2, h3, h4, h5, h6, h7⟩ : ∃ e : Exch, s.startExch t.seq kind g t0 slot own =
      s.modRun t.seq (fun r => { r with phase := .exchanging, exch := some e, holding := false }) ∧ e.segment = 0 ∧ e.down = 0 ∧
      e.need = [] ∧ e.segments = 1 ∧ e.acc = own ∧ e.missing = false := by
    exact ⟨_, rfl, rfl, rfl, if_pos ha.depth, rfl, rfl, rfl⟩
  rw [he]
  generalize hg : (fun r : Running => { r with phase := .exchanging, exch := some e, holding := false }) = g1
  obtain ⟨r1, hL1, hQ1⟩ := (RunsMapped.modRun t.seq s g1).lone hl ha rfl (fun _ => rfl)
  have hr1 : r1 = g1 r := by
    have := State.launched_modRun g1 hl
    rw [hL1] at this; simp only [Option.some.injEq, Prod.mk.injEq] at this; exact this.2
  generalize hw : s.modRun t.seq g1 = w at hL1 hQ1
  have hwd : w.settings.depth = 0 := hQ1.depth
  let e1 : Exch := { e with segment := 1, waited := 0, stalled := false, stallCount := 0, acc := own, down := 1 }
  have hcl : w.closeSegment { t with run := some r1 } e = w.modRun t.seq (fun r => { r with exch := some e1 }) := by
    have hns : ∀ x : State, (x.nextSegment e).keep e.acc = e1 := by
      intro x
      unfold State.nextSegment
      have : ({ e with segment := e.segment + 1, waited := 0, stalled := false, stallCount := 0 } : Exch).merging = false := by
        unfold Exch.merging; simp [h2, h5]
      simp only [this]
      rw [h6]
      unfold Exch.keep
      cases own with
      | words l => exact absurd rfl (ho l)
      | rows l => simp [e1, h2, h3]
      | gather l => simp [e1, h2, h3]
      | tops l => simp [e1, h2, h3]
    have hsd : w.sendDown { t with run := some r1 } e e.segment e.missing e.acc = w := by
      unfold State.sendDown; dsimp only; rw [if_pos hwd]
    unfold State.closeSegment
    dsimp only
    cases w.parentPort with
    | none => dsimp only; rw [hsd, hns]
    | some p => dsimp only; rw [if_pos hwd, hns]
  have hex1 : r1.exch = some e ∧ r1.phase = .exchanging := by rw [hr1, ← hg]; exact ⟨rfl, rfl⟩
  have hstep1 : w.exchStep { t with run := some r1 } r1 = some (w.modRun t.seq (fun r => { r with exch := some e1 })) := by
    unfold State.exchStep
    rw [hex1.1]; dsimp only
    have hll : w.linkLost e = false := by
      unfold State.linkLost State.awaited Exch.merging Exch.descending; simp [h2, h3, h4, h5]
    have hm : e.merging = true := by unfold Exch.merging; simp [h2, h5]
    rw [hll, hcl]
    simp [hex1.2, hm, h4]
  have hp1 : w.pumpOne = some (w.modRun t.seq (fun r => { r with exch := some e1 })) := by
    rw [← hstep1]; exact hQ1.pumpOne hL1
  obtain ⟨r2, hL2, hQ2⟩ := (RunsMapped.modRun t.seq w (fun r => { r with exch := some e1 })).lone (t := { t with run := some r1 }) hL1 hQ1 rfl (fun _ => rfl)
  have hr2 : r2 = { r1 with exch := some e1 } := by
    have := State.launched_modRun (fun r => { r with exch := some e1 }) hL1
    rw [hL2] at this; simp only [Option.some.injEq, Prod.mk.injEq] at this; exact this.2
  generalize hv : w.modRun t.seq (fun r => { r with exch := some e1 }) = v at hp1 hL2 hQ2
  have hstep2 : v.exchStep { t with run := some r2 } r2 = some (v.exchDone { t with run := some r2 } r2 e1 own) := by
    unfold State.exchStep
    rw [hr2]; dsimp only
    have hll : v.linkLost e1 = false := by
      unfold State.linkLost State.awaited Exch.merging Exch.descending; simp [e1, h4, h5]
    have hm : e1.merging = false := by unfold Exch.merging; simp [e1, h5]
    have hres : e1.result = some own := by
      unfold Exch.result
      rw [if_pos (by simp [e1, h5])]
      cases own with
      | words l => exact absurd rfl (ho l)
      | _ => rfl
    rw [hll]
    simp [hex1.2, hm, hres]
  refine ⟨v, r2, e1, (fun r => { r with exch := some e1 }) ∘ g1, ?_, hL2, hQ2, by rw [hr2, hr1, ← hg], by rw [hr2, hr1, ← hg], h7, ?_⟩
  · rw [← hv, ← hw]
    simp only [State.modRun, State.modTicket]
    congr 1
    rw [List.map_map]
    apply List.map_congr_left
    intro x _
    by_cases h : x.seq = t.seq <;> simp [h]
  · intro u t2 r3 hu hseq hl3 ha3 hn
    have hp2 : v.pumpOne = some u := by
      rw [← hu, ← hstep2]; exact hQ2.pumpOne hL2
    have hp3 : u.pumpOne = none := by
      rw [ha3.pumpOne (by rw [hseq]; exact hl3)]
      unfold State.exchStep State.passStep; rw [hn.1]; dsimp only; rw [if_pos (by simpa using hn.2)]
    show State.pumpAll pumpFuel w = u
    have : pumpFuel = (0xFFFFFE + 1) + 1 := rfl
    rw [this, pumpAll_some _ _ _ hp1, pumpAll_some _ _ _ hp2]
    exact pumpAll_none _ _ hp3
theorem of_keeps {q : Nat} {w : List Fld} {s u : State} (h : Keeps w s u) (hw : Fld.tickets ∉ w) : RunsMapped q s u :=
  RunsMapped.of_tickets (h.same .tickets hw)

theorem foldl_runs {α : Type} {q : Nat} (f : State → α → State) (h : ∀ s a, RunsMapped q s (f s a)) (l : List α) (s : State) :
    RunsMapped q s (l.foldl f s) := by
  induction l generalizing s with
  | nil => exact RunsMapped.of_tickets rfl
  | cons a l ih => exact (h s a).trans (ih _)

theorem countWithout_runs (q n : Nat) (s : State) : RunsMapped q s (s.countWithout q n) := by
  unfold State.countWithout; split
  · exact RunsMapped.of_tickets rfl
  · exact (of_keeps (State.bump_keeps ..) (by decide)).trans (RunsMapped.modRun ..)

theorem writeHost_runs (q a : Nat) (bs : Bytes) (s : State) : RunsMapped q s (s.writeHost q a bs) := by
  unfold State.writeHost
  split
  · exact RunsMapped.modRun ..
  · exact of_keeps (State.writeNoted_keeps ..) (by decide)

theorem sendAct_runs (q : Nat) (bs : Bytes) (s : State) : RunsMapped q s (s.sendAct q bs) := by
  unfold State.sendAct
  split
  · exact RunsMapped.modRun ..
  · exact of_keeps (State.emit_keeps ..) (by decide)

theorem putElem_runs (q a sz b : Nat) (c : Bool) (s : State) : RunsMapped q s (s.putElem q a sz b c) := by
  unfold State.putElem
  split
  · exact (of_keeps (State.openBytes_keeps ..) (by decide)).trans (writeHost_runs ..)
  · exact writeHost_runs ..

theorem putElems_runs (q a sz : Nat) (l : List Nat) (o : List (Nat × Nat)) (s : State) :
    RunsMapped q s (s.putElems q a sz l o) := by
  unfold State.putElems
  dsimp only
  split
  · exact writeHost_runs ..
  · exact foldl_runs _ (fun s e => putElem_runs ..) _ _

theorem addFlags_runs (q : Nat) (fl : U16) (s : State) : RunsMapped q s (s.addFlags q fl) := RunsMapped.modRun ..

theorem settleToken_runs (q c u : Nat) (s : State) : RunsMapped q s (s.settleToken q c u) := by
  unfold State.settleToken; dsimp only; split
  · exact RunsMapped.of_tickets rfl
  · split
    · exact (RunsMapped.of_tickets (by simp)).trans (addFlags_runs ..)
    · exact RunsMapped.of_tickets (by simp)

theorem markSettled_runs (q c n : Nat) (s : State) : RunsMapped q s (s.markSettled c n) := RunsMapped.of_tickets rfl

theorem settleOne_runs (t : Ticket) (x : SelRow) (s : State) : RunsMapped t.seq s (s.settleOne t x) := by
  have core : ∀ (s1 : State) (rec : ResultRec) (w : List Nat) (n : Nat) (c : Prop) [Decidable c], RunsMapped t.seq s s1 →
      RunsMapped t.seq s ((((if c then s1.putResult t rec else (s1.putResult t rec).putLogProbs t x.pos w).countWithout t.seq
        n)).markSettled x.ctx t.stepValue) := by
    intro s1 rec w n c _ h1
    refine ((h1.trans ?_).trans (countWithout_runs ..)).trans (markSettled_runs ..)
    split
    · exact writeHost_runs ..
    · exact (writeHost_runs ..).trans (writeHost_runs ..)
  unfold State.settleOne; dsimp only
  generalize s.rowOut t x = o
  cases o.token with
  | none => exact core _ _ _ _ _ (RunsMapped.of_tickets rfl)
  | some k => exact core _ _ _ _ _ ((RunsMapped.of_tickets (by simp [State.advanceStep])).trans (settleToken_runs ..))

/-- Every figure of the ticket is finished with its result, and no other field of the tickets or the receive queues changed. -/
theorem settleRows_finished {s : State} {t : Ticket} {r : Running} (hl : s.launched t.seq = some (t, r)) :
    ∃ res, Finished (s.settleRows t r) t.seq t res := by
  unfold State.settleRows; dsimp only
  obtain ⟨r', h'⟩ := (foldl_runs (fun (s : State) x => s.settleOne t x) (fun s x => settleOne_runs t x s) r.rows s).launched hl
  obtain ⟨t2, r2, a, b, c, d, e⟩ := State.finishWith_finished (fun res => { res with
    digests := s.stepDigests t r.rows, rows := r.rows.length, notOk := countNotOk ((r.rows.map (s.rowOut t)).map RowOut.status) }) h'
  exact ⟨_, t2, r2, a, b, c, d, e⟩

theorem rxq_modPort (s : State) (p p' : Fin 4) (f : Port → Port) (hf : ∀ pt, (f pt).rxq = pt.rxq) :
    ((s.modPort p f).port p').rxq = (s.port p').rxq := by
  by_cases h : p = p'
  · subst h; rw [State.port_modPort]; exact hf _
  · have : p.val ≠ p'.val := fun h' => h (Fin.ext h')
    unfold State.port State.modPort
    simp [this]

theorem putFrame_rxq (s : State) (p p' : Fin 4) (f : Frame) : ((s.putFrame p f).port p').rxq = (s.port p').rxq := by
  unfold State.putFrame; dsimp only; split
  · rfl
  · have h1 : ∀ (u : State) a b, ((u.emit a b).port p') = u.port p' := fun u a b => by
      unfold State.port; rw [(State.emit_keeps u a b).same .ports (by decide)]
    rw [h1]; exact rxq_modPort _ _ _ _ (fun _ => rfl)

theorem sendNow_rxq (s : State) (p p' : Fin 4) (f : Frame) : ((s.sendCreditedNow p f).port p').rxq = (s.port p').rxq := by
  unfold State.sendCreditedNow; dsimp only
  rw [putFrame_rxq]
  have h1 : ∀ (u : State) a b, ((u.bump a b).port p') = u.port p' := fun u a b => rfl
  rw [h1]; exact rxq_modPort _ _ _ _ (fun _ => rfl)

theorem flush_rxq (n : Nat) (p p' : Fin 4) (s : State) : ((State.flushBacklog n p s).port p').rxq = (s.port p').rxq := by
  induction n generalizing s with
  | zero => rfl
  | succ n ih =>
    unfold State.flushBacklog; split
    · rfl
    · split
      · rfl
      · rw [ih, sendNow_rxq]; exact rxq_modPort _ _ _ _ (fun _ => rfl)

theorem sendCredited_rxq (s : State) (p p' : Fin 4) (f : Frame) : ((s.sendCredited p f).port p').rxq = (s.port p').rxq := by
  unfold State.sendCredited; dsimp only
  rw [flush_rxq]; exact rxq_modPort _ _ _ _ (fun _ => rfl)

theorem finishWith_lone {s : State} {t : Ticket} {r : Running} (f : Result → Result) (hl : s.launched t.seq = some (t, r)) (ha : Lone s t) :
    ∃ r', (s.finishWith t.seq f).launched t.seq = some ({ t with run := some r' }, r') ∧ Lone (s.finishWith t.seq f) { t with run := some r' } ∧
      (r'.exch = none ∧ r'.phase ≠ .exchanging) := by
  have hm : RunsMapped t.seq s (s.finishWith t.seq f) ∧ (s.finishWith t.seq f).settings = s.settings ∧
      (∀ p, ((s.finishWith t.seq f).port p).rxq = (s.port p).rxq) := by
    have hset : (s.finishWith t.seq f).settings = s.settings := (State.finishWith_keeps ..).same .settings (by decide)
    refine ⟨?_, hset, ?_⟩
    · unfold State.finishWith State.finishRun
      dsimp only
      split
      · exact RunsMapped.modRun ..
      · split
        · exact (RunsMapped.modRun ..).trans ((RunsMapped.modRun ..).trans (of_keeps (State.sendCredited_keeps ..) (by decide)))
        · exact (RunsMapped.modRun ..).trans (RunsMapped.modRun ..)
    · intro p
      unfold State.finishWith State.finishRun
      dsimp only
      split
      · rfl
      · split
        · rw [sendCredited_rxq]; rfl
        · rfl
  obtain ⟨r', h1, h2⟩ := hm.1.lone hl ha hm.2.1 hm.2.2
  refine ⟨r', h1, h2, ?_⟩
  have h3 := State.launched_modRun (fun r => { r with result := f r.result }) hl
  have h4 : ∃ r2, (s.finishWith t.seq f).launched t.seq = some ({ t with run := some r2 }, r2) ∧ r2.exch = none ∧ r2.phase ≠ .exchanging := by
    unfold State.finishWith State.finishRun
    rw [h3]
    dsimp only
    split
    · have h5 := State.launched_modRun (fun r => { r with phase := .checking, exch := none, holding := false, checkWaited := 0 }) h3
      exact ⟨_, (State.launched_congr ((State.sendCredited_keeps ..).same .tickets (by decide)) _).trans h5, rfl, fun h => by cases h⟩
    · have h5 := State.launched_modRun (fun r => { r with phase := .finished, exch := none, holding := false }) h3
      exact ⟨_, h5, rfl, fun h => by cases h⟩
  obtain ⟨r2, h5, h6⟩ := h4
  rw [h1] at h5
  simp only [Option.some.injEq, Prod.mk.injEq] at h5
  rw [h5.2]; exact h6

theorem AwaitsChildren.key {u : State} {q : Nat} {t t1 : Ticket} {kind : Nat} (h : AwaitsChildren u q t1 kind) (hk : t1.key = t.key)
    (hc : t1.cmd = t.cmd) : AwaitsChildren u q t kind := by
  obtain ⟨t', r', e, a, b, c, d⟩ := h
  exact ⟨t', r', e, a, b.trans hk, c.trans hc, d⟩

theorem startExch_offers {s : State} {q kind g t0 slot : Nat} {t : Ticket} {r : Running} {own : Payload}
    (hl : s.launched q = some (t, r)) (ho : ∀ l, own ≠ .words l) : Offers (s.startExch q kind g t0 slot own) q own := by
  unfold State.startExch
  dsimp only
  refine ⟨_, _, _, State.launched_modRun _ hl, rfl, ?_⟩
  cases own with
  | words l => exact absurd rfl (ho l)
  | _ => rfl

theorem startRound1_awaits {s : State} {q : Nat} {t : Ticket} {r r' : Running} {t1 : Ticket} (hs : t.seq = q) (hq : Quiet s q)
    (hl : s.launched q = some (t1, r')) (hk : t1.key = t.key) (hc : t1.cmd = t.cmd) :
    (s.startRound1 t r).pump = s.startRound1 t r ∧ AwaitsChildren (s.startRound1 t r) q t exRound1 ∧
    Offers (s.startRound1 t r) q
      (.rows ((upto ((s.startRound1 t r).rowCount t)).map (fun i => ((s.startRound1 t r).ctx (t.rowSum i)).summary.row))) := by
  unfold State.startRound1
  subst hs
  dsimp only
  have hm : RunsMapped t.seq s (s.modRun t.seq (fun r => { r with rows := (upto (s.rowCount t)).map (s.selRow t) })) := RunsMapped.modRun ..
  have hQ := hq.mapped hm rfl rfl
  have hL := State.launched_modRun (fun r => { r with rows := (upto (s.rowCount t)).map (s.selRow t) }) hl
  have h := fun g t0 slot own => startExch_awaits (kind := exRound1) (g := g) (t0 := t0) (slot := slot) (own := own) hQ hL
  refine ⟨(h _ _ _ _).1, (h _ _ _ _).2.key hk hc, ?_⟩
  have ho := startExch_offers (kind := exRound1) (g := 0) (t0 := s.round1At t r) (slot := s.slotOf (s.round1Stretch r)) hL
    (own := .rows (((upto (s.rowCount t)).map (s.selRow t)).map SelRow.merged)) (by simp)
  rw [List.map_map] at ho ⊢
  exact ho

theorem markSleet_tickets (s : State) (t : Ticket) : (s.markSleet t).tickets = s.tickets :=
  (State.markSleet_keeps s t).same .tickets (by decide)

theorem doSelect_begins {s : State} {q : Nat} {t : Ticket} {r : Running} (hq : Quiet s q) (hl : s.launched q = some (t, r)) :
    BeginsRound1 (s.doSelect t r) q t ∧ Keeps [.counters, .ctxs, .free, .tickets, .tiles] s (s.doSelect t r) := by
  have hs := (seqOf hl).1
  subst hs
  unfold State.doSelect
  dsimp only
  have hk := Keeps.by (State.markSleet_keeps ((s.scoreAll t).2.2.2.addFlags t.seq (s.scoreAll t).2.2.1) t) (by decide)
    (Keeps.by (State.addFlags_keeps (s.scoreAll t).2.2.2 t.seq (s.scoreAll t).2.2.1) (by decide) (State.scoreAll_keeps s t))
  have hm := ((scoreAll_runs s t).trans (addFlags_runs t.seq (s.scoreAll t).2.2.1 (s.scoreAll t).2.2.2)).trans'
    (markSleet_tickets _ t)
  generalize ((s.scoreAll t).2.2.2.addFlags t.seq (s.scoreAll t).2.2.1).markSleet t = x at hk hm
  have hQ := hq.mapped hm (hk.same .settings (by decide)) (hk.same .ports (by decide))
  obtain ⟨r', hL⟩ := hm.launched hl
  have h := startRound1_awaits (r := r) rfl hQ hL rfl rfl
  rw [h.1]
  exact ⟨h.2, Keeps.by (State.startRound1_keeps ..) (by decide) hk⟩

theorem settle_begins {s : State} {q : Nat} {t : Ticket} {r : Running} (hq : Quiet s q) (hl : s.launched q = some (t, r)) :
    BeginsRound1 ((s.markSleet t).startRound1 t r).pump q t ∧ Keeps [.ctxs, .tickets] s ((s.markSleet t).startRound1 t r).pump := by
  have hk := State.markSleet_keeps s t
  have hm : RunsMapped q s (s.markSleet t) := RunsMapped.of_tickets (markSleet_tickets s t)
  have hQ := hq.mapped hm (hk.same .settings (by decide)) (hk.same .ports (by decide))
  obtain ⟨r', hL⟩ := hm.launched hl
  have h := startRound1_awaits (r := r) (seqOf hl).1 hQ hL rfl rfl
  rw [h.1]
  exact ⟨h.2, Keeps.by (State.startRound1_keeps ..) (by decide) (hk.mono (by decide))⟩

theorem trainScores_tickets (s : State) (t : Ticket) : (s.trainScores t).2.2.tickets = s.tickets :=
  (State.trainScores_keeps s t).same .tickets (by decide)

theorem lossScore_begins {s : State} {q : Nat} {t : Ticket} {r : Running} (hq : Quiet s q) (hl : s.launched q = some (t, r)) :
    AwaitsChildren (s.lossScore t r).pump q t exRound1 ∧ Keeps [.counters, .ctxs, .tickets, .tiles] s (s.lossScore t r).pump := by
  have hs := (seqOf hl).1
  subst hs
  have hS := State.lossScore_keeps s t r
  unfold State.lossScore at hS ⊢
  dsimp only at hS ⊢
  have hfold : ∀ (l : List ((RowSum × Nat) × Nat)) (x : State), (l.foldl (fun (s : State) e =>
      s.modCtx (t.b 0x9C + e.2) (fun c => { c with summary := e.1.1 })) x).tickets = x.tickets ∧
      (l.foldl (fun (s : State) e => s.modCtx (t.b 0x9C + e.2) (fun c => { c with summary := e.1.1 })) x).settings = x.settings ∧
      (l.foldl (fun (s : State) e => s.modCtx (t.b 0x9C + e.2) (fun c => { c with summary := e.1.1 })) x).ports = x.ports := by
    intro l
    induction l with
    | nil => intro x; exact ⟨rfl, rfl, rfl⟩
    | cons e l ih => intro x; exact ih _
  have hk := State.trainScores_keeps s t
  have hp0 : (s.trainScores t).2.2.ports = s.ports := hk.same .ports (by decide)
  have hs0 : (s.trainScores t).2.2.settings = s.settings := hk.same .settings (by decide)
  have ht0 : (s.trainScores t).2.2.tickets = s.tickets := hk.same .tickets (by decide)
  generalize (s.trainScores t).2.2 = s1 at hp0 hs0 ht0 hS ⊢
  generalize hsm : ((s.trainScores t).1.zip (upto (s.trainScores t).1.length)).map (fun e => s.lossSummary t e.2 e.1.1 e.1.2) = sums at hS ⊢
  have hf := hfold (sums.zip (upto sums.length)) s1
  generalize (sums.zip (upto sums.length)).foldl (fun (s : State) e =>
    s.modCtx (t.b 0x9C + e.2) (fun c => { c with summary := e.1.1 })) s1 = s2 at hf hS ⊢
  have hx : ∀ n : Nat, ((if n = 0 then s2 else s2.bump .ladderClamps n)).tickets = s.tickets ∧
      ((if n = 0 then s2 else s2.bump .ladderClamps n)).settings = s.settings ∧ ((if n = 0 then s2 else s2.bump .ladderClamps n)).ports = s.ports := by
    intro n; split
    · exact ⟨hf.1.trans ht0, hf.2.1.trans hs0, hf.2.2.trans hp0⟩
    · exact ⟨hf.1.trans ht0, hf.2.1.trans hs0, hf.2.2.trans hp0⟩
  have hy := hx (sumNat (sums.map Prod.snd))
  generalize (if sumNat (sums.map Prod.snd) = 0 then s2 else s2.bump .ladderClamps (sumNat (sums.map Prod.snd))) = s3 at hy hS ⊢
  have hm : RunsMapped t.seq s (s3.addFlags t.seq (s.trainScores t).2.1) := (RunsMapped.of_tickets hy.1).trans (addFlags_runs ..)
  have hQ := hq.mapped hm hy.2.1 hy.2.2
  obtain ⟨r', hL⟩ := hm.launched hl
  have h := startExch_awaits (kind := exRound1) (g := 0) (t0 := s.round1At t r) (slot := s.slotOf (s.round1Stretch r)) hQ hL
    (own := .rows (sums.map (fun e => e.1.row)))
  rw [h.1]
  exact ⟨h.2.key rfl rfl, hS⟩

theorem reduce_begins {s : State} {q : Nat} {t : Ticket} {r : Running} (hq : Quiet s q) (hl : s.launched q = some (t, r)) :
    AwaitsChildren (s.doReduce t r).pump q t exTops ∧ Offers (s.doReduce t r).pump q (.tops (s.reduceTops t)) ∧
    Keeps [.tickets] s (s.doReduce t r).pump := by
  have hs := (seqOf hl).1
  subst hs
  have hk := State.doReduce_keeps s t r
  unfold State.doReduce at hk ⊢
  have h := startExch_awaits (kind := exTops) (g := 0) (t0 := s.reduceAt r) (slot := s.slotOf (s.stretch (2 * t.inT.size 1))) hq hl
    (own := .tops (s.reduceTops t))
  rw [h.1]
  exact ⟨h.2, startExch_offers hl (by simp), hk⟩

theorem settleR_runs {q : Nat} {s : State} (a : Rounded) (h : RunsMapped q s a.st) : RunsMapped q s (a.settle q) := by
  unfold Rounded.settle State.countDraws
  refine RunsMapped.trans ?_ (addFlags_runs ..)
  split
  · exact h
  · exact h.trans (RunsMapped.trans (of_keeps (State.bump_keeps ..) (by decide)) (RunsMapped.modRun ..))

theorem dwRow_runs (s : State) (t : Ticket) (m : Nat) (top : Int) (ks : List GTok) (j id : Nat) :
    RunsMapped t.seq s (s.dwRow t m top ks j id).2 :=
  (settleR_runs _ (of_keeps (State.roundLWs_keeps ..) (by decide))).trans (putElems_runs ..)

theorem dwChunk_runs (s : State) (t : Ticket) (ids : List Nat) (toks : List GTok) (m : Nat) :
    RunsMapped t.seq s (s.dwChunk t ids toks m).2 := by
  unfold State.dwChunk
  dsimp only
  have h : ∀ (l : List (Nat × Nat)) (n : Nat) (x : State), RunsMapped t.seq s x →
      RunsMapped t.seq s (l.foldl (fun (acc : Nat × State) (e : Nat × Nat) =>
        ((acc.1 + digestFmt (outFmt (t.b 0x9B)) ((t.f 0xA4 4 + (t.p0 / s.profile.dwChunk.toNat + m)) % pow2 32)
          (acc.2.dwRow t m (chunkTop (s.chunkToks m toks)) (s.chunkToks m toks) e.2 e.1).1) % m64,
          (acc.2.dwRow t m (chunkTop (s.chunkToks m toks)) (s.chunkToks m toks) e.2 e.1).2)) (n, x)).2 := by
    intro l
    induction l with
    | nil => intro n x h; exact h
    | cons e l ih => intro n x h; exact ih _ _ (h.trans (dwRow_runs ..))
  have h1 := h (ids.zip (upto ids.length)) 0 s (RunsMapped.of_tickets rfl)
  split
  · exact h1.trans (putElems_runs ..)
  · exact h1

theorem dwAll_runs (s : State) (t : Ticket) (ids : List Nat) (toks : List GTok) : RunsMapped t.seq s (s.dwAll t ids toks).2 := by
  unfold State.dwAll
  generalize upto (ceilDiv t.tokens s.profile.dwChunk.toNat) = l
  suffices h : ∀ (n : Nat) (x : State), RunsMapped t.seq s x → RunsMapped t.seq s (l.foldl (fun (acc : Nat × State) m =>
    ((acc.1 + (acc.2.dwChunk t ids toks m).1) % m64, (acc.2.dwChunk t ids toks m).2)) (n, x)).2 from h 0 s (RunsMapped.of_tickets rfl)
  induction l with
  | nil => intro n x h; exact h
  | cons e l ih => intro n x h; exact ih _ _ (h.trans (dwChunk_runs ..))

theorem dwAll_ports (s : State) (t : Ticket) (ids : List Nat) (toks : List GTok) :
    (s.dwAll t ids toks).2.ports = s.ports ∧ (s.dwAll t ids toks).2.settings = s.settings :=
  ⟨(State.dwAll_keeps ..).same .ports (by decide), (State.dwAll_keeps ..).same .settings (by decide)⟩

theorem batches_length (n v : Nat) : (batches n v).length = ceilDiv v (max 1 n) := by
  unfold batches upto; simp

theorem batches_pos {n v : Nat} (h : 0 < v) : 0 < (batches n v).length := by
  rw [batches_length]
  exact Nat.div_pos (by omega) (by omega)

theorem segmentsFrom_length (n slot : Nat) (acc : List (Nat × Nat)) (t0 words : Nat) :
    (segmentsFrom n slot acc t0 words).length = acc.length + (batches n words).length := by
  unfold segmentsFrom
  generalize batches n words = l
  induction l generalizing acc with
  | nil => simp
  | cons x l ih => rw [List.foldl_cons, ih]; simp; omega

theorem segments_pos (n slot : Nat) (parts : List (Nat × Nat)) (h : ∃ p ∈ parts, 0 < p.2) (acc : List (Nat × Nat)) :
    0 < (parts.foldl (fun (l : List (Nat × Nat)) p => segmentsFrom n slot l p.1 p.2) acc).length := by
  have mono : ∀ (l : List (Nat × Nat)) (acc : List (Nat × Nat)),
      acc.length ≤ (l.foldl (fun (l : List (Nat × Nat)) p => segmentsFrom n slot l p.1 p.2) acc).length := by
    intro l
    induction l with
    | nil => intro acc; exact Nat.le_refl _
    | cons x l ih => intro acc; exact Nat.le_trans (by rw [segmentsFrom_length]; omega) (ih _)
  induction parts generalizing acc with
  | nil => obtain ⟨p, hp, _⟩ := h; cases hp
  | cons x l ih =>
    obtain ⟨p, hp, hx⟩ := h
    rcases List.mem_cons.1 hp with rfl | hp
    · refine Nat.lt_of_lt_of_le ?_ (mono l _)
      rw [segmentsFrom_length]
      have := batches_pos (n := n) hx
      omega
    · exact ih ⟨p, hp, hx⟩ _

/-- A GRAD of some tokens over a shard of some height has words of dHidden to exchange. -/
theorem gradParts_pos (s : State) (t : Ticket) (r : Running) (h1 : 0 < t.tokens) (h2 : 0 < t.desc.h) :
    ∃ p ∈ s.gradParts t r, 0 < p.2 := by
  unfold State.gradParts
  dsimp only
  have hb := batches_pos (n := 64) h1
  have hr : 0 < (batches 64 (max t.tokens (field (s.figureShape r) 0x20 4))).length := batches_pos (by omega)
  have h0 : (batches 64 t.tokens)[0] = min 64 t.tokens := by unfold batches upto; simp
  refine ⟨_, List.mem_map.2 ⟨((batches 64 t.tokens)[0], 0), ?_, rfl⟩, ?_⟩
  · rw [List.mem_iff_getElem]
    refine ⟨0, by rw [List.length_zip]; unfold upto; simp; omega, ?_⟩
    simp [upto]
  · show 0 < (batches 64 t.tokens)[0] * t.desc.h
    rw [h0]
    exact Nat.mul_pos (by omega) h2

theorem grad_begins {s : State} {q : Nat} {t : Ticket} {r : Running} (hq : Quiet s q) (hl : s.launched q = some (t, r))
    (h1 : r.streamed = true ∨ s.egBroken t = false)
    (h2 : ((s.trainScores t).1.zip (upto (s.trainScores t).1.length)).any (fun e => s.lossForeign t e.2 e.1.2) = false)
    (h4 : (s.shard t).1.transposedOk (s.shard t).2 = true) (h3 : 0 < t.tokens) (h5 : 0 < t.desc.h) :
    AwaitsChildren (s.doGrad t r).pump q t exWords ∧
      Keeps [.counters, .free, .mem, .outs, .reads, .tickets, .tiles, .writes, .written] s (s.doGrad t r).pump := by
  have hs := (seqOf hl).1
  subst hs
  have hb : (!r.streamed && s.egBroken t) = false := by rcases h1 with h | h <;> simp [h]
  have hg : s.doGrad t r = (s.trainScores t).2.2.gradProducts t r (s.trainScores t).1 (s.trainScores t).2.1 := by
    unfold State.doGrad
    simp only [hb, Bool.false_eq_true, if_false]
    rw [if_neg (by rw [h2]; decide), if_neg (by rw [h4]; decide)]
  have hk0 := State.trainScores_keeps s t
  have hgk := Keeps.by (State.gradProducts_keeps (s.trainScores t).2.2 t r (s.trainScores t).1 (s.trainScores t).2.1)
    (w := [.counters, .free, .mem, .outs, .reads, .tickets, .tiles, .writes, .written]) (by decide) (hk0.mono (by decide))
  rw [hg]
  have hp0 : (s.trainScores t).2.2.ports = s.ports := hk0.same .ports (by decide)
  have hs0 : (s.trainScores t).2.2.settings = s.settings := hk0.same .settings (by decide)
  have ht0 : (s.trainScores t).2.2.tickets = s.tickets := hk0.same .tickets (by decide)
  generalize (s.trainScores t).2.2 = x at hp0 hs0 ht0 hgk ⊢
  generalize (s.trainScores t).1 = rows at hgk ⊢
  generalize (s.trainScores t).2.1 = fl at hgk ⊢
  unfold State.gradProducts at hgk ⊢
  dsimp only at hgk ⊢
  have hd := dwAll_runs x t (((x.shard t).1.cols (x.shard t).2).map Column.id) (x.gradToks t rows).1
  have hdp := dwAll_ports x t (((x.shard t).1.cols (x.shard t).2).map Column.id) (x.gradToks t rows).1
  generalize x.dwAll t (((x.shard t).1.cols (x.shard t).2).map Column.id) (x.gradToks t rows).1 = out at hd hdp hgk ⊢
  have hm : RunsMapped t.seq s ((out.2.addFlags t.seq (fl ||| (x.gradToks t rows).2)).modRun t.seq (fun r => { r with
    tops := (x.gradToks t rows).1.map (fun k => t.hiddenTop k.gamma)
    result := { r.result with digests := [0, BitVec.ofNat 64 out.1, 0, 0] } })) :=
    (((RunsMapped.of_tickets ht0).trans hd).trans (addFlags_runs ..)).trans (RunsMapped.modRun ..)
  have hQ := hq.mapped hm (hdp.2.trans hs0) (hdp.1.trans hp0)
  obtain ⟨r', hL⟩ := hm.launched hl
  generalize ((out.2.addFlags t.seq (fl ||| (x.gradToks t rows).2)).modRun t.seq (fun r => { r with
    tops := (x.gradToks t rows).1.map (fun k => t.hiddenTop k.gamma)
    result := { r.result with digests := [0, BitVec.ofNat 64 out.1, 0, 0] } })) = y at hm hQ hL hgk ⊢
  have h := startWords_awaits (slot := x.settings.hopBudget.toNat) (parts := y.gradParts t r)
    (own := (x.gradToks t rows).1.flatMap (t.hiddenWords ((x.shard t).1.cols (x.shard t).2))) hQ hL
    (segments_pos _ _ _ (gradParts_pos y t r h3 h5) _)
  rw [h.1]
  exact ⟨h.2.key rfl rfl, hgk⟩

/-- A figure alone whose exchange leads to the end of its work is finished, and nothing is left to pump. -/
theorem Lone.finish {s : State} {t : Ticket} {r : Running} {kind g t0 slot : Nat} {own : Payload} {P : Result → Prop}
    (ha : Lone s t) (hl : s.launched t.seq = some (t, r)) (ho : ∀ l, own ≠ .words l)
    (hd : ∀ (v : State) (r' : Running) (e : Exch), Keeps [.tickets] s v → v.launched t.seq = some ({ t with run := some r' }, r') →
      r'.rows = r.rows → e.missing = false →
      ∃ (x : State) (f : Result → Result), v.exchDone { t with run := some r' } r' e own = x.finishWith t.seq f ∧
        RunsMapped t.seq v x ∧ x.settings = v.settings ∧ x.ports = v.ports ∧ ∀ res, P (f res)) :
    ∃ (v : State) (r' : Running) (e : Exch) (res : Result), Keeps [.tickets] s v ∧
      (s.startExch t.seq kind g t0 slot own).pump = v.exchDone { t with run := some r' } r' e own ∧
      Finished (s.startExch t.seq kind g t0 slot own).pump t.seq t res ∧ P res := by
  obtain ⟨v, r', e, f, hv, hL, hQ, hr, _, hm, hp⟩ := ha.pump (kind := kind) (g := g) (t0 := t0) (slot := slot) hl ho
  have hkv : Keeps [.tickets] s v := by rw [hv]; exact State.modRun_keeps ..
  obtain ⟨x, f2, he, h1, h2, h3, h4⟩ := hd v r' e hkv hL hr hm
  obtain ⟨r2, hL2, hQ2⟩ := RunsMapped.lone (t := { t with run := some r' }) h1 hL hQ h2 (fun p => by unfold State.port; rw [h3])
  obtain ⟨r3, hL3, hQ3, hx3⟩ := finishWith_lone (t := { t with run := some r2 }) f2 hL2 hQ2
  obtain ⟨t4, r4, a, b, c, d, e4⟩ := State.finishWith_finished (t := { t with run := some r2 }) f2 hL2
  have hpu := hp _ { t with run := some r3 } r3 he rfl hL3 hQ3 hx3
  refine ⟨v, r', e, f2 r2.result, hkv, by rw [hpu, he], ?_, h4 _⟩
  rw [hpu]
  exact ⟨t4, r4, a, b, c, d, e4⟩

theorem lossDone_finish (v : State) (t : Ticket) (rows : List RowRec) : ∃ (x : State) (f : Result → Result),
    v.lossDone t rows = x.finishWith t.seq f ∧ RunsMapped t.seq v x ∧ x.settings = v.settings ∧ x.ports = v.ports := by
  unfold State.lossDone
  dsimp only
  refine ⟨_, _, rfl, ?_⟩
  generalize (((v.castRows t).rows.zip rows).zip (upto rows.length)).map (fun e =>
    v.lossRow t e.2 e.1.1 (v.ctx (t.b 0x9C + e.2)).summary.clamped (cleanRow e.1.2)) = outs
  generalize outs.map Prod.fst = recs
  generalize recs.zip (upto recs.length) = l
  suffices h : ∀ x : State, RunsMapped t.seq v x ∧ x.settings = v.settings ∧ x.ports = v.ports →
      RunsMapped t.seq v (l.foldl (fun (s : State) e => s.writeHost t.seq (t.f 0x70 8 + 32 * e.2) e.1.bytes) x) ∧
      (l.foldl (fun (s : State) e => s.writeHost t.seq (t.f 0x70 8 + 32 * e.2) e.1.bytes) x).settings = v.settings ∧
      (l.foldl (fun (s : State) e => s.writeHost t.seq (t.f 0x70 8 + 32 * e.2) e.1.bytes) x).ports = v.ports from by
    have h1 := h v ⟨RunsMapped.of_tickets rfl, rfl, rfl⟩
    exact ⟨h1.1.trans (addFlags_runs ..), h1.2.1, h1.2.2⟩
  induction l with
  | nil => intro x h; exact h
  | cons e l ih =>
    intro x h
    have hw := State.writeHost_keeps x t.seq (t.f 0x70 8 + 32 * e.2) e.1.bytes
    exact ih _ ⟨h.1.trans (writeHost_runs ..), (hw.same .settings (by decide)).trans h.2.1, (hw.same .ports (by decide)).trans h.2.2⟩

theorem foldl_same {α : Type} (fld : State → α → State) (w : List Fld) (hw : ∀ s a, Keeps w s (fld s a)) (l : List α) (s : State) :
    Keeps w s (l.foldl fld s) := by
  induction l generalizing s with
  | nil => exact Keeps.refl _ _
  | cons a l ih => exact (hw s a).trans (ih _)

theorem settleRows_finish (v : State) (t : Ticket) (r : Running) : ∃ (x : State) (f : Result → Result),
    v.settleRows t r = x.finishWith t.seq f ∧ RunsMapped t.seq v x ∧ x.settings = v.settings ∧ x.ports = v.ports ∧
    ∀ res, (f res).rows = r.rows.length := by
  have hk := foldl_same (fun (s : State) x => s.settleOne t x) _ (fun s x => State.settleOne_keeps s t x) r.rows v
  unfold State.settleRows
  dsimp only
  exact ⟨_, _, rfl, foldl_runs _ (fun s x => settleOne_runs t x s) _ _, hk.same .settings (by decide), hk.same .ports (by decide),
    fun _ => rfl⟩

/-- A step within a command's figure: of the fields of other tickets, the settings and the links nothing changes. -/
def Inside (q : Nat) (v y : State) : Prop := RunsMapped q v y ∧ y.settings = v.settings ∧ y.ports = v.ports

theorem Inside.refl (q : Nat) (v : State) : Inside q v v := ⟨RunsMapped.of_tickets rfl, rfl, rfl⟩
theorem Inside.trans {q : Nat} {v y z : State} (h : Inside q v y) (k : Inside q y z) : Inside q v z :=
  ⟨h.1.trans k.1, k.2.1.trans h.2.1, k.2.2.trans h.2.2⟩
theorem Inside.keeps {q : Nat} {w : List Fld} {v y : State} (h : Keeps w v y)
    (hw : Fld.tickets ∉ w ∧ Fld.settings ∉ w ∧ Fld.ports ∉ w) : Inside q v y :=
  ⟨of_keeps h hw.1, h.same .settings hw.2.1, h.same .ports hw.2.2⟩
theorem Inside.runs {q : Nat} {w : List Fld} {v y : State} (r : RunsMapped q v y) (h : Keeps w v y)
    (hw : Fld.settings ∉ w ∧ Fld.ports ∉ w) : Inside q v y := ⟨r, h.same .settings hw.1, h.same .ports hw.2⟩
theorem writeHost_inside (q a : Nat) (bs : Bytes) (s : State) : Inside q s (s.writeHost q a bs) :=
  Inside.runs (writeHost_runs ..) (State.writeHost_keeps ..) (by decide)
theorem countWithout_inside (q n : Nat) (s : State) : Inside q s (s.countWithout q n) :=
  Inside.runs (countWithout_runs ..) (State.countWithout_keeps ..) (by decide)
theorem Inside.write {q : Nat} {v y : State} (h : Inside q v y) (a : Nat) (bs : Bytes) : Inside q v (y.writeHost q a bs) :=
  h.trans (writeHost_inside ..)
theorem Inside.countWithout {q : Nat} {v y : State} (h : Inside q v y) (n : Nat) : Inside q v (y.countWithout q n) :=
  h.trans (countWithout_inside ..)

theorem beamRows_finish (v : State) (t : Ticket) (r : Running) : ∃ (x : State) (f : Result → Result),
    v.beamRows t r = x.finishWith t.seq f ∧ RunsMapped t.seq v x ∧ x.settings = v.settings ∧ x.ports = v.ports ∧
    ∀ res, (f res).rows = 1 := by
  unfold State.beamRows
  dsimp only
  refine ⟨_, _, rfl, ?_⟩
  refine (fun (h : Inside t.seq v _) => ⟨h.1, h.2.1, h.2.2, fun _ => rfl⟩) (Inside.countWithout ?_ _)
  have h1 : ∀ f g, Inside t.seq v ((v.modCtx (t.stream 0).ctx f).advanceStep (t.stream 0).ctx g) := fun f g =>
    Inside.keeps (Keeps.by (State.advanceStep_keeps ..) (by decide) ((State.modCtx_keeps ..).mono (List.Subset.refl _))) (by decide)
  split
  · split
    · exact ((h1 _ _).write _ _).write _ _
    · exact (((h1 _ _).write _ _).write _ _).write _ _
  · exact ((h1 _ _).write _ _).write _ _

theorem settleTokens_keeps {α : Type} (q c : Nat) (g : α → Nat) (l : List α) (s : State) :
    Keeps [.counters, .ctxs, .tickets] s (l.foldl (fun (s : State) e => s.settleToken q c (g e)) s) ∧
    RunsMapped q s (l.foldl (fun (s : State) e => s.settleToken q c (g e)) s) :=
  ⟨foldl_same _ _ (fun s e => State.settleToken_keeps s q c (g e)) l s, foldl_runs _ (fun s e => settleToken_runs q c (g e) s) l s⟩

theorem verifyRows_finish (v : State) (t : Ticket) (r : Running) : ∃ (x : State) (f : Result → Result),
    v.verifyRows t r = x.finishWith t.seq f ∧ RunsMapped t.seq v x ∧ x.settings = v.settings ∧ x.ports = v.ports ∧
    ∀ res, (f res).rows = 1 := by
  unfold State.verifyRows
  dsimp only
  refine ⟨_, _, rfl, ?_⟩
  have hw := State.walk_keeps v t r.rows
  generalize (v.walk t r.rows).2 = v0 at hw
  generalize ((v.walk t r.rows).1.filterMap (fun e => e.1.token.map (fun k => (e.2, k)))) = toks
  have ha := State.advanceStep_keeps v0 (t.stream 0).ctx toks.length
  generalize v0.advanceStep (t.stream 0).ctx toks.length = v1 at ha
  obtain ⟨hk, hr⟩ := settleTokens_keeps t.seq (t.stream 0).ctx (fun (e : SelRow × Nat × F32) => e.2.1) toks v1
  generalize toks.foldl (fun (s : State) e => s.settleToken t.seq (t.stream 0).ctx e.2.1) v1 = v2 at hk hr
  have h1 : RunsMapped t.seq v v2 := ((of_keeps hw (by decide)).trans (of_keeps ha (by decide))).trans hr
  have h2 : v2.settings = v.settings := (hk.same .settings (by decide)).trans ((ha.same .settings (by decide)).trans (hw.same .settings (by decide)))
  have h3 : v2.ports = v.ports := (hk.same .ports (by decide)).trans ((ha.same .ports (by decide)).trans (hw.same .ports (by decide)))
  have h0 : Inside t.seq v v2 := ⟨h1, h2, h3⟩
  refine (fun (h : Inside t.seq v _) => ⟨h.1, h.2.1, h.2.2, fun _ => rfl⟩) (Inside.countWithout ?_ _)
  split
  · split
    · exact (h0.write _ _).write _ _
    · exact ((h0.write _ _).write _ _).write _ _
  · exact (h0.write _ _).write _ _

theorem settleRow_oneRound {p : Bytes} (h : oneRound p = true) (f : Bool) (o : Nat) (r : RowRec) (jb : Int) (a b : Bool) :
    settleRow f o p r ≠ .boundary jb a b := by
  unfold oneRound at h
  unfold settleRow
  split
  · simp
  · split
    · simp
    · split
      · simp
      · split
        · simp
        · split
          · simp
          · split
            · simp
            · rename_i h1 h2 h3
              exfalso
              simp only [Bool.not_eq_true'] at h1
              simp only [Bool.or_eq_true, h2, h3, Bool.not_eq_true'] at h
              simp_all

theorem modCtx_params (s : State) (p n : Nat) (f : Ctx → Ctx) (h : ∀ c, (f c).params = c.params) :
    ((s.modCtx p f).ctx n).params = (s.ctx n).params := by
  by_cases hn : n = p
  · subst hn
    by_cases hp : n < 256
    · rw [State.ctx_modCtx _ _ _ hp, h]
    · unfold State.ctx State.modCtx
      rw [Vector.getElem?_eq_none (by omega), Vector.getElem?_eq_none (by omega)]
  · rw [State.ctx_modCtx_ne _ _ _ _ hn]

theorem params_of_keeps {w : List Fld} {s u : State} (h : Keeps w s u) (hw : Fld.ctxs ∉ w) (n : Nat) :
    (u.ctx n).params = (s.ctx n).params := by
  have : u.ctxs = s.ctxs := h.same .ctxs hw
  unfold State.ctx; rw [this]

theorem scoreInto_params (s : State) (t : Ticket) (cols : List Column) (row : CastRow) (i n : Nat) :
    ((s.scoreInto t cols row i).2.2.ctx n).params = (s.ctx n).params := by
  unfold State.scoreInto
  dsimp only
  have hk := params_of_keeps (State.keyRow_keeps s (s.profile.gumbelSrc == 1) (s.rowSamples t i) (s.partKey t.part) (t.stream (t.rowPos i)).id
    (t.rowStep i) (s.rowScores t cols row i).1) (by decide) n
  generalize s.keyRow (s.profile.gumbelSrc == 1) (s.rowSamples t i) (s.partKey t.part) (t.stream (t.rowPos i)).id
    (t.rowStep i) (s.rowScores t cols row i).1 = k at hk ⊢
  generalize foldRow (s.rowFold t i) (s.rowSamples t i) (s.rowScores t cols row i).1 k.1 = sum
  obtain ⟨toks, fl2, draws, s1⟩ := k
  dsimp only at hk ⊢
  have h2 : ((s1.modCtx (t.rowSum i) (fun c => { c with summary := sum })).ctx n).params = (s.ctx n).params := by
    rw [modCtx_params]
    · exact hk
    · intro c; rfl
  generalize s1.modCtx (t.rowSum i) (fun c => { c with summary := sum }) = s2 at h2 ⊢
  have h3 : ((if clampCount toks = 0 then s2 else s2.bump .ladderClamps (clampCount toks)).ctx n).params = (s.ctx n).params := by
    split
    · exact h2
    · exact (params_of_keeps (State.bump_keeps ..) (by decide) n).trans h2
  generalize (if clampCount toks = 0 then s2 else s2.bump .ladderClamps (clampCount toks)) = s3 at h3 ⊢
  split
  · exact h3
  · exact (params_of_keeps (State.countDraws_keeps ..) (by decide) n).trans h3

theorem scoreAll_params (s : State) (t : Ticket) (n : Nat) : ((s.scoreAll t).2.2.2.ctx n).params = (s.ctx n).params := by
  unfold State.scoreAll
  dsimp only
  have h0 : ∀ cols m, ((((s.countClamps m).countBeyond cols).1).ctx n).params = (s.ctx n).params := fun cols m => by
    unfold State.countBeyond State.countClamps; dsimp only; split <;> split <;> rfl
  generalize (s.shard t).1.cols (s.shard t).2 = cols
  generalize s.castRows t = cr
  have h1 := h0 cols cr.clamps
  generalize ((s.countClamps cr.clamps).countBeyond cols) = z at h1
  obtain ⟨s1, fl⟩ := z
  dsimp only at h1 ⊢
  refine (params_of_keeps (State.leaveTiles_keeps ..) (by decide) n).trans ?_
  generalize cr.rows.zip (upto cr.rows.length) = l
  suffices h : ∀ (a : List (List Score)) (b : U16) (st : State), (st.ctx n).params = (s.ctx n).params →
      (((l.foldl (fun (acc : List (List Score) × U16 × State) e =>
        (acc.1 ++ [(acc.2.2.scoreInto t cols e.1 e.2).1], acc.2.1 ||| (acc.2.2.scoreInto t cols e.1 e.2).2.1,
          (acc.2.2.scoreInto t cols e.1 e.2).2.2)) (a, b, st)).2.2).ctx n).params = (s.ctx n).params from h _ _ _ h1
  induction l with
  | nil => intro a b st h; exact h
  | cons x l ih => intro a b st h; exact ih _ _ _ ((scoreInto_params ..).trans h)

/-- Round 1 done with no boundary: the rows settle at once. -/
theorem round1_settles {v : State} {t : Ticket} {r : Running} {e : Exch} {rows : List RowRec} (hl : v.launched t.seq = some (t, r))
    (hlen : rows.length = r.rows.length)
    (hb : ∀ x ∈ r.rows, x.boundary = none) (hp : t.op = .beam ∨ ∀ x ∈ r.rows, oneRound (v.ctx x.ctx).params = true ∧ t.noOther (v.ctx x.ctx).params = true) :
    ∃ (x : State) (f : Result → Result), v.round1Done t r e rows = x.finishWith t.seq f ∧
      RunsMapped t.seq v x ∧ x.settings = v.settings ∧ x.ports = v.ports ∧
      ∀ res, (f res).rows = if t.op = .beam ∨ t.op = .verify then 1 else r.rows.length := by
  unfold State.round1Done
  dsimp only
  have hmark : ∀ x : SelRow, x.boundary = none → oneRound (v.ctx x.ctx).params = true →
      t.noOther (v.ctx x.ctx).params = true → (v.markBoundary t x).boundary = none := by
    intro x h1 h2 h3
    unfold State.markBoundary
    split
    · rename_i jb a b hpk
      exact absurd hpk (settleRow_oneRound h2 _ _ _ _ _ _)
    · have hn : v.needsOther t x = false := by
        unfold Ticket.noOther at h3
        unfold State.needsOther
        dsimp only
        cases ho : t.op == Op.verify <;> cases hm : t.b 0xA0 == 1 <;> cases hs : prSamples (v.ctx x.ctx).params <;>
          cases hu : unfiltered (v.ctx x.ctx).params <;> simp_all [bne]
      rw [hn]; simpa using h1
  have hall : ∀ marked : List SelRow, marked = (if t.op == .beam then (r.rows.zip rows).map (fun p => { p.1 with merged := p.2, withoutPeers := e.missing })
      else ((r.rows.zip rows).map (fun p => { p.1 with merged := p.2, withoutPeers := e.missing })).map (v.markBoundary t)) →
      marked.all (fun x => x.boundary.isNone) = true ∧ marked.length = r.rows.length := by
    intro marked h
    have hpl : ∀ x ∈ (r.rows.zip rows).map (fun p => ({ p.1 with merged := p.2, withoutPeers := e.missing } : SelRow)), x.boundary = none ∧
        (t.op = .beam ∨ oneRound (v.ctx x.ctx).params = true ∧ t.noOther (v.ctx x.ctx).params = true) := by
      intro x hx
      obtain ⟨p, h1, rfl⟩ := List.mem_map.1 hx
      have h2 := (List.of_mem_zip h1).1
      exact ⟨hb p.1 h2, hp.imp id (fun h => h p.1 h2)⟩
    have hll : ((r.rows.zip rows).map (fun p => ({ p.1 with merged := p.2, withoutPeers := e.missing } : SelRow))).length = r.rows.length := by
      simp [hlen]
    generalize (r.rows.zip rows).map (fun p => ({ p.1 with merged := p.2, withoutPeers := e.missing } : SelRow)) = placed at hpl h hll
    split at h
    · subst h
      refine ⟨?_, hll⟩
      rw [List.all_eq_true]; intro x hx; rw [(hpl x hx).1]; rfl
    · rename_i hne
      subst h
      refine ⟨?_, by rw [List.length_map, hll]⟩
      rw [List.all_eq_true]; intro x hx
      obtain ⟨y, hy, rfl⟩ := List.mem_map.1 hx
      obtain ⟨h1, h2⟩ := hpl y hy
      obtain ⟨h3, h4⟩ := h2.resolve_left (fun h => hne (by rw [h]; rfl))
      rw [hmark y h1 h3 h4]; rfl
  generalize hmk : (if t.op == .beam then (r.rows.zip rows).map (fun p => { p.1 with merged := p.2, withoutPeers := e.missing })
      else ((r.rows.zip rows).map (fun p => { p.1 with merged := p.2, withoutPeers := e.missing })).map (v.markBoundary t)) = marked
  obtain ⟨h1, h2⟩ := hall marked hmk.symm
  rw [if_pos h1]
  have hL := State.launched_modRun (fun r => { r with rows := marked, exch := none, passAt := v.exchEnd e + 384 }) hl
  have hrm : RunsMapped t.seq v (v.modRun t.seq (fun r => { r with rows := marked, exch := none, passAt := v.exchEnd e + 384 })) := RunsMapped.modRun ..
  have hse : (v.modRun t.seq (fun r => { r with rows := marked, exch := none, passAt := v.exchEnd e + 384 })).settings = v.settings := rfl
  have hpo : (v.modRun t.seq (fun r => { r with rows := marked, exch := none, passAt := v.exchEnd e + 384 })).ports = v.ports := rfl
  generalize v.modRun t.seq (fun r => { r with rows := marked, exch := none, passAt := v.exchEnd e + 384 }) = y at hL hrm hse hpo
  unfold State.settleAll
  rw [hL]
  dsimp only
  have fin : ∀ (z : State) (n m : Nat), n = m → (∃ (x : State) (f : Result → Result), z = x.finishWith t.seq f ∧ RunsMapped t.seq y x ∧ x.settings = y.settings ∧
      x.ports = y.ports ∧ ∀ res, (f res).rows = n) → ∃ (x : State) (f : Result → Result), z = x.finishWith t.seq f ∧ RunsMapped t.seq v x ∧
      x.settings = v.settings ∧ x.ports = v.ports ∧ ∀ res, (f res).rows = m := by
    rintro z n _ rfl ⟨x, f, a, b, c, d, e⟩
    exact ⟨x, f, a, hrm.trans b, c.trans hse, d.trans hpo, e⟩
  generalize hop : t.op = o at *
  have hop' : ({ t with run := some { r with rows := marked, exch := none, passAt := v.exchEnd e + 384 } } : Ticket).op = o := hop
  split
  · rename_i ho
    have : o = .verify := hop'.symm.trans ho
    exact fin _ 1 _ (by simp [this]) (verifyRows_finish y _ _)
  · rename_i ho
    have : o = .beam := hop'.symm.trans ho
    exact fin _ 1 _ (by simp [this]) (beamRows_finish y _ _)
  · rename_i h4 h5
    have h6 : o ≠ .verify := fun h => h4 (hop'.trans h)
    have h7 : o ≠ .beam := fun h => h5 (hop'.trans h)
    exact fin _ marked.length _ (by simp [h6, h7, h2]) (settleRows_finish y _ _)

theorem upto_length (n : Nat) : (upto n).length = n := by unfold upto; simp

/-- A lone member's first round over rows that need no second ends the command. -/
theorem startRound1_finishes {x : State} {t : Ticket} {r r1 : Running} (hl : x.launched t.seq = some ({ t with run := some r1 }, r1))
    (ha : Lone x { t with run := some r1 }) (hop : t.op ≠ .loss)
    (hp : t.op = .beam ∨ ∀ i ∈ upto (x.rowCount t), oneRound (x.ctx (t.rowCtx i)).params = true ∧ t.noOther (x.ctx (t.rowCtx i)).params = true) :
    ∃ res, Finished (x.startRound1 t r).pump t.seq t res ∧ (res.rows = if t.op = .beam ∨ t.op = .verify then 1 else x.rowCount t) ∧
      Keeps [.counters, .ctxs, .free, .mem, .outs, .ports, .reads, .tickets, .tiles, .writes, .written] x (x.startRound1 t r).pump := by
  unfold State.startRound1
  dsimp only
  have hrm : RunsMapped t.seq x (x.modRun t.seq (fun r => { r with rows := (upto (x.rowCount t)).map (x.selRow t) })) := RunsMapped.modRun ..
  have hkm : Keeps [.tickets] x (x.modRun t.seq (fun r => { r with rows := (upto (x.rowCount t)).map (x.selRow t) })) := State.modRun_keeps ..
  have hl2 := State.launched_modRun (fun r => { r with rows := (upto (x.rowCount t)).map (x.selRow t) }) hl
  obtain ⟨r2, hL, hQ⟩ := RunsMapped.lone (t := { t with run := some r1 }) hrm hl ha rfl (fun _ => rfl)
  have hr2 : r2.rows = (upto (x.rowCount t)).map (x.selRow t) := by
    have h := hL.symm.trans hl2
    simp only [Option.some.injEq, Prod.mk.injEq] at h
    rw [h.2]
  have hcx : (x.modRun t.seq (fun r => { r with rows := (upto (x.rowCount t)).map (x.selRow t) })).ctxs = x.ctxs := rfl
  generalize x.modRun t.seq (fun r => { r with rows := (upto (x.rowCount t)).map (x.selRow t) }) = y at hrm hkm hL hQ hcx
  have hF := Lone.finish (s := y) (t := { t with run := some r2 }) (r := r2) (kind := exRound1) (g := 0) (t0 := x.round1At t r)
    (slot := x.slotOf (x.round1Stretch r)) (own := .rows (((upto (x.rowCount t)).map (x.selRow t)).map SelRow.merged))
    (P := fun res => res.rows = if t.op = .beam ∨ t.op = .verify then 1 else x.rowCount t) hQ hL (by simp) (by
      intro v r' e hk hv hrows hm
      have hd : v.exchDone { t with run := some r' } r' e (.rows (((upto (x.rowCount t)).map (x.selRow t)).map SelRow.merged)) =
          v.round1Done { t with run := some r' } r' e (((upto (x.rowCount t)).map (x.selRow t)).map SelRow.merged) := by
        unfold State.exchDone
        dsimp only
        rw [if_neg]
        intro h
        exact hop (eq_of_beq h)
      have hvx : v.ctxs = x.ctxs := (hk.same .ctxs (by decide)).trans hcx
      rw [hr2] at hrows
      obtain ⟨z, f, h1, h2, h3, h4, h5⟩ := round1_settles (t := { t with run := some r' }) (e := e)
        (rows := ((upto (x.rowCount t)).map (x.selRow t)).map SelRow.merged) hv (by rw [hrows]; simp)
        (by
          rw [hrows]; intro a ha
          obtain ⟨i, _, rfl⟩ := List.mem_map.1 ha
          rfl)
        (hp.imp id (fun h => by
          rw [hrows]; intro a ha
          obtain ⟨i, hi, rfl⟩ := List.mem_map.1 ha
          have := h i hi
          unfold State.ctx at this ⊢
          rw [hvx]; exact this))
      refine ⟨z, f, hd.trans h1, h2, h3, h4, ?_⟩
      intro res
      rw [h5 res, hrows, List.length_map, upto_length]
      rfl)
  obtain ⟨v, r', e, res, hkv, hpu, hfin, hP⟩ := hF
  refine ⟨res, ?_, hP, ?_⟩
  · obtain ⟨t4, r4, a, b, c, d, e4⟩ := hfin
    exact ⟨t4, r4, a, b, c, d, e4⟩
  · rw [hpu]
    have hd : v.exchDone { t with run := some r' } r' e (.rows (((upto (x.rowCount t)).map (x.selRow t)).map SelRow.merged)) =
        v.round1Done { t with run := some r' } r' e (((upto (x.rowCount t)).map (x.selRow t)).map SelRow.merged) := by
      unfold State.exchDone
      dsimp only
      rw [if_neg]
      intro h
      exact hop (eq_of_beq h)
    rw [hd]
    exact Keeps.by (State.round1Done_keeps ..) (by decide) ((hkm.trans hkv).mono (by decide))

theorem rowCount_of (s u : State) (t : Ticket) (h : t.op ≠ .beam) : u.rowCount t = s.rowCount t := by
  unfold State.rowCount
  split <;> first | rfl | (rename_i hh; exact absurd hh h)

theorem markSleet_params (s : State) (t : Ticket) (n : Nat) : ((s.markSleet t).ctx n).params = (s.ctx n).params := by
  unfold State.markSleet
  dsimp only
  split
  · rename_i h
    clear h
    generalize t.entries.map StreamEnt.ctx = l
    induction l generalizing s with
    | nil => rfl
    | cons a l ih =>
      refine (ih _).trans (modCtx_params _ _ _ _ ?_)
      intro c; rfl
  · rfl

theorem doSelect_finishes {s : State} {q : Nat} {t : Ticket} {r : Running} (ha : Lone s t) (hl : s.launched q = some (t, r)) (hop : t.op ≠ .loss)
    (hp : t.op = .beam ∨
      ∀ i ∈ upto (s.rowCount t), oneRound (s.ctx (t.rowCtx i)).params = true ∧ t.noOther (s.ctx (t.rowCtx i)).params = true) :
    ∃ res, Finished (s.doSelect t r) q t res ∧ (t.op ≠ .beam → res.rows = if t.op = .verify then 1 else s.rowCount t) ∧ (t.op = .beam → res.rows = 1) ∧
      Keeps [.counters, .ctxs, .free, .mem, .outs, .ports, .reads, .tickets, .tiles, .writes, .written] s (s.doSelect t r) := by
  have hs := (seqOf hl).1
  subst hs
  unfold State.doSelect
  dsimp only
  have hk := Keeps.by (State.markSleet_keeps ((s.scoreAll t).2.2.2.addFlags t.seq (s.scoreAll t).2.2.1) t) (by decide)
    (Keeps.by (State.addFlags_keeps (s.scoreAll t).2.2.2 t.seq (s.scoreAll t).2.2.1) (by decide) (State.scoreAll_keeps s t))
  have hm := ((scoreAll_runs s t).trans (addFlags_runs t.seq (s.scoreAll t).2.2.1 (s.scoreAll t).2.2.2)).trans'
    (markSleet_tickets _ t)
  have hpar : ∀ n, ((((s.scoreAll t).2.2.2.addFlags t.seq (s.scoreAll t).2.2.1).markSleet t).ctx n).params = (s.ctx n).params :=
    fun n => (markSleet_params ..).trans
      ((params_of_keeps (State.addFlags_keeps ..) (by decide) n).trans (scoreAll_params s t n))
  generalize ((s.scoreAll t).2.2.2.addFlags t.seq (s.scoreAll t).2.2.1).markSleet t = x at hk hm hpar
  obtain ⟨r1, hL, hQ⟩ := hm.lone hl ha (hk.same .settings (by decide)) (fun p => by unfold State.port; rw [hk.same .ports (by decide)])
  obtain ⟨res, h1, h2, h3⟩ := startRound1_finishes (r := r) hL hQ hop (by
    by_cases hb : t.op = .beam
    · exact .inl hb
    · right
      intro i hi
      rw [hpar]
      rw [rowCount_of s x t hb] at hi
      exact (hp.resolve_left hb) i hi)
  refine ⟨res, h1, ?_, ?_, Keeps.by h3 (List.Subset.refl _) (hk.mono (by decide))⟩
  · intro hb; rw [h2, rowCount_of s x t hb]; simp [hb]
  · intro hb; rw [h2]; simp [hb]

theorem settle_finishes {s : State} {q : Nat} {t : Ticket} {r : Running} (ha : Lone s t) (hl : s.launched q = some (t, r)) (hop : t.op = .settle)
    (hp : ∀ i ∈ upto (s.rowCount t), oneRound (s.ctx (t.rowCtx i)).params = true) :
    ∃ res, Finished ((s.markSleet t).startRound1 t r).pump q t res ∧ res.rows = s.rowCount t ∧
      Keeps [.counters, .ctxs, .free, .mem, .outs, .ports, .reads, .tickets, .tiles, .writes, .written] s
        ((s.markSleet t).startRound1 t r).pump := by
  have hs := (seqOf hl).1
  subst hs
  have hk := State.markSleet_keeps s t
  have hm : RunsMapped t.seq s (s.markSleet t) := RunsMapped.of_tickets (markSleet_tickets s t)
  obtain ⟨r1, hL, hQ⟩ := hm.lone hl ha (hk.same .settings (by decide)) (fun p => by unfold State.port; rw [hk.same .ports (by decide)])
  have hb : t.op ≠ .beam := by rw [hop]; decide
  have hrc := rowCount_of s (s.markSleet t) t hb
  obtain ⟨res, h1, h2, h3⟩ := startRound1_finishes (r := r) hL hQ (by rw [hop]; decide) (.inr (by
    intro i hi
    rw [hrc] at hi
    rw [markSleet_params]
    exact ⟨hp i hi, by unfold Ticket.noOther; rw [hop]; rfl⟩))
  refine ⟨res, h1, ?_, Keeps.by h3 (List.Subset.refl _) (hk.mono (by decide))⟩
  rw [h2, hop, hrc]; simp

theorem lossScore_finishes {s : State} {q : Nat} {t : Ticket} {r : Running} (ha : Lone s t) (hl : s.launched q = some (t, r)) (hop : t.op = .loss) :
    ∃ res, Finished (s.lossScore t r).pump q t res ∧
      Keeps [.counters, .ctxs, .mem, .outs, .ports, .reads, .tickets, .tiles, .writes, .written] s (s.lossScore t r).pump := by
  have hs := (seqOf hl).1
  subst hs
  unfold State.lossScore
  dsimp only
  have hfold : ∀ (l : List ((RowSum × Nat) × Nat)) (x : State), Keeps [.ctxs] x (l.foldl (fun (s : State) e =>
      s.modCtx (t.b 0x9C + e.2) (fun c => { c with summary := e.1.1 })) x) := fun l x => foldl_same _ _ (fun s e => State.modCtx_keeps ..) l x
  have hk := State.trainScores_keeps s t
  generalize (s.trainScores t).2.2 = s1 at hk
  generalize ((s.trainScores t).1.zip (upto (s.trainScores t).1.length)).map (fun e => s.lossSummary t e.2 e.1.1 e.1.2) = sums
  have hf := hfold (sums.zip (upto sums.length)) s1
  generalize (sums.zip (upto sums.length)).foldl (fun (s : State) e =>
    s.modCtx (t.b 0x9C + e.2) (fun c => { c with summary := e.1.1 })) s1 = s2 at hf
  have hx : ∀ n : Nat, Keeps [.counters] s2 (if n = 0 then s2 else s2.bump .ladderClamps n) := by
    intro n; split
    · exact Keeps.refl _ _
    · exact State.bump_keeps ..
  have hy := hx (sumNat (sums.map Prod.snd))
  generalize (if sumNat (sums.map Prod.snd) = 0 then s2 else s2.bump .ladderClamps (sumNat (sums.map Prod.snd))) = s3 at hy
  have hk3 : Keeps [.counters, .ctxs, .tiles] s s3 := (hk.mono (by decide)).trans ((hf.mono (by decide)).trans (hy.mono (by decide)))
  have hm : RunsMapped t.seq s (s3.addFlags t.seq (s.trainScores t).2.1) := (of_keeps hk3 (by decide)).trans (addFlags_runs ..)
  have hk4 : Keeps [.counters, .ctxs, .tickets, .tiles] s (s3.addFlags t.seq (s.trainScores t).2.1) :=
    Keeps.by (State.addFlags_keeps ..) (by decide) (hk3.mono (by decide))
  generalize s3.addFlags t.seq (s.trainScores t).2.1 = y at hm hk4
  obtain ⟨r1, hL, hQ⟩ := hm.lone hl ha (hk4.same .settings (by decide)) (fun p => by unfold State.port; rw [hk4.same .ports (by decide)])
  have hd : ∀ (v : State) (r' : Running) (e : Exch), v.exchDone { t with run := some r' } r' e (.rows (sums.map (fun e => e.1.row))) =
      v.lossDone { t with run := some r' } (sums.map (fun e => e.1.row)) := by
    intro v r' e
    unfold State.exchDone
    dsimp only
    exact if_pos (show (t.op == Op.loss) = true by rw [hop]; rfl)
  obtain ⟨v, r', e, res, hkv, hpu, hfin, _⟩ := Lone.finish (s := y) (t := { t with run := some r1 }) (r := r1) (kind := exRound1) (g := 0)
    (t0 := s.round1At t r) (slot := s.slotOf (s.round1Stretch r)) (own := .rows (sums.map (fun e => e.1.row))) (P := fun _ => True) hQ hL (by simp) (by
      intro v r' e _ _ _ _
      obtain ⟨z, f, h1, h2, h3, h4⟩ := lossDone_finish v { t with run := some r' } (sums.map (fun e => e.1.row))
      exact ⟨z, f, (hd v r' e).trans h1, h2, h3, h4, fun _ => trivial⟩)
  refine ⟨res, ?_, ?_⟩
  · obtain ⟨t4, r4, a, b, c, d, e4⟩ := hfin
    exact ⟨t4, r4, a, b, c, d, e4⟩
  · rw [hpu]
    exact Keeps.by (hd v r' e ▸ State.lossDone_keeps ..) (by decide) ((hk4.mono (by decide)).trans (hkv.mono (by decide)))

end Sys2Proof.Machine
end

