-- ==== Sys2Proof/Laws/Onward.lean ====
section
/-! SUPPORT. How "the start-up state only went onward" is composed. -/
set_option Elab.async false
namespace Sys2Proof.Machine

theorem Onward.refl (s : State) : Onward s s := Nat.le_refl _
theorem Onward.trans {s t u : State} (h : Onward s t) (k : Onward t u) : Onward s u := Nat.le_trans h k
theorem Onward.of_eq {s t : State} (h : t.startup = s.startup) : Onward s t := by unfold Onward; rw [h]
theorem Onward.of_keeps {w : List Fld} {s t : State} (k : Keeps w s t) (hw : Fld.startup ∉ w) : Onward s t :=
  .of_eq (k.same .startup hw)
theorem Onward.whiteout {s t : State} (h : t.startup = .whiteout) : Onward s t := by
  unfold Onward; rw [h]; cases s.startup <;> decide

theorem Onward.by {s t u : State} (k : Onward t u) (h : Onward s t) : Onward s u := h.trans k
theorem Onward.keep {w : List Fld} {s t u : State} (k : Keeps w t u) (hx : Fld.startup ∉ w) (h : Onward s t) :
    Onward s u := h.trans (.of_keeps k hx)

theorem Onward.snd1 {s u : State} {α : Type} {a : α} {p : α × State} (k : Onward s p.2)
    (e : p = (a, u)) : Onward s u := by subst e; exact k
theorem Onward.snd2 {s u : State} {α β : Type} {a : α} {b : β} {p : α × β × State}
    (k : Onward s p.2.2) (e : p = (a, b, u)) : Onward s u := by subst e; exact k
theorem Onward.snd3 {s u : State} {α β γ : Type} {a : α} {b : β} {c : γ} {p : α × β × γ × State}
    (k : Onward s p.2.2.2) (e : p = (a, b, c, u)) : Onward s u := by subst e; exact k
theorem Onward.fst {s u : State} {α : Type} {a : α} {p : State × α} (k : Onward s p.1) (e : p = (u, a)) : Onward s u := by
  subst e; exact k

theorem Onward.foldl {s t : State} {α : Type} {f : State → α → State} {xs : List α} (h : Onward s t)
    (k : ∀ u x, Onward u (f u x)) : Onward s (xs.foldl f t) := by
  induction xs generalizing t with
  | nil => exact h
  | cons x xs ih => exact ih (h.trans (k t x))
theorem Onward.foldl_snd {s : State} {α β : Type} {f : β × State → α → β × State} {xs : List α}
    {b : β × State} (h : Onward s b.2) (k : ∀ b x, Onward b.2 (f b x).2) : Onward s (xs.foldl f b).2 := by
  induction xs generalizing b with
  | nil => exact h
  | cons x xs ih => exact ih (h.trans (k b x))

theorem Onward.foldl_st {s : State} {α : Type} {f : Rounded → α → Rounded} {xs : List α}
    {b : Rounded} (h : Onward s b.st) (k : ∀ b x, Onward b.st (f b x).st) : Onward s (xs.foldl f b).st := by
  induction xs generalizing b with
  | nil => exact h
  | cons x xs ih => exact ih (h.trans (k b x))

/-- The answer, where it is a next state, took the start-up state onward. -/
structure OnwardOut (s : State) (o : Out) : Prop where
  go : ∀ t, o = .next t → Onward s t
theorem OnwardOut.next {s t : State} (h : Onward s t) : OnwardOut s (.next t) := ⟨by intro u hu; cases hu; exact h⟩
theorem OnwardOut.fault {s : State} {r : Fault} : OnwardOut s (.fault r) := ⟨by intro u hu; cases hu⟩
theorem OnwardOut.after {s t : State} {o : Out} (k : OnwardOut t o) (h : Onward s t) : OnwardOut s o :=
  ⟨fun u hu => h.trans (k.go u hu)⟩
theorem OnwardOut.keep {w : List Fld} {s : State} {o : Out} (k : KeepsOut w s o) (hx : Fld.startup ∉ w) :
    OnwardOut s o := ⟨fun u hu => .of_keeps (k.go u hu) hx⟩

/-- The state, where there is one, took the start-up state onward. -/
structure OnwardOpt (s : State) (o : Option State) : Prop where
  go : ∀ t, o = some t → Onward s t
theorem OnwardOpt.none {s : State} : OnwardOpt s none := ⟨by intro u hu; cases hu⟩
theorem OnwardOpt.some {s t : State} (h : Onward s t) : OnwardOpt s (some t) := ⟨by intro u hu; cases hu; exact h⟩
theorem OnwardOpt.after {s t : State} {o : Option State} (k : OnwardOpt t o) (h : Onward s t) : OnwardOpt s o :=
  ⟨fun u hu => h.trans (k.go u hu)⟩
theorem OnwardOpt.keep {w : List Fld} {s t : State} {o : Option State} (k : KeepsOpt w t o)
    (hx : Fld.startup ∉ w) (h : Onward s t) : OnwardOpt s o :=
  ⟨fun u hu => .keep (k.go u hu) hx h⟩
theorem OnwardOpt.map {s : State} {α : Type} {f : α → State} {o : Option α}
    (k : ∀ x, Onward s (f x)) : OnwardOpt s (o.map f) := ⟨by
  intro u hu; cases o with
  | none => cases hu
  | some x => cases hu; exact k x⟩

theorem Onward.by_opt {s t u : State} {o : Option State} (k : OnwardOpt t o) (e : o = some u) (h : Onward s t) : Onward s u :=
  h.trans (k.go u e)
theorem Onward.by_snd1 {s t u : State} {α : Type} {a : α} {p : α × State} (k : Onward t p.2)
    (e : p = (a, u)) (h : Onward s t) : Onward s u := h.trans (k.snd1 e)
theorem Onward.by_snd2 {s t u : State} {α β : Type} {a : α} {b : β} {p : α × β × State}
    (k : Onward t p.2.2) (e : p = (a, b, u)) (h : Onward s t) : Onward s u := h.trans (k.snd2 e)
theorem Onward.by_snd3 {s t u : State} {α β γ : Type} {a : α} {b : β} {c : γ} {p : α × β × γ × State}
    (k : Onward t p.2.2.2) (e : p = (a, b, c, u)) (h : Onward s t) : Onward s u := h.trans (k.snd3 e)
theorem Onward.by_fst {s t u : State} {α : Type} {a : α} {p : State × α} (k : Onward t p.1)
    (e : p = (u, a)) (h : Onward s t) : Onward s u := h.trans (k.fst e)
theorem Onward.keep_opt {w : List Fld} {s t u : State} {o : Option State} (k : KeepsOpt w t o) (e : o = Option.some u)
    (hx : Fld.startup ∉ w) (h : Onward s t) : Onward s u := .keep (k.go u e) hx h
theorem Onward.keep_snd1 {w : List Fld} {s t u : State} {α : Type} {a : α} {p : α × State} (k : Keeps w t p.2)
    (e : p = (a, u)) (hx : Fld.startup ∉ w) (h : Onward s t) : Onward s u := .keep (k.snd1 e) hx h
theorem Onward.keep_snd2 {w : List Fld} {s t u : State} {α β : Type} {a : α} {b : β} {p : α × β × State}
    (k : Keeps w t p.2.2) (e : p = (a, b, u)) (hx : Fld.startup ∉ w) (h : Onward s t) : Onward s u :=
  .keep (k.snd2 e) hx h
theorem Onward.keep_snd3 {w : List Fld} {s t u : State} {α β γ : Type} {a : α} {b : β} {c : γ} {p : α × β × γ × State}
    (k : Keeps w t p.2.2.2) (e : p = (a, b, c, u)) (hx : Fld.startup ∉ w) (h : Onward s t) : Onward s u :=
  .keep (k.snd3 e) hx h
theorem Onward.keep_fst {w : List Fld} {s t u : State} {α : Type} {a : α} {p : State × α} (k : Keeps w t p.1)
    (e : p = (u, a)) (hx : Fld.startup ∉ w) (h : Onward s t) : Onward s u := .keep (k.fst e) hx h

end Sys2Proof.Machine
end

