-- ==== Sys2Proof/Laws/OnwardRows.lean ====
section
/-! SUPPORT. The operations and the commands take the start-up state onward. -/
set_option Elab.async false
namespace Sys2Proof.Machine

theorem State.onPort_onward {s t : State} {i : InSub} {f : State → Out} (h : Onward s t)
    (k : ∀ u, Onward s u → OnwardOut s (f u)) : OnwardOut s (t.onPort i f) := by
  unfold State.onPort
  split
  · exact OnwardOut.next h
  · exact k _ (.keep (State.returnCredit_keeps ..) (by decide) h)

theorem State.awake_onward {s t : State} {f : State → Out} (h : Onward s t)
    (k : ∀ u, Onward s u → OnwardOut s (f u)) : OnwardOut s (t.awake f) := by
  unfold State.awake
  split
  · exact OnwardOut.next h
  · exact k t h

theorem State.enterWhiteout_onward (s : State) (cause : Nat) : Onward s (s.enterWhiteout cause) := by
  unfold State.enterWhiteout
  split
  · exact Onward.refl _
  · exact Onward.keep (State.respondDeferred_keeps ..) (by decide) (Onward.whiteout rfl)

theorem State.disableTile_onward (s : State) (n : Nat) (e : Err) :
    Onward s (State.disableTile s n e) := by
  unfold State.disableTile
  repeat' first
    | with_reducible assumption
    | with_reducible exact Onward.refl _
    | (with_reducible apply Onward.keep (State.bump_keeps ..); (· decide))
    | (with_reducible apply Onward.keep (State.endLogged_keeps ..); (· decide))
    | (with_reducible apply Onward.by (State.enterWhiteout_onward ..))
    | (with_reducible apply Onward.keep (State.logErr_keeps ..); (· decide))
    | (with_reducible apply Onward.keep (State.modTile_keeps ..); (· decide))
    | (with_reducible apply Onward.keep (State.replace_keeps ..); (· decide))
    | split
    | dsimp only

theorem State.rowReached_onward (s : State) (l : Level) (n : Nat) (row : Nat) (e : Err) :
    Onward s (State.rowReached s l n row e) := by
  unfold State.rowReached
  repeat' first
    | with_reducible assumption
    | with_reducible exact Onward.refl _
    | (with_reducible apply Onward.keep (State.bump_keeps ..); (· decide))
    | (with_reducible apply Onward.by (State.disableTile_onward ..))
    | (with_reducible apply Onward.keep (State.logErr_keeps ..); (· decide))
    | (with_reducible apply Onward.keep (State.modTile_keeps ..); (· decide))
    | split

theorem State.countRow_onward (s : State) (n : Nat) (row : Nat) (e : Err) :
    Onward s (State.countRow s n row e) := by
  unfold State.countRow
  repeat' first
    | with_reducible assumption
    | with_reducible exact Onward.refl _
    | (with_reducible apply Onward.keep (State.modTile_keeps ..); (· decide))
    | (with_reducible apply Onward.by (State.rowReached_onward ..))
    | split
    | dsimp only

theorem State.perform_onward (s : State) (hold : Option Level) (l : Level) (e : Err) :
    Onward s (State.perform s hold l e).1 := by
  unfold State.perform
  repeat' first
    | with_reducible assumption
    | with_reducible exact Onward.refl _
    | with_reducible apply Onward.foldl
    | with_reducible apply Onward.foldl_snd
    | with_reducible apply Onward.foldl_st
    | (with_reducible apply Onward.keep (State.beginBackground_keeps ..); (· decide))
    | (with_reducible apply Onward.keep (State.bump_keeps ..); (· decide))
    | (with_reducible apply Onward.by (State.countRow_onward ..))
    | (with_reducible apply Onward.keep (State.emptyContext_keeps ..); (· decide))
    | (with_reducible apply Onward.keep (State.endLaunch_keeps ..); (· decide))
    | (with_reducible apply Onward.keep (State.endLaunch?_keeps ..); (· decide))
    | (with_reducible apply Onward.keep (State.logErr_keeps ..); (· decide))
    | (with_reducible apply Onward.keep (State.modSlice_keeps ..); (· decide))
    | (with_reducible apply Onward.keep (State.noteFlurry_keeps ..); (· decide))
    | (with_reducible apply Onward.keep (State.requestSet_keeps ..); (· decide))
    | (with_reducible apply Onward.keep (State.reseedSlice_keeps ..); (· decide))
    | (with_reducible apply Onward.keep (State.startRetry_keeps ..); (· decide))
    | split
    | dsimp only
    | intro _

theorem State.serve_onward (n : Nat) (l : Level) (s : State) : Onward s (State.serve n l s) := by
  induction n generalizing s with
  | zero => exact Onward.refl _
  | succ n ih =>
    unfold State.serve
    dsimp only
    split
    · have k := fun e => Onward.keep (State.setHandler_keeps s l e) (by decide) (Onward.refl s)
      split
      · exact (k _).trans (State.perform_onward ..)
      · exact (Onward.keep (State.setHandler_keeps ..) (by decide) ((k _).trans (State.perform_onward ..))).trans (ih _)
    · exact Onward.refl _

theorem State.release_onward (s : State) (l : Level) :
    Onward s (State.release s l) := by
  unfold State.release
  repeat' first
    | with_reducible assumption
    | with_reducible exact Onward.refl _
    | (with_reducible apply Onward.by (State.serve_onward ..))
    | (with_reducible apply Onward.keep (State.setHandler_keeps ..); (· decide))

theorem State.escalate_onward (s : State) (l : Level) (e : Err) :
    Onward s (State.escalate s l e) := by
  unfold State.escalate
  repeat' first
    | with_reducible assumption
    | with_reducible exact Onward.refl _
    | (with_reducible apply Onward.keep (State.bump_keeps ..); (· decide))
    | (with_reducible apply Onward.keep (State.degradeBank_keeps ..); (· decide))
    | (with_reducible apply Onward.by (State.disableTile_onward ..))
    | (with_reducible apply Onward.keep (State.endLogged_keeps ..); (· decide))
    | (with_reducible apply Onward.keep (State.healthEvent_keeps ..); (· decide))
    | (with_reducible apply Onward.keep (State.logErr_keeps ..); (· decide))
    | (with_reducible apply Onward.keep (State.modSlice_keeps ..); (· decide))
    | (with_reducible apply Onward.by (State.perform_onward ..))
    | (with_reducible apply Onward.by_fst (State.perform_onward ..); (· assumption))
    | (with_reducible apply Onward.keep (State.replace_keeps ..); (· decide))
    | (with_reducible apply Onward.by (State.rowReached_onward ..))
    | split

theorem State.overflow_onward (s : State) (l : Level) (e : Err) :
    Onward s (State.overflow s l e) := by
  unfold State.overflow
  repeat' first
    | with_reducible assumption
    | with_reducible exact Onward.refl _
    | with_reducible apply Onward.foldl
    | with_reducible apply Onward.foldl_snd
    | with_reducible apply Onward.foldl_st
    | (with_reducible apply Onward.keep (State.bump_keeps ..); (· decide))
    | (with_reducible apply Onward.by (State.countRow_onward ..))
    | (with_reducible apply Onward.keep (State.endAll_keeps ..); (· decide))
    | (with_reducible apply Onward.keep (State.endLaunch?_keeps ..); (· decide))
    | (with_reducible apply Onward.by (State.enterWhiteout_onward ..))
    | (with_reducible apply Onward.keep (State.logError_keeps ..); (· decide))
    | (with_reducible apply Onward.keep (State.modTile_keeps ..); (· decide))
    | (with_reducible apply Onward.keep (State.setHandler_keeps ..); (· decide))
    | split
    | dsimp only
    | intro _

theorem State.detect_onward (s : State) (l : Level) (e : Err) :
    Onward s (State.detect s l e) := by
  unfold State.detect
  repeat' first
    | with_reducible assumption
    | with_reducible exact Onward.refl _
    | (with_reducible apply Onward.by (State.escalate_onward ..))
    | (with_reducible apply Onward.by (State.overflow_onward ..))
    | (with_reducible apply Onward.by (State.serve_onward ..))
    | (with_reducible apply Onward.keep (State.setHandler_keeps ..); (· decide))
    | split
    | dsimp only

theorem State.hit_onward (s : State) (l : Level) (kind : ErrKind) (res : Resource) (unit : Nat) (detail : Nat) (ticket : Option Nat) (work : Sys2Proof.ArrayWork) :
    Onward s (State.hit s l kind res unit detail ticket work) := by
  unfold State.hit
  repeat' first
    | with_reducible assumption
    | with_reducible exact Onward.refl _
    | (with_reducible apply Onward.by (State.detect_onward ..))

theorem State.linkFault_onward (s : State) (p : Fin 4) (ticket : Option Nat) :
    Onward s (State.linkFault s p ticket) := by
  unfold State.linkFault
  repeat' first
    | with_reducible assumption
    | with_reducible exact Onward.refl _
    | (with_reducible apply Onward.keep (State.bump_keeps ..); (· decide))
    | (with_reducible apply Onward.keep (State.healthEvent_keeps ..); (· decide))
    | (with_reducible apply Onward.keep (State.logErr_keeps ..); (· decide))
    | (with_reducible apply Onward.by (State.overflow_onward ..))
    | split
    | dsimp only

theorem State.settleHandler_onward (s : State) (l : Level) :
    Onward s (State.settleHandler s l) := by
  unfold State.settleHandler
  repeat' first
    | with_reducible assumption
    | with_reducible exact Onward.refl _
    | (with_reducible apply Onward.by (State.release_onward ..))
    | split
    | dsimp only

theorem State.settleHandlers_onward (s : State) :
    Onward s (State.settleHandlers s) := by
  unfold State.settleHandlers
  repeat' first
    | with_reducible assumption
    | with_reducible exact Onward.refl _
    | with_reducible apply Onward.foldl
    | with_reducible apply Onward.foldl_snd
    | with_reducible apply Onward.foldl_st
    | (with_reducible apply Onward.by (State.settleHandler_onward ..))
    | split
    | dsimp only
    | intro _

theorem State.endStale_onward (s : State) (t : Ticket) (tile : Nat) :
    Onward s (State.endStale s t tile) := by
  unfold State.endStale
  repeat' first
    | with_reducible assumption
    | with_reducible exact Onward.refl _
    | (with_reducible apply Onward.keep (State.bump_keeps ..); (· decide))
    | (with_reducible apply Onward.by (State.hit_onward ..))
    | (with_reducible apply Onward.keep (State.modTile_keeps ..); (· decide))

theorem State.unlessStale_onward (s : State) (t : Ticket) (r : Running) {u : State} (h : Onward s u) :
    Onward s (s.unlessStale t r u) := by
  unfold State.unlessStale
  split
  · exact State.endStale_onward ..
  · exact h

theorem State.engine_onward {s t : State} {q : Nat} {o : Op} {f : Ticket → Running → Out}
    (h : Onward s t) (k : ∀ tk r, OnwardOut s (f tk r)) : OnwardOut s (t.engine q o f) := by
  unfold State.engine State.awake
  split
  · exact OnwardOut.next h
  · dsimp only
    split
    · split
      · exact OnwardOut.fault
      · split
        · exact OnwardOut.next h
        · split
          · refine OnwardOut.next ?_
            split
            · exact .keep (State.modRun_keeps ..) (by decide) h
            · exact h
          · exact k _ _
    · exact OnwardOut.fault

theorem State.sequenceFault_onward (s : State) (p : Fin 4) (t : Ticket) :
    Onward s (State.sequenceFault s p t) := by
  unfold State.sequenceFault
  repeat' first
    | with_reducible assumption
    | with_reducible exact Onward.refl _
    | (with_reducible apply Onward.keep (State.bump_keeps ..); (· decide))
    | (with_reducible apply Onward.keep (State.endLaunch_keeps ..); (· decide))
    | (with_reducible apply Onward.by (State.linkFault_onward ..))
    | (with_reducible apply Onward.keep (State.logError_keeps ..); (· decide))
    | (with_reducible apply Onward.keep (State.popFrame_keeps ..); (· decide))
    | (with_reducible apply Onward.keep (State.sendAbort_keeps ..); (· decide))
    | split

theorem State.takeFrame_onward (s : State) (p : Fin 4) :
    OnwardOpt s (State.takeFrame s p) := by
  unfold State.takeFrame
  repeat' first
    | with_reducible assumption
    | with_reducible exact Onward.refl _
    | with_reducible exact OnwardOpt.none
    | with_reducible apply OnwardOpt.some
    | (with_reducible apply Onward.keep (State.bump_keeps ..); (· decide))
    | (with_reducible apply Onward.keep (State.mergeFrame_keeps ..); (· decide))
    | (with_reducible apply Onward.keep (State.popFrame_keeps ..); (· decide))
    | (with_reducible apply Onward.by (State.sequenceFault_onward ..))
    | (with_reducible apply Onward.keep (State.takeCheck_keeps ..); (· decide))
    | split
    | dsimp only
    | (with_reducible refine Onward.keep (Keeps.set_passed (w := [.passed]) (Keeps.refl _ _)) ?_ ?_; (· decide))

theorem State.pumpOne_onward (s : State) : OnwardOpt s s.pumpOne := by
  unfold State.pumpOne
  try dsimp only
  split
  · rename_i u l h
    have hu : u ∈ (sortBy runsBefore (s.tickets.filter Ticket.running)).filterMap (fun t => t.run.bind (s.exchStep t)) := by
      rw [h]; exact List.mem_cons_self
    obtain ⟨t, _, ht⟩ := List.mem_filterMap.1 hu
    obtain ⟨r, _, hr⟩ := Option.bind_eq_some_iff.1 ht
    exact OnwardOpt.some (.of_keeps ((State.exchStep_keeps s t r).go _ hr) (by decide))
  · refine ⟨fun u hu => ?_⟩
    obtain ⟨p, _, hp⟩ := List.exists_of_findSome?_eq_some hu
    exact (State.takeFrame_onward s p).go _ hp

theorem State.pumpAll_onward (n : Nat) (s : State) : Onward s (State.pumpAll n s) := by
  induction n generalizing s with
  | zero => exact Onward.refl _
  | succ n ih =>
    unfold State.pumpAll
    split
    · rename_i u hu
      exact ((State.pumpOne_onward s).go u hu).trans (ih _)
    · exact Onward.refl _

theorem State.pump_onward (s : State) :
    Onward s (State.pump s) := by
  unfold State.pump
  repeat' first
    | with_reducible assumption
    | with_reducible exact Onward.refl _
    | (with_reducible apply Onward.by (State.pumpAll_onward ..))

theorem execPeerDeadline_onward (ticket : Nat) (s : State) :
    OnwardOut s (execPeerDeadline ticket s) := by
  unfold execPeerDeadline
  repeat' first
    | with_reducible assumption
    | with_reducible exact Onward.refl _
    | with_reducible exact OnwardOut.fault
    | with_reducible apply OnwardOut.next
    | with_reducible apply State.awake_onward
    | (with_reducible apply Onward.keep (State.modRun_keeps ..); (· decide))
    | (with_reducible apply Onward.keep (State.passOver_keeps ..); (· decide))
    | (with_reducible apply Onward.by (State.pump_onward ..))
    | split
    | dsimp only
    | intro _

theorem execStallLimit_onward (ticket : Nat) (s : State) :
    OnwardOut s (execStallLimit ticket s) := by
  unfold execStallLimit
  repeat' first
    | with_reducible assumption
    | with_reducible exact Onward.refl _
    | with_reducible exact OnwardOut.fault
    | with_reducible apply OnwardOut.next
    | with_reducible apply State.awake_onward
    | (with_reducible apply Onward.keep (State.endLaunch_keeps ..); (· decide))
    | (with_reducible apply Onward.by (State.pump_onward ..))
    | split
    | dsimp only
    | intro _

theorem execCheckDeadline_onward (ticket : Nat) (s : State) :
    OnwardOut s (execCheckDeadline ticket s) := by
  unfold execCheckDeadline
  repeat' first
    | with_reducible assumption
    | with_reducible exact Onward.refl _
    | with_reducible exact OnwardOut.fault
    | with_reducible apply OnwardOut.next
    | with_reducible apply State.awake_onward
    | (with_reducible apply Onward.keep (State.bump_keeps ..); (· decide))
    | (with_reducible apply Onward.keep (State.endLaunch_keeps ..); (· decide))
    | (with_reducible apply Onward.by (State.pump_onward ..))
    | split
    | dsimp only
    | intro _

theorem State.writePin_onward (s : State) (sub : Nat) (v : Nat) :
    OnwardOpt s (State.writePin s sub v) := by
  unfold State.writePin
  repeat' first
    | with_reducible assumption
    | with_reducible exact Onward.refl _
    | with_reducible exact OnwardOpt.none
    | with_reducible apply OnwardOpt.some
    | (with_reducible apply Onward.by (State.enterWhiteout_onward ..))
    | (with_reducible apply Onward.keep (State.modTile_keeps ..); (· decide))
    | split

theorem State.writeObject_onward (s : State) (i : Nat) (sub : Nat) (v : Nat) :
    OnwardOpt s (State.writeObject s i sub v) := by
  unfold State.writeObject
  repeat' first
    | with_reducible assumption
    | with_reducible exact Onward.refl _
    | with_reducible exact OnwardOpt.none
    | with_reducible apply OnwardOpt.some
    | (with_reducible apply OnwardOpt.keep (State.writeMgt_keeps ..); (· decide))
    | (with_reducible apply OnwardOpt.keep (State.writePart_keeps ..); (· decide))
    | (with_reducible apply OnwardOpt.after (State.writePin_onward ..))
    | (with_reducible apply OnwardOpt.keep (State.writeProfile_keeps ..); (· decide))
    | (with_reducible apply OnwardOpt.keep (State.writeReel_keeps ..); (· decide))
    | (with_reducible apply OnwardOpt.keep (State.writeTiming_keeps ..); (· decide))
    | split

theorem State.dictWrite_onward (s : State) (p : Nat) (i : Nat) (sub : Nat) (v : Bytes) :
    OnwardOpt s (State.dictWrite s p i sub v) := by
  unfold State.dictWrite
  repeat' first
    | with_reducible assumption
    | with_reducible exact Onward.refl _
    | with_reducible exact OnwardOpt.none
    | with_reducible apply OnwardOpt.some
    | (with_reducible apply OnwardOpt.after (State.writeObject_onward ..))
    | split

theorem execDict_onward (ticket : Nat) (s : State) :
    OnwardOut s (execDict ticket s) := by
  unfold execDict
  repeat' first
    | with_reducible assumption
    | with_reducible exact Onward.refl _
    | with_reducible exact OnwardOut.fault
    | with_reducible apply OnwardOut.next
    | (with_reducible apply Onward.by_opt (State.dictWrite_onward ..); (· assumption))
    | (with_reducible apply OnwardOpt.after (State.dictWrite_onward ..))
    | with_reducible apply State.engine_onward
    | (with_reducible apply Onward.keep (State.finishWith_keeps ..); (· decide))
    | (with_reducible apply Onward.keep (State.readEffect_keeps ..); (· decide))
    | (with_reducible apply Onward.keep (State.writeHost_keeps ..); (· decide))
    | split
    | dsimp only
    | intro _

theorem State.doSelect_onward (s : State) (t : Ticket) (r : Running) :
    Onward s (State.doSelect s t r) := by
  unfold State.doSelect
  repeat' first
    | with_reducible assumption
    | with_reducible exact Onward.refl _
    | (with_reducible apply Onward.keep (State.addFlags_keeps ..); (· decide))
    | (with_reducible apply Onward.keep (State.markSleet_keeps ..); (· decide))
    | (with_reducible apply Onward.by (State.pump_onward ..))
    | (with_reducible apply Onward.keep (State.scoreAll_keeps ..); (· decide))
    | (with_reducible apply Onward.keep (State.startRound1_keeps ..); (· decide))

theorem execStep_onward (ticket : Nat) (s : State) :
    OnwardOut s (execStep ticket s) := by
  unfold execStep
  repeat' first
    | with_reducible assumption
    | with_reducible exact Onward.refl _
    | with_reducible exact OnwardOut.fault
    | with_reducible apply OnwardOut.next
    | (with_reducible apply Onward.by (State.doSelect_onward ..))
    | with_reducible apply State.engine_onward
    | with_reducible apply State.unlessStale_onward
    | split
    | dsimp only
    | intro _

theorem execScore_onward (ticket : Nat) (s : State) :
    OnwardOut s (execScore ticket s) := by
  unfold execScore
  repeat' first
    | with_reducible assumption
    | with_reducible exact Onward.refl _
    | with_reducible exact OnwardOut.fault
    | with_reducible apply OnwardOut.next
    | (with_reducible apply Onward.keep (State.doScore_keeps ..); (· decide))
    | with_reducible apply State.engine_onward
    | with_reducible apply State.unlessStale_onward
    | split
    | dsimp only
    | intro _

theorem execSettle_onward (ticket : Nat) (s : State) :
    OnwardOut s (execSettle ticket s) := by
  unfold execSettle
  repeat' first
    | with_reducible assumption
    | with_reducible exact Onward.refl _
    | with_reducible exact OnwardOut.fault
    | with_reducible apply OnwardOut.next
    | with_reducible apply State.engine_onward
    | (with_reducible apply Onward.keep (State.markSleet_keeps ..); (· decide))
    | (with_reducible apply Onward.by (State.pump_onward ..))
    | (with_reducible apply Onward.keep (State.startRound1_keeps ..); (· decide))
    | with_reducible apply State.unlessStale_onward
    | split
    | dsimp only
    | intro _

theorem execVerify_onward (ticket : Nat) (s : State) :
    OnwardOut s (execVerify ticket s) := by
  unfold execVerify
  repeat' first
    | with_reducible assumption
    | with_reducible exact Onward.refl _
    | with_reducible exact OnwardOut.fault
    | with_reducible apply OnwardOut.next
    | (with_reducible apply Onward.by (State.doSelect_onward ..))
    | with_reducible apply State.engine_onward
    | with_reducible apply State.unlessStale_onward
    | split
    | dsimp only
    | intro _

theorem execBeam_onward (ticket : Nat) (s : State) :
    OnwardOut s (execBeam ticket s) := by
  unfold execBeam
  repeat' first
    | with_reducible assumption
    | with_reducible exact Onward.refl _
    | with_reducible exact OnwardOut.fault
    | with_reducible apply OnwardOut.next
    | (with_reducible apply Onward.by (State.doSelect_onward ..))
    | with_reducible apply State.engine_onward
    | with_reducible apply State.unlessStale_onward
    | split
    | dsimp only
    | intro _

theorem execLoss_onward (ticket : Nat) (s : State) :
    OnwardOut s (execLoss ticket s) := by
  unfold execLoss
  repeat' first
    | with_reducible assumption
    | with_reducible exact Onward.refl _
    | with_reducible exact OnwardOut.fault
    | with_reducible apply OnwardOut.next
    | (with_reducible apply Onward.keep (State.doLoss_keeps ..); (· decide))
    | with_reducible apply State.engine_onward
    | (with_reducible apply Onward.by (State.pump_onward ..))
    | with_reducible apply State.unlessStale_onward
    | split
    | dsimp only
    | intro _

theorem execGrad_onward (ticket : Nat) (s : State) :
    OnwardOut s (execGrad ticket s) := by
  unfold execGrad
  repeat' first
    | with_reducible assumption
    | with_reducible exact Onward.refl _
    | with_reducible exact OnwardOut.fault
    | with_reducible apply OnwardOut.next
    | (with_reducible apply Onward.keep (State.doGrad_keeps ..); (· decide))
    | with_reducible apply State.engine_onward
    | (with_reducible apply Onward.by (State.pump_onward ..))
    | with_reducible apply State.unlessStale_onward
    | split
    | dsimp only
    | intro _

theorem execReduce_onward (ticket : Nat) (s : State) :
    OnwardOut s (execReduce ticket s) := by
  unfold execReduce
  repeat' first
    | with_reducible assumption
    | with_reducible exact Onward.refl _
    | with_reducible exact OnwardOut.fault
    | with_reducible apply OnwardOut.next
    | (with_reducible apply Onward.keep (State.doReduce_keeps ..); (· decide))
    | with_reducible apply State.engine_onward
    | (with_reducible apply Onward.by (State.pump_onward ..))
    | split
    | dsimp only
    | intro _

theorem State.onError_onward {s t : State} {f : State → Out} (h : Onward s t)
    (k : ∀ u, Onward s u → OnwardOut s (f u)) : OnwardOut s (t.onError f) := by
  refine State.awake_onward h fun u hu => ?_
  try dsimp only
  split
  · exact OnwardOut.next hu
  · exact k u hu

theorem execCellResidueError_onward (tile : Nat) (row : Nat) (col : Nat) (use : Sys2Proof.ArrayUse) (s : State) :
    OnwardOut s (execCellResidueError tile row col use s) := by
  unfold execCellResidueError
  repeat' first
    | with_reducible assumption
    | with_reducible exact Onward.refl _
    | with_reducible exact OnwardOut.fault
    | with_reducible apply OnwardOut.next
    | (with_reducible apply Onward.keep (State.bump_keeps ..); (· decide))
    | (with_reducible apply Onward.by (State.hit_onward ..))
    | with_reducible apply State.onError_onward
    | (with_reducible apply Onward.keep (State.pendColumn_keeps ..); (· decide))
    | split
    | dsimp only
    | intro _

theorem execRegisterParityError_onward (tile : Nat) (row : Nat) (col : Nat) (use : Sys2Proof.ArrayUse) (s : State) :
    OnwardOut s (execRegisterParityError tile row col use s) := by
  unfold execRegisterParityError
  repeat' first
    | with_reducible assumption
    | with_reducible exact Onward.refl _
    | with_reducible exact OnwardOut.fault
    | with_reducible apply OnwardOut.next
    | (with_reducible apply Onward.keep (State.bump_keeps ..); (· decide))
    | (with_reducible apply Onward.by (State.hit_onward ..))
    | with_reducible apply State.onError_onward
    | (with_reducible apply Onward.keep (State.pendColumn_keeps ..); (· decide))
    | (with_reducible apply Onward.keep (State.spoilCell_keeps ..); (· decide))
    | split
    | dsimp only
    | intro _

theorem execAccumulatorResidueError_onward (bank : Sys2Proof.AccBank) (use : Sys2Proof.ArrayUse) (s : State) :
    OnwardOut s (execAccumulatorResidueError bank use s) := by
  unfold execAccumulatorResidueError
  repeat' first
    | with_reducible assumption
    | with_reducible exact Onward.refl _
    | with_reducible exact OnwardOut.fault
    | with_reducible apply OnwardOut.next
    | (with_reducible apply Onward.keep (State.bump_keeps ..); (· decide))
    | (with_reducible apply Onward.by (State.hit_onward ..))
    | with_reducible apply State.onError_onward
    | (with_reducible apply Onward.keep (State.pendColumn_keeps ..); (· decide))
    | split
    | dsimp only
    | intro _

theorem execAccumulatorUncorrectable_onward (bank : Sys2Proof.AccBank) (use : Sys2Proof.ArrayUse) (s : State) :
    OnwardOut s (execAccumulatorUncorrectable bank use s) := by
  unfold execAccumulatorUncorrectable
  repeat' first
    | with_reducible assumption
    | with_reducible exact Onward.refl _
    | with_reducible exact OnwardOut.fault
    | with_reducible apply OnwardOut.next
    | (with_reducible apply Onward.keep (State.bump_keeps ..); (· decide))
    | (with_reducible apply Onward.by (State.hit_onward ..))
    | with_reducible apply State.onError_onward
    | split
    | dsimp only
    | intro _

theorem execLaneMismatch_onward (slice : Nat) (unit : Sys2Proof.LaneUnit) (use : Sys2Proof.LaneUse) (ticket : Option Nat) (s : State) :
    OnwardOut s (execLaneMismatch slice unit use ticket s) := by
  unfold execLaneMismatch
  repeat' first
    | with_reducible assumption
    | with_reducible exact Onward.refl _
    | with_reducible exact OnwardOut.fault
    | with_reducible apply OnwardOut.next
    | (with_reducible apply Onward.keep (State.bump_keeps ..); (· decide))
    | (with_reducible apply Onward.by (State.detect_onward ..))
    | with_reducible apply State.onError_onward
    | split
    | dsimp only
    | intro _

theorem execMoraineMismatch_onward (ticket : Option Nat) (s : State) :
    OnwardOut s (execMoraineMismatch ticket s) := by
  unfold execMoraineMismatch
  repeat' first
    | with_reducible assumption
    | with_reducible exact Onward.refl _
    | with_reducible exact OnwardOut.fault
    | with_reducible apply OnwardOut.next
    | (with_reducible apply Onward.keep (State.bump_keeps ..); (· decide))
    | (with_reducible apply Onward.by (State.hit_onward ..))
    | with_reducible apply State.onError_onward
    | split
    | dsimp only
    | intro _

theorem execFlurryMismatch_onward (unit : Sys2Proof.FlurryUnit) (ticket : Option Nat) (s : State) :
    OnwardOut s (execFlurryMismatch unit ticket s) := by
  unfold execFlurryMismatch
  repeat' first
    | with_reducible assumption
    | with_reducible exact Onward.refl _
    | with_reducible exact OnwardOut.fault
    | with_reducible apply OnwardOut.next
    | (with_reducible apply Onward.keep (State.bump_keeps ..); (· decide))
    | (with_reducible apply Onward.by (State.detect_onward ..))
    | (with_reducible apply Onward.by (State.escalate_onward ..))
    | (with_reducible apply Onward.by (State.hit_onward ..))
    | with_reducible apply State.onError_onward
    | split
    | dsimp only
    | intro _

theorem execSleetParityError_onward (slice : Nat) (s : State) :
    OnwardOut s (execSleetParityError slice s) := by
  unfold execSleetParityError
  repeat' first
    | with_reducible assumption
    | with_reducible exact Onward.refl _
    | with_reducible exact OnwardOut.fault
    | with_reducible apply OnwardOut.next
    | (with_reducible apply Onward.keep (State.bump_keeps ..); (· decide))
    | with_reducible apply State.onError_onward
    | (with_reducible apply Onward.by (State.perform_onward ..))
    | split
    | dsimp only
    | intro _

theorem execFirnUncorrectableWeight_onward (region : Nat) (set : Nat) (bank : Nat) (ticket : Option Nat) (s : State) :
    OnwardOut s (execFirnUncorrectableWeight region set bank ticket s) := by
  unfold execFirnUncorrectableWeight
  repeat' first
    | with_reducible assumption
    | with_reducible exact Onward.refl _
    | with_reducible exact OnwardOut.fault
    | with_reducible apply OnwardOut.next
    | (with_reducible apply Onward.keep (State.bump_keeps ..); (· decide))
    | (with_reducible apply Onward.by (State.detect_onward ..))
    | with_reducible apply State.onError_onward
    | split
    | dsimp only
    | intro _

theorem execFirnUncorrectableWorkArea_onward (region : Nat) (bank : Nat) (ticket : Option Nat) (s : State) :
    OnwardOut s (execFirnUncorrectableWorkArea region bank ticket s) := by
  unfold execFirnUncorrectableWorkArea
  repeat' first
    | with_reducible assumption
    | with_reducible exact Onward.refl _
    | with_reducible exact OnwardOut.fault
    | with_reducible apply OnwardOut.next
    | (with_reducible apply Onward.keep (State.bump_keeps ..); (· decide))
    | (with_reducible apply Onward.by (State.hit_onward ..))
    | with_reducible apply State.onError_onward
    | split
    | dsimp only
    | intro _

theorem State.popRetry_onward (s : State) (r : Retry) :
    Onward s (State.popRetry s r) := by
  unfold State.popRetry
  repeat' first
    | with_reducible assumption
    | with_reducible exact Onward.refl _
    | (with_reducible apply Onward.keep (State.preemptAfter_keeps ..); (· decide))
    | (with_reducible apply Onward.by (State.release_onward ..))
    | (with_reducible apply Onward.keep (State.retryReloads_keeps ..); (· decide))
    | (with_reducible apply Onward.by (State.settleHandlers_onward ..))
    | split
    | dsimp only
    | (with_reducible refine Onward.keep (Keeps.set_retries (w := [.retries]) (Keeps.refl _ _)) ?_ ?_; (· decide))

theorem State.endReread_onward (s : State) (r : Retry) (e : Err) (stillFails : Bool) :
    Onward s (State.endReread s r e stillFails) := by
  unfold State.endReread
  repeat' first
    | with_reducible assumption
    | with_reducible exact Onward.refl _
    | (with_reducible apply Onward.keep (State.bump_keeps ..); (· decide))
    | (with_reducible apply Onward.keep (State.degrade_keeps ..); (· decide))
    | (with_reducible apply Onward.keep (State.endLaunch?_keeps ..); (· decide))
    | (with_reducible apply Onward.keep (State.logError_keeps ..); (· decide))
    | (with_reducible apply Onward.by (State.popRetry_onward ..))
    | (with_reducible apply Onward.keep (State.requestSet_keeps ..); (· decide))
    | (with_reducible apply Onward.keep (State.startRetry_keeps ..); (· decide))
    | (with_reducible apply Onward.keep (State.stillBad_keeps ..); (· decide))
    | (with_reducible apply Onward.keep (State.writeBack_keeps ..); (· decide))
    | split
    | dsimp only
    | (with_reducible refine Onward.keep (Keeps.set_retries (w := [.retries]) (Keeps.refl _ _)) ?_ ?_; (· decide))

theorem execRetryEnd_onward (stillFails : Bool) (s : State) :
    OnwardOut s (execRetryEnd stillFails s) := by
  unfold execRetryEnd
  repeat' first
    | with_reducible assumption
    | with_reducible exact Onward.refl _
    | with_reducible exact OnwardOut.fault
    | with_reducible apply OnwardOut.next
    | (with_reducible apply Onward.by (State.endReread_onward ..))
    | with_reducible apply State.onError_onward
    | (with_reducible apply Onward.by (State.popRetry_onward ..))
    | split
    | dsimp only
    | (with_reducible refine Onward.keep (Keeps.set_retries (w := [.retries]) (Keeps.refl _ _)) ?_ ?_; (· decide))
    | intro _

theorem State.scrubBad_onward (s : State) (w : Nat) (region : Nat) :
    Onward s (State.scrubBad s w region) := by
  unfold State.scrubBad
  repeat' first
    | with_reducible assumption
    | with_reducible exact Onward.refl _
    | (with_reducible apply Onward.keep (State.bump_keeps ..); (· decide))
    | (with_reducible apply Onward.by (State.detect_onward ..))
    | split

theorem execScrubRead_onward (found : Sys2Proof.ScrubFound) (s : State) : OnwardOut s (execScrubRead found s) := by
  refine State.onError_onward (Onward.refl _) fun u hu => ?_
  try dsimp only
  split
  · exact OnwardOut.next (.keep (Keeps.set_scrub (w := [.scrub]) (Keeps.refl _ _)) (by decide) hu)
  · rename_i w r u1 h
    have h1 : Onward s u1 := .keep (State.scrubAt_keeps h) (by decide) hu
    have h2 : Onward s { u1 with scrub := w + 1 } :=
      .keep (Keeps.set_scrub (w := [.scrub]) (Keeps.refl _ _)) (by decide) h1
    split
    · exact OnwardOut.next h2
    · exact OnwardOut.next (.keep (State.stillBad_keeps ..) (by decide) (.keep (State.bump_keeps ..) (by decide) h2))
    · exact OnwardOut.next (Onward.by (State.scrubBad_onward ..) h2)

theorem State.endBackground_onward (s : State) (b : Background) :
    Onward s (State.endBackground s b) := by
  unfold State.endBackground
  repeat' first
    | with_reducible assumption
    | with_reducible exact Onward.refl _
    | (with_reducible apply Onward.by (State.release_onward ..))
    | split
    | dsimp only
    | (with_reducible refine Onward.keep (Keeps.set_background (w := [.background]) (Keeps.refl _ _)) ?_ ?_; (· decide))

theorem execBackgroundRereadDone_onward (region : Nat) (set : Nat) (stillFails : Bool) (s : State) :
    OnwardOut s (execBackgroundRereadDone region set stillFails s) := by
  unfold execBackgroundRereadDone
  repeat' first
    | with_reducible assumption
    | with_reducible exact Onward.refl _
    | with_reducible exact OnwardOut.fault
    | with_reducible apply OnwardOut.next
    | (with_reducible apply Onward.keep (State.bump_keeps ..); (· decide))
    | (with_reducible apply Onward.keep (State.degrade_keeps ..); (· decide))
    | (with_reducible apply Onward.by (State.endBackground_onward ..))
    | (with_reducible apply Onward.keep (State.logError_keeps ..); (· decide))
    | with_reducible apply State.onError_onward
    | (with_reducible apply Onward.keep (State.requestSet_keeps ..); (· decide))
    | (with_reducible apply Onward.keep (State.stillBad_keeps ..); (· decide))
    | (with_reducible apply Onward.keep (State.writeBack_keeps ..); (· decide))
    | split
    | dsimp only
    | (with_reducible refine Onward.keep (Keeps.set_background (w := [.background]) (Keeps.refl _ _)) ?_ ?_; (· decide))
    | intro _

theorem execTableMemoryError_onward (slice : Nat) (_mem : Sys2Proof.TableMem) (ticket : Option Nat) (s : State) :
    OnwardOut s (execTableMemoryError slice _mem ticket s) := by
  unfold execTableMemoryError
  repeat' first
    | with_reducible assumption
    | with_reducible exact Onward.refl _
    | with_reducible exact OnwardOut.fault
    | with_reducible apply OnwardOut.next
    | (with_reducible apply Onward.by (State.hit_onward ..))
    | (with_reducible apply Onward.keep (State.modSlice_keeps ..); (· decide))
    | with_reducible apply State.onError_onward
    | split
    | dsimp only
    | intro _

theorem execTableReloadDone_onward (slice : Nat) (verified : Bool) (s : State) :
    OnwardOut s (execTableReloadDone slice verified s) := by
  unfold execTableReloadDone
  repeat' first
    | with_reducible assumption
    | with_reducible exact Onward.refl _
    | with_reducible exact OnwardOut.fault
    | with_reducible apply OnwardOut.next
    | (with_reducible apply Onward.keep (State.bump_keeps ..); (· decide))
    | (with_reducible apply Onward.by (State.enterWhiteout_onward ..))
    | (with_reducible apply Onward.keep (State.logError_keeps ..); (· decide))
    | (with_reducible apply Onward.keep (State.modSlice_keeps ..); (· decide))
    | with_reducible apply State.onError_onward
    | (with_reducible apply Onward.by (State.release_onward ..))
    | split
    | dsimp only
    | (with_reducible refine Onward.keep (Keeps.set_tableReloaded (w := [.tableReloaded]) (Keeps.refl _ _)) ?_ ?_; (· decide))
    | intro _

theorem execContextMemoryError_onward (ctx : Nat) (ticket : Option Nat) (s : State) :
    OnwardOut s (execContextMemoryError ctx ticket s) := by
  unfold execContextMemoryError
  repeat' first
    | with_reducible assumption
    | with_reducible exact Onward.refl _
    | with_reducible exact OnwardOut.fault
    | with_reducible apply OnwardOut.next
    | (with_reducible apply Onward.by (State.hit_onward ..))
    | with_reducible apply State.onError_onward
    | split
    | dsimp only
    | intro _

theorem execCrossingDatumLate_onward (ticket : Nat) (s : State) :
    OnwardOut s (execCrossingDatumLate ticket s) := by
  unfold execCrossingDatumLate
  repeat' first
    | with_reducible assumption
    | with_reducible exact Onward.refl _
    | with_reducible exact OnwardOut.fault
    | with_reducible apply OnwardOut.next
    | (with_reducible apply Onward.keep (State.bump_keeps ..); (· decide))
    | (with_reducible apply Onward.by (State.hit_onward ..))
    | with_reducible apply State.onError_onward
    | split
    | dsimp only
    | intro _

theorem State.splitBad_onward (s : State) (tile : Nat) (row : Nat) (work : Sys2Proof.ArrayWork) (ticket : Option Nat) :
    Onward s (State.splitBad s tile row work ticket) := by
  unfold State.splitBad
  repeat' first
    | with_reducible assumption
    | with_reducible exact Onward.refl _
    | (with_reducible apply Onward.by (State.hit_onward ..))
    | (with_reducible apply Onward.keep (State.modTile_keeps ..); (· decide))
    | split

theorem execByteParityError_onward (path : Sys2Proof.ParityPath) (ticket : Option Nat) (s : State) :
    OnwardOut s (execByteParityError path ticket s) := by
  unfold execByteParityError
  repeat' first
    | with_reducible assumption
    | with_reducible exact Onward.refl _
    | with_reducible exact OnwardOut.fault
    | with_reducible apply OnwardOut.next
    | (with_reducible apply Onward.keep (State.badSet_keeps ..); (· decide))
    | (with_reducible apply Onward.keep (State.bump_keeps ..); (· decide))
    | (with_reducible apply Onward.keep (State.modRun_keeps ..); (· decide))
    | with_reducible apply State.onError_onward
    | (with_reducible apply Onward.keep (State.parityEnds_keeps ..); (· decide))
    | (with_reducible apply Onward.by (State.splitBad_onward ..))
    | (with_reducible apply Onward.keep (State.spoilReread_keeps ..); (· decide))
    | split
    | dsimp only
    | intro _

theorem State.followParts_onward (s : State) : Onward s s.followParts := by
  unfold State.followParts
  split
  · rename_i h
    unfold Onward
    dsimp only
    split <;> rcases h with h | h <;> rw [h] <;> decide
  · exact Onward.refl _

theorem execCommandCompletion_onward (ticket : Nat) (s : State) :
    OnwardOut s (execCommandCompletion ticket s) := by
  unfold execCommandCompletion
  repeat' first
    | with_reducible assumption
    | with_reducible exact Onward.refl _
    | with_reducible exact OnwardOut.fault
    | with_reducible apply OnwardOut.next
    | with_reducible apply State.awake_onward
    | (with_reducible apply Onward.keep (State.complete_keeps ..); (· decide))
    | (with_reducible apply Onward.keep (State.finish_keeps ..); (· decide))
    | (with_reducible apply Onward.keep (State.haltDue_keeps ..); (· decide))
    | (with_reducible apply Onward.keep (State.modRun_keeps ..); (· decide))
    | (with_reducible apply Onward.by (State.settleHandlers_onward ..))
    | split
    | dsimp only
    | intro _

theorem State.ckptDone_onward (s : State) (c : Ckpt) :
    Onward s (State.ckptDone s c) := by
  unfold State.ckptDone
  repeat' first
    | with_reducible assumption
    | with_reducible exact Onward.refl _
    | (with_reducible apply Onward.keep (State.closePart_keeps ..); (· decide))
    | (with_reducible apply Onward.keep (State.modPart_keeps ..); (· decide))
    | (with_reducible apply Onward.keep (State.putCompletion_keeps ..); (· decide))
    | (with_reducible apply Onward.keep (State.respond_keeps ..); (· decide))
    | (with_reducible apply Onward.by (State.settleHandlers_onward ..))
    | split
    | dsimp only

theorem execCheckpointSigned_onward (s : State) :
    OnwardOut s (execCheckpointSigned s) := by
  unfold execCheckpointSigned
  repeat' first
    | with_reducible assumption
    | with_reducible exact Onward.refl _
    | with_reducible exact OnwardOut.fault
    | with_reducible apply OnwardOut.next
    | with_reducible apply State.awake_onward
    | (with_reducible apply Onward.by (State.ckptDone_onward ..))
    | (with_reducible apply Onward.by (State.followParts_onward ..))
    | (with_reducible apply Onward.keep (State.writeCheckpoint_keeps ..); (· decide))
    | split
    | dsimp only
    | (with_reducible refine Onward.keep (Keeps.set_ckpts (w := [.ckpts]) (Keeps.refl _ _)) ?_ ?_; (· decide))
    | intro _

theorem State.onReel_onward {s t : State} {f : State → Out} (h : Onward s t)
    (k : ∀ u, Onward s u → OnwardOut s (f u)) : OnwardOut s (t.onReel f) := by
  refine State.awake_onward h fun u hu => ?_
  try dsimp only
  split
  · exact k u hu
  · exact OnwardOut.next hu

theorem State.dropLink_onward (s : State) (p : Fin 4) :
    Onward s (State.dropLink s p) := by
  unfold State.dropLink
  repeat' first
    | with_reducible assumption
    | with_reducible exact Onward.refl _
    | with_reducible apply Onward.foldl
    | with_reducible apply Onward.foldl_snd
    | with_reducible apply Onward.foldl_st
    | (with_reducible apply Onward.keep (State.endLaunch_keeps ..); (· decide))
    | (with_reducible apply Onward.keep (State.failChecks_keeps ..); (· decide))
    | (with_reducible apply Onward.keep (State.linkDown_keeps ..); (· decide))
    | (with_reducible apply Onward.by (State.linkFault_onward ..))
    | (with_reducible apply Onward.by (State.pump_onward ..))
    | split
    | dsimp only
    | intro _

theorem State.receive_onward {s t : State} {f : Sys2Proof.RxFrame} {kind : Nat}
    {g : State → Frame → Out} (h : Onward s t) (k : ∀ u fr, Onward s u → OnwardOut s (g u fr)) :
    OnwardOut s (t.receive f kind g) := by
  refine State.onPort_onward h fun x hx => State.onReel_onward hx fun u hu => ?_
  try dsimp only
  split
  · exact OnwardOut.next (.keep (State.bump_keeps ..) (by decide) hu)
  · split
    · exact OnwardOut.next hu
    · split
      · exact k u _ hu
      · split
        · exact OnwardOut.next hu
        · exact k _ _ (.keep (State.takeAck_keeps ..) (by decide) hu)

theorem execExchange_onward (f : Sys2Proof.RxFrame) (s : State) :
    OnwardOut s (execExchange f s) := by
  unfold execExchange
  repeat' first
    | with_reducible assumption
    | with_reducible exact Onward.refl _
    | with_reducible exact OnwardOut.fault
    | with_reducible apply OnwardOut.next
    | (with_reducible apply Onward.keep (State.acceptFrame_keeps ..); (· decide))
    | (with_reducible apply Onward.by (State.pump_onward ..))
    | with_reducible apply State.receive_onward
    | split
    | dsimp only
    | intro _

theorem execCheck_onward (f : Sys2Proof.RxFrame) (s : State) :
    OnwardOut s (execCheck f s) := by
  unfold execCheck
  repeat' first
    | with_reducible assumption
    | with_reducible exact Onward.refl _
    | with_reducible exact OnwardOut.fault
    | with_reducible apply OnwardOut.next
    | (with_reducible apply Onward.keep (State.acceptFrame_keeps ..); (· decide))
    | (with_reducible apply Onward.by (State.pump_onward ..))
    | with_reducible apply State.receive_onward
    | split
    | dsimp only
    | intro _

theorem execIdle_onward (f : Sys2Proof.RxFrame) (s : State) :
    OnwardOut s (execIdle f s) := by
  unfold execIdle
  repeat' first
    | with_reducible assumption
    | with_reducible exact Onward.refl _
    | with_reducible exact OnwardOut.fault
    | with_reducible apply OnwardOut.next
    | (with_reducible apply Onward.by (State.pump_onward ..))
    | with_reducible apply State.receive_onward
    | split
    | dsimp only
    | intro _

theorem execNak_onward (f : Sys2Proof.RxFrame) (s : State) :
    OnwardOut s (execNak f s) := by
  unfold execNak
  repeat' first
    | with_reducible assumption
    | with_reducible exact Onward.refl _
    | with_reducible exact OnwardOut.fault
    | with_reducible apply OnwardOut.next
    | (with_reducible apply Onward.by (State.pump_onward ..))
    | with_reducible apply State.receive_onward
    | (with_reducible apply Onward.keep (State.resendAll_keeps ..); (· decide))
    | split
    | dsimp only
    | intro _

theorem execAbort_onward (f : Sys2Proof.RxFrame) (s : State) :
    OnwardOut s (execAbort f s) := by
  unfold execAbort
  repeat' first
    | with_reducible assumption
    | with_reducible exact Onward.refl _
    | with_reducible exact OnwardOut.fault
    | with_reducible apply OnwardOut.next
    | (with_reducible apply Onward.keep (State.bump_keeps ..); (· decide))
    | (with_reducible apply Onward.by (State.pump_onward ..))
    | (with_reducible apply Onward.keep (State.putFrames_keeps ..); (· decide))
    | with_reducible apply State.receive_onward
    | (with_reducible apply Onward.keep (State.takeAbort_keeps ..); (· decide))
    | split
    | dsimp only
    | (with_reducible refine Onward.keep (Keeps.set_abortSeen (w := [.abortSeen]) (Keeps.refl _ _)) ?_ ?_; (· decide))
    | intro _

theorem execHello_onward (f : Sys2Proof.RxFrame) (s : State) :
    OnwardOut s (execHello f s) := by
  unfold execHello
  repeat' first
    | with_reducible assumption
    | with_reducible exact Onward.refl _
    | with_reducible exact OnwardOut.fault
    | with_reducible apply OnwardOut.next
    | (with_reducible apply Onward.by (State.dropLink_onward ..))
    | with_reducible apply State.receive_onward
    | (with_reducible apply Onward.keep (State.takeHello_keeps ..); (· decide))
    | split
    | dsimp only
    | intro _

theorem execLinkReceiveTimeout_onward (port : Fin 4) (s : State) :
    OnwardOut s (execLinkReceiveTimeout port s) := by
  unfold execLinkReceiveTimeout
  repeat' first
    | with_reducible assumption
    | with_reducible exact Onward.refl _
    | with_reducible exact OnwardOut.fault
    | with_reducible apply OnwardOut.next
    | (with_reducible apply Onward.by (State.dropLink_onward ..))
    | with_reducible apply State.onReel_onward
    | split
    | dsimp only
    | intro _

theorem execReelFrameCrcFailure_onward (port : Fin 4) (arrival : Sys2Proof.BadFrame) (s : State) :
    OnwardOut s (execReelFrameCrcFailure port arrival s) := by
  unfold execReelFrameCrcFailure
  repeat' first
    | with_reducible assumption
    | with_reducible exact Onward.refl _
    | with_reducible exact OnwardOut.fault
    | with_reducible apply OnwardOut.next
    | (with_reducible apply Onward.keep (State.bump_keeps ..); (· decide))
    | (with_reducible apply Onward.by (State.dropLink_onward ..))
    | (with_reducible apply Onward.by (State.hit_onward ..))
    | with_reducible apply State.onPort_onward
    | with_reducible apply State.onReel_onward
    | (with_reducible apply Onward.keep (State.portError_keeps ..); (· decide))
    | (with_reducible apply Onward.keep (State.sendControl_keeps ..); (· decide))
    | split
    | dsimp only
    | intro _

theorem State.atCount_onward (s : State) :
    Onward s (State.atCount s) := by
  unfold State.atCount
  repeat' first
    | with_reducible assumption
    | with_reducible exact Onward.refl _
    | with_reducible apply Onward.foldl
    | with_reducible apply Onward.foldl_snd
    | with_reducible apply Onward.foldl_st
    | (with_reducible apply Onward.keep (State.countWaits_keeps ..); (· decide))
    | (with_reducible apply Onward.keep (State.launchAll_keeps ..); (· decide))
    | (with_reducible apply Onward.keep (State.listHolds_keeps ..); (· decide))
    | (with_reducible apply Onward.by (State.pump_onward ..))
    | (with_reducible apply Onward.keep (State.pumpIn_keeps ..); (· decide))
    | split
    | dsimp only
    | intro _

theorem execPavaneAdvance_onward (pav : BitVec 64) (s : State) :
    OnwardOut s (execPavaneAdvance pav s) := by
  unfold execPavaneAdvance
  repeat' first
    | with_reducible assumption
    | with_reducible exact Onward.refl _
    | with_reducible exact OnwardOut.fault
    | with_reducible apply OnwardOut.next
    | (with_reducible apply Onward.by (State.atCount_onward ..))
    | with_reducible apply State.awake_onward
    | (with_reducible apply Onward.keep (State.setCount_keeps ..); (· decide))
    | (with_reducible apply Onward.keep (State.takeSlip_keeps ..); (· decide))
    | split
    | dsimp only
    | intro _

theorem execPavaneSlip_onward (pav : BitVec 64) (s : State) :
    OnwardOut s (execPavaneSlip pav s) := by
  unfold execPavaneSlip
  repeat' first
    | with_reducible assumption
    | with_reducible exact Onward.refl _
    | with_reducible exact OnwardOut.fault
    | with_reducible apply OnwardOut.next
    | (with_reducible apply Onward.by (State.atCount_onward ..))
    | with_reducible apply State.awake_onward
    | (with_reducible apply Onward.keep (State.takeSlip_keeps ..); (· decide))
    | split
    | dsimp only
    | intro _

theorem State.answerWrite_onward (s : State) (i : Nat) :
    Onward s (State.answerWrite s i) := by
  unfold State.answerWrite
  repeat' first
    | with_reducible assumption
    | with_reducible exact Onward.refl _
    | (with_reducible apply Onward.by (State.followParts_onward ..))
    | (with_reducible apply Onward.keep (State.modWindow_keeps ..); (· decide))
    | (with_reducible apply Onward.keep (State.respond_keeps ..); (· decide))
    | split
    | dsimp only

theorem State.doWrite_onward (s : State) :
    Onward s (State.doWrite s) := by
  unfold State.doWrite
  repeat' first
    | with_reducible assumption
    | with_reducible exact Onward.refl _
    | (with_reducible apply Onward.by (State.answerWrite_onward ..))
    | (with_reducible apply Onward.keep (State.respond_keeps ..); (· decide))
    | (with_reducible apply Onward.by_opt (State.writeObject_onward ..); (· assumption))
    | (with_reducible apply OnwardOpt.after (State.writeObject_onward ..))
    | split
    | dsimp only

theorem State.onRequest_onward {s t : State} {op : Nat} {f : State → State} (h : Onward s t)
    (k : ∀ u, Onward s u → Onward s (f u)) : OnwardOut s (t.onRequest op f) := by
  unfold State.onRequest
  split
  · exact OnwardOut.next h
  · split
    · exact OnwardOut.next h
    · split
      · exact OnwardOut.next (.keep (State.respond_keeps ..) (by decide) h)
      · exact OnwardOut.next (k t h)

theorem execWrite_onward (s : State) :
    OnwardOut s (execWrite s) := by
  unfold execWrite
  repeat' first
    | with_reducible assumption
    | with_reducible exact Onward.refl _
    | with_reducible exact OnwardOut.fault
    | with_reducible apply OnwardOut.next
    | (with_reducible apply Onward.by (State.doWrite_onward ..))
    | with_reducible apply State.onRequest_onward
    | split
    | dsimp only
    | intro _

theorem execDictionaryAccessRelease_onward (s : State) :
    OnwardOut s (execDictionaryAccessRelease s) := by
  unfold execDictionaryAccessRelease
  repeat' first
    | with_reducible assumption
    | with_reducible exact Onward.refl _
    | with_reducible exact OnwardOut.fault
    | with_reducible apply OnwardOut.next
    | (with_reducible apply Onward.keep (State.doDescribe_keeps ..); (· decide))
    | (with_reducible apply Onward.keep (State.doRead_keeps ..); (· decide))
    | (with_reducible apply Onward.by (State.doWrite_onward ..))
    | (with_reducible apply Onward.keep (State.modWindow_keeps ..); (· decide))
    | (with_reducible apply Onward.keep (State.respond_keeps ..); (· decide))
    | split

theorem State.service_onward {s t : State} {code : Nat} {inWhiteout stateOk : Bool} {c : Caller} {len : Nat}
    {f : State → State} (h : Onward s t) (k : ∀ u, Onward s u → Onward s (f u)) :
    OnwardOut s (t.service code inWhiteout stateOk c len f) := by
  refine State.onRequest_onward h fun u hu => ?_
  try dsimp only
  split
  · exact .keep (State.respond_keeps ..) (by decide) hu
  · split
    · exact .keep (State.respond_keeps ..) (by decide) hu
    · split
      · exact .keep (State.respond_keeps ..) (by decide) hu
      · split
        · exact .keep (State.respond_keeps ..) (by decide) hu
        · exact k u hu

theorem State.leaveSelftest_onward (s : State) : Onward s s.leaveSelftest := by
  unfold State.leaveSelftest
  split
  · rename_i h
    have h1 : s.startup = .selftest := by simp_all
    unfold Onward; rw [h1]; exact (by decide : Startup.selftest.stage ≤ Startup.image.stage)
  · exact Onward.refl _

theorem execEnrol_onward (s : State) :
    OnwardOut s (execEnrol s) := by
  unfold execEnrol
  repeat' first
    | with_reducible assumption
    | with_reducible exact Onward.refl _
    | with_reducible exact OnwardOut.fault
    | with_reducible apply OnwardOut.next
    | (with_reducible apply Onward.by (State.leaveSelftest_onward ..))
    | (with_reducible apply Onward.keep (State.modVault_keeps ..); (· decide))
    | (with_reducible apply Onward.keep (State.respond_keeps ..); (· decide))
    | with_reducible apply State.service_onward
    | split
    | dsimp only
    | intro _

theorem execSelftest_onward (failed : BitVec 32) (s : State) :
    OnwardOut s (execSelftest failed s) := by
  unfold execSelftest
  repeat' first
    | with_reducible assumption
    | with_reducible exact Onward.refl _
    | with_reducible exact OnwardOut.fault
    | with_reducible apply OnwardOut.next
    | (with_reducible apply Onward.by (State.enterWhiteout_onward ..))
    | (with_reducible apply Onward.keep (State.modVault_keeps ..); (· decide))
    | (with_reducible apply Onward.keep (State.respond_keeps ..); (· decide))
    | with_reducible apply State.service_onward
    | split
    | dsimp only
    | intro _

theorem State.vaultFails_onward (s : State) (bits : U32) :
    Onward s (State.vaultFails s bits) := by
  unfold State.vaultFails
  repeat' first
    | with_reducible assumption
    | with_reducible exact Onward.refl _
    | (with_reducible apply Onward.by (State.enterWhiteout_onward ..))
    | (with_reducible apply Onward.keep (State.modVault_keeps ..); (· decide))

theorem State.makeAuditKey_onward (s : State) (d : Drbg) :
    Onward s (State.makeAuditKey s d) := by
  unfold State.makeAuditKey
  repeat' first
    | with_reducible assumption
    | with_reducible exact Onward.refl _
    | (with_reducible apply Onward.keep (State.modVault_keeps ..); (· decide))
    | (with_reducible apply Onward.keep (State.setDrbg_keeps ..); (· decide))
    | (with_reducible apply Onward.by (State.vaultFails_onward ..))
    | split
    | dsimp only

theorem State.credit_onward (s : State) (x : Byte) :
    Onward s (State.credit s x) := by
  unfold State.credit
  repeat' first
    | with_reducible assumption
    | with_reducible exact Onward.refl _
    | (with_reducible apply Onward.keep (State.bump_keeps ..); (· decide))
    | (with_reducible apply Onward.by (State.makeAuditKey_onward ..))
    | (with_reducible apply Onward.keep (State.modVault_keeps ..); (· decide))
    | split
    | dsimp only

theorem execEntropySample_onward (sample : Byte) (parityOk : Bool) (s : State) :
    OnwardOut s (execEntropySample sample parityOk s) := by
  unfold execEntropySample
  repeat' first
    | with_reducible assumption
    | with_reducible exact Onward.refl _
    | with_reducible exact OnwardOut.fault
    | with_reducible apply OnwardOut.next
    | with_reducible apply State.awake_onward
    | (with_reducible apply Onward.by (State.credit_onward ..))
    | (with_reducible apply Onward.keep (State.modVault_keeps ..); (· decide))
    | with_reducible apply State.onPort_onward
    | (with_reducible apply Onward.keep (State.portError_keeps ..); (· decide))
    | (with_reducible apply Onward.by (State.vaultFails_onward ..))
    | split
    | dsimp only
    | intro _

theorem State.beginZeroise_onward (s : State) :
    Onward s (State.beginZeroise s) := by
  unfold State.beginZeroise
  repeat' first
    | with_reducible assumption
    | with_reducible exact Onward.refl _
    | (with_reducible apply Onward.by (State.followParts_onward ..))
    | (with_reducible apply Onward.keep (State.zeroiseBlock_keeps ..); (· decide))

theorem execZeroise_onward (s : State) :
    OnwardOut s (execZeroise s) := by
  unfold execZeroise
  repeat' first
    | with_reducible assumption
    | with_reducible exact Onward.refl _
    | with_reducible exact OnwardOut.fault
    | with_reducible apply OnwardOut.next
    | (with_reducible apply Onward.by (State.beginZeroise_onward ..))
    | (with_reducible apply Onward.keep (State.respond_keeps ..); (· decide))
    | with_reducible apply State.service_onward
    | split
    | dsimp only
    | intro _

theorem execZeroiseInput_onward (s : State) :
    OnwardOut s (execZeroiseInput s) := by
  unfold execZeroiseInput
  repeat' first
    | with_reducible assumption
    | with_reducible exact Onward.refl _
    | with_reducible exact OnwardOut.fault
    | with_reducible apply OnwardOut.next
    | (with_reducible apply Onward.by (State.beginZeroise_onward ..))
    | split
    | dsimp only
    | (with_reducible refine Onward.keep (Keeps.set_zeroisePin (w := [.zeroisePin]) (Keeps.refl _ _)) ?_ ?_; (· decide))

theorem execTamperInput_onward (cycles : Nat) (s : State) :
    OnwardOut s (execTamperInput cycles s) := by
  unfold execTamperInput
  repeat' first
    | with_reducible assumption
    | with_reducible exact Onward.refl _
    | with_reducible exact OnwardOut.fault
    | with_reducible apply OnwardOut.next
    | (with_reducible apply Onward.by (State.beginZeroise_onward ..))
    | split
    | dsimp only
    | (with_reducible refine Onward.keep (Keeps.set_tamperPin (w := [.tamperPin]) (Keeps.refl _ _)) ?_ ?_; (· decide))

theorem execSelftestEntry_onward (s : State) : OnwardOut s (execSelftestEntry s) := by
  unfold execSelftestEntry
  split
  · exact OnwardOut.next (Onward.refl _)
  · rename_i h
    have h1 : s.startup = .reset := by simp_all [State.dormant]
    have h2 : ∀ u : State, u.startup = .selftest → Onward s u := fun u hu => by unfold Onward; rw [h1, hu]; decide
    refine OnwardOut.next ?_
    dsimp only
    split
    · exact (h2 _ rfl).trans (State.beginZeroise_onward _)
    · exact h2 _ rfl

theorem execSelftestComplete_onward (report : Sys2Proof.TestReport) (s : State) :
    OnwardOut s (execSelftestComplete report s) := by
  unfold execSelftestComplete
  repeat' first
    | with_reducible assumption
    | with_reducible exact Onward.refl _
    | with_reducible exact OnwardOut.fault
    | with_reducible apply OnwardOut.next
    | (with_reducible apply Onward.by (State.enterWhiteout_onward ..))
    | (with_reducible apply Onward.by (State.leaveSelftest_onward ..))
    | (with_reducible apply Onward.keep (State.takeReport_keeps ..); (· decide))
    | split
    | dsimp only
    | (with_reducible refine Onward.keep (Keeps.set_vault (w := [.vault]) (Keeps.refl _ _)) ?_ ?_; (· decide))

theorem execMgtAdvance_onward (s : State) : OnwardOut s (execMgtAdvance s) := by
  unfold execMgtAdvance State.awake
  split
  · exact OnwardOut.next (Onward.refl _)
  · dsimp only
    split
    · rename_i h; exact OnwardOut.next (by unfold Onward; rw [h]; exact (by decide : Startup.image.stage ≤ Startup.profile.stage))
    · refine OnwardOut.next ?_
      split
      · exact (Onward.refl s)
      · exact Onward.refl _
    · exact OnwardOut.next (Onward.refl _)

theorem execReadyEntry_onward (s : State) : OnwardOut s (execReadyEntry s) := by
  unfold execReadyEntry State.awake
  split
  · exact OnwardOut.next (Onward.refl _)
  · dsimp only
    split
    · exact OnwardOut.next (Onward.refl _)
    · rename_i h
      have h1 : s.startup = .profile := by simp_all
      refine OnwardOut.next ?_
      have h2 : ∀ u : State, u.startup = .ready → Onward s u := fun u hu => by unfold Onward; rw [h1, hu]; decide
      split
      · exact (h2 _ rfl).trans (State.enterWhiteout_onward ..)
      · exact Onward.keep (State.renewLinks_keeps ..) (by decide) (h2 _ rfl)

end Sys2Proof.Machine
end

