-- ==== Sys2Proof/Laws/PerInstr.lean ====
section
/-! SUPPORT. The family `Steps`: one lemma per row of the table on what the row may change, as the row alone says it. -/
set_option Elab.async false
namespace Sys2Proof.Laws.Steps
open Sys2Proof.Machine

/-- Of all rows, only a doorbell and RST_N may number tickets (R329); and what a row may change, RST_N clears too, but for
host memory, the pins, the test wrapper's reading and the count of free values (R466). -/
def Statement (i : Instr) : Prop :=
  (Fld.nextSeq ∈ touches i → (∃ b ok, i = .doorbell b ok) ∨ i = .rstNAssert) ∧
  (∀ f ∈ touches i, f ∈ resetFlds ++ [.free, .mem, .zeroisePin, .tamperPin, .testReading])

theorem nop (ticket : Nat) : Statement (.nop ticket) :=
  ⟨fun h => absurd h (by simp only [touches]; decide), by simp only [touches]; decide⟩
theorem step (ticket : Nat) : Statement (.step ticket) :=
  ⟨fun h => absurd h (by simp only [touches]; decide), by simp only [touches]; decide⟩
theorem score (ticket : Nat) : Statement (.score ticket) :=
  ⟨fun h => absurd h (by simp only [touches]; decide), by simp only [touches]; decide⟩
theorem settle (ticket : Nat) : Statement (.settle ticket) :=
  ⟨fun h => absurd h (by simp only [touches]; decide), by simp only [touches]; decide⟩
theorem verify (ticket : Nat) : Statement (.verify ticket) :=
  ⟨fun h => absurd h (by simp only [touches]; decide), by simp only [touches]; decide⟩
theorem beam (ticket : Nat) : Statement (.beam ticket) :=
  ⟨fun h => absurd h (by simp only [touches]; decide), by simp only [touches]; decide⟩
theorem loss (ticket : Nat) : Statement (.loss ticket) :=
  ⟨fun h => absurd h (by simp only [touches]; decide), by simp only [touches]; decide⟩
theorem grad (ticket : Nat) : Statement (.grad ticket) :=
  ⟨fun h => absurd h (by simp only [touches]; decide), by simp only [touches]; decide⟩
theorem reduce (ticket : Nat) : Statement (.reduce ticket) :=
  ⟨fun h => absurd h (by simp only [touches]; decide), by simp only [touches]; decide⟩
theorem func (ticket : Nat) : Statement (.func ticket) :=
  ⟨fun h => absurd h (by simp only [touches]; decide), by simp only [touches]; decide⟩
theorem fill (ticket : Nat) : Statement (.fill ticket) :=
  ⟨fun h => absurd h (by simp only [touches]; decide), by simp only [touches]; decide⟩
theorem loadw (ticket : Nat) : Statement (.loadw ticket) :=
  ⟨fun h => absurd h (by simp only [touches]; decide), by simp only [touches]; decide⟩
theorem evictw (ticket : Nat) : Statement (.evictw ticket) :=
  ⟨fun h => absurd h (by simp only [touches]; decide), by simp only [touches]; decide⟩
theorem save (ticket : Nat) : Statement (.save ticket) :=
  ⟨fun h => absurd h (by simp only [touches]; decide), by simp only [touches]; decide⟩
theorem restore (ticket : Nat) : Statement (.restore ticket) :=
  ⟨fun h => absurd h (by simp only [touches]; decide), by simp only [touches]; decide⟩
theorem waitcount (ticket : Nat) : Statement (.waitcount ticket) :=
  ⟨fun h => absurd h (by simp only [touches]; decide), by simp only [touches]; decide⟩
theorem fence (ticket : Nat) : Statement (.fence ticket) :=
  ⟨fun h => absurd h (by simp only [touches]; decide), by simp only [touches]; decide⟩
theorem digest (ticket : Nat) : Statement (.digest ticket) :=
  ⟨fun h => absurd h (by simp only [touches]; decide), by simp only [touches]; decide⟩
theorem dict (ticket : Nat) : Statement (.dict ticket) :=
  ⟨fun h => absurd h (by simp only [touches]; decide), by simp only [touches]; decide⟩
theorem halt (ticket : Nat) : Statement (.halt ticket) :=
  ⟨fun h => absurd h (by simp only [touches]; decide), by simp only [touches]; decide⟩
theorem doorbell (beat : BitVec 64) (parityOk : Bool) : Statement (.doorbell beat parityOk) :=
  ⟨fun _ => .inl ⟨_, _, rfl⟩, by simp only [touches]; decide⟩
theorem commandCompletion (ticket : Nat) : Statement (.commandCompletion ticket) :=
  ⟨fun h => absurd h (by simp only [touches]; decide), by simp only [touches]; decide⟩
theorem checkpointSigned : Statement (.checkpointSigned) :=
  ⟨fun h => absurd h (by simp only [touches]; decide), by simp only [touches]; decide⟩
theorem pavaneCountLoad (pav : BitVec 64) : Statement (.pavaneCountLoad pav) :=
  ⟨fun h => absurd h (by simp only [touches]; decide), by simp only [touches]; decide⟩
theorem pavaneAdvance (pav : BitVec 64) : Statement (.pavaneAdvance pav) :=
  ⟨fun h => absurd h (by simp only [touches]; decide), by simp only [touches]; decide⟩
theorem pavaneSlip (pav : BitVec 64) : Statement (.pavaneSlip pav) :=
  ⟨fun h => absurd h (by simp only [touches]; decide), by simp only [touches]; decide⟩
theorem dictionaryAccessRelease : Statement (.dictionaryAccessRelease) :=
  ⟨fun h => absurd h (by simp only [touches]; decide), by simp only [touches]; decide⟩
theorem frameBoundaryPreemption : Statement (.frameBoundaryPreemption) :=
  ⟨fun h => absurd h (by simp only [touches]; decide), by simp only [touches]; decide⟩
theorem suspendedFigureResume : Statement (.suspendedFigureResume) :=
  ⟨fun h => absurd h (by simp only [touches]; decide), by simp only [touches]; decide⟩
theorem cellResidueError (tile row col : Nat) (use : ArrayUse) : Statement (.cellResidueError tile row col use) :=
  ⟨fun h => absurd h (by simp only [touches]; decide), by simp only [touches]; decide⟩
theorem registerParityError (tile row col : Nat) (use : ArrayUse) : Statement (.registerParityError tile row col use) :=
  ⟨fun h => absurd h (by simp only [touches]; decide), by simp only [touches]; decide⟩
theorem accumulatorResidueError (bank : AccBank) (use : ArrayUse) : Statement (.accumulatorResidueError bank use) :=
  ⟨fun h => absurd h (by simp only [touches]; decide), by simp only [touches]; decide⟩
theorem accumulatorUncorrectable (bank : AccBank) (use : ArrayUse) : Statement (.accumulatorUncorrectable bank use) :=
  ⟨fun h => absurd h (by simp only [touches]; decide), by simp only [touches]; decide⟩
theorem laneMismatch (slice : Nat) (unit : LaneUnit) (use : LaneUse) (ticket : Option Nat) : Statement (.laneMismatch slice unit use ticket) :=
  ⟨fun h => absurd h (by simp only [touches]; decide), by simp only [touches]; decide⟩
theorem moraineMismatch (ticket : Option Nat) : Statement (.moraineMismatch ticket) :=
  ⟨fun h => absurd h (by simp only [touches]; decide), by simp only [touches]; decide⟩
theorem flurryMismatch (unit : FlurryUnit) (ticket : Option Nat) : Statement (.flurryMismatch unit ticket) :=
  ⟨fun h => absurd h (by simp only [touches]; decide), by simp only [touches]; decide⟩
theorem sleetParityError (slice : Nat) : Statement (.sleetParityError slice) :=
  ⟨fun h => absurd h (by simp only [touches]; decide), by simp only [touches]; decide⟩
theorem firnUncorrectableWeight (region set bank : Nat) (ticket : Option Nat) : Statement (.firnUncorrectableWeight region set bank ticket) :=
  ⟨fun h => absurd h (by simp only [touches]; decide), by simp only [touches]; decide⟩
theorem firnUncorrectableWorkArea (region bank : Nat) (ticket : Option Nat) : Statement (.firnUncorrectableWorkArea region bank ticket) :=
  ⟨fun h => absurd h (by simp only [touches]; decide), by simp only [touches]; decide⟩
theorem tableMemoryError (slice : Nat) (mem : TableMem) (ticket : Option Nat) : Statement (.tableMemoryError slice mem ticket) :=
  ⟨fun h => absurd h (by simp only [touches]; decide), by simp only [touches]; decide⟩
theorem tableReloadDone (slice : Nat) (verified : Bool) : Statement (.tableReloadDone slice verified) :=
  ⟨fun h => absurd h (by simp only [touches]; decide), by simp only [touches]; decide⟩
theorem contextMemoryError (ctx : Nat) (ticket : Option Nat) : Statement (.contextMemoryError ctx ticket) :=
  ⟨fun h => absurd h (by simp only [touches]; decide), by simp only [touches]; decide⟩
theorem crossingDatumLate (ticket : Nat) : Statement (.crossingDatumLate ticket) :=
  ⟨fun h => absurd h (by simp only [touches]; decide), by simp only [touches]; decide⟩
theorem streamedSetCheck (ticket set : Nat) : Statement (.streamedSetCheck ticket set) :=
  ⟨fun h => absurd h (by simp only [touches]; decide), by simp only [touches]; decide⟩
theorem retryEnd (stillFails : Bool) : Statement (.retryEnd stillFails) :=
  ⟨fun h => absurd h (by simp only [touches]; decide), by simp only [touches]; decide⟩
theorem scrubRead (found : ScrubFound) : Statement (.scrubRead found) :=
  ⟨fun h => absurd h (by simp only [touches]; decide), by simp only [touches]; decide⟩
theorem backgroundRereadDone (region set : Nat) (stillFails : Bool) : Statement (.backgroundRereadDone region set stillFails) :=
  ⟨fun h => absurd h (by simp only [touches]; decide), by simp only [touches]; decide⟩
theorem hiddenRow (beats : Bytes) (parityOk : Bool) : Statement (.hiddenRow beats parityOk) :=
  ⟨fun h => absurd h (by simp only [touches]; decide), by simp only [touches]; decide⟩
theorem readResponse (chan : MemChan) (tag : Nat) (data : Bytes) (parityOk : Bool) : Statement (.readResponse chan tag data parityOk) :=
  ⟨fun h => absurd h (by simp only [touches]; decide), by simp only [touches]; decide⟩
theorem writeAcknowledgement (chan : MemChan) (tag : Nat) (parityOk : Bool) : Statement (.writeAcknowledgement chan tag parityOk) :=
  ⟨fun h => absurd h (by simp only [touches]; decide), by simp only [touches]; decide⟩
theorem writeAckTimeout (chan : MemChan) (tag : Nat) : Statement (.writeAckTimeout chan tag) :=
  ⟨fun h => absurd h (by simp only [touches]; decide), by simp only [touches]; decide⟩
theorem hello (f : RxFrame) : Statement (.hello f) :=
  ⟨fun h => absurd h (by simp only [touches]; decide), by simp only [touches]; decide⟩
theorem idle (f : RxFrame) : Statement (.idle f) :=
  ⟨fun h => absurd h (by simp only [touches]; decide), by simp only [touches]; decide⟩
theorem nak (f : RxFrame) : Statement (.nak f) :=
  ⟨fun h => absurd h (by simp only [touches]; decide), by simp only [touches]; decide⟩
theorem exchange (f : RxFrame) : Statement (.exchange f) :=
  ⟨fun h => absurd h (by simp only [touches]; decide), by simp only [touches]; decide⟩
theorem check (f : RxFrame) : Statement (.check f) :=
  ⟨fun h => absurd h (by simp only [touches]; decide), by simp only [touches]; decide⟩
theorem abort (f : RxFrame) : Statement (.abort f) :=
  ⟨fun h => absurd h (by simp only [touches]; decide), by simp only [touches]; decide⟩
theorem helloTimer (port : Fin 4) : Statement (.helloTimer port) :=
  ⟨fun h => absurd h (by simp only [touches]; decide), by simp only [touches]; decide⟩
theorem idleTimer (port : Fin 4) : Statement (.idleTimer port) :=
  ⟨fun h => absurd h (by simp only [touches]; decide), by simp only [touches]; decide⟩
theorem linkReceiveTimeout (port : Fin 4) : Statement (.linkReceiveTimeout port) :=
  ⟨fun h => absurd h (by simp only [touches]; decide), by simp only [touches]; decide⟩
theorem peerDeadline (ticket : Nat) : Statement (.peerDeadline ticket) :=
  ⟨fun h => absurd h (by simp only [touches]; decide), by simp only [touches]; decide⟩
theorem stallLimit (ticket : Nat) : Statement (.stallLimit ticket) :=
  ⟨fun h => absurd h (by simp only [touches]; decide), by simp only [touches]; decide⟩
theorem checkDeadline (ticket : Nat) : Statement (.checkDeadline ticket) :=
  ⟨fun h => absurd h (by simp only [touches]; decide), by simp only [touches]; decide⟩
theorem mgtSend (length : BitVec 11) (parityOk : Bool) : Statement (.mgtSend length parityOk) :=
  ⟨fun h => absurd h (by simp only [touches]; decide), by simp only [touches]; decide⟩
theorem mgtRelease (parityOk : Bool) : Statement (.mgtRelease parityOk) :=
  ⟨fun h => absurd h (by simp only [touches]; decide), by simp only [touches]; decide⟩
theorem mgtClearOverrun (parityOk : Bool) : Statement (.mgtClearOverrun parityOk) :=
  ⟨fun h => absurd h (by simp only [touches]; decide), by simp only [touches]; decide⟩
theorem mgtData3Access (write : Option (BitVec 32)) (parityOk : Bool) : Statement (.mgtData3Access write parityOk) :=
  ⟨fun h => absurd h (by simp only [touches]; decide), by simp only [touches]; decide⟩
theorem mgtRegisterWrite (offset : BitVec 8) (value : Option (BitVec 32)) (parityOk : Bool) : Statement (.mgtRegisterWrite offset value parityOk) :=
  ⟨fun h => absurd h (by simp only [touches]; decide), by simp only [touches]; decide⟩
theorem read : Statement (.read) :=
  ⟨fun h => absurd h (by simp only [touches]; decide), by simp only [touches]; decide⟩
theorem write : Statement (.write) :=
  ⟨fun h => absurd h (by simp only [touches]; decide), by simp only [touches]; decide⟩
theorem describe : Statement (.describe) :=
  ⟨fun h => absurd h (by simp only [touches]; decide), by simp only [touches]; decide⟩
theorem downloadBegin : Statement (.downloadBegin) :=
  ⟨fun h => absurd h (by simp only [touches]; decide), by simp only [touches]; decide⟩
theorem downloadData : Statement (.downloadData) :=
  ⟨fun h => absurd h (by simp only [touches]; decide), by simp only [touches]; decide⟩
theorem downloadEnd : Statement (.downloadEnd) :=
  ⟨fun h => absurd h (by simp only [touches]; decide), by simp only [touches]; decide⟩
theorem openChallenge : Statement (.openChallenge) :=
  ⟨fun h => absurd h (by simp only [touches]; decide), by simp only [touches]; decide⟩
theorem openProve : Statement (.openProve) :=
  ⟨fun h => absurd h (by simp only [touches]; decide), by simp only [touches]; decide⟩
theorem close : Statement (.close) :=
  ⟨fun h => absurd h (by simp only [touches]; decide), by simp only [touches]; decide⟩
theorem enrol : Statement (.enrol) :=
  ⟨fun h => absurd h (by simp only [touches]; decide), by simp only [touches]; decide⟩
theorem seedImport : Statement (.seedImport) :=
  ⟨fun h => absurd h (by simp only [touches]; decide), by simp only [touches]; decide⟩
theorem seedKeyDeferredWrite (part : Nat) : Statement (.seedKeyDeferredWrite part) :=
  ⟨fun h => absurd h (by simp only [touches]; decide), by simp only [touches]; decide⟩
theorem auditKey : Statement (.auditKey) :=
  ⟨fun h => absurd h (by simp only [touches]; decide), by simp only [touches]; decide⟩
theorem verifyKey : Statement (.verifyKey) :=
  ⟨fun h => absurd h (by simp only [touches]; decide), by simp only [touches]; decide⟩
theorem zeroise : Statement (.zeroise) :=
  ⟨fun h => absurd h (by simp only [touches]; decide), by simp only [touches]; decide⟩
theorem selftest (failed : BitVec 32) : Statement (.selftest failed) :=
  ⟨fun h => absurd h (by simp only [touches]; decide), by simp only [touches]; decide⟩
theorem sessionIdleTimeout (session : BitVec 32) : Statement (.sessionIdleTimeout session) :=
  ⟨fun h => absurd h (by simp only [touches]; decide), by simp only [touches]; decide⟩
theorem pendingSessionTimeout (session : BitVec 32) : Statement (.pendingSessionTimeout session) :=
  ⟨fun h => absurd h (by simp only [touches]; decide), by simp only [touches]; decide⟩
theorem entropySample (sample : Byte) (parityOk : Bool) : Statement (.entropySample sample parityOk) :=
  ⟨fun h => absurd h (by simp only [touches]; decide), by simp only [touches]; decide⟩
theorem zeroiseInput : Statement (.zeroiseInput) :=
  ⟨fun h => absurd h (by simp only [touches]; decide), by simp only [touches]; decide⟩
theorem tamperInput (cycles : Nat) : Statement (.tamperInput cycles) :=
  ⟨fun h => absurd h (by simp only [touches]; decide), by simp only [touches]; decide⟩
theorem rstNAssert : Statement (.rstNAssert) :=
  ⟨fun _ => .inr rfl, by simp only [touches]; decide⟩
theorem resetRelease (testMode zeroisePin tamperPin : Bool) : Statement (.resetRelease testMode zeroisePin tamperPin) :=
  ⟨fun h => absurd h (by simp only [touches]; decide), by simp only [touches]; decide⟩
theorem selftestEntry : Statement (.selftestEntry) :=
  ⟨fun h => absurd h (by simp only [touches]; decide), by simp only [touches]; decide⟩
theorem selftestComplete (report : TestReport) : Statement (.selftestComplete report) :=
  ⟨fun h => absurd h (by simp only [touches]; decide), by simp only [touches]; decide⟩
theorem mgtAdvance : Statement (.mgtAdvance) :=
  ⟨fun h => absurd h (by simp only [touches]; decide), by simp only [touches]; decide⟩
theorem readyEntry : Statement (.readyEntry) :=
  ⟨fun h => absurd h (by simp only [touches]; decide), by simp only [touches]; decide⟩
theorem testWrapperAccess (instrument : Instrument) : Statement (.testWrapperAccess instrument) :=
  ⟨fun h => absurd h (by simp only [touches]; decide), by simp only [touches]; decide⟩
theorem reelFrameCrcFailure (port : Fin 4) (arrival : BadFrame) : Statement (.reelFrameCrcFailure port arrival) :=
  ⟨fun h => absurd h (by simp only [touches]; decide), by simp only [touches]; decide⟩
theorem byteParityError (path : ParityPath) (ticket : Option Nat) : Statement (.byteParityError path ticket) :=
  ⟨fun h => absurd h (by simp only [touches]; decide), by simp only [touches]; decide⟩
theorem subChannelCredit (sub : OutSub) : Statement (.subChannelCredit sub) :=
  ⟨fun h => absurd h (by simp only [touches]; decide), by simp only [touches]; decide⟩

end Sys2Proof.Laws.Steps
end

