-- ==== Sys2Proof/Laws/Profiled.lean ====
section
/-! SUPPORT. How "the profile stays legal and its digest right" is composed. -/
set_option Elab.async false
namespace Sys2Proof.Machine

/-- A legal profile with the digest of its values stays so. -/
def Profiled (s t : State) : Prop :=
  s.profile.Legal ∧ s.profileDigest = s.profile.digest → t.profile.Legal ∧ t.profileDigest = t.profile.digest

theorem Profiled.refl (s : State) : Profiled s s := id
theorem Profiled.trans {s t u : State} (h : Profiled s t) (k : Profiled t u) : Profiled s u := fun x => k (h x)
theorem Profiled.of_keeps {w : List Fld} {s t : State} (k : Keeps w s t) (hp : Fld.profile ∉ w) (hd : Fld.profileDigest ∉ w) :
    Profiled s t := by
  have h1 : t.profile = s.profile := k.same .profile hp
  have h2 : t.profileDigest = s.profileDigest := k.same .profileDigest hd
  intro h; rw [h1, h2]; exact h

theorem Profiled.by {s t u : State} (k : Profiled t u) (h : Profiled s t) : Profiled s u := h.trans k
theorem Profiled.keep {w : List Fld} {s t u : State} (k : Keeps w t u) (hx : Fld.profile ∉ w ∧ Fld.profileDigest ∉ w) (h : Profiled s t) :
    Profiled s u := h.trans (.of_keeps k hx.1 hx.2)

theorem Profiled.snd1 {s u : State} {α : Type} {a : α} {p : α × State} (k : Profiled s p.2)
    (e : p = (a, u)) : Profiled s u := by subst e; exact k
theorem Profiled.snd2 {s u : State} {α β : Type} {a : α} {b : β} {p : α × β × State}
    (k : Profiled s p.2.2) (e : p = (a, b, u)) : Profiled s u := by subst e; exact k
theorem Profiled.snd3 {s u : State} {α β γ : Type} {a : α} {b : β} {c : γ} {p : α × β × γ × State}
    (k : Profiled s p.2.2.2) (e : p = (a, b, c, u)) : Profiled s u := by subst e; exact k
theorem Profiled.fst {s u : State} {α : Type} {a : α} {p : State × α} (k : Profiled s p.1) (e : p = (u, a)) : Profiled s u := by
  subst e; exact k

theorem Profiled.foldl {s t : State} {α : Type} {f : State → α → State} {xs : List α} (h : Profiled s t)
    (k : ∀ u x, Profiled u (f u x)) : Profiled s (xs.foldl f t) := by
  induction xs generalizing t with
  | nil => exact h
  | cons x xs ih => exact ih (h.trans (k t x))
theorem Profiled.foldl_snd {s : State} {α β : Type} {f : β × State → α → β × State} {xs : List α}
    {b : β × State} (h : Profiled s b.2) (k : ∀ b x, Profiled b.2 (f b x).2) : Profiled s (xs.foldl f b).2 := by
  induction xs generalizing b with
  | nil => exact h
  | cons x xs ih => exact ih (h.trans (k b x))

theorem Profiled.foldl_st {s : State} {α : Type} {f : Rounded → α → Rounded} {xs : List α}
    {b : Rounded} (h : Profiled s b.st) (k : ∀ b x, Profiled b.st (f b x).st) : Profiled s (xs.foldl f b).st := by
  induction xs generalizing b with
  | nil => exact h
  | cons x xs ih => exact ih (h.trans (k b x))

/-- The answer, where it is a next state, kept the profile legal and its digest right. -/
structure ProfiledOut (s : State) (o : Out) : Prop where
  go : ∀ t, o = .next t → Profiled s t
theorem ProfiledOut.next {s t : State} (h : Profiled s t) : ProfiledOut s (.next t) := ⟨by intro u hu; cases hu; exact h⟩
theorem ProfiledOut.fault {s : State} {r : Fault} : ProfiledOut s (.fault r) := ⟨by intro u hu; cases hu⟩
theorem ProfiledOut.after {s t : State} {o : Out} (k : ProfiledOut t o) (h : Profiled s t) : ProfiledOut s o :=
  ⟨fun u hu => h.trans (k.go u hu)⟩
theorem ProfiledOut.keep {w : List Fld} {s : State} {o : Out} (k : KeepsOut w s o) (hx : Fld.profile ∉ w ∧ Fld.profileDigest ∉ w) :
    ProfiledOut s o := ⟨fun u hu => .of_keeps (k.go u hu) hx.1 hx.2⟩

/-- The state, where there is one, kept the profile legal and its digest right. -/
structure ProfiledOpt (s : State) (o : Option State) : Prop where
  go : ∀ t, o = some t → Profiled s t
theorem ProfiledOpt.none {s : State} : ProfiledOpt s none := ⟨by intro u hu; cases hu⟩
theorem ProfiledOpt.some {s t : State} (h : Profiled s t) : ProfiledOpt s (some t) := ⟨by intro u hu; cases hu; exact h⟩
theorem ProfiledOpt.after {s t : State} {o : Option State} (k : ProfiledOpt t o) (h : Profiled s t) : ProfiledOpt s o :=
  ⟨fun u hu => h.trans (k.go u hu)⟩
theorem ProfiledOpt.keep {w : List Fld} {s t : State} {o : Option State} (k : KeepsOpt w t o)
    (hx : Fld.profile ∉ w ∧ Fld.profileDigest ∉ w) (h : Profiled s t) : ProfiledOpt s o :=
  ⟨fun u hu => .keep (k.go u hu) hx h⟩
theorem ProfiledOpt.map {s : State} {α : Type} {f : α → State} {o : Option α}
    (k : ∀ x, Profiled s (f x)) : ProfiledOpt s (o.map f) := ⟨by
  intro u hu; cases o with
  | none => cases hu
  | some x => cases hu; exact k x⟩

theorem Profiled.by_opt {s t u : State} {o : Option State} (k : ProfiledOpt t o) (e : o = some u) (h : Profiled s t) : Profiled s u :=
  h.trans (k.go u e)
theorem Profiled.by_snd1 {s t u : State} {α : Type} {a : α} {p : α × State} (k : Profiled t p.2)
    (e : p = (a, u)) (h : Profiled s t) : Profiled s u := h.trans (k.snd1 e)
theorem Profiled.by_snd2 {s t u : State} {α β : Type} {a : α} {b : β} {p : α × β × State}
    (k : Profiled t p.2.2) (e : p = (a, b, u)) (h : Profiled s t) : Profiled s u := h.trans (k.snd2 e)
theorem Profiled.by_snd3 {s t u : State} {α β γ : Type} {a : α} {b : β} {c : γ} {p : α × β × γ × State}
    (k : Profiled t p.2.2.2) (e : p = (a, b, c, u)) (h : Profiled s t) : Profiled s u := h.trans (k.snd3 e)
theorem Profiled.by_fst {s t u : State} {α : Type} {a : α} {p : State × α} (k : Profiled t p.1)
    (e : p = (u, a)) (h : Profiled s t) : Profiled s u := h.trans (k.fst e)
theorem Profiled.keep_opt {w : List Fld} {s t u : State} {o : Option State} (k : KeepsOpt w t o) (e : o = Option.some u)
    (hx : Fld.profile ∉ w ∧ Fld.profileDigest ∉ w) (h : Profiled s t) : Profiled s u := .keep (k.go u e) hx h
theorem Profiled.keep_snd1 {w : List Fld} {s t u : State} {α : Type} {a : α} {p : α × State} (k : Keeps w t p.2)
    (e : p = (a, u)) (hx : Fld.profile ∉ w ∧ Fld.profileDigest ∉ w) (h : Profiled s t) : Profiled s u := .keep (k.snd1 e) hx h
theorem Profiled.keep_snd2 {w : List Fld} {s t u : State} {α β : Type} {a : α} {b : β} {p : α × β × State}
    (k : Keeps w t p.2.2) (e : p = (a, b, u)) (hx : Fld.profile ∉ w ∧ Fld.profileDigest ∉ w) (h : Profiled s t) : Profiled s u :=
  .keep (k.snd2 e) hx h
theorem Profiled.keep_snd3 {w : List Fld} {s t u : State} {α β γ : Type} {a : α} {b : β} {c : γ} {p : α × β × γ × State}
    (k : Keeps w t p.2.2.2) (e : p = (a, b, c, u)) (hx : Fld.profile ∉ w ∧ Fld.profileDigest ∉ w) (h : Profiled s t) : Profiled s u :=
  .keep (k.snd3 e) hx h
theorem Profiled.keep_fst {w : List Fld} {s t u : State} {α : Type} {a : α} {p : State × α} (k : Keeps w t p.1)
    (e : p = (u, a)) (hx : Fld.profile ∉ w ∧ Fld.profileDigest ∉ w) (h : Profiled s t) : Profiled s u := .keep (k.fst e) hx h

end Sys2Proof.Machine
end

