-- ==== Sys2Proof/Laws/ProfiledRows.lean ====
section
/-! SUPPORT. The operations and the commands keep the profile legal and its digest right. -/
set_option Elab.async false
namespace Sys2Proof.Machine

theorem State.awake_profiled {s t : State} {f : State → Out} (h : Profiled s t)
    (k : ∀ u, Profiled s u → ProfiledOut s (f u)) : ProfiledOut s (t.awake f) := by
  unfold State.awake
  split
  · exact ProfiledOut.next h
  · exact k t h

theorem State.engine_profiled {s t : State} {q : Nat} {o : Op} {f : Ticket → Running → Out}
    (h : Profiled s t) (k : ∀ tk r, ProfiledOut s (f tk r)) : ProfiledOut s (t.engine q o f) := by
  unfold State.engine State.awake
  split
  · exact ProfiledOut.next h
  · dsimp only
    split
    · split
      · exact ProfiledOut.fault
      · split
        · exact ProfiledOut.next h
        · split
          · refine ProfiledOut.next ?_
            split
            · exact .keep (State.modRun_keeps ..) (by decide) h
            · exact h
          · exact k _ _
    · exact ProfiledOut.fault

theorem Profile.put_legal {p q : Profile} {i sub v : Nat} (h : p.Legal) (e : p.put i sub v = some q) : q.Legal := by
  obtain ⟨h1, h2, h3, h4, h5, h6, h7, h8, h9, h10, h11, h12, h13⟩ := h
  unfold Profile.put at e
  split at e <;> try (cases e; done)
  all_goals
    split at e <;> try (cases e; done)
    rename_i hv
    cases e
    refine ⟨?_, ?_, ?_, ?_, ?_, ?_, ?_, ?_, ?_, ?_, ?_, ?_, ?_⟩
    all_goals first
      | assumption
      | (simp only [BitVec.toNat_ofNat]; omega)
      | (rcases (Bool.or_eq_true _ _).mp hv with k | k
         · exact Or.inl k
         · right; have := of_decide_eq_true k; subst this; rfl)

theorem State.writeProfile_profiled (s : State) (i sub v : Nat) : ProfiledOpt s (s.writeProfile i sub v) := by
  refine ⟨fun u hu => ?_⟩
  unfold State.writeProfile at hu
  cases e : s.profile.put i sub v with
  | none => rw [e] at hu; cases hu
  | some p => rw [e] at hu; cases hu; exact fun h => ⟨Profile.put_legal h.1 e, rfl⟩

theorem State.writeObject_profiled (s : State) (i : Nat) (sub : Nat) (v : Nat) :
    ProfiledOpt s (State.writeObject s i sub v) := by
  unfold State.writeObject
  repeat' first
    | with_reducible assumption
    | with_reducible exact Profiled.refl _
    | with_reducible exact ProfiledOpt.none
    | with_reducible apply ProfiledOpt.some
    | (with_reducible apply ProfiledOpt.keep (State.writeMgt_keeps ..); (· decide))
    | (with_reducible apply ProfiledOpt.keep (State.writePart_keeps ..); (· decide))
    | (with_reducible apply ProfiledOpt.keep (State.writePin_keeps ..); (· decide))
    | (with_reducible apply ProfiledOpt.after (State.writeProfile_profiled ..))
    | (with_reducible apply ProfiledOpt.keep (State.writeReel_keeps ..); (· decide))
    | (with_reducible apply ProfiledOpt.keep (State.writeTiming_keeps ..); (· decide))
    | split

theorem State.dictWrite_profiled (s : State) (p : Nat) (i : Nat) (sub : Nat) (v : Bytes) :
    ProfiledOpt s (State.dictWrite s p i sub v) := by
  unfold State.dictWrite
  repeat' first
    | with_reducible assumption
    | with_reducible exact Profiled.refl _
    | with_reducible exact ProfiledOpt.none
    | with_reducible apply ProfiledOpt.some
    | (with_reducible apply ProfiledOpt.after (State.writeObject_profiled ..))
    | split

theorem execDict_profiled (ticket : Nat) (s : State) :
    ProfiledOut s (execDict ticket s) := by
  unfold execDict
  repeat' first
    | with_reducible assumption
    | with_reducible exact Profiled.refl _
    | with_reducible exact ProfiledOut.fault
    | with_reducible apply ProfiledOut.next
    | (with_reducible apply Profiled.by_opt (State.dictWrite_profiled ..); (· assumption))
    | (with_reducible apply ProfiledOpt.after (State.dictWrite_profiled ..))
    | with_reducible apply State.engine_profiled
    | (with_reducible apply Profiled.keep (State.finishWith_keeps ..); (· decide))
    | (with_reducible apply Profiled.keep (State.readEffect_keeps ..); (· decide))
    | (with_reducible apply Profiled.keep (State.writeHost_keeps ..); (· decide))
    | split
    | dsimp only
    | intro _

theorem State.doWrite_profiled (s : State) :
    Profiled s (State.doWrite s) := by
  unfold State.doWrite
  repeat' first
    | with_reducible assumption
    | with_reducible exact Profiled.refl _
    | (with_reducible apply Profiled.keep (State.answerWrite_keeps ..); (· decide))
    | (with_reducible apply Profiled.keep (State.respond_keeps ..); (· decide))
    | (with_reducible apply Profiled.by_opt (State.writeObject_profiled ..); (· assumption))
    | (with_reducible apply ProfiledOpt.after (State.writeObject_profiled ..))
    | split
    | dsimp only

theorem State.onRequest_profiled {s t : State} {op : Nat} {f : State → State} (h : Profiled s t)
    (k : ∀ u, Profiled s u → Profiled s (f u)) : ProfiledOut s (t.onRequest op f) := by
  unfold State.onRequest
  split
  · exact ProfiledOut.next h
  · split
    · exact ProfiledOut.next h
    · split
      · exact ProfiledOut.next (.keep (State.respond_keeps ..) (by decide) h)
      · exact ProfiledOut.next (k t h)

theorem execWrite_profiled (s : State) :
    ProfiledOut s (execWrite s) := by
  unfold execWrite
  repeat' first
    | with_reducible assumption
    | with_reducible exact Profiled.refl _
    | with_reducible exact ProfiledOut.fault
    | with_reducible apply ProfiledOut.next
    | (with_reducible apply Profiled.by (State.doWrite_profiled ..))
    | with_reducible apply State.onRequest_profiled
    | split
    | dsimp only
    | intro _

theorem execDictionaryAccessRelease_profiled (s : State) :
    ProfiledOut s (execDictionaryAccessRelease s) := by
  unfold execDictionaryAccessRelease
  repeat' first
    | with_reducible assumption
    | with_reducible exact Profiled.refl _
    | with_reducible exact ProfiledOut.fault
    | with_reducible apply ProfiledOut.next
    | (with_reducible apply Profiled.keep (State.doDescribe_keeps ..); (· decide))
    | (with_reducible apply Profiled.keep (State.doRead_keeps ..); (· decide))
    | (with_reducible apply Profiled.by (State.doWrite_profiled ..))
    | (with_reducible apply Profiled.keep (State.modWindow_keeps ..); (· decide))
    | (with_reducible apply Profiled.keep (State.respond_keeps ..); (· decide))
    | split

end Sys2Proof.Machine
end

