-- ==== Sys2Proof/Laws/Wrote.lean ====
section
/-! SUPPORT. How "host memory changed only under the write requests added" is composed, and what the writing operations do. -/
set_option Elab.async false
namespace Sys2Proof.Machine

theorem Memory.length_walk (n a : Nat) (m : Memory) : (Memory.walk n a m).length = n := by
  induction n generalizing a m with
  | zero => cases m <;> rfl
  | succ n ih =>
    cases m with
    | nil => simp [Memory.walk, ih]
    | cons c m => obtain ⟨k, b⟩ := c; simp only [Memory.walk]; split <;> simp [ih]

theorem Memory.length_load (m : Memory) (a n : Nat) : (m.load a n).length = n := Memory.length_walk _ _ _

/-- Every byte stored lies under one of the requests that cover the range (R458). -/
theorem requestPieces_cover (addr len i : Nat) (hi : i < len) :
    ∃ p ∈ requestPieces addr len, p.1 ≤ hostAddr (addr + i) ∧ hostAddr (addr + i) < p.1 + p.2 := by
  have hj : (addr + i) / 512 - addr / 512 ∈ upto ((addr + len - 1) / 512 + 1 - addr / 512) :=
    List.mem_range.2 (by omega)
  have hm := List.mem_map_of_mem (f := fun j => (hostAddr (max (addr / 64 * 64) (512 * (addr / 512 + j))),
    min (ceilDiv (addr + len) 64 * 64) (512 * (addr / 512 + j + 1)) -
      max (addr / 64 * 64) (512 * (addr / 512 + j)))) hj
  refine ⟨_, by unfold requestPieces; rw [if_neg (by omega)]; exact hm, ?_⟩
  have e : addr / 512 + ((addr + i) / 512 - addr / 512) = (addr + i) / 512 := by omega
  simp only [e, hostAddr, ceilDiv]
  simp only [show pow2 52 = 4503599627370496 from rfl]
  omega

/-- A byte that a store through host addresses does not reach is unchanged. -/
theorem Memory.byte_storeHost_of_ne (m : Memory) (a : Nat) (bs : Bytes) (x : Nat)
    (h : ∀ i, i < bs.length → hostAddr (a + i) ≠ x) : (m.storeHost a bs).byte x = m.byte x := by
  have hl : hostAddr a < pow2 52 := Nat.mod_lt _ (by decide)
  have key : ∀ i, hostAddr (a + i) = (hostAddr a + i) % pow2 52 := fun i => by simp [hostAddr, Nat.add_mod]
  simp only [Memory.storeHost]
  split
  · rename_i hk
    rw [Memory.byte_store, if_neg]
    rintro ⟨h1, h2⟩
    refine h (x - hostAddr a) (by omega) ?_
    rw [key, Nat.mod_eq_of_lt (by omega)]; omega
  · rename_i hk
    rw [Memory.byte_store, if_neg, Memory.byte_store, if_neg]
    · rintro ⟨h1, h2⟩
      rw [List.length_take] at h2
      refine h (x - hostAddr a) (by omega) ?_
      rw [key, Nat.mod_eq_of_lt (by omega)]; omega
    · rintro ⟨_, h2⟩
      simp only [List.length_take, List.length_drop] at h2
      refine h (pow2 52 - hostAddr a + x) (by omega) ?_
      rw [key, show hostAddr a + (pow2 52 - hostAddr a + x) = x + pow2 52 by omega, Nat.add_mod_right,
        Nat.mod_eq_of_lt (by omega)]

theorem Wrote.refl (s : State) : Wrote s s := ⟨[], by simp, fun _ _ _ => rfl, fun _ h => .inl h⟩

theorem Wrote.trans {s t u : State} (h : Wrote s t) (k : Wrote t u) : Wrote s u := by
  obtain ⟨n, hw, hm, hn⟩ := h
  obtain ⟨n', kw, km, kn⟩ := k
  refine ⟨n ++ n', by rw [kw, hw, List.map_append, List.append_assoc], fun a ha hs => ?_, fun a ha => ?_⟩
  · rw [km a (fun w hw => ha w (List.mem_append_right _ hw)) fun x => (hn a x).elim hs fun ⟨w, hw, c⟩ =>
      ha w (List.mem_append_left _ hw) c, hm a (fun w hw => ha w (List.mem_append_left _ hw)) hs]
  · rcases kn a ha with h | ⟨w, hw, c⟩
    · rcases hn a h with h | ⟨w, hw, c⟩
      · exact .inl h
      · exact .inr ⟨w, List.mem_append_left _ hw, c⟩
    · exact .inr ⟨w, List.mem_append_right _ hw, c⟩

/-- Host memory stands, the writes ask what they asked, and no byte was written by a command that was not before. -/
theorem Wrote.of_map {s t : State} (hw : t.writes.map WriteReq.what = s.writes.map WriteReq.what) (hm : t.mem = s.mem)
    (hn : ∀ w ∈ t.written, w ∈ s.written) : Wrote s t :=
  ⟨[], by simp [hw], fun _ _ _ => by rw [hm], fun _ ⟨w, h, c⟩ => .inl ⟨w, hn w h, c⟩⟩

theorem Wrote.upd {s t u : State} (h : Wrote s t) (hm : u.mem = t.mem) (hw : u.writes = t.writes)
    (hn : u.written = t.written) : Wrote s u := h.trans (.of_map (by rw [hw]) hm (by rw [hn]; exact fun _ h => h))

/-- An operation that leaves host memory and the writes in flight alone. -/
theorem Wrote.of_keeps {w : List Fld} {s t : State} (k : Keeps w s t)
    (hx : Fld.writes ∉ w ∧ Fld.mem ∉ w ∧ Fld.written ∉ w) : Wrote s t :=
  (Wrote.refl s).upd (k.same .mem hx.2.1) (k.same .writes hx.1) (k.same .written hx.2.2)

theorem Wrote.by {s t u : State} (k : Wrote t u) (h : Wrote s t) : Wrote s u := h.trans k
theorem Wrote.keep {w : List Fld} {s t u : State} (k : Keeps w t u) (hx : Fld.writes ∉ w ∧ Fld.mem ∉ w ∧ Fld.written ∉ w) (h : Wrote s t) :
    Wrote s u := h.trans (.of_keeps k hx)

theorem Wrote.snd1 {s u : State} {α : Type} {a : α} {p : α × State} (k : Wrote s p.2)
    (e : p = (a, u)) : Wrote s u := by subst e; exact k
theorem Wrote.snd2 {s u : State} {α β : Type} {a : α} {b : β} {p : α × β × State}
    (k : Wrote s p.2.2) (e : p = (a, b, u)) : Wrote s u := by subst e; exact k
theorem Wrote.snd3 {s u : State} {α β γ : Type} {a : α} {b : β} {c : γ} {p : α × β × γ × State}
    (k : Wrote s p.2.2.2) (e : p = (a, b, c, u)) : Wrote s u := by subst e; exact k
theorem Wrote.fst {s u : State} {α : Type} {a : α} {p : State × α} (k : Wrote s p.1) (e : p = (u, a)) : Wrote s u := by
  subst e; exact k

theorem Wrote.foldl {s t : State} {α : Type} {f : State → α → State} {xs : List α} (h : Wrote s t)
    (k : ∀ u x, Wrote u (f u x)) : Wrote s (xs.foldl f t) := by
  induction xs generalizing t with
  | nil => exact h
  | cons x xs ih => exact ih (h.trans (k t x))
theorem Wrote.foldl_snd {s : State} {α β : Type} {f : β × State → α → β × State} {xs : List α}
    {b : β × State} (h : Wrote s b.2) (k : ∀ b x, Wrote b.2 (f b x).2) : Wrote s (xs.foldl f b).2 := by
  induction xs generalizing b with
  | nil => exact h
  | cons x xs ih => exact ih (h.trans (k b x))

theorem Wrote.foldl_st {s : State} {α : Type} {f : Rounded → α → Rounded} {xs : List α}
    {b : Rounded} (h : Wrote s b.st) (k : ∀ b x, Wrote b.st (f b x).st) : Wrote s (xs.foldl f b).st := by
  induction xs generalizing b with
  | nil => exact h
  | cons x xs ih => exact ih (h.trans (k b x))

/-- The answer, where it is a next state, changed host memory only under the write requests added. -/
structure WroteOut (s : State) (o : Out) : Prop where
  go : ∀ t, o = .next t → Wrote s t
theorem WroteOut.next {s t : State} (h : Wrote s t) : WroteOut s (.next t) := ⟨by intro u hu; cases hu; exact h⟩
theorem WroteOut.fault {s : State} {r : Fault} : WroteOut s (.fault r) := ⟨by intro u hu; cases hu⟩
theorem WroteOut.after {s t : State} {o : Out} (k : WroteOut t o) (h : Wrote s t) : WroteOut s o :=
  ⟨fun u hu => h.trans (k.go u hu)⟩
theorem WroteOut.keep {w : List Fld} {s : State} {o : Out} (k : KeepsOut w s o) (hx : Fld.writes ∉ w ∧ Fld.mem ∉ w ∧ Fld.written ∉ w) :
    WroteOut s o := ⟨fun u hu => .of_keeps (k.go u hu) hx⟩

/-- The state, where there is one, changed host memory only under the write requests added. -/
structure WroteOpt (s : State) (o : Option State) : Prop where
  go : ∀ t, o = some t → Wrote s t
theorem WroteOpt.none {s : State} : WroteOpt s none := ⟨by intro u hu; cases hu⟩
theorem WroteOpt.some {s t : State} (h : Wrote s t) : WroteOpt s (some t) := ⟨by intro u hu; cases hu; exact h⟩
theorem WroteOpt.after {s t : State} {o : Option State} (k : WroteOpt t o) (h : Wrote s t) : WroteOpt s o :=
  ⟨fun u hu => h.trans (k.go u hu)⟩
theorem WroteOpt.keep {w : List Fld} {s t : State} {o : Option State} (k : KeepsOpt w t o)
    (hx : Fld.writes ∉ w ∧ Fld.mem ∉ w ∧ Fld.written ∉ w) (h : Wrote s t) : WroteOpt s o :=
  ⟨fun u hu => .keep (k.go u hu) hx h⟩
theorem WroteOpt.map {s : State} {α : Type} {f : α → State} {o : Option α}
    (k : ∀ x, Wrote s (f x)) : WroteOpt s (o.map f) := ⟨by
  intro u hu; cases o with
  | none => cases hu
  | some x => cases hu; exact k x⟩

theorem Wrote.by_opt {s t u : State} {o : Option State} (k : WroteOpt t o) (e : o = some u) (h : Wrote s t) : Wrote s u :=
  h.trans (k.go u e)
theorem Wrote.by_snd1 {s t u : State} {α : Type} {a : α} {p : α × State} (k : Wrote t p.2)
    (e : p = (a, u)) (h : Wrote s t) : Wrote s u := h.trans (k.snd1 e)
theorem Wrote.by_snd2 {s t u : State} {α β : Type} {a : α} {b : β} {p : α × β × State}
    (k : Wrote t p.2.2) (e : p = (a, b, u)) (h : Wrote s t) : Wrote s u := h.trans (k.snd2 e)
theorem Wrote.by_snd3 {s t u : State} {α β γ : Type} {a : α} {b : β} {c : γ} {p : α × β × γ × State}
    (k : Wrote t p.2.2.2) (e : p = (a, b, c, u)) (h : Wrote s t) : Wrote s u := h.trans (k.snd3 e)
theorem Wrote.by_fst {s t u : State} {α : Type} {a : α} {p : State × α} (k : Wrote t p.1)
    (e : p = (u, a)) (h : Wrote s t) : Wrote s u := h.trans (k.fst e)
theorem Wrote.keep_opt {w : List Fld} {s t u : State} {o : Option State} (k : KeepsOpt w t o) (e : o = Option.some u)
    (hx : Fld.writes ∉ w ∧ Fld.mem ∉ w ∧ Fld.written ∉ w) (h : Wrote s t) : Wrote s u := .keep (k.go u e) hx h
theorem Wrote.keep_snd1 {w : List Fld} {s t u : State} {α : Type} {a : α} {p : α × State} (k : Keeps w t p.2)
    (e : p = (a, u)) (hx : Fld.writes ∉ w ∧ Fld.mem ∉ w ∧ Fld.written ∉ w) (h : Wrote s t) : Wrote s u := .keep (k.snd1 e) hx h
theorem Wrote.keep_snd2 {w : List Fld} {s t u : State} {α β : Type} {a : α} {b : β} {p : α × β × State}
    (k : Keeps w t p.2.2) (e : p = (a, b, u)) (hx : Fld.writes ∉ w ∧ Fld.mem ∉ w ∧ Fld.written ∉ w) (h : Wrote s t) : Wrote s u :=
  .keep (k.snd2 e) hx h
theorem Wrote.keep_snd3 {w : List Fld} {s t u : State} {α β γ : Type} {a : α} {b : β} {c : γ} {p : α × β × γ × State}
    (k : Keeps w t p.2.2.2) (e : p = (a, b, c, u)) (hx : Fld.writes ∉ w ∧ Fld.mem ∉ w ∧ Fld.written ∉ w) (h : Wrote s t) : Wrote s u :=
  .keep (k.snd3 e) hx h
theorem Wrote.keep_fst {w : List Fld} {s t u : State} {α : Type} {a : α} {p : State × α} (k : Keeps w t p.1)
    (e : p = (u, a)) (hx : Fld.writes ∉ w ∧ Fld.mem ∉ w ∧ Fld.written ∉ w) (h : Wrote s t) : Wrote s u := .keep (k.fst e) hx h

/-- Sending a request leaves what every request asks. -/
theorem what_modFirst (w : WriteReq) (n : Nat) (l : List WriteReq) :
    (modFirst (· == w) (fun x => { x with tag := n, sent := true }) l).map WriteReq.what = l.map WriteReq.what := by
  induction l with
  | nil => rfl
  | cons x l ih =>
    unfold modFirst
    split
    · rfl
    · rw [List.map_cons, List.map_cons, ih]

theorem State.sendWaiting_wrote (n : Nat) (ch : Sys2Proof.MemChan) (s : State) : Wrote s (State.sendWaiting n ch s) := by
  induction n generalizing s with
  | zero => exact Wrote.refl _
  | succ n ih =>
    unfold State.sendWaiting
    split
    · exact Wrote.refl _
    · split
      · exact (Wrote.of_map rfl rfl fun _ h => h : Wrote s (s.sendRead _)).trans (ih _)
      · split
        · exact (Wrote.of_map (what_modFirst _ _ _) rfl fun _ h => h : Wrote s (s.sendWrite _)).trans (ih _)
        · exact Wrote.refl _

theorem State.drainChannel_wrote (s : State) (ch : Sys2Proof.MemChan) : Wrote s (s.drainChannel ch) :=
  State.sendWaiting_wrote _ _ _

/-- What sending leaves of the requests, host memory and the notes. -/
theorem State.sendWaiting_core (n : Nat) (ch : Sys2Proof.MemChan) (s : State) :
    (State.sendWaiting n ch s).mem = s.mem ∧ (State.sendWaiting n ch s).written = s.written ∧
    (State.sendWaiting n ch s).writes.map WriteReq.what = s.writes.map WriteReq.what := by
  induction n generalizing s with
  | zero => exact ⟨rfl, rfl, rfl⟩
  | succ n ih =>
    unfold State.sendWaiting
    split
    · exact ⟨rfl, rfl, rfl⟩
    · split
      · exact ⟨(ih _).1, (ih _).2.1, (ih _).2.2⟩
      · split
        · exact ⟨(ih _).1, (ih _).2.1, (ih _).2.2.trans (what_modFirst _ _ _)⟩
        · exact ⟨rfl, rfl, rfl⟩

/-- One request added behind those in flight, host memory untouched. -/
theorem State.issueWrite_core (s : State) (ch : Sys2Proof.MemChan) (addr len : Nat) (ticket : Option Nat) :
    (s.issueWrite ch addr len ticket).mem = s.mem ∧ (s.issueWrite ch addr len ticket).written = s.written ∧
    ∃ w : WriteReq, (s.issueWrite ch addr len ticket).writes.map WriteReq.what = s.writes.map WriteReq.what ++ [w.what] ∧
      w.addr = addr ∧ w.data.length = len := by
  obtain ⟨a, b, c⟩ := State.sendWaiting_core ((({ s with writes := s.writes ++
    [WriteReq.mk ch 0 addr (s.mem.load addr len) ticket false] } : State).reads.filter (fun r => r.chan == ch && !r.sent)).length +
    (({ s with writes := s.writes ++ [WriteReq.mk ch 0 addr (s.mem.load addr len) ticket false] } : State).writes.filter
      (fun w => w.chan == ch && !w.sent)).length) ch
    { s with writes := s.writes ++ [WriteReq.mk ch 0 addr (s.mem.load addr len) ticket false] }
  exact ⟨a, b, _, c.trans (List.map_append ..), rfl, Memory.length_load _ _ _⟩

theorem foldl_issueWrite (ch : Nat × Nat → Sys2Proof.MemChan) (ticket : Option Nat) (ps : List (Nat × Nat)) (s : State) :
    (ps.foldl (fun (s : State) p => s.issueWrite (ch p) p.1 p.2 ticket) s).mem = s.mem ∧
    (ps.foldl (fun (s : State) p => s.issueWrite (ch p) p.1 p.2 ticket) s).written = s.written ∧
    ∃ new : List WriteReq, (ps.foldl (fun (s : State) p => s.issueWrite (ch p) p.1 p.2 ticket) s).writes.map WriteReq.what =
      s.writes.map WriteReq.what ++ new.map WriteReq.what ∧ ∀ p ∈ ps, ∃ w ∈ new, w.addr = p.1 ∧ w.data.length = p.2 := by
  induction ps generalizing s with
  | nil => exact ⟨rfl, rfl, [], by simp, by simp⟩
  | cons p ps ih =>
    obtain ⟨m0, n0, w, hw, ha, hl⟩ := State.issueWrite_core s (ch p) p.1 p.2 ticket
    obtain ⟨m1, n1, new, hn, hc⟩ := ih (s.issueWrite (ch p) p.1 p.2 ticket)
    refine ⟨m1.trans m0, n1.trans n0, w :: new, ?_, ?_⟩
    · rw [List.foldl_cons, hn, hw, List.append_assoc]; rfl
    · intro x hx
      rcases List.mem_cons.1 hx with rfl | hx
      · exact ⟨w, List.mem_cons_self, ha, hl⟩
      · obtain ⟨v, hv, e⟩ := hc x hx
        exact ⟨v, List.mem_cons_of_mem _ hv, e⟩

/-- Bytes stored with the requests that cover them, and noted for a command. -/
theorem wrote_storeHost (s : State) (ch : Nat × Nat → Sys2Proof.MemChan) (ticket : Option Nat) (addr : Nat) (bs : Bytes)
    (ns : List Written) (hns : ∀ w ∈ ns, w.addr = addr ∧ w.len = bs.length) :
    Wrote s { (requestPieces addr bs.length).foldl (fun (s : State) p => s.issueWrite (ch p) p.1 p.2 ticket)
      { s with mem := s.mem.storeHost addr bs } with written := ns ++ s.written } := by
  obtain ⟨hm, hq, new, hn, hc⟩ := foldl_issueWrite ch ticket (requestPieces addr bs.length) { s with mem := s.mem.storeHost addr bs }
  have key : ∀ i, i < bs.length → ∃ w ∈ new, w.covers (hostAddr (addr + i)) := fun i hi => by
    obtain ⟨p, hp, h1, h2⟩ := requestPieces_cover addr bs.length i hi
    obtain ⟨w, hw, e1, e2⟩ := hc p hp
    exact ⟨w, hw, by omega, by omega⟩
  refine ⟨new, hn, fun a ha _ => ?_, fun a => ?_⟩
  · show Memory.byte (State.mem _) a = _
    rw [hm]
    exact Memory.byte_storeHost_of_ne _ _ _ _ fun i hi e => by
      obtain ⟨w, hw, c⟩ := key i hi
      exact ha w hw (e ▸ c)
  · rintro ⟨w, hw, i, hi, e⟩
    rcases List.mem_append.1 hw with h | h
    · obtain ⟨e1, e2⟩ := hns w h
      obtain ⟨v, hv, c⟩ := key i (e2 ▸ hi)
      exact .inr ⟨v, hv, by rw [← e, e1]; exact c⟩
    · exact .inl ⟨w, h, i, hi, e⟩

/-- Bytes stored with the requests that cover them. -/
theorem wrote_store (s : State) (ch : Nat × Nat → Sys2Proof.MemChan) (ticket : Option Nat) (addr : Nat) (bs : Bytes) :
    Wrote s ((requestPieces addr bs.length).foldl (fun (s : State) p => s.issueWrite (ch p) p.1 p.2 ticket)
      { s with mem := s.mem.storeHost addr bs }) :=
  (wrote_storeHost s ch ticket addr bs [] (fun _ h => absurd h List.not_mem_nil)).upd rfl rfl
    (foldl_issueWrite ch ticket (requestPieces addr bs.length) { s with mem := s.mem.storeHost addr bs }).2.1

end Sys2Proof.Machine
end

