-- ==== Sys2Proof/Laws/WroteRows.lean ====
section
/-! SUPPORT. What the operations and the commands write to host memory. -/
set_option Elab.async false
namespace Sys2Proof.Machine

theorem State.onPort_wrote {s t : State} {i : InSub} {f : State → Out} (h : Wrote s t)
    (k : ∀ u, Wrote s u → WroteOut s (f u)) : WroteOut s (t.onPort i f) := by
  unfold State.onPort
  split
  · exact WroteOut.next h
  · exact k _ (.keep (State.returnCredit_keeps ..) (by decide) h)

theorem State.awake_wrote {s t : State} {f : State → Out} (h : Wrote s t)
    (k : ∀ u, Wrote s u → WroteOut s (f u)) : WroteOut s (t.awake f) := by
  unfold State.awake
  split
  · exact WroteOut.next h
  · exact k t h

theorem State.issueRead_wrote (s : State) (ch : Sys2Proof.MemChan) (addr len : Nat) (who : ReadFor) (again : Bool) :
    Wrote s (s.issueRead ch addr len who again) :=
  Wrote.trans (t := { s with reads := s.reads ++ [ReadReq.mk ch 0 addr len who again false] })
    (Wrote.of_map rfl rfl fun _ h => h) (State.drainChannel_wrote _ _)

theorem State.readRange_wrote (s : State) (who : ReadFor) (r : Nat × Nat) :
    Wrote s (State.readRange s who r) := by
  unfold State.readRange
  repeat' first
    | with_reducible assumption
    | with_reducible exact Wrote.refl _
    | with_reducible apply Wrote.foldl
    | with_reducible apply Wrote.foldl_snd
    | with_reducible apply Wrote.foldl_st
    | (with_reducible apply Wrote.by (State.issueRead_wrote ..))
    | split
    | dsimp only
    | intro _

theorem State.readRangeOn_wrote (s : State) (n : Nat) (who : ReadFor) (r : Nat × Nat) :
    Wrote s (State.readRangeOn s n who r) := by
  unfold State.readRangeOn
  repeat' first
    | with_reducible assumption
    | with_reducible exact Wrote.refl _
    | with_reducible apply Wrote.foldl
    | with_reducible apply Wrote.foldl_snd
    | with_reducible apply Wrote.foldl_st
    | (with_reducible apply Wrote.by (State.issueRead_wrote ..))
    | split
    | dsimp only
    | intro _

theorem State.readPieces_wrote (s : State) (n : Nat) (who : ReadFor) (rs : List (Nat × Nat)) :
    Wrote s (State.readPieces s n who rs) := by
  unfold State.readPieces
  repeat' first
    | with_reducible assumption
    | with_reducible exact Wrote.refl _
    | with_reducible apply Wrote.foldl
    | with_reducible apply Wrote.foldl_snd
    | with_reducible apply Wrote.foldl_st
    | (with_reducible apply Wrote.by (State.readRangeOn_wrote ..))
    | split
    | dsimp only
    | intro _

theorem State.writeDrift_wrote (s : State) (ticket : Option Nat) (addr : Nat) (bs : Bytes) :
    Wrote s (s.writeDrift ticket addr bs) := by
  unfold State.writeDrift
  split
  · exact Wrote.refl _
  · exact wrote_store s (fun p => drfOf p.1) ticket addr bs

theorem State.writeNoted_wrote (s : State) (q addr : Nat) (bs : Bytes) (scratch : Bool) :
    Wrote s (s.writeNoted q addr bs scratch) := by
  unfold State.writeNoted State.writeDrift
  split
  · rename_i h
    refine ⟨[], by simp, fun _ _ _ => rfl, fun a => ?_⟩
    rintro ⟨w, hw, i, hi, e⟩
    rcases List.mem_cons.1 hw with rfl | h'
    · rw [List.isEmpty_iff.1 h] at hi; exact absurd hi (Nat.not_lt_zero _)
    · exact .inl ⟨w, h', i, hi, e⟩
  · have h := wrote_storeHost s (fun p => drfOf p.1) (some q) addr bs [⟨q, addr, bs.length, scratch⟩] (by simp)
    have e := (foldl_issueWrite (fun p => drfOf p.1) (some q) (requestPieces addr bs.length)
      { s with mem := s.mem.storeHost addr bs }).2.1
    dsimp only at e ⊢
    rw [e]
    exact h

theorem State.writeScratch_wrote (s : State) (q : Nat) (addr : Nat) (bs : Bytes) :
    Wrote s (State.writeScratch s q addr bs) := by
  unfold State.writeScratch
  repeat' first
    | with_reducible assumption
    | with_reducible exact Wrote.refl _
    | (with_reducible apply Wrote.by (State.writeNoted_wrote ..))

theorem State.writeHost_wrote (s : State) (q : Nat) (addr : Nat) (bs : Bytes) :
    Wrote s (State.writeHost s q addr bs) := by
  unfold State.writeHost
  repeat' first
    | with_reducible assumption
    | with_reducible exact Wrote.refl _
    | (with_reducible apply Wrote.keep (State.hold_keeps ..); (· decide))
    | (with_reducible apply Wrote.by (State.writeNoted_wrote ..))
    | split

theorem State.post_wrote (s : State) (q : Nat) (p : Post) :
    Wrote s (State.post s q p) := by
  unfold State.post
  repeat' first
    | with_reducible assumption
    | with_reducible exact Wrote.refl _
    | (with_reducible apply Wrote.keep (State.emit_keeps ..); (· decide))
    | (with_reducible apply Wrote.by (State.writeNoted_wrote ..))
    | split

theorem State.postAll_wrote (s : State) (q : Nat) :
    Wrote s (State.postAll s q) := by
  unfold State.postAll
  repeat' first
    | with_reducible assumption
    | with_reducible exact Wrote.refl _
    | with_reducible apply Wrote.foldl
    | with_reducible apply Wrote.foldl_snd
    | with_reducible apply Wrote.foldl_st
    | (with_reducible apply Wrote.keep (State.modRun_keeps ..); (· decide))
    | (with_reducible apply Wrote.by (State.post_wrote ..))
    | split
    | dsimp only
    | intro _

theorem State.openBytes_length (s : State) (n : Nat) : (s.openBytes n).1.length = n := by
  induction n generalizing s with
  | zero => rfl
  | succ n ih => unfold State.openBytes; simp only [List.length_cons, ih]

/-- The bytes that become undefined, and no other. -/
theorem State.openRange_spec (s : State) (addr len : Nat) :
    (s.openRange addr len).writes = s.writes ∧ (s.openRange addr len).written = s.written ∧
    ∀ a, (∀ i, i < len → hostAddr (addr + i) ≠ a) → (s.openRange addr len).mem.byte a = s.mem.byte a := by
  have k := State.openBytes_keeps s len
  refine ⟨k.same .writes (by decide), k.same .written (by decide), fun a h => ?_⟩
  have e : (s.openBytes len).2.mem = s.mem := k.same .mem (by decide)
  show (Memory.storeHost _ _ _).byte a = _
  rw [e]
  exact Memory.byte_storeHost_of_ne _ _ _ _ fun i hi => h i (by rwa [State.openBytes_length] at hi)

/-- Bytes that commands without a record had written become undefined, and no other. -/
theorem foldl_openRange (s : State) (xs : List Written) (t : State) (hs : ∀ w ∈ xs, w ∈ s.written)
    (hw : t.writes = s.writes) (hn : t.written = s.written) (hm : ∀ a, ¬s.noted a → t.mem.byte a = s.mem.byte a) :
    (xs.foldl (fun (s : State) w => s.openRange w.addr w.len) t).writes = s.writes ∧
    (xs.foldl (fun (s : State) w => s.openRange w.addr w.len) t).written = s.written ∧
    ∀ a, ¬s.noted a → (xs.foldl (fun (s : State) w => s.openRange w.addr w.len) t).mem.byte a = s.mem.byte a := by
  induction xs generalizing t with
  | nil => exact ⟨hw, hn, hm⟩
  | cons x xs ih =>
    obtain ⟨a, b, c⟩ := State.openRange_spec t x.addr x.len
    refine ih _ (fun w h => hs w (List.mem_cons_of_mem _ h)) (a.trans hw) (b.trans hn) fun y hy => ?_
    rw [c y fun i hi e => hy ⟨x, hs x List.mem_cons_self, i, hi, e⟩, hm y hy]

theorem State.openWritten_wrote (s : State) (q : Nat) (all : Bool) : Wrote s (s.openWritten q all) := by
  obtain ⟨a, b, c⟩ := foldl_openRange s ((s.written.filter (fun w => w.ticket == q)).filter (fun w => all || w.scratch)) s
    (fun w h => (List.mem_filter.1 (List.mem_filter.1 h).1).1) rfl rfl fun _ _ => rfl
  refine ⟨[], by rw [List.map_nil, List.append_nil]; exact congrArg _ a, fun x _ h => c x h, fun x => ?_⟩
  rintro ⟨w, hw, h⟩
  exact .inl ⟨w, b ▸ (List.mem_filter.1 hw).1, h⟩

theorem State.writeRecord_wrote (s : State) (ticket : Option Nat) (addr : Nat) (bs : Bytes) :
    Wrote s (s.writeRecord ticket addr bs) := wrote_store s (fun _ => .cmd) ticket addr bs

theorem State.putFloeSlot_wrote (s : State) (p : Nat) (bs : Bytes) :
    Wrote s (State.putFloeSlot s p bs) := by
  unfold State.putFloeSlot
  repeat' first
    | with_reducible assumption
    | with_reducible exact Wrote.refl _
    | (with_reducible apply Wrote.keep (State.modPart_keeps ..); (· decide))
    | (with_reducible apply Wrote.by (State.writeRecord_wrote ..))

theorem State.writeCheckpoint_wrote (s : State) (c : Ckpt) : Wrote s (s.writeCheckpoint c) := by
  have k : ∀ (u : State) (a b : Bytes), Wrote s u →
      Wrote s (((u.putFloeSlot c.part a).putFloeSlot c.part b).bump .checkpointsSigned 1) := fun u a b h =>
    Wrote.keep (State.bump_keeps ..) (by decide) ((h.trans (State.putFloeSlot_wrote ..)).trans (State.putFloeSlot_wrote ..))
  unfold State.writeCheckpoint
  cases s.vault.drbg with
  | none => exact k _ _ _ (Wrote.refl _)
  | some d => exact k _ _ _ (Wrote.keep (State.setDrbg_keeps ..) (by decide) (Wrote.refl _))

theorem State.putCompletion_wrote (s : State) (t : Ticket) (status : Status) (flags : Nat) (offset : Nat) :
    Wrote s (State.putCompletion s t status flags offset) := by
  unfold State.putCompletion
  repeat' first
    | with_reducible assumption
    | with_reducible exact Wrote.refl _
    | (with_reducible apply Wrote.keep (State.bump_keeps ..); (· decide))
    | (with_reducible apply Wrote.keep (State.completionEvent_keeps ..); (· decide))
    | (with_reducible apply Wrote.keep (State.dropTicket_keeps ..); (· decide))
    | (with_reducible apply Wrote.keep (State.modPart_keeps ..); (· decide))
    | (with_reducible apply Wrote.by (State.writeRecord_wrote ..))
    | split

theorem State.putFloe_wrote (s : State) (t : Ticket) (status : Status) (offset : Nat) :
    Wrote s (State.putFloe s t status offset).1 := by
  unfold State.putFloe
  repeat' first
    | with_reducible assumption
    | with_reducible exact Wrote.refl _
    | (with_reducible apply Wrote.keep (State.checkpointDue_keeps ..); (· decide))
    | (with_reducible apply Wrote.keep (State.modPart_keeps ..); (· decide))
    | (with_reducible apply Wrote.by (State.putFloeSlot_wrote ..))
    | split
    | dsimp only

theorem State.finish_wrote (s : State) (t : Ticket) (status : Status) (flags : Nat) (offset : Nat) :
    Wrote s (State.finish s t status flags offset) := by
  unfold State.finish
  repeat' first
    | with_reducible assumption
    | with_reducible exact Wrote.refl _
    | (with_reducible apply Wrote.keep (State.modTicket_keeps _ _ _ _); (· decide))
    | ((with_reducible intro _); exact rfl)
    | (with_reducible apply Wrote.by (State.putCompletion_wrote ..))
    | (with_reducible apply Wrote.by (State.putFloe_wrote ..))
    | (with_reducible apply Wrote.by_fst (State.putFloe_wrote ..); (· assumption))
    | split

theorem State.endLaunch_wrote (s : State) (q : Nat) (status : Status) :
    Wrote s (State.endLaunch s q status) := by
  unfold State.endLaunch
  repeat' first
    | with_reducible assumption
    | with_reducible exact Wrote.refl _
    | (with_reducible apply Wrote.keep (State.loadFails_keeps ..); (· decide))
    | (with_reducible apply Wrote.keep (State.modTicket_keeps _ _ _ _); (· decide))
    | ((with_reducible intro _); exact rfl)
    | (with_reducible apply Wrote.by (State.openWritten_wrote ..))
    | (with_reducible apply Wrote.keep (State.sendAbort_keeps ..); (· decide))
    | split

theorem State.endLaunch?_wrote (s : State) (q : Option Nat) (status : Status) :
    Wrote s (State.endLaunch? s q status) := by
  unfold State.endLaunch?
  repeat' first
    | with_reducible assumption
    | with_reducible exact Wrote.refl _
    | (with_reducible apply Wrote.by (State.endLaunch_wrote ..))
    | split

theorem State.endAll_wrote (s : State) (status : Status) :
    Wrote s (State.endAll s status) := by
  unfold State.endAll
  repeat' first
    | with_reducible assumption
    | with_reducible exact Wrote.refl _
    | with_reducible apply Wrote.foldl
    | with_reducible apply Wrote.foldl_snd
    | with_reducible apply Wrote.foldl_st
    | (with_reducible apply Wrote.by (State.endLaunch_wrote ..))
    | split
    | dsimp only
    | intro _

theorem State.dropAllTickets_wrote (s : State) (status : Status) :
    Wrote s (State.dropAllTickets s status) := by
  unfold State.dropAllTickets
  repeat' first
    | with_reducible assumption
    | with_reducible exact Wrote.refl _
    | with_reducible apply Wrote.foldl
    | with_reducible apply Wrote.foldl_snd
    | with_reducible apply Wrote.foldl_st
    | (with_reducible apply Wrote.by (State.openWritten_wrote ..))
    | (with_reducible apply Wrote.by (State.putCompletion_wrote ..))
    | (with_reducible apply Wrote.by (State.putFloe_wrote ..))
    | (with_reducible apply Wrote.by_fst (State.putFloe_wrote ..); (· assumption))
    | split
    | dsimp only
    | intro _

theorem State.enterWhiteout_wrote (s : State) (cause : Nat) : Wrote s (State.enterWhiteout s cause) := by
  have h : Wrote s ((((s.stopFigures .whiteout).dropAllTickets .whiteout).releaseAllKept).haltAll.clearKeys) :=
    Wrote.keep (State.clearKeys_keeps ..) (by decide) (Wrote.keep (State.haltAll_keeps ..) (by decide)
      (Wrote.keep (State.releaseAllKept_keeps ..) (by decide)
        ((Wrote.keep (State.stopFigures_keeps ..) (by decide) (Wrote.refl s)).trans (State.dropAllTickets_wrote ..))))
  unfold State.enterWhiteout
  split
  · exact Wrote.refl _
  · refine Wrote.keep (State.respondDeferred_keeps ..) (by decide) ?_
    exact Wrote.keep (Keeps.set_startup_whiteoutCause_whiteoutCount_sleetRunning_slices_tiles_block_download_advancing_vault
      (w := [.startup, .whiteoutCause, .whiteoutCount, .sleetRunning, .slices, .tiles, .block, .download, .advancing, .vault])
      (Keeps.refl _ _)) (by decide) h

theorem State.zeroiseBlock_wrote (s : State) : Wrote s (State.zeroiseBlock s) := by
  have h : Wrote s ((((s.respondDeferred .refused).stopFigures .unrecovered).dropAllTickets .unrecovered).releaseAllKept.haltAll.clearKeys) :=
    Wrote.keep (State.clearKeys_keeps ..) (by decide) (Wrote.keep (State.haltAll_keeps ..) (by decide)
      (Wrote.keep (State.releaseAllKept_keeps ..) (by decide)
        ((Wrote.keep (State.stopFigures_keeps ..) (by decide)
          (Wrote.keep (State.respondDeferred_keeps ..) (by decide) (Wrote.refl s))).trans (State.dropAllTickets_wrote ..))))
  unfold State.zeroiseBlock
  exact Wrote.keep (Keeps.set_parts_download_vault (w := [.parts, .download, .vault]) (Keeps.refl _ _)) (by decide) h

theorem State.requestSet_wrote (s : State) (who : ReadFor) (d : Desc) (n : Nat) :
    Wrote s (State.requestSet s who d n) := by
  unfold State.requestSet
  repeat' first
    | with_reducible assumption
    | with_reducible exact Wrote.refl _
    | (with_reducible apply Wrote.by (State.readPieces_wrote ..))

theorem State.endLogged_wrote (s : State) (l : Level) (e : Err) (unit : Nat) :
    Wrote s (State.endLogged s l e unit) := by
  unfold State.endLogged
  repeat' first
    | with_reducible assumption
    | with_reducible exact Wrote.refl _
    | (with_reducible apply Wrote.by (State.endLaunch?_wrote ..))
    | (with_reducible apply Wrote.keep (State.logErr_keeps ..); (· decide))
    | split

theorem State.disableTile_wrote (s : State) (n : Nat) (e : Err) :
    Wrote s (State.disableTile s n e) := by
  unfold State.disableTile
  repeat' first
    | with_reducible assumption
    | with_reducible exact Wrote.refl _
    | (with_reducible apply Wrote.keep (State.bump_keeps ..); (· decide))
    | (with_reducible apply Wrote.by (State.endLogged_wrote ..))
    | (with_reducible apply Wrote.by (State.enterWhiteout_wrote ..))
    | (with_reducible apply Wrote.keep (State.logErr_keeps ..); (· decide))
    | (with_reducible apply Wrote.keep (State.modTile_keeps ..); (· decide))
    | (with_reducible apply Wrote.keep (State.replace_keeps ..); (· decide))
    | split
    | dsimp only

theorem State.rowReached_wrote (s : State) (l : Level) (n : Nat) (row : Nat) (e : Err) :
    Wrote s (State.rowReached s l n row e) := by
  unfold State.rowReached
  repeat' first
    | with_reducible assumption
    | with_reducible exact Wrote.refl _
    | (with_reducible apply Wrote.keep (State.bump_keeps ..); (· decide))
    | (with_reducible apply Wrote.by (State.disableTile_wrote ..))
    | (with_reducible apply Wrote.keep (State.logErr_keeps ..); (· decide))
    | (with_reducible apply Wrote.keep (State.modTile_keeps ..); (· decide))
    | split

theorem State.countRow_wrote (s : State) (n : Nat) (row : Nat) (e : Err) :
    Wrote s (State.countRow s n row e) := by
  unfold State.countRow
  repeat' first
    | with_reducible assumption
    | with_reducible exact Wrote.refl _
    | (with_reducible apply Wrote.keep (State.modTile_keeps ..); (· decide))
    | (with_reducible apply Wrote.by (State.rowReached_wrote ..))
    | split
    | dsimp only

theorem State.beginBackground_wrote (s : State) (e : Err) (bank : Nat) :
    Wrote s (State.beginBackground s e bank) := by
  unfold State.beginBackground
  repeat' first
    | with_reducible assumption
    | with_reducible exact Wrote.refl _
    | (with_reducible apply Wrote.keep (State.bump_keeps ..); (· decide))
    | (with_reducible apply Wrote.by (State.requestSet_wrote ..))
    | split
    | dsimp only
    | (with_reducible refine Wrote.keep (Keeps.set_background (w := [.background]) (Keeps.refl _ _)) ?_ ?_; (· decide))

theorem State.perform_wrote (s : State) (hold : Option Level) (l : Level) (e : Err) :
    Wrote s (State.perform s hold l e).1 := by
  unfold State.perform
  repeat' first
    | with_reducible assumption
    | with_reducible exact Wrote.refl _
    | with_reducible apply Wrote.foldl
    | with_reducible apply Wrote.foldl_snd
    | with_reducible apply Wrote.foldl_st
    | (with_reducible apply Wrote.by (State.beginBackground_wrote ..))
    | (with_reducible apply Wrote.keep (State.bump_keeps ..); (· decide))
    | (with_reducible apply Wrote.by (State.countRow_wrote ..))
    | (with_reducible apply Wrote.keep (State.emptyContext_keeps ..); (· decide))
    | (with_reducible apply Wrote.by (State.endLaunch_wrote ..))
    | (with_reducible apply Wrote.by (State.endLaunch?_wrote ..))
    | (with_reducible apply Wrote.keep (State.logErr_keeps ..); (· decide))
    | (with_reducible apply Wrote.keep (State.modSlice_keeps ..); (· decide))
    | (with_reducible apply Wrote.keep (State.noteFlurry_keeps ..); (· decide))
    | (with_reducible apply Wrote.by (State.requestSet_wrote ..))
    | (with_reducible apply Wrote.keep (State.reseedSlice_keeps ..); (· decide))
    | (with_reducible apply Wrote.keep (State.startRetry_keeps ..); (· decide))
    | split
    | dsimp only
    | intro _

theorem State.serve_wrote (n : Nat) (l : Level) (s : State) : Wrote s (State.serve n l s) := by
  induction n generalizing s with
  | zero => exact Wrote.refl _
  | succ n ih =>
    unfold State.serve
    dsimp only
    split
    · have k := fun e => Wrote.keep (State.setHandler_keeps s l e) (by decide) (Wrote.refl s)
      split
      · exact (k _).trans (State.perform_wrote ..)
      · exact (Wrote.keep (State.setHandler_keeps ..) (by decide) ((k _).trans (State.perform_wrote ..))).trans (ih _)
    · exact Wrote.refl _

theorem State.release_wrote (s : State) (l : Level) :
    Wrote s (State.release s l) := by
  unfold State.release
  repeat' first
    | with_reducible assumption
    | with_reducible exact Wrote.refl _
    | (with_reducible apply Wrote.by (State.serve_wrote ..))
    | (with_reducible apply Wrote.keep (State.setHandler_keeps ..); (· decide))

theorem State.escalate_wrote (s : State) (l : Level) (e : Err) :
    Wrote s (State.escalate s l e) := by
  unfold State.escalate
  repeat' first
    | with_reducible assumption
    | with_reducible exact Wrote.refl _
    | (with_reducible apply Wrote.keep (State.bump_keeps ..); (· decide))
    | (with_reducible apply Wrote.keep (State.degradeBank_keeps ..); (· decide))
    | (with_reducible apply Wrote.by (State.disableTile_wrote ..))
    | (with_reducible apply Wrote.by (State.endLogged_wrote ..))
    | (with_reducible apply Wrote.keep (State.healthEvent_keeps ..); (· decide))
    | (with_reducible apply Wrote.keep (State.logErr_keeps ..); (· decide))
    | (with_reducible apply Wrote.keep (State.modSlice_keeps ..); (· decide))
    | (with_reducible apply Wrote.by (State.perform_wrote ..))
    | (with_reducible apply Wrote.by_fst (State.perform_wrote ..); (· assumption))
    | (with_reducible apply Wrote.keep (State.replace_keeps ..); (· decide))
    | (with_reducible apply Wrote.by (State.rowReached_wrote ..))
    | split

theorem State.overflow_wrote (s : State) (l : Level) (e : Err) :
    Wrote s (State.overflow s l e) := by
  unfold State.overflow
  repeat' first
    | with_reducible assumption
    | with_reducible exact Wrote.refl _
    | with_reducible apply Wrote.foldl
    | with_reducible apply Wrote.foldl_snd
    | with_reducible apply Wrote.foldl_st
    | (with_reducible apply Wrote.keep (State.bump_keeps ..); (· decide))
    | (with_reducible apply Wrote.by (State.countRow_wrote ..))
    | (with_reducible apply Wrote.by (State.endAll_wrote ..))
    | (with_reducible apply Wrote.by (State.endLaunch?_wrote ..))
    | (with_reducible apply Wrote.by (State.enterWhiteout_wrote ..))
    | (with_reducible apply Wrote.keep (State.logError_keeps ..); (· decide))
    | (with_reducible apply Wrote.keep (State.modTile_keeps ..); (· decide))
    | (with_reducible apply Wrote.keep (State.setHandler_keeps ..); (· decide))
    | split
    | dsimp only
    | intro _

theorem State.detect_wrote (s : State) (l : Level) (e : Err) :
    Wrote s (State.detect s l e) := by
  unfold State.detect
  repeat' first
    | with_reducible assumption
    | with_reducible exact Wrote.refl _
    | (with_reducible apply Wrote.by (State.escalate_wrote ..))
    | (with_reducible apply Wrote.by (State.overflow_wrote ..))
    | (with_reducible apply Wrote.by (State.serve_wrote ..))
    | (with_reducible apply Wrote.keep (State.setHandler_keeps ..); (· decide))
    | split
    | dsimp only

theorem State.hit_wrote (s : State) (l : Level) (kind : ErrKind) (res : Resource) (unit : Nat) (detail : Nat) (ticket : Option Nat) (work : Sys2Proof.ArrayWork) :
    Wrote s (State.hit s l kind res unit detail ticket work) := by
  unfold State.hit
  repeat' first
    | with_reducible assumption
    | with_reducible exact Wrote.refl _
    | (with_reducible apply Wrote.by (State.detect_wrote ..))

theorem State.linkFault_wrote (s : State) (p : Fin 4) (ticket : Option Nat) :
    Wrote s (State.linkFault s p ticket) := by
  unfold State.linkFault
  repeat' first
    | with_reducible assumption
    | with_reducible exact Wrote.refl _
    | (with_reducible apply Wrote.keep (State.bump_keeps ..); (· decide))
    | (with_reducible apply Wrote.keep (State.healthEvent_keeps ..); (· decide))
    | (with_reducible apply Wrote.keep (State.logErr_keeps ..); (· decide))
    | (with_reducible apply Wrote.by (State.overflow_wrote ..))
    | split
    | dsimp only

theorem State.settleHandler_wrote (s : State) (l : Level) :
    Wrote s (State.settleHandler s l) := by
  unfold State.settleHandler
  repeat' first
    | with_reducible assumption
    | with_reducible exact Wrote.refl _
    | (with_reducible apply Wrote.by (State.release_wrote ..))
    | split
    | dsimp only

theorem State.settleHandlers_wrote (s : State) :
    Wrote s (State.settleHandlers s) := by
  unfold State.settleHandlers
  repeat' first
    | with_reducible assumption
    | with_reducible exact Wrote.refl _
    | with_reducible apply Wrote.foldl
    | with_reducible apply Wrote.foldl_snd
    | with_reducible apply Wrote.foldl_st
    | (with_reducible apply Wrote.by (State.settleHandler_wrote ..))
    | split
    | dsimp only
    | intro _

theorem State.endStale_wrote (s : State) (t : Ticket) (tile : Nat) :
    Wrote s (State.endStale s t tile) := by
  unfold State.endStale
  repeat' first
    | with_reducible assumption
    | with_reducible exact Wrote.refl _
    | (with_reducible apply Wrote.keep (State.bump_keeps ..); (· decide))
    | (with_reducible apply Wrote.by (State.hit_wrote ..))
    | (with_reducible apply Wrote.keep (State.modTile_keeps ..); (· decide))

theorem State.unlessStale_wrote (s : State) (t : Ticket) (r : Running) {u : State} (h : Wrote s u) :
    Wrote s (s.unlessStale t r u) := by
  unfold State.unlessStale
  split
  · exact State.endStale_wrote ..
  · exact h

theorem State.enterFetch_wrote (s : State) (t : Ticket) (lvl : Fetch) (ranges : List (Nat × Nat)) :
    Wrote s (State.enterFetch s t lvl ranges) := by
  unfold State.enterFetch
  repeat' first
    | with_reducible assumption
    | with_reducible exact Wrote.refl _
    | with_reducible apply Wrote.foldl
    | with_reducible apply Wrote.foldl_snd
    | with_reducible apply Wrote.foldl_st
    | (with_reducible apply Wrote.keep (State.modTicket_keeps _ _ _ _); (· decide))
    | ((with_reducible intro _); exact rfl)
    | (with_reducible apply Wrote.by (State.readRange_wrote ..))
    | split
    | dsimp only
    | intro _

theorem State.fetchStep_wrote (s : State) (t : Ticket) :
    Wrote s (State.fetchStep s t) := by
  unfold State.fetchStep
  repeat' first
    | with_reducible assumption
    | with_reducible exact Wrote.refl _
    | (with_reducible apply Wrote.by (State.enterFetch_wrote ..))
    | (with_reducible apply Wrote.keep (State.modTicket_keeps _ _ _ _); (· decide))
    | ((with_reducible intro _); exact rfl)
    | (with_reducible apply Wrote.keep (State.moveHead_keeps ..); (· decide))
    | (with_reducible apply Wrote.keep (State.takeBanks_keeps ..); (· decide))
    | split
    | dsimp only

theorem State.fetchTicket_wrote (n q : Nat) (s : State) : Wrote s (State.fetchTicket n q s) := by
  induction n generalizing s with
  | zero => exact Wrote.refl _
  | succ n ih =>
    unfold State.fetchTicket
    split
    · split
      · exact Wrote.refl _
      · exact (State.fetchStep_wrote ..).trans (ih _)
    · exact Wrote.refl _

theorem State.pumpFetch_wrote (s : State) :
    Wrote s (State.pumpFetch s) := by
  unfold State.pumpFetch
  repeat' first
    | with_reducible assumption
    | with_reducible exact Wrote.refl _
    | with_reducible apply Wrote.foldl
    | with_reducible apply Wrote.foldl_snd
    | with_reducible apply Wrote.foldl_st
    | (with_reducible apply Wrote.by (State.fetchTicket_wrote ..))
    | split
    | dsimp only
    | intro _

theorem State.takeRow_wrote (s : State) (row : Bytes × Bool) :
    WroteOpt s (State.takeRow s row) := by
  unfold State.takeRow
  repeat' first
    | with_reducible assumption
    | with_reducible exact Wrote.refl _
    | with_reducible exact WroteOpt.none
    | with_reducible apply WroteOpt.some
    | (with_reducible apply Wrote.by (State.endLaunch_wrote ..))
    | (with_reducible apply Wrote.keep (State.modTicket_keeps _ _ _ _); (· decide))
    | ((with_reducible intro _); exact rfl)
    | split
    | dsimp only

theorem State.pumpRows_wrote (n : Nat) (s : State) : Wrote s (State.pumpRows n s) := by
  induction n generalizing s with
  | zero => exact Wrote.refl _
  | succ n ih =>
    unfold State.pumpRows
    split
    · exact Wrote.refl _
    · split
      · rename_i u hu
        refine Wrote.trans (Wrote.keep (State.returnCredit_keeps ..) (by decide) ?_) (ih _)
        exact ((State.takeRow_wrote ..).go u hu).upd rfl rfl rfl
      · exact Wrote.refl _

theorem State.pumpIn_wrote (s : State) :
    Wrote s (State.pumpIn s) := by
  unfold State.pumpIn
  repeat' first
    | with_reducible assumption
    | with_reducible exact Wrote.refl _
    | (with_reducible apply Wrote.by (State.pumpFetch_wrote ..))
    | (with_reducible apply Wrote.by (State.pumpRows_wrote ..))

theorem State.readSets_wrote (s : State) (q : Nat) (d : Desc) :
    Wrote s (State.readSets s q d) := by
  unfold State.readSets
  repeat' first
    | with_reducible assumption
    | with_reducible exact Wrote.refl _
    | with_reducible apply Wrote.foldl
    | with_reducible apply Wrote.foldl_snd
    | with_reducible apply Wrote.foldl_st
    | (with_reducible apply Wrote.by (State.readPieces_wrote ..))
    | split
    | dsimp only
    | intro _

theorem State.launchReads_wrote (s : State) (t : Ticket) :
    Wrote s (State.launchReads s t) := by
  unfold State.launchReads
  repeat' first
    | with_reducible assumption
    | with_reducible exact Wrote.refl _
    | with_reducible apply Wrote.foldl
    | with_reducible apply Wrote.foldl_snd
    | with_reducible apply Wrote.foldl_st
    | (with_reducible apply Wrote.by (State.readRange_wrote ..))
    | (with_reducible apply Wrote.by (State.readSets_wrote ..))
    | split
    | dsimp only
    | intro _

theorem State.endQuietly_wrote (s : State) (q : Nat) (status : Status) :
    Wrote s (State.endQuietly s q status) := by
  unfold State.endQuietly
  repeat' first
    | with_reducible assumption
    | with_reducible exact Wrote.refl _
    | (with_reducible apply Wrote.keep (State.loadFails_keeps ..); (· decide))
    | (with_reducible apply Wrote.keep (State.modTicket_keeps _ _ _ _); (· decide))
    | ((with_reducible intro _); exact rfl)
    | (with_reducible apply Wrote.by (State.openWritten_wrote ..))

theorem State.launch_wrote (s : State) (t : Ticket) :
    Wrote s (State.launch s t) := by
  unfold State.launch
  repeat' first
    | with_reducible assumption
    | with_reducible exact Wrote.refl _
    | (with_reducible apply Wrote.by (State.endLaunch_wrote ..))
    | (with_reducible apply Wrote.by (State.endQuietly_wrote ..))
    | (with_reducible apply Wrote.keep (State.launchCtxs_keeps ..); (· decide))
    | (with_reducible apply Wrote.by (State.launchReads_wrote ..))
    | (with_reducible apply Wrote.keep (State.modTicket_keeps _ _ _ _); (· decide))
    | ((with_reducible intro _); exact rfl)
    | (with_reducible apply Wrote.keep (State.noteGroup_keeps ..); (· decide))
    | split
    | dsimp only
    | (with_reducible refine Wrote.keep (Keeps.set_abortTable (w := [.abortTable]) (Keeps.refl _ _)) ?_ ?_; (· decide))

theorem State.endBefore_wrote (s : State) (t : Ticket) (status : Status) :
    Wrote s (State.endBefore s t status) := by
  unfold State.endBefore
  repeat' first
    | with_reducible assumption
    | with_reducible exact Wrote.refl _
    | (with_reducible apply Wrote.by (State.finish_wrote ..))
    | (with_reducible apply Wrote.keep (State.freeBanks_keeps ..); (· decide))
    | (with_reducible apply Wrote.keep (State.noteGroup_keeps ..); (· decide))
    | (with_reducible apply Wrote.keep (State.sendAbort_keeps ..); (· decide))
    | split

theorem State.launchOne_wrote (s : State) :
    WroteOpt s (State.launchOne s) := by
  unfold State.launchOne
  repeat' first
    | with_reducible assumption
    | with_reducible exact Wrote.refl _
    | with_reducible exact WroteOpt.none
    | with_reducible apply WroteOpt.some
    | (with_reducible apply Wrote.by (State.endBefore_wrote ..))
    | (with_reducible apply Wrote.by (State.launch_wrote ..))
    | with_reducible apply WroteOpt.map
    | split
    | dsimp only
    | intro _

theorem State.launchAll_wrote (n : Nat) (s : State) : Wrote s (State.launchAll n s) := by
  induction n generalizing s with
  | zero => exact Wrote.refl _
  | succ n ih =>
    unfold State.launchAll
    split
    · rename_i u hu
      exact (((State.launchOne_wrote s).go u hu).trans (State.pumpIn_wrote u)).trans (ih _)
    · exact Wrote.refl _

theorem State.preempt_wrote (s : State) :
    Wrote s (State.preempt s) := by
  unfold State.preempt
  repeat' first
    | with_reducible assumption
    | with_reducible exact Wrote.refl _
    | (with_reducible apply Wrote.keep (State.bump_keeps ..); (· decide))
    | (with_reducible apply Wrote.by (State.launch_wrote ..))
    | (with_reducible apply Wrote.keep (State.mapRuns_keeps ..); (· decide))
    | split

theorem State.preemptAfter_wrote (s : State) :
    Wrote s (State.preemptAfter s) := by
  unfold State.preemptAfter
  repeat' first
    | with_reducible assumption
    | with_reducible exact Wrote.refl _
    | (with_reducible apply Wrote.by (State.preempt_wrote ..))
    | split
    | dsimp only
    | (with_reducible refine Wrote.keep (Keeps.set_preemptDue (w := [.preemptDue]) (Keeps.refl _ _)) ?_ ?_; (· decide))

theorem State.engine_wrote {s t : State} {q : Nat} {o : Op} {f : Ticket → Running → Out}
    (h : Wrote s t) (k : ∀ tk r, WroteOut s (f tk r)) : WroteOut s (t.engine q o f) := by
  unfold State.engine State.awake
  split
  · exact WroteOut.next h
  · dsimp only
    split
    · split
      · exact WroteOut.fault
      · split
        · exact WroteOut.next h
        · split
          · refine WroteOut.next ?_
            split
            · exact .keep (State.modRun_keeps ..) (by decide) h
            · exact h
          · exact k _ _
    · exact WroteOut.fault

theorem State.collectRow_wrote (s : State) (t : Ticket) (cols : List Column) (i : Nat) (j : Int) :
    Wrote s (State.collectRow s t cols i j) := by
  unfold State.collectRow
  repeat' first
    | with_reducible assumption
    | with_reducible exact Wrote.refl _
    | (with_reducible apply Wrote.keep (State.addFlags_keeps ..); (· decide))
    | (with_reducible apply Wrote.keep (State.modCtx_keeps ..); (· decide))
    | (with_reducible apply Wrote.by (State.readRange_wrote ..))
    | (with_reducible apply Wrote.by (State.writeScratch_wrote ..))

theorem State.beginPass_wrote (s : State) (t : Ticket) (r : Running) :
    Wrote s (State.beginPass s t r) := by
  unfold State.beginPass
  repeat' first
    | with_reducible assumption
    | with_reducible exact Wrote.refl _
    | (with_reducible apply Wrote.keep (State.addFlags_keeps ..); (· decide))
    | (with_reducible apply Wrote.keep (State.bump_keeps ..); (· decide))
    | (with_reducible apply Wrote.keep (State.countBeyond_keeps ..); (· decide))
    | (with_reducible apply Wrote.keep (State.modRun_keeps ..); (· decide))
    | (with_reducible apply Wrote.by (State.readSets_wrote ..))
    | split
    | dsimp only

theorem State.passStep_wrote (s : State) (t : Ticket) (r : Running) :
    WroteOpt s (State.passStep s t r) := by
  unfold State.passStep
  repeat' first
    | with_reducible assumption
    | with_reducible exact Wrote.refl _
    | with_reducible exact WroteOpt.none
    | with_reducible apply WroteOpt.some
    | (with_reducible apply Wrote.by (State.collectRow_wrote ..))
    | (with_reducible apply Wrote.keep (State.modRun_keeps ..); (· decide))
    | (with_reducible apply Wrote.keep (State.startGather_keeps ..); (· decide))
    | (with_reducible apply Wrote.keep (State.takeSpill_keeps ..); (· decide))
    | split

theorem State.putResult_wrote (s : State) (t : Ticket) (r : ResultRec) :
    Wrote s (State.putResult s t r) := by
  unfold State.putResult
  repeat' first
    | with_reducible assumption
    | with_reducible exact Wrote.refl _
    | (with_reducible apply Wrote.by (State.writeHost_wrote ..))

theorem State.putLogProbs_wrote (s : State) (t : Ticket) (pos : Nat) (words : List Nat) :
    Wrote s (State.putLogProbs s t pos words) := by
  unfold State.putLogProbs
  repeat' first
    | with_reducible assumption
    | with_reducible exact Wrote.refl _
    | (with_reducible apply Wrote.by (State.writeHost_wrote ..))

theorem State.settleOne_wrote (s : State) (t : Ticket) (x : SelRow) :
    Wrote s (State.settleOne s t x) := by
  unfold State.settleOne
  repeat' first
    | with_reducible assumption
    | with_reducible exact Wrote.refl _
    | (with_reducible apply Wrote.keep (State.advanceStep_keeps ..); (· decide))
    | (with_reducible apply Wrote.keep (State.countWithout_keeps ..); (· decide))
    | (with_reducible apply Wrote.keep (State.markSettled_keeps ..); (· decide))
    | (with_reducible apply Wrote.by (State.putLogProbs_wrote ..))
    | (with_reducible apply Wrote.by (State.putResult_wrote ..))
    | (with_reducible apply Wrote.keep (State.settleToken_keeps ..); (· decide))
    | split

theorem State.settleRows_wrote (s : State) (t : Ticket) (r : Running) :
    Wrote s (State.settleRows s t r) := by
  unfold State.settleRows
  repeat' first
    | with_reducible assumption
    | with_reducible exact Wrote.refl _
    | with_reducible apply Wrote.foldl
    | with_reducible apply Wrote.foldl_snd
    | with_reducible apply Wrote.foldl_st
    | (with_reducible apply Wrote.keep (State.finishWith_keeps ..); (· decide))
    | (with_reducible apply Wrote.by (State.settleOne_wrote ..))
    | split
    | dsimp only
    | intro _

theorem State.beamRows_wrote (s : State) (t : Ticket) (r : Running) :
    Wrote s (State.beamRows s t r) := by
  unfold State.beamRows
  repeat' first
    | with_reducible assumption
    | with_reducible exact Wrote.refl _
    | (with_reducible apply Wrote.keep (State.advanceStep_keeps ..); (· decide))
    | (with_reducible apply Wrote.keep (State.countWithout_keeps ..); (· decide))
    | (with_reducible apply Wrote.keep (State.finishWith_keeps ..); (· decide))
    | (with_reducible apply Wrote.keep (State.modCtx_keeps ..); (· decide))
    | (with_reducible apply Wrote.by (State.putLogProbs_wrote ..))
    | (with_reducible apply Wrote.by (State.putResult_wrote ..))
    | (with_reducible apply Wrote.by (State.writeHost_wrote ..))
    | split

theorem State.verifyRows_wrote (s : State) (t : Ticket) (r : Running) :
    Wrote s (State.verifyRows s t r) := by
  unfold State.verifyRows
  repeat' first
    | with_reducible assumption
    | with_reducible exact Wrote.refl _
    | with_reducible apply Wrote.foldl
    | with_reducible apply Wrote.foldl_snd
    | with_reducible apply Wrote.foldl_st
    | (with_reducible apply Wrote.keep (State.advanceStep_keeps ..); (· decide))
    | (with_reducible apply Wrote.keep (State.countWithout_keeps ..); (· decide))
    | (with_reducible apply Wrote.keep (State.finishWith_keeps ..); (· decide))
    | (with_reducible apply Wrote.by (State.putLogProbs_wrote ..))
    | (with_reducible apply Wrote.by (State.putResult_wrote ..))
    | (with_reducible apply Wrote.keep (State.settleToken_keeps ..); (· decide))
    | (with_reducible apply Wrote.keep (State.walk_keeps ..); (· decide))
    | (with_reducible apply Wrote.by (State.writeHost_wrote ..))
    | split
    | dsimp only
    | intro _

theorem State.settleAll_wrote (s : State) (q : Nat) :
    Wrote s (State.settleAll s q) := by
  unfold State.settleAll
  repeat' first
    | with_reducible assumption
    | with_reducible exact Wrote.refl _
    | (with_reducible apply Wrote.by (State.beamRows_wrote ..))
    | (with_reducible apply Wrote.by (State.settleRows_wrote ..))
    | (with_reducible apply Wrote.by (State.verifyRows_wrote ..))
    | split

theorem State.round1Done_wrote (s : State) (t : Ticket) (r : Running) (e : Exch) (rows : List RowRec) :
    Wrote s (State.round1Done s t r e rows) := by
  unfold State.round1Done
  repeat' first
    | with_reducible assumption
    | with_reducible exact Wrote.refl _
    | (with_reducible apply Wrote.by (State.beginPass_wrote ..))
    | (with_reducible apply Wrote.keep (State.modRun_keeps ..); (· decide))
    | (with_reducible apply Wrote.by (State.settleAll_wrote ..))
    | (with_reducible apply Wrote.keep (State.startGather_keeps ..); (· decide))
    | split
    | dsimp only

theorem State.round2Done_wrote (s : State) (t : Ticket) (r : Running) (e : Exch) (gs : List GatherRow) :
    Wrote s (State.round2Done s t r e gs) := by
  unfold State.round2Done
  repeat' first
    | with_reducible assumption
    | with_reducible exact Wrote.refl _
    | (with_reducible apply Wrote.keep (State.modRun_keeps ..); (· decide))
    | (with_reducible apply Wrote.by (State.settleAll_wrote ..))
    | (with_reducible apply Wrote.keep (State.startGather_keeps ..); (· decide))
    | split
    | dsimp only

theorem State.putElem_wrote (s : State) (q : Nat) (addr : Nat) (sz : Nat) (bits : Nat) (clash : Bool) :
    Wrote s (State.putElem s q addr sz bits clash) := by
  unfold State.putElem
  repeat' first
    | with_reducible assumption
    | with_reducible exact Wrote.refl _
    | (with_reducible apply Wrote.keep (State.openBytes_keeps ..); (· decide))
    | (with_reducible apply Wrote.by (State.writeHost_wrote ..))
    | split

theorem State.putElems_wrote (s : State) (q : Nat) (addr : Nat) (sz : Nat) (els : List Nat) (others : List (Nat × Nat)) :
    Wrote s (State.putElems s q addr sz els others) := by
  unfold State.putElems
  repeat' first
    | with_reducible assumption
    | with_reducible exact Wrote.refl _
    | with_reducible apply Wrote.foldl
    | with_reducible apply Wrote.foldl_snd
    | with_reducible apply Wrote.foldl_st
    | (with_reducible apply Wrote.by (State.putElem_wrote ..))
    | (with_reducible apply Wrote.by (State.writeHost_wrote ..))
    | split
    | dsimp only
    | intro _

theorem State.mismatch_wrote (s : State) (q : Nat) :
    Wrote s (State.mismatch s q) := by
  unfold State.mismatch
  repeat' first
    | with_reducible assumption
    | with_reducible exact Wrote.refl _
    | (with_reducible apply Wrote.keep (State.bump_keeps ..); (· decide))
    | (with_reducible apply Wrote.by (State.endLaunch_wrote ..))

theorem State.lossDone_wrote (s : State) (t : Ticket) (rows : List RowRec) :
    Wrote s (State.lossDone s t rows) := by
  unfold State.lossDone
  repeat' first
    | with_reducible assumption
    | with_reducible exact Wrote.refl _
    | with_reducible apply Wrote.foldl
    | with_reducible apply Wrote.foldl_snd
    | with_reducible apply Wrote.foldl_st
    | (with_reducible apply Wrote.keep (State.addFlags_keeps ..); (· decide))
    | (with_reducible apply Wrote.keep (State.finishWith_keeps ..); (· decide))
    | (with_reducible apply Wrote.by (State.writeHost_wrote ..))
    | split
    | dsimp only
    | intro _

theorem State.doLoss_wrote (s : State) (t : Ticket) (r : Running) :
    Wrote s (State.doLoss s t r) := by
  unfold State.doLoss
  repeat' first
    | with_reducible assumption
    | with_reducible exact Wrote.refl _
    | (with_reducible apply Wrote.keep (State.lossScore_keeps ..); (· decide))
    | (with_reducible apply Wrote.by (State.mismatch_wrote ..))
    | split

theorem State.dwRow_wrote (s : State) (t : Ticket) (m : Nat) (top : Int) (ks : List GTok) (j : Nat) (id : Nat) :
    Wrote s (State.dwRow s t m top ks j id).2 := by
  unfold State.dwRow
  repeat' first
    | with_reducible assumption
    | with_reducible exact Wrote.refl _
    | (with_reducible apply Wrote.keep (Rounded.settle_keeps ..); (· decide))
    | (with_reducible apply Wrote.by (State.dwChunk_wrote ..))
    | (with_reducible apply Wrote.by (State.putElems_wrote ..))
    | (with_reducible apply Wrote.keep (State.roundLWs_keeps ..); (· decide))

theorem State.dwChunk_wrote (s : State) (t : Ticket) (ids : List Nat) (toks : List GTok) (m : Nat) :
    Wrote s (State.dwChunk s t ids toks m).2 := by
  unfold State.dwChunk
  repeat' first
    | with_reducible assumption
    | with_reducible exact Wrote.refl _
    | with_reducible apply Wrote.foldl
    | with_reducible apply Wrote.foldl_snd
    | with_reducible apply Wrote.foldl_st
    | (with_reducible apply Wrote.by (State.dwRow_wrote ..))
    | (with_reducible apply Wrote.by_snd1 (State.dwRow_wrote ..); (· assumption))
    | (with_reducible apply Wrote.by (State.putElems_wrote ..))
    | split
    | dsimp only
    | intro _

theorem State.dwAll_wrote (s : State) (t : Ticket) (ids : List Nat) (toks : List GTok) :
    Wrote s (State.dwAll s t ids toks).2 := by
  unfold State.dwAll
  repeat' first
    | with_reducible assumption
    | with_reducible exact Wrote.refl _
    | with_reducible apply Wrote.foldl
    | with_reducible apply Wrote.foldl_snd
    | with_reducible apply Wrote.foldl_st
    | (with_reducible apply Wrote.by (State.dwChunk_wrote ..))
    | split
    | dsimp only
    | intro _

theorem State.gradProducts_wrote (s : State) (t : Ticket) (r : Running) (rows : List (CastRow × List Score)) (fl : U16) :
    Wrote s (State.gradProducts s t r rows fl) := by
  unfold State.gradProducts
  repeat' first
    | with_reducible assumption
    | with_reducible exact Wrote.refl _
    | (with_reducible apply Wrote.keep (State.addFlags_keeps ..); (· decide))
    | (with_reducible apply Wrote.by (State.dwAll_wrote ..))
    | (with_reducible apply Wrote.by_snd1 (State.dwAll_wrote ..); (· assumption))
    | (with_reducible apply Wrote.keep (State.modRun_keeps ..); (· decide))
    | (with_reducible apply Wrote.keep (State.startWords_keeps ..); (· decide))

theorem State.hiddenRow_wrote (s : State) (t : Ticket) (i : Nat) (top : Int) (ws : List LWord) :
    Wrote s (State.hiddenRow s t i top ws).2 := by
  unfold State.hiddenRow
  repeat' first
    | with_reducible assumption
    | with_reducible exact Wrote.refl _
    | (with_reducible apply Wrote.keep (Rounded.settle_keeps ..); (· decide))
    | (with_reducible apply Wrote.by (State.putElems_wrote ..))
    | (with_reducible apply Wrote.keep (State.roundLWs_keeps ..); (· decide))
    | (with_reducible apply Wrote.keep (State.sendAct_keeps ..); (· decide))
    | split
    | dsimp only

theorem State.gradDone_wrote (s : State) (t : Ticket) (r : Running) (ws : List LWord) :
    Wrote s (State.gradDone s t r ws) := by
  unfold State.gradDone
  repeat' first
    | with_reducible assumption
    | with_reducible exact Wrote.refl _
    | with_reducible apply Wrote.foldl
    | with_reducible apply Wrote.foldl_snd
    | with_reducible apply Wrote.foldl_st
    | (with_reducible apply Wrote.keep (State.finishWith_keeps ..); (· decide))
    | (with_reducible apply Wrote.by (State.hiddenRow_wrote ..))
    | split
    | dsimp only
    | intro _

theorem State.doGrad_wrote (s : State) (t : Ticket) (r : Running) :
    Wrote s (State.doGrad s t r) := by
  unfold State.doGrad
  repeat' first
    | with_reducible assumption
    | with_reducible exact Wrote.refl _
    | (with_reducible apply Wrote.by (State.endLaunch_wrote ..))
    | (with_reducible apply Wrote.by (State.gradProducts_wrote ..))
    | (with_reducible apply Wrote.by (State.mismatch_wrote ..))
    | (with_reducible apply Wrote.keep_snd2 (State.trainScores_keeps ..); (· assumption); (· decide))
    | split

theorem State.putTensor_wrote (s : State) (q : Nat) (o : Tens) (inp : Option Tens) (els : List (Nat × Nat)) (others : List (Nat × Nat)) :
    Wrote s (State.putTensor s q o inp els others) := by
  unfold State.putTensor
  repeat' first
    | with_reducible assumption
    | with_reducible exact Wrote.refl _
    | with_reducible apply Wrote.foldl
    | with_reducible apply Wrote.foldl_snd
    | with_reducible apply Wrote.foldl_st
    | (with_reducible apply Wrote.by (State.putElem_wrote ..))
    | split
    | dsimp only
    | intro _

theorem State.reduceRow_wrote (s : State) (t : Ticket) (r : Nat) (top : Int) (ws : List LWord) :
    Wrote s (State.reduceRow s t r top ws) := by
  unfold State.reduceRow
  repeat' first
    | with_reducible assumption
    | with_reducible exact Wrote.refl _
    | (with_reducible apply Wrote.keep (Rounded.settle_keeps ..); (· decide))
    | (with_reducible apply Wrote.by (State.putTensor_wrote ..))
    | (with_reducible apply Wrote.keep (State.roundLWs_keeps ..); (· decide))
    | (with_reducible apply Wrote.by (State.writeHost_wrote ..))
    | split
    | dsimp only

theorem State.reduceDone_wrote (s : State) (t : Ticket) (r : Running) (ws : List LWord) :
    Wrote s (State.reduceDone s t r ws) := by
  unfold State.reduceDone
  repeat' first
    | with_reducible assumption
    | with_reducible exact Wrote.refl _
    | with_reducible apply Wrote.foldl
    | with_reducible apply Wrote.foldl_snd
    | with_reducible apply Wrote.foldl_st
    | (with_reducible apply Wrote.keep (State.finishWith_keeps ..); (· decide))
    | (with_reducible apply Wrote.by (State.reduceRow_wrote ..))
    | split
    | dsimp only
    | intro _

theorem State.doFunc_wrote (s : State) (t : Ticket) :
    Wrote s (State.doFunc s t) := by
  unfold State.doFunc
  repeat' first
    | with_reducible assumption
    | with_reducible exact Wrote.refl _
    | with_reducible apply Wrote.foldl
    | with_reducible apply Wrote.foldl_snd
    | with_reducible apply Wrote.foldl_st
    | (with_reducible apply Wrote.keep (Rounded.addFunc_keeps ..); (· decide))
    | (with_reducible apply Wrote.keep (Rounded.settle_keeps ..); (· decide))
    | (with_reducible apply Wrote.keep (State.finishWith_keeps ..); (· decide))
    | (with_reducible apply Wrote.keep (State.inBits_keeps ..); (· decide))
    | (with_reducible apply Wrote.by (State.putTensor_wrote ..))
    | split
    | dsimp only
    | intro _

theorem State.doFill_wrote (s : State) (t : Ticket) :
    Wrote s (State.doFill s t) := by
  unfold State.doFill
  repeat' first
    | with_reducible assumption
    | with_reducible exact Wrote.refl _
    | with_reducible apply Wrote.foldl
    | with_reducible apply Wrote.foldl_snd
    | with_reducible apply Wrote.foldl_st
    | (with_reducible apply Wrote.keep (Rounded.addFill_keeps ..); (· decide))
    | (with_reducible apply Wrote.keep (Rounded.settle_keeps ..); (· decide))
    | (with_reducible apply Wrote.keep (State.finishWith_keeps ..); (· decide))
    | (with_reducible apply Wrote.by (State.putTensor_wrote ..))
    | split
    | dsimp only
    | intro _

theorem State.doDigest_wrote (s : State) (t : Ticket) :
    Wrote s (State.doDigest s t) := by
  unfold State.doDigest
  repeat' first
    | with_reducible assumption
    | with_reducible exact Wrote.refl _
    | (with_reducible apply Wrote.keep (State.finishWith_keeps ..); (· decide))
    | (with_reducible apply Wrote.by (State.writeHost_wrote ..))

theorem State.exchDone_wrote (s : State) (t : Ticket) (r : Running) (e : Exch) (p : Payload) :
    Wrote s (State.exchDone s t r e p) := by
  unfold State.exchDone
  repeat' first
    | with_reducible assumption
    | with_reducible exact Wrote.refl _
    | (with_reducible apply Wrote.by (State.gradDone_wrote ..))
    | (with_reducible apply Wrote.by (State.lossDone_wrote ..))
    | (with_reducible apply Wrote.by (State.reduceDone_wrote ..))
    | (with_reducible apply Wrote.keep (State.reduceSums_keeps ..); (· decide))
    | (with_reducible apply Wrote.by (State.round1Done_wrote ..))
    | (with_reducible apply Wrote.by (State.round2Done_wrote ..))
    | split

theorem State.exchStep_wrote (s : State) (t : Ticket) (r : Running) :
    WroteOpt s (State.exchStep s t r) := by
  unfold State.exchStep
  repeat' first
    | with_reducible assumption
    | with_reducible exact Wrote.refl _
    | with_reducible exact WroteOpt.none
    | with_reducible apply WroteOpt.some
    | (with_reducible apply Wrote.keep (State.closeSegment_keeps ..); (· decide))
    | (with_reducible apply Wrote.by (State.endLaunch_wrote ..))
    | (with_reducible apply Wrote.by (State.exchDone_wrote ..))
    | (with_reducible apply WroteOpt.after (State.passStep_wrote ..))
    | with_reducible apply WroteOpt.map
    | split
    | dsimp only
    | intro _

theorem State.sequenceFault_wrote (s : State) (p : Fin 4) (t : Ticket) :
    Wrote s (State.sequenceFault s p t) := by
  unfold State.sequenceFault
  repeat' first
    | with_reducible assumption
    | with_reducible exact Wrote.refl _
    | (with_reducible apply Wrote.keep (State.bump_keeps ..); (· decide))
    | (with_reducible apply Wrote.by (State.endLaunch_wrote ..))
    | (with_reducible apply Wrote.by (State.linkFault_wrote ..))
    | (with_reducible apply Wrote.keep (State.logError_keeps ..); (· decide))
    | (with_reducible apply Wrote.keep (State.popFrame_keeps ..); (· decide))
    | (with_reducible apply Wrote.keep (State.sendAbort_keeps ..); (· decide))
    | split

theorem State.takeCheck_wrote (s : State) (p : Fin 4) (t : Ticket) (r : Running) (f : Frame) :
    Wrote s (State.takeCheck s p t r f) := by
  unfold State.takeCheck
  repeat' first
    | with_reducible assumption
    | with_reducible exact Wrote.refl _
    | (with_reducible apply Wrote.keep (State.bump_keeps ..); (· decide))
    | (with_reducible apply Wrote.by (State.endLaunch_wrote ..))
    | (with_reducible apply Wrote.keep (State.modRun_keeps ..); (· decide))
    | (with_reducible apply Wrote.keep (State.popFrame_keeps ..); (· decide))
    | (with_reducible apply Wrote.by (State.postAll_wrote ..))
    | split
    | dsimp only

theorem State.takeFrame_wrote (s : State) (p : Fin 4) :
    WroteOpt s (State.takeFrame s p) := by
  unfold State.takeFrame
  repeat' first
    | with_reducible assumption
    | with_reducible exact Wrote.refl _
    | with_reducible exact WroteOpt.none
    | with_reducible apply WroteOpt.some
    | (with_reducible apply Wrote.keep (State.bump_keeps ..); (· decide))
    | (with_reducible apply Wrote.keep (State.mergeFrame_keeps ..); (· decide))
    | (with_reducible apply Wrote.keep (State.popFrame_keeps ..); (· decide))
    | (with_reducible apply Wrote.by (State.sequenceFault_wrote ..))
    | (with_reducible apply Wrote.by (State.takeCheck_wrote ..))
    | split
    | dsimp only
    | (with_reducible refine Wrote.keep (Keeps.set_passed (w := [.passed]) (Keeps.refl _ _)) ?_ ?_; (· decide))

theorem State.pumpOne_wrote (s : State) : WroteOpt s s.pumpOne := by
  unfold State.pumpOne
  try dsimp only
  split
  · rename_i u l h
    have hu : u ∈ (sortBy runsBefore (s.tickets.filter Ticket.running)).filterMap (fun t => t.run.bind (s.exchStep t)) := by
      rw [h]; exact List.mem_cons_self
    obtain ⟨t, _, ht⟩ := List.mem_filterMap.1 hu
    obtain ⟨r, _, hr⟩ := Option.bind_eq_some_iff.1 ht
    exact WroteOpt.some ((State.exchStep_wrote s t r).go _ hr)
  · refine ⟨fun u hu => ?_⟩
    obtain ⟨p, _, hp⟩ := List.exists_of_findSome?_eq_some hu
    exact (State.takeFrame_wrote s p).go _ hp

theorem State.pumpAll_wrote (n : Nat) (s : State) : Wrote s (State.pumpAll n s) := by
  induction n generalizing s with
  | zero => exact Wrote.refl _
  | succ n ih =>
    unfold State.pumpAll
    split
    · rename_i u hu
      exact ((State.pumpOne_wrote s).go u hu).trans (ih _)
    · exact Wrote.refl _

theorem State.pump_wrote (s : State) :
    Wrote s (State.pump s) := by
  unfold State.pump
  repeat' first
    | with_reducible assumption
    | with_reducible exact Wrote.refl _
    | (with_reducible apply Wrote.by (State.pumpAll_wrote ..))

theorem execPeerDeadline_wrote (ticket : Nat) (s : State) :
    WroteOut s (execPeerDeadline ticket s) := by
  unfold execPeerDeadline
  repeat' first
    | with_reducible assumption
    | with_reducible exact Wrote.refl _
    | with_reducible exact WroteOut.fault
    | with_reducible apply WroteOut.next
    | with_reducible apply State.awake_wrote
    | (with_reducible apply Wrote.keep (State.modRun_keeps ..); (· decide))
    | (with_reducible apply Wrote.keep (State.passOver_keeps ..); (· decide))
    | (with_reducible apply Wrote.by (State.pump_wrote ..))
    | split
    | dsimp only
    | intro _

theorem execStallLimit_wrote (ticket : Nat) (s : State) :
    WroteOut s (execStallLimit ticket s) := by
  unfold execStallLimit
  repeat' first
    | with_reducible assumption
    | with_reducible exact Wrote.refl _
    | with_reducible exact WroteOut.fault
    | with_reducible apply WroteOut.next
    | with_reducible apply State.awake_wrote
    | (with_reducible apply Wrote.by (State.endLaunch_wrote ..))
    | (with_reducible apply Wrote.by (State.pump_wrote ..))
    | split
    | dsimp only
    | intro _

theorem execCheckDeadline_wrote (ticket : Nat) (s : State) :
    WroteOut s (execCheckDeadline ticket s) := by
  unfold execCheckDeadline
  repeat' first
    | with_reducible assumption
    | with_reducible exact Wrote.refl _
    | with_reducible exact WroteOut.fault
    | with_reducible apply WroteOut.next
    | with_reducible apply State.awake_wrote
    | (with_reducible apply Wrote.keep (State.bump_keeps ..); (· decide))
    | (with_reducible apply Wrote.by (State.endLaunch_wrote ..))
    | (with_reducible apply Wrote.by (State.pump_wrote ..))
    | split
    | dsimp only
    | intro _

theorem State.writePin_wrote (s : State) (sub : Nat) (v : Nat) :
    WroteOpt s (State.writePin s sub v) := by
  unfold State.writePin
  repeat' first
    | with_reducible assumption
    | with_reducible exact Wrote.refl _
    | with_reducible exact WroteOpt.none
    | with_reducible apply WroteOpt.some
    | (with_reducible apply Wrote.by (State.enterWhiteout_wrote ..))
    | (with_reducible apply Wrote.keep (State.modTile_keeps ..); (· decide))
    | split

theorem State.writeObject_wrote (s : State) (i : Nat) (sub : Nat) (v : Nat) :
    WroteOpt s (State.writeObject s i sub v) := by
  unfold State.writeObject
  repeat' first
    | with_reducible assumption
    | with_reducible exact Wrote.refl _
    | with_reducible exact WroteOpt.none
    | with_reducible apply WroteOpt.some
    | (with_reducible apply WroteOpt.keep (State.writeMgt_keeps ..); (· decide))
    | (with_reducible apply WroteOpt.keep (State.writePart_keeps ..); (· decide))
    | (with_reducible apply WroteOpt.after (State.writePin_wrote ..))
    | (with_reducible apply WroteOpt.keep (State.writeProfile_keeps ..); (· decide))
    | (with_reducible apply WroteOpt.keep (State.writeReel_keeps ..); (· decide))
    | (with_reducible apply WroteOpt.keep (State.writeTiming_keeps ..); (· decide))
    | split

theorem State.dictWrite_wrote (s : State) (p : Nat) (i : Nat) (sub : Nat) (v : Bytes) :
    WroteOpt s (State.dictWrite s p i sub v) := by
  unfold State.dictWrite
  repeat' first
    | with_reducible assumption
    | with_reducible exact Wrote.refl _
    | with_reducible exact WroteOpt.none
    | with_reducible apply WroteOpt.some
    | (with_reducible apply WroteOpt.after (State.writeObject_wrote ..))
    | split

theorem execDict_wrote (ticket : Nat) (s : State) :
    WroteOut s (execDict ticket s) := by
  unfold execDict
  repeat' first
    | with_reducible assumption
    | with_reducible exact Wrote.refl _
    | with_reducible exact WroteOut.fault
    | with_reducible apply WroteOut.next
    | (with_reducible apply Wrote.by_opt (State.dictWrite_wrote ..); (· assumption))
    | (with_reducible apply WroteOpt.after (State.dictWrite_wrote ..))
    | with_reducible apply State.engine_wrote
    | (with_reducible apply Wrote.keep (State.finishWith_keeps ..); (· decide))
    | (with_reducible apply Wrote.keep (State.readEffect_keeps ..); (· decide))
    | (with_reducible apply Wrote.by (State.writeHost_wrote ..))
    | split
    | dsimp only
    | intro _

theorem State.refetchSet_wrote (s : State) (t : Ticket) (n : Nat) :
    Wrote s (State.refetchSet s t n) := by
  unfold State.refetchSet
  repeat' first
    | with_reducible assumption
    | with_reducible exact Wrote.refl _
    | (with_reducible apply Wrote.keep (State.modRun_keeps ..); (· decide))
    | (with_reducible apply Wrote.by (State.requestSet_wrote ..))
    | (with_reducible apply Wrote.keep (State.startRetry_keeps ..); (· decide))

theorem State.badSet_wrote (s : State) (t : Ticket) (r : Running) (n : Nat) (kind : ErrKind) :
    Wrote s (State.badSet s t r n kind) := by
  unfold State.badSet
  repeat' first
    | with_reducible assumption
    | with_reducible exact Wrote.refl _
    | (with_reducible apply Wrote.keep (State.bump_keeps ..); (· decide))
    | (with_reducible apply Wrote.by (State.endLaunch_wrote ..))
    | (with_reducible apply Wrote.keep (State.logError_keeps ..); (· decide))
    | (with_reducible apply Wrote.by (State.refetchSet_wrote ..))
    | split

theorem State.badMeta_wrote (s : State) (t : Ticket) (r : Running) (n : Nat) (counted : Bool) :
    Wrote s (State.badMeta s t r n counted) := by
  unfold State.badMeta
  repeat' first
    | with_reducible assumption
    | with_reducible exact Wrote.refl _
    | (with_reducible apply Wrote.by (State.endLaunch_wrote ..))
    | (with_reducible apply Wrote.by (State.mismatch_wrote ..))
    | (with_reducible apply Wrote.by (State.refetchSet_wrote ..))
    | split

theorem State.judgeSet_wrote (s : State) (t : Ticket) (r : Running) (n : Nat) (v : SetVerdict) :
    Wrote s (State.judgeSet s t r n v) := by
  unfold State.judgeSet
  repeat' first
    | with_reducible assumption
    | with_reducible exact Wrote.refl _
    | (with_reducible apply Wrote.by (State.badMeta_wrote ..))
    | (with_reducible apply Wrote.by (State.badSet_wrote ..))
    | (with_reducible apply Wrote.keep (State.modRun_keeps ..); (· decide))
    | split

theorem State.doSelect_wrote (s : State) (t : Ticket) (r : Running) :
    Wrote s (State.doSelect s t r) := by
  unfold State.doSelect
  repeat' first
    | with_reducible assumption
    | with_reducible exact Wrote.refl _
    | (with_reducible apply Wrote.keep (State.addFlags_keeps ..); (· decide))
    | (with_reducible apply Wrote.keep (State.markSleet_keeps ..); (· decide))
    | (with_reducible apply Wrote.by (State.pump_wrote ..))
    | (with_reducible apply Wrote.keep (State.scoreAll_keeps ..); (· decide))
    | (with_reducible apply Wrote.keep (State.startRound1_keeps ..); (· decide))

theorem State.scoreOutputs_wrote (s : State) (t : Ticket) (p : Nat) (scores : List Score) :
    Wrote s (State.scoreOutputs s t p scores) := by
  unfold State.scoreOutputs
  repeat' first
    | with_reducible assumption
    | with_reducible exact Wrote.refl _
    | with_reducible apply Wrote.foldl
    | with_reducible apply Wrote.foldl_snd
    | with_reducible apply Wrote.foldl_st
    | (with_reducible apply Wrote.by (State.writeHost_wrote ..))
    | split
    | dsimp only
    | intro _

theorem State.doScore_wrote (s : State) (t : Ticket) :
    Wrote s (State.doScore s t) := by
  unfold State.doScore
  repeat' first
    | with_reducible assumption
    | with_reducible exact Wrote.refl _
    | with_reducible apply Wrote.foldl
    | with_reducible apply Wrote.foldl_snd
    | with_reducible apply Wrote.foldl_st
    | (with_reducible apply Wrote.keep (State.addFlags_keeps ..); (· decide))
    | (with_reducible apply Wrote.keep (State.finishWith_keeps ..); (· decide))
    | (with_reducible apply Wrote.keep (State.keepRows_keeps ..); (· decide))
    | (with_reducible apply Wrote.keep (State.modCtx_keeps ..); (· decide))
    | (with_reducible apply Wrote.keep (State.scoreAll_keeps ..); (· decide))
    | (with_reducible apply Wrote.by (State.scoreOutputs_wrote ..))
    | split
    | dsimp only
    | intro _

theorem execStep_wrote (ticket : Nat) (s : State) :
    WroteOut s (execStep ticket s) := by
  unfold execStep
  repeat' first
    | with_reducible assumption
    | with_reducible exact Wrote.refl _
    | with_reducible exact WroteOut.fault
    | with_reducible apply WroteOut.next
    | (with_reducible apply Wrote.by (State.doSelect_wrote ..))
    | with_reducible apply State.engine_wrote
    | with_reducible apply State.unlessStale_wrote
    | split
    | dsimp only
    | intro _

theorem execScore_wrote (ticket : Nat) (s : State) :
    WroteOut s (execScore ticket s) := by
  unfold execScore
  repeat' first
    | with_reducible assumption
    | with_reducible exact Wrote.refl _
    | with_reducible exact WroteOut.fault
    | with_reducible apply WroteOut.next
    | (with_reducible apply Wrote.by (State.doScore_wrote ..))
    | with_reducible apply State.engine_wrote
    | with_reducible apply State.unlessStale_wrote
    | split
    | dsimp only
    | intro _

theorem execSettle_wrote (ticket : Nat) (s : State) :
    WroteOut s (execSettle ticket s) := by
  unfold execSettle
  repeat' first
    | with_reducible assumption
    | with_reducible exact Wrote.refl _
    | with_reducible exact WroteOut.fault
    | with_reducible apply WroteOut.next
    | with_reducible apply State.engine_wrote
    | (with_reducible apply Wrote.keep (State.markSleet_keeps ..); (· decide))
    | (with_reducible apply Wrote.by (State.pump_wrote ..))
    | (with_reducible apply Wrote.keep (State.startRound1_keeps ..); (· decide))
    | with_reducible apply State.unlessStale_wrote
    | split
    | dsimp only
    | intro _

theorem execVerify_wrote (ticket : Nat) (s : State) :
    WroteOut s (execVerify ticket s) := by
  unfold execVerify
  repeat' first
    | with_reducible assumption
    | with_reducible exact Wrote.refl _
    | with_reducible exact WroteOut.fault
    | with_reducible apply WroteOut.next
    | (with_reducible apply Wrote.by (State.doSelect_wrote ..))
    | with_reducible apply State.engine_wrote
    | with_reducible apply State.unlessStale_wrote
    | split
    | dsimp only
    | intro _

theorem execBeam_wrote (ticket : Nat) (s : State) :
    WroteOut s (execBeam ticket s) := by
  unfold execBeam
  repeat' first
    | with_reducible assumption
    | with_reducible exact Wrote.refl _
    | with_reducible exact WroteOut.fault
    | with_reducible apply WroteOut.next
    | (with_reducible apply Wrote.by (State.doSelect_wrote ..))
    | with_reducible apply State.engine_wrote
    | with_reducible apply State.unlessStale_wrote
    | split
    | dsimp only
    | intro _

theorem execLoss_wrote (ticket : Nat) (s : State) :
    WroteOut s (execLoss ticket s) := by
  unfold execLoss
  repeat' first
    | with_reducible assumption
    | with_reducible exact Wrote.refl _
    | with_reducible exact WroteOut.fault
    | with_reducible apply WroteOut.next
    | (with_reducible apply Wrote.by (State.doLoss_wrote ..))
    | with_reducible apply State.engine_wrote
    | (with_reducible apply Wrote.by (State.pump_wrote ..))
    | with_reducible apply State.unlessStale_wrote
    | split
    | dsimp only
    | intro _

theorem execGrad_wrote (ticket : Nat) (s : State) :
    WroteOut s (execGrad ticket s) := by
  unfold execGrad
  repeat' first
    | with_reducible assumption
    | with_reducible exact Wrote.refl _
    | with_reducible exact WroteOut.fault
    | with_reducible apply WroteOut.next
    | (with_reducible apply Wrote.by (State.doGrad_wrote ..))
    | with_reducible apply State.engine_wrote
    | (with_reducible apply Wrote.by (State.pump_wrote ..))
    | with_reducible apply State.unlessStale_wrote
    | split
    | dsimp only
    | intro _

theorem execReduce_wrote (ticket : Nat) (s : State) :
    WroteOut s (execReduce ticket s) := by
  unfold execReduce
  repeat' first
    | with_reducible assumption
    | with_reducible exact Wrote.refl _
    | with_reducible exact WroteOut.fault
    | with_reducible apply WroteOut.next
    | (with_reducible apply Wrote.keep (State.doReduce_keeps ..); (· decide))
    | with_reducible apply State.engine_wrote
    | (with_reducible apply Wrote.by (State.pump_wrote ..))
    | split
    | dsimp only
    | intro _

theorem execFunc_wrote (ticket : Nat) (s : State) :
    WroteOut s (execFunc ticket s) := by
  unfold execFunc
  repeat' first
    | with_reducible assumption
    | with_reducible exact Wrote.refl _
    | with_reducible exact WroteOut.fault
    | with_reducible apply WroteOut.next
    | (with_reducible apply Wrote.by (State.doFunc_wrote ..))
    | with_reducible apply State.engine_wrote
    | split
    | dsimp only
    | intro _

theorem execFill_wrote (ticket : Nat) (s : State) :
    WroteOut s (execFill ticket s) := by
  unfold execFill
  repeat' first
    | with_reducible assumption
    | with_reducible exact Wrote.refl _
    | with_reducible exact WroteOut.fault
    | with_reducible apply WroteOut.next
    | (with_reducible apply Wrote.by (State.doFill_wrote ..))
    | with_reducible apply State.engine_wrote
    | split
    | dsimp only
    | intro _

theorem execDigest_wrote (ticket : Nat) (s : State) :
    WroteOut s (execDigest ticket s) := by
  unfold execDigest
  repeat' first
    | with_reducible assumption
    | with_reducible exact Wrote.refl _
    | with_reducible exact WroteOut.fault
    | with_reducible apply WroteOut.next
    | (with_reducible apply Wrote.by (State.doDigest_wrote ..))
    | with_reducible apply State.engine_wrote
    | split
    | dsimp only
    | intro _

theorem execLoadw_wrote (ticket : Nat) (s : State) :
    WroteOut s (execLoadw ticket s) := by
  unfold execLoadw
  repeat' first
    | with_reducible assumption
    | with_reducible exact Wrote.refl _
    | with_reducible exact WroteOut.fault
    | with_reducible apply WroteOut.next
    | with_reducible apply State.engine_wrote
    | (with_reducible apply Wrote.by (State.judgeSet_wrote ..))
    | (with_reducible apply Wrote.keep (State.loadDone_keeps ..); (· decide))
    | split
    | dsimp only
    | intro _

theorem execSave_wrote (ticket : Nat) (s : State) :
    WroteOut s (execSave ticket s) := by
  unfold execSave
  repeat' first
    | with_reducible assumption
    | with_reducible exact Wrote.refl _
    | with_reducible exact WroteOut.fault
    | with_reducible apply WroteOut.next
    | with_reducible apply State.engine_wrote
    | (with_reducible apply Wrote.keep (State.finishWith_keeps ..); (· decide))
    | (with_reducible apply Wrote.by (State.writeHost_wrote ..))
    | split
    | dsimp only
    | intro _

theorem State.cancelTicket_wrote (s : State) (q : Nat) :
    Wrote s (State.cancelTicket s q) := by
  unfold State.cancelTicket
  repeat' first
    | with_reducible assumption
    | with_reducible exact Wrote.refl _
    | (with_reducible apply Wrote.by (State.endLaunch_wrote ..))
    | (with_reducible apply Wrote.by (State.finish_wrote ..))
    | (with_reducible apply Wrote.keep (State.freeBanks_keeps ..); (· decide))
    | (with_reducible apply Wrote.keep (State.modTicket_keeps _ _ _ _); (· decide))
    | ((with_reducible intro _); exact rfl)
    | split

theorem execHalt_wrote (ticket : Nat) (s : State) :
    WroteOut s (execHalt ticket s) := by
  unfold execHalt
  repeat' first
    | with_reducible assumption
    | with_reducible exact Wrote.refl _
    | with_reducible exact WroteOut.fault
    | with_reducible apply WroteOut.next
    | with_reducible apply Wrote.foldl
    | with_reducible apply Wrote.foldl_snd
    | with_reducible apply Wrote.foldl_st
    | (with_reducible apply Wrote.by (State.cancelTicket_wrote ..))
    | with_reducible apply State.engine_wrote
    | (with_reducible apply Wrote.keep (State.finishWith_keeps ..); (· decide))
    | (with_reducible apply Wrote.keep (State.modPart_keeps ..); (· decide))
    | (with_reducible apply Wrote.keep (State.releaseKeptPart_keeps ..); (· decide))
    | split
    | dsimp only
    | intro _

theorem State.onError_wrote {s t : State} {f : State → Out} (h : Wrote s t)
    (k : ∀ u, Wrote s u → WroteOut s (f u)) : WroteOut s (t.onError f) := by
  refine State.awake_wrote h fun u hu => ?_
  try dsimp only
  split
  · exact WroteOut.next hu
  · exact k u hu

theorem execCellResidueError_wrote (tile : Nat) (row : Nat) (col : Nat) (use : Sys2Proof.ArrayUse) (s : State) :
    WroteOut s (execCellResidueError tile row col use s) := by
  unfold execCellResidueError
  repeat' first
    | with_reducible assumption
    | with_reducible exact Wrote.refl _
    | with_reducible exact WroteOut.fault
    | with_reducible apply WroteOut.next
    | (with_reducible apply Wrote.keep (State.bump_keeps ..); (· decide))
    | (with_reducible apply Wrote.by (State.hit_wrote ..))
    | with_reducible apply State.onError_wrote
    | (with_reducible apply Wrote.keep (State.pendColumn_keeps ..); (· decide))
    | split
    | dsimp only
    | intro _

theorem execRegisterParityError_wrote (tile : Nat) (row : Nat) (col : Nat) (use : Sys2Proof.ArrayUse) (s : State) :
    WroteOut s (execRegisterParityError tile row col use s) := by
  unfold execRegisterParityError
  repeat' first
    | with_reducible assumption
    | with_reducible exact Wrote.refl _
    | with_reducible exact WroteOut.fault
    | with_reducible apply WroteOut.next
    | (with_reducible apply Wrote.keep (State.bump_keeps ..); (· decide))
    | (with_reducible apply Wrote.by (State.hit_wrote ..))
    | with_reducible apply State.onError_wrote
    | (with_reducible apply Wrote.keep (State.pendColumn_keeps ..); (· decide))
    | (with_reducible apply Wrote.keep (State.spoilCell_keeps ..); (· decide))
    | split
    | dsimp only
    | intro _

theorem execAccumulatorResidueError_wrote (bank : Sys2Proof.AccBank) (use : Sys2Proof.ArrayUse) (s : State) :
    WroteOut s (execAccumulatorResidueError bank use s) := by
  unfold execAccumulatorResidueError
  repeat' first
    | with_reducible assumption
    | with_reducible exact Wrote.refl _
    | with_reducible exact WroteOut.fault
    | with_reducible apply WroteOut.next
    | (with_reducible apply Wrote.keep (State.bump_keeps ..); (· decide))
    | (with_reducible apply Wrote.by (State.hit_wrote ..))
    | with_reducible apply State.onError_wrote
    | (with_reducible apply Wrote.keep (State.pendColumn_keeps ..); (· decide))
    | split
    | dsimp only
    | intro _

theorem execAccumulatorUncorrectable_wrote (bank : Sys2Proof.AccBank) (use : Sys2Proof.ArrayUse) (s : State) :
    WroteOut s (execAccumulatorUncorrectable bank use s) := by
  unfold execAccumulatorUncorrectable
  repeat' first
    | with_reducible assumption
    | with_reducible exact Wrote.refl _
    | with_reducible exact WroteOut.fault
    | with_reducible apply WroteOut.next
    | (with_reducible apply Wrote.keep (State.bump_keeps ..); (· decide))
    | (with_reducible apply Wrote.by (State.hit_wrote ..))
    | with_reducible apply State.onError_wrote
    | split
    | dsimp only
    | intro _

theorem execLaneMismatch_wrote (slice : Nat) (unit : Sys2Proof.LaneUnit) (use : Sys2Proof.LaneUse) (ticket : Option Nat) (s : State) :
    WroteOut s (execLaneMismatch slice unit use ticket s) := by
  unfold execLaneMismatch
  repeat' first
    | with_reducible assumption
    | with_reducible exact Wrote.refl _
    | with_reducible exact WroteOut.fault
    | with_reducible apply WroteOut.next
    | (with_reducible apply Wrote.keep (State.bump_keeps ..); (· decide))
    | (with_reducible apply Wrote.by (State.detect_wrote ..))
    | with_reducible apply State.onError_wrote
    | split
    | dsimp only
    | intro _

theorem execMoraineMismatch_wrote (ticket : Option Nat) (s : State) :
    WroteOut s (execMoraineMismatch ticket s) := by
  unfold execMoraineMismatch
  repeat' first
    | with_reducible assumption
    | with_reducible exact Wrote.refl _
    | with_reducible exact WroteOut.fault
    | with_reducible apply WroteOut.next
    | (with_reducible apply Wrote.keep (State.bump_keeps ..); (· decide))
    | (with_reducible apply Wrote.by (State.hit_wrote ..))
    | with_reducible apply State.onError_wrote
    | split
    | dsimp only
    | intro _

theorem execFlurryMismatch_wrote (unit : Sys2Proof.FlurryUnit) (ticket : Option Nat) (s : State) :
    WroteOut s (execFlurryMismatch unit ticket s) := by
  unfold execFlurryMismatch
  repeat' first
    | with_reducible assumption
    | with_reducible exact Wrote.refl _
    | with_reducible exact WroteOut.fault
    | with_reducible apply WroteOut.next
    | (with_reducible apply Wrote.keep (State.bump_keeps ..); (· decide))
    | (with_reducible apply Wrote.by (State.detect_wrote ..))
    | (with_reducible apply Wrote.by (State.escalate_wrote ..))
    | (with_reducible apply Wrote.by (State.hit_wrote ..))
    | with_reducible apply State.onError_wrote
    | split
    | dsimp only
    | intro _

theorem execSleetParityError_wrote (slice : Nat) (s : State) :
    WroteOut s (execSleetParityError slice s) := by
  unfold execSleetParityError
  repeat' first
    | with_reducible assumption
    | with_reducible exact Wrote.refl _
    | with_reducible exact WroteOut.fault
    | with_reducible apply WroteOut.next
    | (with_reducible apply Wrote.keep (State.bump_keeps ..); (· decide))
    | with_reducible apply State.onError_wrote
    | (with_reducible apply Wrote.by (State.perform_wrote ..))
    | split
    | dsimp only
    | intro _

theorem execFirnUncorrectableWeight_wrote (region : Nat) (set : Nat) (bank : Nat) (ticket : Option Nat) (s : State) :
    WroteOut s (execFirnUncorrectableWeight region set bank ticket s) := by
  unfold execFirnUncorrectableWeight
  repeat' first
    | with_reducible assumption
    | with_reducible exact Wrote.refl _
    | with_reducible exact WroteOut.fault
    | with_reducible apply WroteOut.next
    | (with_reducible apply Wrote.keep (State.bump_keeps ..); (· decide))
    | (with_reducible apply Wrote.by (State.detect_wrote ..))
    | with_reducible apply State.onError_wrote
    | split
    | dsimp only
    | intro _

theorem execFirnUncorrectableWorkArea_wrote (region : Nat) (bank : Nat) (ticket : Option Nat) (s : State) :
    WroteOut s (execFirnUncorrectableWorkArea region bank ticket s) := by
  unfold execFirnUncorrectableWorkArea
  repeat' first
    | with_reducible assumption
    | with_reducible exact Wrote.refl _
    | with_reducible exact WroteOut.fault
    | with_reducible apply WroteOut.next
    | (with_reducible apply Wrote.keep (State.bump_keeps ..); (· decide))
    | (with_reducible apply Wrote.by (State.hit_wrote ..))
    | with_reducible apply State.onError_wrote
    | split
    | dsimp only
    | intro _

theorem State.popRetry_wrote (s : State) (r : Retry) :
    Wrote s (State.popRetry s r) := by
  unfold State.popRetry
  repeat' first
    | with_reducible assumption
    | with_reducible exact Wrote.refl _
    | (with_reducible apply Wrote.by (State.preemptAfter_wrote ..))
    | (with_reducible apply Wrote.by (State.release_wrote ..))
    | (with_reducible apply Wrote.keep (State.retryReloads_keeps ..); (· decide))
    | (with_reducible apply Wrote.by (State.settleHandlers_wrote ..))
    | split
    | dsimp only
    | (with_reducible refine Wrote.keep (Keeps.set_retries (w := [.retries]) (Keeps.refl _ _)) ?_ ?_; (· decide))

theorem State.endReread_wrote (s : State) (r : Retry) (e : Err) (stillFails : Bool) :
    Wrote s (State.endReread s r e stillFails) := by
  unfold State.endReread
  repeat' first
    | with_reducible assumption
    | with_reducible exact Wrote.refl _
    | (with_reducible apply Wrote.keep (State.bump_keeps ..); (· decide))
    | (with_reducible apply Wrote.keep (State.degrade_keeps ..); (· decide))
    | (with_reducible apply Wrote.by (State.endLaunch?_wrote ..))
    | (with_reducible apply Wrote.keep (State.logError_keeps ..); (· decide))
    | (with_reducible apply Wrote.by (State.popRetry_wrote ..))
    | (with_reducible apply Wrote.by (State.requestSet_wrote ..))
    | (with_reducible apply Wrote.keep (State.startRetry_keeps ..); (· decide))
    | (with_reducible apply Wrote.keep (State.stillBad_keeps ..); (· decide))
    | (with_reducible apply Wrote.keep (State.writeBack_keeps ..); (· decide))
    | split
    | dsimp only
    | (with_reducible refine Wrote.keep (Keeps.set_retries (w := [.retries]) (Keeps.refl _ _)) ?_ ?_; (· decide))

theorem execRetryEnd_wrote (stillFails : Bool) (s : State) :
    WroteOut s (execRetryEnd stillFails s) := by
  unfold execRetryEnd
  repeat' first
    | with_reducible assumption
    | with_reducible exact Wrote.refl _
    | with_reducible exact WroteOut.fault
    | with_reducible apply WroteOut.next
    | (with_reducible apply Wrote.by (State.endReread_wrote ..))
    | with_reducible apply State.onError_wrote
    | (with_reducible apply Wrote.by (State.popRetry_wrote ..))
    | split
    | dsimp only
    | (with_reducible refine Wrote.keep (Keeps.set_retries (w := [.retries]) (Keeps.refl _ _)) ?_ ?_; (· decide))
    | intro _

theorem State.scrubBad_wrote (s : State) (w : Nat) (region : Nat) :
    Wrote s (State.scrubBad s w region) := by
  unfold State.scrubBad
  repeat' first
    | with_reducible assumption
    | with_reducible exact Wrote.refl _
    | (with_reducible apply Wrote.keep (State.bump_keeps ..); (· decide))
    | (with_reducible apply Wrote.by (State.detect_wrote ..))
    | split

theorem execScrubRead_wrote (found : Sys2Proof.ScrubFound) (s : State) : WroteOut s (execScrubRead found s) := by
  refine State.onError_wrote (Wrote.refl _) fun u hu => ?_
  try dsimp only
  split
  · exact WroteOut.next (hu.upd rfl rfl rfl)
  · rename_i w r u1 h
    have h1 : Wrote s u1 := .keep (State.scrubAt_keeps h) (by decide) hu
    have h2 : Wrote s { u1 with scrub := w + 1 } :=
      .keep (Keeps.set_scrub (w := [.scrub]) (Keeps.refl _ _)) (by decide) h1
    split
    · exact WroteOut.next h2
    · exact WroteOut.next (.keep (State.stillBad_keeps ..) (by decide) (.keep (State.bump_keeps ..) (by decide) h2))
    · exact WroteOut.next (Wrote.by (State.scrubBad_wrote ..) h2)

theorem State.endBackground_wrote (s : State) (b : Background) :
    Wrote s (State.endBackground s b) := by
  unfold State.endBackground
  repeat' first
    | with_reducible assumption
    | with_reducible exact Wrote.refl _
    | (with_reducible apply Wrote.by (State.release_wrote ..))
    | split
    | dsimp only
    | (with_reducible refine Wrote.keep (Keeps.set_background (w := [.background]) (Keeps.refl _ _)) ?_ ?_; (· decide))

theorem execBackgroundRereadDone_wrote (region : Nat) (set : Nat) (stillFails : Bool) (s : State) :
    WroteOut s (execBackgroundRereadDone region set stillFails s) := by
  unfold execBackgroundRereadDone
  repeat' first
    | with_reducible assumption
    | with_reducible exact Wrote.refl _
    | with_reducible exact WroteOut.fault
    | with_reducible apply WroteOut.next
    | (with_reducible apply Wrote.keep (State.bump_keeps ..); (· decide))
    | (with_reducible apply Wrote.keep (State.degrade_keeps ..); (· decide))
    | (with_reducible apply Wrote.by (State.endBackground_wrote ..))
    | (with_reducible apply Wrote.keep (State.logError_keeps ..); (· decide))
    | with_reducible apply State.onError_wrote
    | (with_reducible apply Wrote.by (State.requestSet_wrote ..))
    | (with_reducible apply Wrote.keep (State.stillBad_keeps ..); (· decide))
    | (with_reducible apply Wrote.keep (State.writeBack_keeps ..); (· decide))
    | split
    | dsimp only
    | (with_reducible refine Wrote.keep (Keeps.set_background (w := [.background]) (Keeps.refl _ _)) ?_ ?_; (· decide))
    | intro _

theorem execTableMemoryError_wrote (slice : Nat) (_mem : Sys2Proof.TableMem) (ticket : Option Nat) (s : State) :
    WroteOut s (execTableMemoryError slice _mem ticket s) := by
  unfold execTableMemoryError
  repeat' first
    | with_reducible assumption
    | with_reducible exact Wrote.refl _
    | with_reducible exact WroteOut.fault
    | with_reducible apply WroteOut.next
    | (with_reducible apply Wrote.by (State.hit_wrote ..))
    | (with_reducible apply Wrote.keep (State.modSlice_keeps ..); (· decide))
    | with_reducible apply State.onError_wrote
    | split
    | dsimp only
    | intro _

theorem execTableReloadDone_wrote (slice : Nat) (verified : Bool) (s : State) :
    WroteOut s (execTableReloadDone slice verified s) := by
  unfold execTableReloadDone
  repeat' first
    | with_reducible assumption
    | with_reducible exact Wrote.refl _
    | with_reducible exact WroteOut.fault
    | with_reducible apply WroteOut.next
    | (with_reducible apply Wrote.keep (State.bump_keeps ..); (· decide))
    | (with_reducible apply Wrote.by (State.enterWhiteout_wrote ..))
    | (with_reducible apply Wrote.keep (State.logError_keeps ..); (· decide))
    | (with_reducible apply Wrote.keep (State.modSlice_keeps ..); (· decide))
    | with_reducible apply State.onError_wrote
    | (with_reducible apply Wrote.by (State.release_wrote ..))
    | split
    | dsimp only
    | (with_reducible refine Wrote.keep (Keeps.set_tableReloaded (w := [.tableReloaded]) (Keeps.refl _ _)) ?_ ?_; (· decide))
    | intro _

theorem execContextMemoryError_wrote (ctx : Nat) (ticket : Option Nat) (s : State) :
    WroteOut s (execContextMemoryError ctx ticket s) := by
  unfold execContextMemoryError
  repeat' first
    | with_reducible assumption
    | with_reducible exact Wrote.refl _
    | with_reducible exact WroteOut.fault
    | with_reducible apply WroteOut.next
    | (with_reducible apply Wrote.by (State.hit_wrote ..))
    | with_reducible apply State.onError_wrote
    | split
    | dsimp only
    | intro _

theorem execCrossingDatumLate_wrote (ticket : Nat) (s : State) :
    WroteOut s (execCrossingDatumLate ticket s) := by
  unfold execCrossingDatumLate
  repeat' first
    | with_reducible assumption
    | with_reducible exact Wrote.refl _
    | with_reducible exact WroteOut.fault
    | with_reducible apply WroteOut.next
    | (with_reducible apply Wrote.keep (State.bump_keeps ..); (· decide))
    | (with_reducible apply Wrote.by (State.hit_wrote ..))
    | with_reducible apply State.onError_wrote
    | split
    | dsimp only
    | intro _

theorem execStreamedSetCheck_wrote (ticket : Nat) (set : Nat) (s : State) :
    WroteOut s (execStreamedSetCheck ticket set s) := by
  unfold execStreamedSetCheck
  repeat' first
    | with_reducible assumption
    | with_reducible exact Wrote.refl _
    | with_reducible exact WroteOut.fault
    | with_reducible apply WroteOut.next
    | (with_reducible apply Wrote.by (State.judgeSet_wrote ..))
    | (with_reducible apply Wrote.keep (State.modRun_keeps ..); (· decide))
    | with_reducible apply State.onError_wrote
    | split
    | dsimp only
    | intro _

theorem State.splitBad_wrote (s : State) (tile : Nat) (row : Nat) (work : Sys2Proof.ArrayWork) (ticket : Option Nat) :
    Wrote s (State.splitBad s tile row work ticket) := by
  unfold State.splitBad
  repeat' first
    | with_reducible assumption
    | with_reducible exact Wrote.refl _
    | (with_reducible apply Wrote.by (State.hit_wrote ..))
    | (with_reducible apply Wrote.keep (State.modTile_keeps ..); (· decide))
    | split

theorem State.parityEnds_wrote (s : State) (ticket : Option Nat) :
    Wrote s (State.parityEnds s ticket) := by
  unfold State.parityEnds
  repeat' first
    | with_reducible assumption
    | with_reducible exact Wrote.refl _
    | (with_reducible apply Wrote.by (State.endLaunch?_wrote ..))
    | (with_reducible apply Wrote.keep (State.logError_keeps ..); (· decide))

theorem execByteParityError_wrote (path : Sys2Proof.ParityPath) (ticket : Option Nat) (s : State) :
    WroteOut s (execByteParityError path ticket s) := by
  unfold execByteParityError
  repeat' first
    | with_reducible assumption
    | with_reducible exact Wrote.refl _
    | with_reducible exact WroteOut.fault
    | with_reducible apply WroteOut.next
    | (with_reducible apply Wrote.by (State.badSet_wrote ..))
    | (with_reducible apply Wrote.keep (State.bump_keeps ..); (· decide))
    | (with_reducible apply Wrote.keep (State.modRun_keeps ..); (· decide))
    | with_reducible apply State.onError_wrote
    | (with_reducible apply Wrote.by (State.parityEnds_wrote ..))
    | (with_reducible apply Wrote.by (State.splitBad_wrote ..))
    | (with_reducible apply Wrote.keep (State.spoilReread_keeps ..); (· decide))
    | split
    | dsimp only
    | intro _

theorem State.grant_wrote (s : State) (part : Nat) (queue : Nat) (slot : Nat) : Wrote s (State.grant s part queue slot) :=
  Wrote.trans (t := { s with tickets := s.tickets ++ [Ticket.granted s.nextSeq part queue slot], nextSeq := s.nextSeq + 1 })
    (Wrote.of_map rfl rfl fun _ h => h) (State.issueRead_wrote ..)

theorem State.acceptDoorbell_wrote (s : State) (b : BitVec 64) :
    Wrote s (State.acceptDoorbell s b) := by
  unfold State.acceptDoorbell
  repeat' first
    | with_reducible assumption
    | with_reducible exact Wrote.refl _
    | with_reducible apply Wrote.foldl
    | with_reducible apply Wrote.foldl_snd
    | with_reducible apply Wrote.foldl_st
    | (with_reducible apply Wrote.by (State.grant_wrote ..))
    | (with_reducible apply Wrote.keep (State.modPart_keeps ..); (· decide))
    | split
    | dsimp only
    | intro _

theorem execDoorbell_wrote (beat : BitVec 64) (parityOk : Bool) (s : State) :
    WroteOut s (execDoorbell beat parityOk s) := by
  unfold execDoorbell
  repeat' first
    | with_reducible assumption
    | with_reducible exact Wrote.refl _
    | with_reducible exact WroteOut.fault
    | with_reducible apply WroteOut.next
    | (with_reducible apply Wrote.by (State.acceptDoorbell_wrote ..))
    | with_reducible apply State.awake_wrote
    | (with_reducible apply Wrote.keep (State.bump_keeps ..); (· decide))
    | (with_reducible apply Wrote.keep (State.emit_keeps ..); (· decide))
    | with_reducible apply State.onPort_wrote
    | (with_reducible apply Wrote.keep (State.portError_keeps ..); (· decide))
    | split
    | dsimp only
    | intro _

theorem State.complete_wrote (s : State) (t : Ticket) (r : Running) :
    Wrote s (State.complete s t r) := by
  unfold State.complete
  repeat' first
    | with_reducible assumption
    | with_reducible exact Wrote.refl _
    | with_reducible apply Wrote.foldl
    | with_reducible apply Wrote.foldl_snd
    | with_reducible apply Wrote.foldl_st
    | (with_reducible apply Wrote.by (State.finish_wrote ..))
    | (with_reducible apply Wrote.by (State.openWritten_wrote ..))
    | (with_reducible apply Wrote.keep (State.releaseKeptOf_keeps ..); (· decide))
    | split
    | dsimp only
    | intro _

theorem execCommandCompletion_wrote (ticket : Nat) (s : State) :
    WroteOut s (execCommandCompletion ticket s) := by
  unfold execCommandCompletion
  repeat' first
    | with_reducible assumption
    | with_reducible exact Wrote.refl _
    | with_reducible exact WroteOut.fault
    | with_reducible apply WroteOut.next
    | with_reducible apply State.awake_wrote
    | (with_reducible apply Wrote.by (State.complete_wrote ..))
    | (with_reducible apply Wrote.by (State.finish_wrote ..))
    | (with_reducible apply Wrote.keep (State.haltDue_keeps ..); (· decide))
    | (with_reducible apply Wrote.keep (State.modRun_keeps ..); (· decide))
    | (with_reducible apply Wrote.by (State.settleHandlers_wrote ..))
    | split
    | dsimp only
    | intro _

theorem State.ckptDone_wrote (s : State) (c : Ckpt) :
    Wrote s (State.ckptDone s c) := by
  unfold State.ckptDone
  repeat' first
    | with_reducible assumption
    | with_reducible exact Wrote.refl _
    | (with_reducible apply Wrote.keep (State.closePart_keeps ..); (· decide))
    | (with_reducible apply Wrote.keep (State.modPart_keeps ..); (· decide))
    | (with_reducible apply Wrote.by (State.putCompletion_wrote ..))
    | (with_reducible apply Wrote.keep (State.respond_keeps ..); (· decide))
    | (with_reducible apply Wrote.by (State.settleHandlers_wrote ..))
    | split
    | dsimp only

theorem execCheckpointSigned_wrote (s : State) :
    WroteOut s (execCheckpointSigned s) := by
  unfold execCheckpointSigned
  repeat' first
    | with_reducible assumption
    | with_reducible exact Wrote.refl _
    | with_reducible exact WroteOut.fault
    | with_reducible apply WroteOut.next
    | with_reducible apply State.awake_wrote
    | (with_reducible apply Wrote.by (State.ckptDone_wrote ..))
    | (with_reducible apply Wrote.keep (State.followParts_keeps ..); (· decide))
    | (with_reducible apply Wrote.by (State.writeCheckpoint_wrote ..))
    | split
    | dsimp only
    | (with_reducible refine Wrote.keep (Keeps.set_ckpts (w := [.ckpts]) (Keeps.refl _ _)) ?_ ?_; (· decide))
    | intro _

theorem State.readFails_wrote (s : State) (q : Nat) :
    Wrote s (State.readFails s q) := by
  unfold State.readFails
  repeat' first
    | with_reducible assumption
    | with_reducible exact Wrote.refl _
    | (with_reducible apply Wrote.by (State.endLaunch_wrote ..))
    | (with_reducible apply Wrote.keep (State.modTicket_keeps _ _ _ _); (· decide))
    | ((with_reducible intro _); exact rfl)
    | split

theorem State.badResponse_wrote (s : State) (r : ReadReq) :
    Wrote s (State.badResponse s r) := by
  unfold State.badResponse
  repeat' first
    | with_reducible assumption
    | with_reducible exact Wrote.refl _
    | (with_reducible apply Wrote.by (State.issueRead_wrote ..))
    | (with_reducible apply Wrote.keep (State.modRun_keeps ..); (· decide))
    | (with_reducible apply Wrote.by (State.readFails_wrote ..))
    | split
    | dsimp only
    | (with_reducible refine Wrote.keep (Keeps.set_retries (w := [.retries]) (Keeps.refl _ _)) ?_ ?_; (· decide))
    | (with_reducible refine Wrote.keep (Keeps.set_background (w := [.background]) (Keeps.refl _ _)) ?_ ?_; (· decide))

theorem execHiddenRow_wrote (beats : Bytes) (parityOk : Bool) (s : State) :
    WroteOut s (execHiddenRow beats parityOk s) := by
  unfold execHiddenRow
  repeat' first
    | with_reducible assumption
    | with_reducible exact Wrote.refl _
    | with_reducible exact WroteOut.fault
    | with_reducible apply WroteOut.next
    | (with_reducible apply Wrote.keep (State.portError_keeps ..); (· decide))
    | (with_reducible apply Wrote.by (State.pumpRows_wrote ..))
    | (with_reducible apply Wrote.keep (State.returnCredit_keeps ..); (· decide))
    | split
    | dsimp only
    | (with_reducible refine Wrote.keep (Keeps.set_actIn (w := [.actIn]) (Keeps.refl _ _)) ?_ ?_; (· decide))

theorem State.onReel_wrote {s t : State} {f : State → Out} (h : Wrote s t)
    (k : ∀ u, Wrote s u → WroteOut s (f u)) : WroteOut s (t.onReel f) := by
  refine State.awake_wrote h fun u hu => ?_
  try dsimp only
  split
  · exact k u hu
  · exact WroteOut.next hu

theorem State.failChecks_wrote (s : State) (p : Fin 4) :
    Wrote s (State.failChecks s p) := by
  unfold State.failChecks
  repeat' first
    | with_reducible assumption
    | with_reducible exact Wrote.refl _
    | with_reducible apply Wrote.foldl
    | with_reducible apply Wrote.foldl_snd
    | with_reducible apply Wrote.foldl_st
    | (with_reducible apply Wrote.keep (State.bump_keeps ..); (· decide))
    | (with_reducible apply Wrote.by (State.endLaunch_wrote ..))
    | split
    | dsimp only
    | intro _

theorem State.dropLink_wrote (s : State) (p : Fin 4) :
    Wrote s (State.dropLink s p) := by
  unfold State.dropLink
  repeat' first
    | with_reducible assumption
    | with_reducible exact Wrote.refl _
    | with_reducible apply Wrote.foldl
    | with_reducible apply Wrote.foldl_snd
    | with_reducible apply Wrote.foldl_st
    | (with_reducible apply Wrote.by (State.endLaunch_wrote ..))
    | (with_reducible apply Wrote.by (State.failChecks_wrote ..))
    | (with_reducible apply Wrote.keep (State.linkDown_keeps ..); (· decide))
    | (with_reducible apply Wrote.by (State.linkFault_wrote ..))
    | (with_reducible apply Wrote.by (State.pump_wrote ..))
    | split
    | dsimp only
    | intro _

theorem State.receive_wrote {s t : State} {f : Sys2Proof.RxFrame} {kind : Nat}
    {g : State → Frame → Out} (h : Wrote s t) (k : ∀ u fr, Wrote s u → WroteOut s (g u fr)) :
    WroteOut s (t.receive f kind g) := by
  refine State.onPort_wrote h fun x hx => State.onReel_wrote hx fun u hu => ?_
  try dsimp only
  split
  · exact WroteOut.next (.keep (State.bump_keeps ..) (by decide) hu)
  · split
    · exact WroteOut.next hu
    · split
      · exact k u _ hu
      · split
        · exact WroteOut.next hu
        · exact k _ _ (.keep (State.takeAck_keeps ..) (by decide) hu)

theorem execExchange_wrote (f : Sys2Proof.RxFrame) (s : State) :
    WroteOut s (execExchange f s) := by
  unfold execExchange
  repeat' first
    | with_reducible assumption
    | with_reducible exact Wrote.refl _
    | with_reducible exact WroteOut.fault
    | with_reducible apply WroteOut.next
    | (with_reducible apply Wrote.keep (State.acceptFrame_keeps ..); (· decide))
    | (with_reducible apply Wrote.by (State.pump_wrote ..))
    | with_reducible apply State.receive_wrote
    | split
    | dsimp only
    | intro _

theorem execCheck_wrote (f : Sys2Proof.RxFrame) (s : State) :
    WroteOut s (execCheck f s) := by
  unfold execCheck
  repeat' first
    | with_reducible assumption
    | with_reducible exact Wrote.refl _
    | with_reducible exact WroteOut.fault
    | with_reducible apply WroteOut.next
    | (with_reducible apply Wrote.keep (State.acceptFrame_keeps ..); (· decide))
    | (with_reducible apply Wrote.by (State.pump_wrote ..))
    | with_reducible apply State.receive_wrote
    | split
    | dsimp only
    | intro _

theorem execIdle_wrote (f : Sys2Proof.RxFrame) (s : State) :
    WroteOut s (execIdle f s) := by
  unfold execIdle
  repeat' first
    | with_reducible assumption
    | with_reducible exact Wrote.refl _
    | with_reducible exact WroteOut.fault
    | with_reducible apply WroteOut.next
    | (with_reducible apply Wrote.by (State.pump_wrote ..))
    | with_reducible apply State.receive_wrote
    | split
    | dsimp only
    | intro _

theorem execNak_wrote (f : Sys2Proof.RxFrame) (s : State) :
    WroteOut s (execNak f s) := by
  unfold execNak
  repeat' first
    | with_reducible assumption
    | with_reducible exact Wrote.refl _
    | with_reducible exact WroteOut.fault
    | with_reducible apply WroteOut.next
    | (with_reducible apply Wrote.by (State.pump_wrote ..))
    | with_reducible apply State.receive_wrote
    | (with_reducible apply Wrote.keep (State.resendAll_keeps ..); (· decide))
    | split
    | dsimp only
    | intro _

theorem State.takeAbort_wrote (s : State) (a : AbortEnt) :
    Wrote s (State.takeAbort s a) := by
  unfold State.takeAbort
  repeat' first
    | with_reducible assumption
    | with_reducible exact Wrote.refl _
    | (with_reducible apply Wrote.by (State.endQuietly_wrote ..))
    | (with_reducible apply Wrote.keep (State.keepAbort_keeps ..); (· decide))
    | split

theorem execAbort_wrote (f : Sys2Proof.RxFrame) (s : State) :
    WroteOut s (execAbort f s) := by
  unfold execAbort
  repeat' first
    | with_reducible assumption
    | with_reducible exact Wrote.refl _
    | with_reducible exact WroteOut.fault
    | with_reducible apply WroteOut.next
    | (with_reducible apply Wrote.keep (State.bump_keeps ..); (· decide))
    | (with_reducible apply Wrote.by (State.pump_wrote ..))
    | (with_reducible apply Wrote.keep (State.putFrames_keeps ..); (· decide))
    | with_reducible apply State.receive_wrote
    | (with_reducible apply Wrote.by (State.takeAbort_wrote ..))
    | split
    | dsimp only
    | (with_reducible refine Wrote.keep (Keeps.set_abortSeen (w := [.abortSeen]) (Keeps.refl _ _)) ?_ ?_; (· decide))
    | intro _

theorem execHello_wrote (f : Sys2Proof.RxFrame) (s : State) :
    WroteOut s (execHello f s) := by
  unfold execHello
  repeat' first
    | with_reducible assumption
    | with_reducible exact Wrote.refl _
    | with_reducible exact WroteOut.fault
    | with_reducible apply WroteOut.next
    | (with_reducible apply Wrote.by (State.dropLink_wrote ..))
    | with_reducible apply State.receive_wrote
    | (with_reducible apply Wrote.keep (State.takeHello_keeps ..); (· decide))
    | split
    | dsimp only
    | intro _

theorem execLinkReceiveTimeout_wrote (port : Fin 4) (s : State) :
    WroteOut s (execLinkReceiveTimeout port s) := by
  unfold execLinkReceiveTimeout
  repeat' first
    | with_reducible assumption
    | with_reducible exact Wrote.refl _
    | with_reducible exact WroteOut.fault
    | with_reducible apply WroteOut.next
    | (with_reducible apply Wrote.by (State.dropLink_wrote ..))
    | with_reducible apply State.onReel_wrote
    | split
    | dsimp only
    | intro _

theorem execReelFrameCrcFailure_wrote (port : Fin 4) (arrival : Sys2Proof.BadFrame) (s : State) :
    WroteOut s (execReelFrameCrcFailure port arrival s) := by
  unfold execReelFrameCrcFailure
  repeat' first
    | with_reducible assumption
    | with_reducible exact Wrote.refl _
    | with_reducible exact WroteOut.fault
    | with_reducible apply WroteOut.next
    | (with_reducible apply Wrote.keep (State.bump_keeps ..); (· decide))
    | (with_reducible apply Wrote.by (State.dropLink_wrote ..))
    | (with_reducible apply Wrote.by (State.hit_wrote ..))
    | with_reducible apply State.onPort_wrote
    | with_reducible apply State.onReel_wrote
    | (with_reducible apply Wrote.keep (State.portError_keeps ..); (· decide))
    | (with_reducible apply Wrote.keep (State.sendControl_keeps ..); (· decide))
    | split
    | dsimp only
    | intro _

theorem State.atCount_wrote (s : State) :
    Wrote s (State.atCount s) := by
  unfold State.atCount
  repeat' first
    | with_reducible assumption
    | with_reducible exact Wrote.refl _
    | with_reducible apply Wrote.foldl
    | with_reducible apply Wrote.foldl_snd
    | with_reducible apply Wrote.foldl_st
    | (with_reducible apply Wrote.keep (State.countWaits_keeps ..); (· decide))
    | (with_reducible apply Wrote.by (State.launchAll_wrote ..))
    | (with_reducible apply Wrote.keep (State.listHolds_keeps ..); (· decide))
    | (with_reducible apply Wrote.by (State.pump_wrote ..))
    | (with_reducible apply Wrote.by (State.pumpIn_wrote ..))
    | split
    | dsimp only
    | intro _

theorem execPavaneAdvance_wrote (pav : BitVec 64) (s : State) :
    WroteOut s (execPavaneAdvance pav s) := by
  unfold execPavaneAdvance
  repeat' first
    | with_reducible assumption
    | with_reducible exact Wrote.refl _
    | with_reducible exact WroteOut.fault
    | with_reducible apply WroteOut.next
    | (with_reducible apply Wrote.by (State.atCount_wrote ..))
    | with_reducible apply State.awake_wrote
    | (with_reducible apply Wrote.keep (State.setCount_keeps ..); (· decide))
    | (with_reducible apply Wrote.keep (State.takeSlip_keeps ..); (· decide))
    | split
    | dsimp only
    | intro _

theorem execPavaneSlip_wrote (pav : BitVec 64) (s : State) :
    WroteOut s (execPavaneSlip pav s) := by
  unfold execPavaneSlip
  repeat' first
    | with_reducible assumption
    | with_reducible exact Wrote.refl _
    | with_reducible exact WroteOut.fault
    | with_reducible apply WroteOut.next
    | (with_reducible apply Wrote.by (State.atCount_wrote ..))
    | with_reducible apply State.awake_wrote
    | (with_reducible apply Wrote.keep (State.takeSlip_keeps ..); (· decide))
    | split
    | dsimp only
    | intro _

theorem execFrameBoundaryPreemption_wrote (s : State) :
    WroteOut s (execFrameBoundaryPreemption s) := by
  unfold execFrameBoundaryPreemption
  repeat' first
    | with_reducible assumption
    | with_reducible exact Wrote.refl _
    | with_reducible exact WroteOut.fault
    | with_reducible apply WroteOut.next
    | with_reducible apply State.awake_wrote
    | (with_reducible apply Wrote.by (State.preempt_wrote ..))
    | split
    | dsimp only
    | (with_reducible refine Wrote.keep (Keeps.set_preemptDue (w := [.preemptDue]) (Keeps.refl _ _)) ?_ ?_; (· decide))
    | intro _

theorem State.doWrite_wrote (s : State) :
    Wrote s (State.doWrite s) := by
  unfold State.doWrite
  repeat' first
    | with_reducible assumption
    | with_reducible exact Wrote.refl _
    | (with_reducible apply Wrote.keep (State.answerWrite_keeps ..); (· decide))
    | (with_reducible apply Wrote.keep (State.respond_keeps ..); (· decide))
    | (with_reducible apply Wrote.by_opt (State.writeObject_wrote ..); (· assumption))
    | (with_reducible apply WroteOpt.after (State.writeObject_wrote ..))
    | split
    | dsimp only

theorem State.onRequest_wrote {s t : State} {op : Nat} {f : State → State} (h : Wrote s t)
    (k : ∀ u, Wrote s u → Wrote s (f u)) : WroteOut s (t.onRequest op f) := by
  unfold State.onRequest
  split
  · exact WroteOut.next h
  · split
    · exact WroteOut.next h
    · split
      · exact WroteOut.next (.keep (State.respond_keeps ..) (by decide) h)
      · exact WroteOut.next (k t h)

theorem execWrite_wrote (s : State) :
    WroteOut s (execWrite s) := by
  unfold execWrite
  repeat' first
    | with_reducible assumption
    | with_reducible exact Wrote.refl _
    | with_reducible exact WroteOut.fault
    | with_reducible apply WroteOut.next
    | (with_reducible apply Wrote.by (State.doWrite_wrote ..))
    | with_reducible apply State.onRequest_wrote
    | split
    | dsimp only
    | intro _

theorem execDictionaryAccessRelease_wrote (s : State) :
    WroteOut s (execDictionaryAccessRelease s) := by
  unfold execDictionaryAccessRelease
  repeat' first
    | with_reducible assumption
    | with_reducible exact Wrote.refl _
    | with_reducible exact WroteOut.fault
    | with_reducible apply WroteOut.next
    | (with_reducible apply Wrote.keep (State.doDescribe_keeps ..); (· decide))
    | (with_reducible apply Wrote.keep (State.doRead_keeps ..); (· decide))
    | (with_reducible apply Wrote.by (State.doWrite_wrote ..))
    | (with_reducible apply Wrote.keep (State.modWindow_keeps ..); (· decide))
    | (with_reducible apply Wrote.keep (State.respond_keeps ..); (· decide))
    | split

theorem State.service_wrote {s t : State} {code : Nat} {inWhiteout stateOk : Bool} {c : Caller} {len : Nat}
    {f : State → State} (h : Wrote s t) (k : ∀ u, Wrote s u → Wrote s (f u)) :
    WroteOut s (t.service code inWhiteout stateOk c len f) := by
  refine State.onRequest_wrote h fun u hu => ?_
  try dsimp only
  split
  · exact .keep (State.respond_keeps ..) (by decide) hu
  · split
    · exact .keep (State.respond_keeps ..) (by decide) hu
    · split
      · exact .keep (State.respond_keeps ..) (by decide) hu
      · split
        · exact .keep (State.respond_keeps ..) (by decide) hu
        · exact k u hu

theorem execSelftest_wrote (failed : BitVec 32) (s : State) :
    WroteOut s (execSelftest failed s) := by
  unfold execSelftest
  repeat' first
    | with_reducible assumption
    | with_reducible exact Wrote.refl _
    | with_reducible exact WroteOut.fault
    | with_reducible apply WroteOut.next
    | (with_reducible apply Wrote.by (State.enterWhiteout_wrote ..))
    | (with_reducible apply Wrote.keep (State.modVault_keeps ..); (· decide))
    | (with_reducible apply Wrote.keep (State.respond_keeps ..); (· decide))
    | with_reducible apply State.service_wrote
    | split
    | dsimp only
    | intro _

theorem State.vaultFails_wrote (s : State) (bits : U32) :
    Wrote s (State.vaultFails s bits) := by
  unfold State.vaultFails
  repeat' first
    | with_reducible assumption
    | with_reducible exact Wrote.refl _
    | (with_reducible apply Wrote.by (State.enterWhiteout_wrote ..))
    | (with_reducible apply Wrote.keep (State.modVault_keeps ..); (· decide))

theorem State.makeAuditKey_wrote (s : State) (d : Drbg) :
    Wrote s (State.makeAuditKey s d) := by
  unfold State.makeAuditKey
  repeat' first
    | with_reducible assumption
    | with_reducible exact Wrote.refl _
    | (with_reducible apply Wrote.keep (State.modVault_keeps ..); (· decide))
    | (with_reducible apply Wrote.keep (State.setDrbg_keeps ..); (· decide))
    | (with_reducible apply Wrote.by (State.vaultFails_wrote ..))
    | split
    | dsimp only

theorem State.credit_wrote (s : State) (x : Byte) :
    Wrote s (State.credit s x) := by
  unfold State.credit
  repeat' first
    | with_reducible assumption
    | with_reducible exact Wrote.refl _
    | (with_reducible apply Wrote.keep (State.bump_keeps ..); (· decide))
    | (with_reducible apply Wrote.by (State.makeAuditKey_wrote ..))
    | (with_reducible apply Wrote.keep (State.modVault_keeps ..); (· decide))
    | split
    | dsimp only

theorem execEntropySample_wrote (sample : Byte) (parityOk : Bool) (s : State) :
    WroteOut s (execEntropySample sample parityOk s) := by
  unfold execEntropySample
  repeat' first
    | with_reducible assumption
    | with_reducible exact Wrote.refl _
    | with_reducible exact WroteOut.fault
    | with_reducible apply WroteOut.next
    | with_reducible apply State.awake_wrote
    | (with_reducible apply Wrote.by (State.credit_wrote ..))
    | (with_reducible apply Wrote.keep (State.modVault_keeps ..); (· decide))
    | with_reducible apply State.onPort_wrote
    | (with_reducible apply Wrote.keep (State.portError_keeps ..); (· decide))
    | (with_reducible apply Wrote.by (State.vaultFails_wrote ..))
    | split
    | dsimp only
    | intro _

theorem State.beginZeroise_wrote (s : State) :
    Wrote s (State.beginZeroise s) := by
  unfold State.beginZeroise
  repeat' first
    | with_reducible assumption
    | with_reducible exact Wrote.refl _
    | (with_reducible apply Wrote.keep (State.followParts_keeps ..); (· decide))
    | (with_reducible apply Wrote.by (State.zeroiseBlock_wrote ..))

theorem execZeroise_wrote (s : State) :
    WroteOut s (execZeroise s) := by
  unfold execZeroise
  repeat' first
    | with_reducible assumption
    | with_reducible exact Wrote.refl _
    | with_reducible exact WroteOut.fault
    | with_reducible apply WroteOut.next
    | (with_reducible apply Wrote.by (State.beginZeroise_wrote ..))
    | (with_reducible apply Wrote.keep (State.respond_keeps ..); (· decide))
    | with_reducible apply State.service_wrote
    | split
    | dsimp only
    | intro _

theorem execZeroiseInput_wrote (s : State) :
    WroteOut s (execZeroiseInput s) := by
  unfold execZeroiseInput
  repeat' first
    | with_reducible assumption
    | with_reducible exact Wrote.refl _
    | with_reducible exact WroteOut.fault
    | with_reducible apply WroteOut.next
    | (with_reducible apply Wrote.by (State.beginZeroise_wrote ..))
    | split
    | dsimp only
    | (with_reducible refine Wrote.keep (Keeps.set_zeroisePin (w := [.zeroisePin]) (Keeps.refl _ _)) ?_ ?_; (· decide))

theorem execTamperInput_wrote (cycles : Nat) (s : State) :
    WroteOut s (execTamperInput cycles s) := by
  unfold execTamperInput
  repeat' first
    | with_reducible assumption
    | with_reducible exact Wrote.refl _
    | with_reducible exact WroteOut.fault
    | with_reducible apply WroteOut.next
    | (with_reducible apply Wrote.by (State.beginZeroise_wrote ..))
    | split
    | dsimp only
    | (with_reducible refine Wrote.keep (Keeps.set_tamperPin (w := [.tamperPin]) (Keeps.refl _ _)) ?_ ?_; (· decide))

theorem execSelftestEntry_wrote (s : State) :
    WroteOut s (execSelftestEntry s) := by
  unfold execSelftestEntry
  repeat' first
    | with_reducible assumption
    | with_reducible exact Wrote.refl _
    | with_reducible exact WroteOut.fault
    | with_reducible apply WroteOut.next
    | (with_reducible apply Wrote.by (State.beginZeroise_wrote ..))
    | split
    | dsimp only
    | (with_reducible refine Wrote.keep (Keeps.set_startup (w := [.startup]) (Keeps.refl _ _)) ?_ ?_; (· decide))

theorem execSelftestComplete_wrote (report : Sys2Proof.TestReport) (s : State) :
    WroteOut s (execSelftestComplete report s) := by
  unfold execSelftestComplete
  repeat' first
    | with_reducible assumption
    | with_reducible exact Wrote.refl _
    | with_reducible exact WroteOut.fault
    | with_reducible apply WroteOut.next
    | (with_reducible apply Wrote.by (State.enterWhiteout_wrote ..))
    | (with_reducible apply Wrote.keep (State.leaveSelftest_keeps ..); (· decide))
    | (with_reducible apply Wrote.keep (State.takeReport_keeps ..); (· decide))
    | split
    | dsimp only
    | (with_reducible refine Wrote.keep (Keeps.set_vault (w := [.vault]) (Keeps.refl _ _)) ?_ ?_; (· decide))

theorem execReadyEntry_wrote (s : State) :
    WroteOut s (execReadyEntry s) := by
  unfold execReadyEntry
  repeat' first
    | with_reducible assumption
    | with_reducible exact Wrote.refl _
    | with_reducible exact WroteOut.fault
    | with_reducible apply WroteOut.next
    | with_reducible apply State.awake_wrote
    | (with_reducible apply Wrote.by (State.enterWhiteout_wrote ..))
    | (with_reducible apply Wrote.keep (State.renewLinks_keeps ..); (· decide))
    | (with_reducible apply Wrote.keep (State.seedSleet_keeps ..); (· decide))
    | split
    | dsimp only
    | (with_reducible refine Wrote.keep (Keeps.set_startup_advancing_linksBegun_tiles (w := [.startup, .advancing, .linksBegun, .tiles]) (Keeps.refl _ _)) ?_ ?_; (· decide))
    | intro _

end Sys2Proof.Machine
end

