-- ==== Sys2Proof/Tests/Slice0.lean ====
section
/-! SUPPORT. Small tests: each check of WellFormed refuses an ill-formed command, examples of the manual, and for every
statement a state and operands that meet its hypotheses, clause by clause. -/
set_option Elab.async false
namespace Sys2Proof.Tests
open Sys2Proof.Machine

/-! ### Ill-formed commands are refused -/

/-- The use of the array outside a command. -/
def noUse : Sys2Proof.ArrayUse := ⟨none, ⟨0, 0⟩⟩
theorem test_wf_cell_row : (Instr.cellResidueError 15 33 31 noUse).wellFormed = false ∧
    (Instr.cellResidueError 15 32 31 noUse).wellFormed = true := by decide +kernel
theorem test_wf_register_column : (Instr.registerParityError 0 0 32 noUse).wellFormed = false := by decide +kernel
theorem test_wf_accumulator_bank : (Instr.accumulatorResidueError ⟨16, 0⟩ noUse).wellFormed = false ∧
    (Instr.accumulatorUncorrectable ⟨15, 32⟩ noUse).wellFormed = false := by decide +kernel
theorem test_wf_lane : (Instr.laneMismatch 3 (.lane 64) .other none).wellFormed = false ∧
    (Instr.laneMismatch 4 (.lane 63) .other none).wellFormed = false ∧
    (Instr.laneMismatch 3 (.rounding 16) .other none).wellFormed = false := by decide +kernel
theorem test_wf_split_buffer : (Instr.byteParityError (.splitBuffer 16 0 ⟨0, 0⟩) none).wellFormed = false ∧
    (Instr.byteParityError (.splitBuffer 15 33 ⟨0, 0⟩) none).wellFormed = false := by decide +kernel
theorem test_wf_generator_slice : (Instr.flurryMismatch (.slice 4) none).wellFormed = false ∧
    (Instr.sleetParityError 4).wellFormed = false := by decide +kernel
theorem test_wf_firn_region_and_bank : (Instr.firnUncorrectableWeight 64 0 0 none).wellFormed = false ∧
    (Instr.firnUncorrectableWorkArea 63 256 none).wellFormed = false ∧
    (Instr.backgroundRereadDone 64 0 true).wellFormed = false := by decide +kernel
theorem test_wf_table_slice : (Instr.tableMemoryError 4 .rom none).wellFormed = false ∧
    (Instr.tableReloadDone 4 true).wellFormed = false := by decide +kernel
theorem test_wf_context : (Instr.contextMemoryError 256 none).wellFormed = false := by decide +kernel
theorem test_wf_hidden_row_of_whole_beats : (Instr.hiddenRow (List.replicate 127 0) true).wellFormed = false ∧
    (Instr.hiddenRow [] true).wellFormed = false := by decide +kernel
theorem test_wf_response_of_whole_beats : (Instr.readResponse .cmd 0 (List.replicate 63 0) true).wellFormed = false ∧
    (Instr.readResponse (.drf 0) 0 (List.replicate 64 0) true).wellFormed = false ∧
    (Instr.readResponse .cmd 2048 (List.replicate 64 0) true).wellFormed = false := by decide +kernel
theorem test_wf_tags : (Instr.writeAcknowledgement .cmd 2048 true).wellFormed = false ∧
    (Instr.writeAckTimeout .cmd 2048).wellFormed = false := by decide +kernel
theorem test_wf_frame_header : (Instr.idle ⟨0, List.replicate 31 0⟩).wellFormed = false := by decide +kernel
theorem test_wf_frame_types : (Instr.hello ⟨0, List.replicate 48 0⟩).wellFormed = false ∧
    (Instr.nak ⟨0, List.replicate 32 0⟩).wellFormed = false ∧ (Instr.exchange ⟨0, List.replicate 32 0⟩).wellFormed = false ∧
    (Instr.check ⟨0, List.replicate 160 0⟩).wellFormed = false ∧ (Instr.abort ⟨0, List.replicate 36 0⟩).wellFormed = false := by
  decide +kernel
theorem test_wf_partition : (Instr.seedKeyDeferredWrite 64).wellFormed = false := by decide +kernel
theorem test_wf_self_test_rows : (Instr.selftestComplete ⟨[[33]], [], false, 0⟩).wellFormed = false := by decide +kernel
theorem test_no_word_spells_a_command : decodeTableWord 64 0x1234 = none := by decide

/-! ### Examples of the manual -/

/-- The check value of CRC-32C that R129 names by its polynomial, initial value and final XOR. -/
theorem test_crc32c_check_value :
    crc32c (ascii [0x31, 0x32, 0x33, 0x34, 0x35, 0x36, 0x37, 0x38, 0x39]) = 0xE3069283 := by decide +kernel

/-- The record of 0x2000.00 at its default begins the digest input (R407, R408). -/
theorem test_profile_digest_input : (Profile.defaults.input).take 8 = [0x00, 0x20, 0x00, 0x04, 0x00, 0x00, 0x20, 0x00] := by
  decide +kernel

/-! ### States of the tests -/

/-- A block that runs. -/
def live : State := { State.reset with startup := .run, rstAsserted := false }
/-- A launched figure. -/
def fig : Running := { (default : Running) with length := 1000 }
/-- A launched ticket of an opcode, in ring 1 of partition 0. -/
def held (o : Nat) : Ticket :=
  { Ticket.granted 0 0 1 0 with
    cmd := [BitVec.ofNat 8 o], fetch := .done, run := some fig, rows := List.replicate 4 default }
/-- A block that holds one ticket. -/
def withTicket (t : Ticket) : State := { live with tickets := [t] }
/-- A running command of an opcode. -/
def running (o : Nat) : State := withTicket (held o)
/-- A command of an opcode with fields set, each as offset, size and value. -/
def cmd (o : Nat) (fs : List (Nat × Nat × Nat)) : Bytes :=
  fs.foldl (fun b f => overwrite b f.1 (leBytes f.2.1 f.2.2)) (BitVec.ofNat 8 o :: List.replicate 63 0)
/-- A launched ticket with fields of its command set. -/
def heldCmd (o : Nat) (fs : List (Nat × Nat × Nat)) : Ticket := { held o with cmd := cmd o fs }
/-- A block with memory written. -/
def withMem (s : State) (a : Nat) (bs : Bytes) : State := { s with mem := s.mem.storeHost a bs }
/-- A launched command runs where its opcode and inputs are as its row needs. -/
theorem runs_of {s : State} {o : Op} {t : Ticket}
    (h : (s.startup != .reset && t.op == o && !(s.inputsMissing t fig)) = true) (hl : s.launched 0 = some (t, fig)) :
    Ready s 0 o t fig := by
  simp only [Bool.and_eq_true, bne_iff_ne, beq_iff_eq, Bool.not_eq_true'] at h
  exact ⟨h.1.1, hl, h.1.2, rfl, rfl, h.2⟩

/-! ### The hypotheses of the statements can be met -/

theorem witness_StepRunsTheFrontCommand : ({ live with pending := [.read] }).pending = .read :: [] ∧ live.pending = [] := ⟨rfl, rfl⟩
theorem witness_EveryStepKeepsTheInvariant : ∃ t, State.reset.Inv ∧ step State.reset = .next t :=
  ⟨State.reset, ⟨by decide +kernel, by decide +kernel, List.Pairwise.nil, fun _ h => absurd h List.not_mem_nil, by decide +kernel,
    by simp only [State.reset, State.resetOf], by constructor <;> decide +kernel⟩, rfl⟩
theorem witness_CommandsChangeOnlyTheirFields : ∃ t, exec (.pavaneCountLoad 5) live = .next t := ⟨_, rfl⟩
theorem witness_HostMemoryChangesOnlyUnderWrites : ∃ t, exec .mgtAdvance live = .next t := ⟨_, rfl⟩
theorem witness_OnlyResetGoesBack : ∃ t, exec .mgtAdvance { State.reset with startup := .image } = .next t := ⟨_, rfl⟩
/-- Every opcode of R333 has a state in which its row runs: the whole of what NopAndFenceComplete and
FuncAndFillComplete assume. ResetMeetsTheInvariant and
ResetEndsEverything assume nothing. -/
theorem witness_Ready (o : Op) : Ready (running o.code) 0 o (held o.code) fig := by
  cases o <;> exact ⟨by decide, rfl, rfl, rfl, rfl, by decide +kernel⟩

/-! ### Worked examples of the manual -/

/-- Four FP8 products and two BF16 products through the long word and its rounding (03, after R69 and R72). -/
theorem test_long_word_products :
    let as := [0x3C, 0xAC, 0x44, 0x18].map (decodeF .e4m3)
    let bs := [0x42, 0x3A, 0xB0, 0x4E].map (decodeF .e4m3)
    let w := dotLW (windowTop 1 2) false false false as bs
    w.i = 71 * 2 ^ 94 ∧ residue7 w.i = 2 ∧ (lwOut roundEven .fp32 w (windowTop 1 2)).bits = 0x400E0000 ∧
    (lwOut roundEven .fp32 w (windowTop 1 2)).flags = 0 ∧
    (lwBytes ⟨prodTerm 5 (decodeF .e4m3 0xAC) (decodeF .e4m3 0x3A), Spec.none⟩).reverse =
      [0xFF, 0xFF, 0xFF, 0xFC, 0x40, 0, 0, 0, 0, 0, 0, 0, 0, 0, 0, 0] := by decide +kernel
theorem test_long_word_truncates :
    let w := dotLW (windowTop 0 0) false false false [.fin false 1 0, .fin true 3 (-101)] [.fin false 1 0, .fin false 3 (-4)]
    w.i = 2 ^ 102 - 2 ∧ (lwOut roundEven .fp32 w (windowTop 0 0)).bits = 0x3F800000 ∧
    (lwOut roundEven .fp32 w (windowTop 0 0)).flags = flInexact := by decide +kernel
/-- The statistics of [1, 2, 3, 5] and of [3, 3, 3, 3] (03, after R83). -/
theorem test_row_statistics :
    let st := rowStats ([0x3F800000, 0x40000000, 0x40400000, 0x40A00000].map dec32)
    statD 4 st = 35 * 2 ^ 202 ∧ (statVar 4 st).1.v = 0x400C0000 ∧ (statMean 4 st).v = 0x40300000 ∧
    statD 4 (rowStats ([0x40400000, 0x40400000, 0x40400000, 0x40400000].map dec32)) = 0 := by decide +kernel
/-- The compatibility order loses what the long word keeps (03, after R85). -/
theorem test_compatibility_order :
    let l := [.fin false 1 24, .fin false 1 0, .fin false 1 0, .fin true 1 24]
    let one := List.replicate 4 (.fin false 1 0)
    (compatScore 1 l one).v = 0 ∧ (lwOut roundEven .fp32 (dotLW (windowTop 24 0) false false false l one) 26).bits = 0x40000000 := by
  decide +kernel
/-- Three scores of one stream through the six steps (06, after R158). -/
theorem test_score_chain :
    let ch : Chain := ⟨false, 0, 0x3FC00000, 0x3F000000, 0x3E800000, 0x3F000000, [(1205, 3), (1206, 1)], [(1205, 0x3E800000)]⟩
    chainScore ch 1205 false ⟨0x40400000, 0⟩ = ⟨0x40000000, 0⟩ ∧ chainScore ch 1206 false ⟨0xC0000000, 0⟩ = ⟨0xC0F00000, 0⟩ ∧
    chainScore ch 1207 true ⟨nan32, 0⟩ = ⟨0xFF800000, 0⟩ := by decide +kernel
/-- One overlay segment bit by bit (07, after R198). -/
theorem test_overlay_segment :
    let g := segOfBytes [1, 0, 0, 0, 1, 0, 0, 0x3C, 1, 0, 0x1F, 0, 0xC4, 0xFF, 0, 0]
    segPos 6 ⟨0, 1, 0, none⟩ (dy32 0x3F812000) = .at 0 0x900000 ∧ segValue g 0x900000 = ⟨0x1048510000000000, -60⟩ := by
  decide +kernel
/-- The mass of an integer score, two ladders that merge by rung with a step dropped, and the merged record's bytes (08, 11). -/
theorem test_ladders_merge :
    let m := 0x178B564
    let x := (upto 128).map (fun i => if i = 10 then (m, 1) else if i = 42 then (2 * m, 2) else (0, 0))
    let y := (upto 128).map (fun i => if i = 10 then (m, 1) else if i = 105 then (m, 1) else (0, 0))
    let r := ladderMerge (some 2) x (some 0) y
    massOf 0x40A00000 = 0x3EBC5AB2 ∧ massUnits 0x40A00000 = m ∧ r.1 = some 2 ∧ r.2.getD 10 (0, 0) = (m, 1) ∧
    slice (ladderBytes r.2) (9 * 42) 9 = [0x2C, 0x20, 0x6A, 0x04, 0, 0, 3, 0, 0] ∧ sumNat (r.2.map Prod.snd) = 4 := by decide +kernel
/-- The two halves of a draw's counter, and the rounding they decide (10, after R279). -/
theorem test_stochastic_rounding :
    counterA 3 0x051203 0x2F1A = 0x0305120300000000 ∧ counterB 0x2F1A (70000 * 16384 + 5) = 0x2F1A0000445C0005 ∧
    roundingBits 0x9C40000000000000 13 = 5000 ∧
    (roundInt (roundStoch 24 (fun _ => 5000)) .bf16 (2 ^ 20 + 2 ^ 12 + 2 ^ 8) (-50)).bits = 0x3080 ∧
    (roundInt (roundStoch 24 (fun _ => 4351)) .bf16 (2 ^ 20 + 2 ^ 12 + 2 ^ 8) (-50)).bits = 0x3081 := by decide +kernel
/-- The digest input of a profile at its defaults (15, after R408). -/
theorem test_profile_digest_input_length : Profile.defaults.input.length = 72 ∧
    slice Profile.defaults.input 28 8 = [0x10, 0x20, 0, 4, 0, 0, 0xC0, 0x41] := by decide +kernel
/-- A WAITCOUNT at its count, and before it. -/
theorem witness_WaitcountCompletesAtItsCount :
    (Ready (withTicket (heldCmd 0x28 [])) 0 .waitcount (heldCmd 0x28 []) fig ∧
      (heldCmd 0x28 []).areaWord ≤ (withTicket (heldCmd 0x28 [])).count.toNat) ∧
    Ready (withTicket (heldCmd 0x28 [(0x38, 8, 1)])) 0 .waitcount (heldCmd 0x28 [(0x38, 8, 1)]) fig ∧
      (withTicket (heldCmd 0x28 [(0x38, 8, 1)])).count.toNat < (heldCmd 0x28 [(0x38, 8, 1)]).areaWord :=
  ⟨⟨runs_of (by decide +kernel) rfl, by decide +kernel⟩, runs_of (by decide +kernel) rfl, by decide +kernel⟩
/-- A SAVE and a DIGEST, plain and with the cross-check flag. -/
theorem witness_SaveWritesTheImage_and_DigestWritesItsValue :
    let x (o : Nat) := heldCmd o [(1, 1, 1)]
    (Ready (running 0x20) 0 .save (held 0x20) fig ∧ (held 0x20).crossCheck = false) ∧
    (Ready (withTicket (x 0x20)) 0 .save (x 0x20) fig ∧ (x 0x20).crossCheck = true) ∧
    (Ready (running 0x2A) 0 .digest (held 0x2A) fig ∧ (held 0x2A).crossCheck = false) ∧
    (Ready (withTicket (x 0x2A)) 0 .digest (x 0x2A) fig ∧ (x 0x2A).crossCheck = true) :=
  ⟨⟨runs_of (by decide +kernel) rfl, by decide +kernel⟩, ⟨runs_of (by decide +kernel) rfl, by decide +kernel⟩,
    ⟨runs_of (by decide +kernel) rfl, by decide +kernel⟩, runs_of (by decide +kernel) rfl, by decide +kernel⟩
/-- The last region. -/
theorem witness_EvictwZeroesItsRegion :
    Ready (withTicket (heldCmd 0x19 [(0x30, 1, 63)])) 0 .evictw (heldCmd 0x19 [(0x30, 1, 63)]) fig ∧
      (heldCmd 0x19 [(0x30, 1, 63)]).areaByte = 63 := ⟨runs_of (by decide +kernel) rfl, by decide +kernel⟩
/-- The descriptor of one set: 64 elements of 32 columns. -/
def loadwBlocks : Bytes := overwrite (overwrite (List.replicate 256 0) 4 [64, 0]) 8 [32]
/-- A figure that received its first set with a parity error. -/
def figBad : Running := { fig with setsBad := [0] }
/-- A LOADW of an image of no sets, and one whose first set failed. -/
theorem witness_LoadwLoadsOrJudges :
    let t : Ticket := { heldCmd 0x18 [(0x30, 1, 63)] with blocks := loadwBlocks, run := some figBad }
    (Ready (withTicket (heldCmd 0x18 [])) 0 .loadw (heldCmd 0x18 []) fig ∧ (heldCmd 0x18 []).areaByte < 64 ∧
      (withTicket (heldCmd 0x18 [])).firstBad (heldCmd 0x18 []) fig = none) ∧
    (Ready (withTicket t) 0 .loadw t figBad ∧ t.areaByte = 63 ∧ (withTicket t).firstBad t figBad = some (0, .badCrc)) :=
  ⟨⟨runs_of (by decide +kernel) rfl, by decide +kernel, by decide +kernel⟩,
    ⟨by decide, rfl, by decide +kernel, rfl, rfl, by decide +kernel⟩, by decide +kernel, by decide +kernel⟩
/-- Byte 6 of an image that a memory holds from address 0. -/
theorem image_byte (m : Memory) (h : m.wf = true) : byteAt ((m.load 0 65536) ++ m.load 0 0) 6 = (m.byte 6).toNat := by
  rw [Memory.load_eq h, Memory.load_eq h]
  simp [byteAt, List.getD_eq_getElem?_getD]
theorem imageOf_zero (s : State) (t : Ticket) (h : t.areaWord = 0) :
    s.imageOf t = s.mem.load 0 65536 ++ s.mem.load 0 0 := by
  simp [State.imageOf, State.host, hostAddr, h, pow2]
/-- An image that used Sleet and one that did not, of the last context. -/
theorem witness_RestoreLoadsTheImage :
    let t := heldCmd 0x21 [(0x30, 1, 255)]
    (Ready (withMem (withTicket t) 6 [1]) 0 .restore t fig ∧ t.areaByte = 255 ∧
      bitAt (byteAt ((withMem (withTicket t) 6 [1]).imageOf t) 6) 0 = true) ∧
    (Ready (withTicket t) 0 .restore t fig ∧ bitAt (byteAt ((withTicket t).imageOf t) 6) 0 = false) := by
  refine ⟨⟨runs_of (by decide +kernel) rfl, by decide +kernel, ?_⟩, runs_of (by decide +kernel) rfl, ?_⟩ <;>
    rw [imageOf_zero _ _ (by decide +kernel), image_byte _ (by decide +kernel)] <;> decide +kernel
/-- A SCORE of one stream in context 7, with work area 63. -/
theorem witness_ScoreMarksItsContexts :
    let t : Ticket := { held 0x02 with blocks := overwrite (overwrite (overwrite (List.replicate 512 0) 0x9A [63]) 0x98 [1]) 256 [7] }
    Ready (withTicket t) 0 .score t fig ∧ (withTicket t).swapFault fig = none ∧ t.b 0x9A = 63 :=
  ⟨runs_of (by decide +kernel) rfl, rfl, by decide +kernel⟩
/-- DICT reads the tag of the group, writes its own partition's settle policy, and may not write another's. -/
theorem witness_DictReadsAndWrites :
    let r := heldCmd 0x30 [(0x30, 2, 0x4000), (0x32, 1, 6), (0x34, 2, 4)]
    let w := heldCmd 0x30 [(0x30, 2, 0x2402), (0x32, 1, 1), (0x33, 1, 1), (0x34, 2, 1)]
    let x := heldCmd 0x30 [(0x30, 2, 0x2402), (0x32, 1, 2), (0x33, 1, 1), (0x34, 2, 1)]
    let c := heldCmd 0x30 [(1, 1, 1), (0x30, 2, 0x4000), (0x32, 1, 6), (0x34, 2, 4)]
    (Ready (withTicket r) 0 .dict r fig ∧ byteAt r.cmd 0x33 ≠ 1 ∧
      ((withTicket r).dictRead (field r.cmd 0x30 2) (byteAt r.cmd 0x32) (field r.cmd 0x34 2)).isSome = true ∧
      r.crossCheck = false) ∧
    (Ready (withTicket c) 0 .dict c fig ∧ c.crossCheck = true ∧
      ((withTicket c).dictRead (field c.cmd 0x30 2) (byteAt c.cmd 0x32) (field c.cmd 0x34 2)).isSome = true) ∧
    (Ready (withTicket w) 0 .dict w fig ∧ byteAt w.cmd 0x33 = 1 ∧ ((withTicket w).dictWrite w.part (field w.cmd 0x30 2)
      (byteAt w.cmd 0x32) ((withTicket w).host w.areaWord (field w.cmd 0x34 2))).isSome = true) ∧
    (Ready (withTicket x) 0 .dict x fig ∧ (withTicket x).dictWrite x.part (field x.cmd 0x30 2) (byteAt x.cmd 0x32)
      ((withTicket x).host x.areaWord (field x.cmd 0x34 2)) = none) :=
  ⟨⟨runs_of (by decide +kernel) rfl, by decide +kernel, by decide +kernel, by decide +kernel⟩,
    ⟨runs_of (by decide +kernel) rfl, by decide +kernel, by decide +kernel⟩,
    ⟨runs_of (by decide +kernel) rfl, by decide +kernel, by decide +kernel⟩, runs_of (by decide +kernel) rfl, by decide +kernel⟩
/-- A HALT that has halted its partition, alone there and beside another ticket. -/
def haltTicket : Ticket := { held 0x3F with part := 63, run := some { fig with phase := .finished } }
def halted (ts : List Ticket) : State := ({ live with tickets := haltTicket :: ts }).modPart 63 (fun p => { p with state := .halted })
/-- A launched HALT in a state of the invariant, and the completions of one that has done its work. -/
theorem witness_HaltHaltsItsPartition :
    let h : Ticket := { held 0x3F with part := 63 }
    let s : State := { withTicket h with nextSeq := 1 }
    (s.Inv ∧ Ready s 0 .halt h fig ∧ h.part = 63) ∧
    ((halted []).ticket 0 = some haltTicket ∧ haltTicket.op = .halt ∧ ((halted []).part 63).state = .halted ∧
      (∀ x ∈ (halted []).tickets, x.part = haltTicket.part → x.seq = haltTicket.seq)) ∧
    ∃ x ∈ (halted [{ held 0 with seq := 1, part := 63 }]).tickets, x.part = haltTicket.part ∧ x.seq ≠ haltTicket.seq := by
  refine ⟨⟨⟨by decide +kernel, by decide +kernel, by decide +kernel, fun x h => ?_, by decide +kernel,
    by simp only [withTicket, live, State.reset, State.resetOf], by constructor <;> decide +kernel⟩,
    runs_of (by decide +kernel) rfl, rfl⟩, ⟨rfl, by decide +kernel, by decide +kernel, fun x h _ => ?_⟩,
    _, List.mem_cons_of_mem _ (List.mem_singleton.2 rfl), rfl, by decide⟩
  · rw [List.mem_singleton.1 h]; decide
  · rw [List.mem_singleton.1 h]
/-- No ticket, a ticket of another opcode, a ticket whose work is done, and one whose figure is suspended. -/
theorem witness_OpcodeRowsNeedTheirTicket : live.startup ≠ .reset ∧ live.launched 0 = none ∧
    (running 0x28).launched 0 = some (held 0x28, fig) ∧ (held 0x28).op ≠ .nop ∧
    (withTicket { held 0 with run := some { fig with phase := .finished } }).launched 0 =
      some ({ held 0 with run := some { fig with phase := .finished } }, { fig with phase := .finished }) ∧
    (withTicket { held 0 with run := some { fig with suspendedAt := some 0 } }).launched 0 =
      some ({ held 0 with run := some { fig with suspendedAt := some 0 } }, { fig with suspendedAt := some 0 }) :=
  ⟨by decide, rfl, rfl, by decide +kernel, rfl, rfl⟩

/-! ### Witnesses of the host port and of the count -/

/-- A block whose partition 63 is open, with a ring of four slots and rings of its records. -/
def hosted : State := live.modPart 63 (fun p => { p with
  state := .opened, rings := vset p.rings 3 ⟨0x1000, 2, 0, 3⟩, comp := ⟨0x2000, 4, 0, 0⟩, floe := ⟨0x4000, 5, 0, 0⟩ })
/-- A doorbell of partition 63 and queue 3. -/
def bell (tail : Nat) : BitVec 64 := BitVec.ofNat 64 (63 + 64 * 3 + 4294967296 * tail)
/-- The three answers: a tail of 4 lies beyond a ring of 4 slots, a tail of 2 adds 3 commands, and with a quota of 2 they
do not fit. -/
theorem witness_DoorbellAnswersItsStatus : hosted.startup ≠ .reset ∧ hosted.rstAsserted = false ∧ hosted.doorbellStatus (bell 4) = .range ∧
    hosted.doorbellStatus (bell 2) = .ok ∧ (hosted.modPart 63 (fun p => { p with quota := 2 })).doorbellStatus (bell 2) = .busy ∧
    dbCount (vget (hosted.part 63).rings 3) 2 = 3 := by decide +kernel
theorem witness_TicketSequencesRiseByOne : (∃ t, exec (.doorbell (bell 2) true) hosted = .next t) ∧
    (∃ t, exec .rstNAssert live = .next t) ∧ ∃ t, exec .mgtAdvance live = .next t := ⟨⟨_, rfl⟩, ⟨_, rfl⟩, ⟨_, rfl⟩⟩
theorem witness_BeatsWithBadParityAreNotTaken : live.startup ≠ .reset ∧ live.rstAsserted = false := by decide
/-- A NOP that has finished. -/
def done : Ticket := { held 0 with run := some { fig with phase := .finished } }
/-- A pending checkpoint, a write in flight, an end on record, and a completion. -/
theorem witness_CompletionWaitsForOutputsAndCheckpoints :
    let c : Ckpt := ⟨0, .records, 0, 1, 0, [], [], some 0⟩
    let w : WriteReq := ⟨.cmd, 0, 0, [], some 0, true⟩
    (∀ t : Ticket, live.ticket 0 = some t → t.run = none) ∧ ((running 0).ticket 0 = some (held 0) ∧ fig.phase ≠ .finished) ∧
    (withTicket done).startup ≠ .reset ∧ (withTicket done).ticket 0 = some done ∧ done.run = some { fig with phase := .finished } ∧
    (∃ x ∈ ({ withTicket done with ckpts := [c] }).ckpts, x.ticket = some 0) ∧
    (∃ x ∈ ({ withTicket done with writes := [w] }).writes, x.ticket = some 0) ∧
    (∀ x ∈ (withTicket done).ckpts, x.ticket ≠ some 0) ∧ (∀ x ∈ (withTicket done).writes, x.ticket ≠ some 0) ∧
    ({ done with ended := some (.unrecovered, 0, 8) }).ended = some (.unrecovered, 0, 8) ∧ done.ended = none ∧
    done.op ≠ .settle ∧ done.op ≠ .halt ∧ done.op.floe = false ∧ done.part < 64 ∧ (withTicket done).written = [] :=
  ⟨(fun _ h => by cases h), ⟨rfl, by decide⟩, by decide, rfl, rfl, ⟨_, List.mem_singleton.2 rfl, rfl⟩, ⟨_, List.mem_singleton.2 rfl, rfl⟩,
    fun _ h => absurd h List.not_mem_nil, fun _ h => absurd h List.not_mem_nil, rfl, rfl, by decide +kernel, by decide +kernel,
    by decide +kernel, by decide, rfl⟩
theorem witness_idle_handlers (n : Nat) : (live.handler .block).current = none ∧ (live.handler (.tile n)).current = none ∧
    (live.handler (.slice n)).current = none := by
  refine ⟨rfl, ?_, ?_⟩ <;> simp only [State.handler, State.tile, State.sliceOf, live, State.reset, State.resetOf, Vector.getElem?_replicate] <;>
    split <;> rfl
/-- A genesis, and a HALT's checkpoint that holds the ticket's record; the handlers are idle (witness_idle_handlers). -/
theorem witness_CheckpointIsWrittenInTwoSlots :
    let c : Ckpt := ⟨63, .genesis, 0, 0, 0, [], [], none⟩
    let h : Ckpt := ⟨63, .halted, 0, 0, 0, [], [], some 0⟩
    let t : Ticket := { haltTicket with ended := some (.ok, 0, 8) }
    live.ckpts = [] ∧
    ({ hosted with ckpts := [c] }).startup ≠ .reset ∧ ({ hosted with ckpts := [c] }).ckpts = c :: [] ∧ c.ticket = none ∧ c.part < 64 ∧
    (h.ticket = some 0 ∧ ({ live with tickets := [t], ckpts := [h] }).ticket 0 = some t ∧ t.ended = some (.ok, 0, 8) ∧
      h.reason ≠ .genesis ∧ h.reason ≠ .closed ∧ t.part < 64) :=
  ⟨rfl, by decide +kernel, rfl, rfl, by decide, rfl, rfl, rfl, by decide, by decide, by decide⟩
theorem witness_ReadDataLandsWhereItWasAsked :
    let r : ReadReq := ⟨.cmd, 5, 0x1000, 64, .ticket 9, false, true⟩
    let s : State := { live with reads := [r] }
    s.startup ≠ .reset ∧ s.rstAsserted = false ∧ s.reads.find? (fun x => x.sent && x.chan == MemChan.cmd && x.tag == 5) = some r ∧
    s.reads.find? (fun x => x.sent && x.chan == MemChan.cmd && x.tag == 6) = none := by
  decide +kernel
theorem witness_AcknowledgedWritesAreInFlightNoMore :
    let w : WriteReq := ⟨.drf 3, 2047, 0, [], none, true⟩
    let s : State := { live with writes := [w] }
    s.startup ≠ .reset ∧ s.rstAsserted = false ∧ (∃ x ∈ s.writes, x.sent = true ∧ x.chan = .drf 3 ∧ x.tag = 2047) ∧
    (¬∃ x ∈ live.writes, x.sent = true ∧ x.chan = .cmd ∧ x.tag = 0) ∧
    s.writes.find? (fun x => x.sent && x.chan == MemChan.drf 3 && x.tag == 2047) = some w :=
  ⟨by decide, rfl, ⟨_, List.mem_singleton.2 rfl, rfl, rfl, rfl⟩, fun ⟨_, h, _⟩ => absurd h List.not_mem_nil, by decide +kernel⟩
/-- A NOP takes no rows; a STEP of one stream whose rows have not come takes the next one. -/
theorem witness_HiddenRowsQueueUntilATicketTakesThem :
    let t : Ticket := { held 0x01 with rows := [], blocks := overwrite (List.replicate 512 0) 0x98 [1], run := none }
    (running 0).startup ≠ .reset ∧ (running 0).rstAsserted = false ∧ (running 0).rowTicket = none ∧ (withTicket t).rowTicket = some t ∧ (withTicket t).actIn = [] ∧
    (withTicket t).rowsKnown t = true ∧ (withTicket t).rowRoom t = true ∧ (List.replicate t.rowBytes (0 : Byte)).length = t.rowBytes := by
  decide +kernel
/-- The last sub-channel, with a message that waits and with none. -/
theorem witness_CreditSendsTheMessageThatWaits : live.rstAsserted = false ∧
    live.outs[outIdx .mgtRs]? = some ⟨0, [], []⟩ ∧ (live.emit .mgtRs [1]).outs[outIdx .mgtRs]? = some ⟨0, [[1]], []⟩ := by
  decide +kernel
/-- A pending slip at a multiple of 512, one elsewhere, and a count not yet loaded. -/
theorem witness_CountAdvancesOrSlips :
    let m : State := { live with countLoaded := true, slipPending := true }
    m.startup ≠ .reset ∧ m.countLoaded = true ∧ (m.slipPending = true ∧ (512 : BitVec 64).toNat % 512 = 0) ∧
    ¬(m.slipPending = true ∧ (511 : BitVec 64).toNat % 512 = 0) ∧ live.countLoaded = false := by decide +kernel
/-- A NOP with an urgent figure, on a block at a frame boundary. -/
def urgentNop : Ticket := { Ticket.granted 0 0 0 0 with cmd := cmd 0 [], fetch := .done }
def preemptible : State :=
  { live with tickets := [urgentNop], figures := [⟨1, List.replicate 16 0 ++ live.shapeOf urgentNop true ++ List.replicate 64 0⟩] }
theorem witness_PreemptionSuspendsAndResumes :
    preemptible.startup ≠ .reset ∧ preemptible.count.toNat % 512 = 0 ∧ preemptible.urgentRuns = false ∧
    preemptible.urgentTicket = some urgentNop ∧ preemptible.retries = [] ∧
    ({ preemptible with retries := [⟨.generator, 16, none, none, 0, false, false⟩] }).retries ≠ [] ∧
    (511 : BitVec 64).toNat % 512 ≠ 0 ∧ live.urgentTicket = none ∧ (∀ t ∈ (running 1).tickets, ∀ r, t.run = some r → r.suspendedAt = none) ∧
    (∃ t ∈ (withTicket { held 1 with run := some { fig with suspendedAt := some 0 } }).tickets, ∃ r, t.run = some r ∧ r.suspendedAt ≠ none) :=
  ⟨by decide +kernel, by decide +kernel, by decide +kernel, by decide +kernel, rfl, List.cons_ne_nil _ _,
    by decide, by decide +kernel, fun t h r hr => (by rw [List.mem_singleton.1 h] at hr; cases hr; rfl),
    ⟨_, List.mem_singleton.2 rfl, _, rfl, Option.some_ne_none _⟩⟩

/-! ### Witnesses of the errors -/

theorem witness_ErrorsOutsideOperationAreIgnored : errorRow (.moraineMismatch none) = true ∧ State.reset.startup = .reset ∧
    errorRow (.byteParityError .other none) = true ∧ ({ live with startup := .whiteout }).startup = .whiteout := by decide
/-- The spare row of the last tile, a row that is bypassed, and a disabled tile. -/
theorem witness_TileErrorsGoToTheirHandler :
    let b := live.modTile 15 (fun t => { t with entry := 5 })
    let d := live.modTile 15 (fun t => { t with entry := 0x803F })
    live.startup ≠ .reset ∧ live.startup ≠ .whiteout ∧ live.rowChecked 15 32 = true ∧ b.rowChecked 15 5 = false ∧
    live.tileActive 15 = true ∧ d.tileActive 15 = false := by decide +kernel
/-- A block with a shard of one set in region 63 and a work area in region 62. -/
def stocked : State :=
  (live.modRegion 63 (fun g => { g with owner := 0, pages := 1, state := .resident, descriptor := loadwBlocks.take 64 })).modRegion 62
    (fun g => { g with owner := 0, base := 1, pages := 1, work := true, state := .resident })
theorem witness_UnitErrorsGoToTheirHandler :
    stocked.startup ≠ .reset ∧ stocked.startup ≠ .whiteout ∧
    ({ stocked with sleetRunning := true }).sleetRunning = true ∧ 3 < stocked.grade.slices ∧ stocked.sleetRunning = false ∧
    stocked.holdsShard 63 = true ∧ (stocked.regionDesc 63).sets = 1 ∧ live.holdsShard 63 = false ∧
    (stocked.region 62).work = true ∧ live.launched 0 = none ∧ Op.grad ∈ [Op.step, .score, .settle, .verify, .beam, .loss, .grad] ∧ (running 0).launched 0 = some (held 0, fig) := by decide +kernel
/-- An error of a bank. -/
def bankErr (n : Nat) : Err := ⟨.firnWeight, .bank n, n / 8, 0, none, 0, 0, false, 0, noWork⟩
/-- A block whose handler is busy with `n` errors queued. -/
def busy (n : Nat) : State := { live with block := ⟨some (bankErr 0), (upto n).map (fun i => bankErr (i + 1))⟩ }
theorem witness_BusyHandlerQueuesFourAndThenOverflows :
    let m : State := { live with block := ⟨some ⟨.moraineMismatch, .moraine, 0xFF, 0xFF, none, 0, 0, false, 0, noWork⟩, []⟩ }
    live.startup ≠ .reset ∧ live.startup ≠ .whiteout ∧ (busy 3).block.current ≠ none ∧ (busy 3).block.holds .moraine = false ∧
    (busy 3).block.queue.length < 4 ∧ (busy 4).block.current ≠ none ∧ (busy 4).block.holds .moraine = false ∧
    4 ≤ (busy 4).block.queue.length ∧ m.block.current ≠ none ∧ m.block.holds .moraine = true := by decide +kernel
theorem witness_CellErrorRetriesItsTileLoad : live.startup ≠ .reset ∧ live.startup ≠ .whiteout ∧
    live.rowChecked 15 32 = true ∧ (live.tile 15).handler = Handler.idle ∧ vget (live.tile 15).retries 32 ≠ 2 := by
  decide +kernel
/-- A generator retry; a Firn reread that waits and one that does not; an empty Firn and one with regions; and a background
reread whose set has come. -/
theorem witness_RetriesAndTheScrubGoOn :
    let e : Err := ⟨.firnWeight, .bank 0, 0, 63, none, 63, 0, false, 0, noWork⟩
    let r : Retry := ⟨.firnReread, 1152, some .block, some e, 0, false, false⟩
    let q : ReadReq := ⟨.drf 0, 0, 0, 512, .reread 63 0, false, true⟩
    live.startup ≠ .reset ∧ live.startup ≠ .whiteout ∧ r.kind = .firnReread ∧ r.err = some e ∧
    ({ live with retries := [r] }).retries = [r] ∧ ({ live with reads := [q] }).rereading (.reread e.region e.set) = true ∧
    live.retries = [] ∧ live.background = [] ∧ live.rereading (.reread e.region e.set) = false ∧ (RetryKind.generator ≠ .firnReread) ∧
    (live.scrubAt).isNone = true ∧ (stocked.scrubAt).isSome = true := by decide +kernel
theorem witness_background_reread :
    let b : Background := ⟨63, 0, 0, 0, false⟩
    let s : State := { live with background := [b] }.modRegion 63 (fun g => { g with owner := 0, state := .resident })
    s.background.find? (fun b => b.region == 63 && b.set == 0) = some b ∧ s.rereading (.background 63 0) = false ∧
    s.holdsShard 63 = true ∧ b.bad = false := by decide +kernel
/-- A bad table copy; a figure that streams one set, with its bytes missing and with them in place; a command that a parity
error ends. -/
theorem witness_SetAndTableEventsComplete :
    let s : State := { live.modSlice 3 (fun c => { c with tableGood := false }) with
      block := ⟨some ⟨.tableWord, .table 3, 3, 0xFF, none, 0, 0, false, 0, noWork⟩, []⟩ }
    let g : Running := { fig with streamed := true }
    let t : Ticket := { held 0x01 with blocks := loadwBlocks, run := some g }
    let q : ReadReq := ⟨.drf 0, 0, 0, 512, .set 0 0, false, true⟩
    s.startup ≠ .reset ∧ s.startup ≠ .whiteout ∧ s.rewrites 3 = true ∧ s.block.queue = [] ∧ live.rewrites 3 = false ∧
    (withTicket t).launched 0 = some (t, g) ∧ g.streamed = true ∧ t.op ≠ .loadw ∧ 0 < t.desc.sets ∧ 0 ∉ g.setsOk ∧
    ({ withTicket t with reads := [q] }).rereading (.set 0 0) = true ∧ (withTicket t).rereading (.set 0 0) = false ∧
    fig.streamed = false ∧ live.launched 0 = none ∧ live.victim none = none ∧ live.retries = [] ∧ live.background = [] ∧
    live.tileActive 15 = true ∧ (live.modTile 15 (fun t => { t with entry := 0x803F })).tileActive 15 = false := by decide +kernel

/-! ### Witnesses of the links -/

/-- A block whose port 3 is a child link that is up. -/
def linked : State :=
  { live.modPort 3 (fun p => { p with state := .up, rate := 16 }) with settings := { live.settings with childPorts := 8, depth := 3 } }
/-- A received frame of a kind on port 3. -/
def rx (kind n : Nat) (payload : Bytes) : Sys2Proof.RxFrame :=
  ⟨3, ({ live.frameBase kind with exchange := (if kind = 0x10 then 1 else 0), linkSeq := n, payload := payload } : Frame).body⟩
/-- A frame that is cut, and one of another group. -/
theorem witness_FramesAreDiscardedWithoutNak :
    frameRow (.idle ⟨3, List.replicate 31 0⟩) = some ⟨3, List.replicate 31 0⟩ ∧ linked.startup = .run ∧
    linked.rstAsserted = false ∧ frameFormOk (List.replicate 31 0) = false ∧
    (3 ∈ ({ linked with settings := { linked.settings with groupTag := 1 } }).treePorts ∧
      (Frame.read (rx 0 0 []).bytes).tag ≠ ({ linked with settings := { linked.settings with groupTag := 1 } }).settings.groupTag.toNat) ∧
    ¬(State.reset.startup = .ready ∨ State.reset.startup = .run) := by decide +kernel
/-- A frame next in link order, one out of order, and one that meets a full queue. -/
theorem witness_FramesAreTakenInLinkOrder :
    linked.startup = .run ∧ linked.rstAsserted = false ∧ frameFormOk (rx 0x10 0 []).bytes = true ∧ (Frame.read (rx 0x10 0 []).bytes).kind = 0x10 ∧
    (Frame.read (rx 0x10 0 []).bytes).tag = linked.settings.groupTag.toNat ∧ (linked.port 3).state = .up ∧
    ((Frame.read (rx 0x10 0 []).bytes).linkSeq = ((linked.port 3).rxSeq + 1).toNat ∧ (linked.port 3).rxq.length < 8) ∧
    ¬((Frame.read (rx 0x10 1 []).bytes).linkSeq = ((linked.port 3).rxSeq + 1).toNat) ∧
    ¬((linked.modPort 3 (fun p => { p with rxq := List.replicate 8 default })).port 3).rxq.length < 8 ∧
    frameFormOk (rx 0x20 0 (List.replicate 128 0)).bytes = true ∧ (Frame.read (rx 0x20 0 (List.replicate 128 0)).bytes).kind = 0x20 ∧
    frameFormOk (rx 0 0 []).bytes = true ∧ (Frame.read (rx 0 0 []).bytes).kind = 0 ∧
    frameFormOk (rx 2 0 []).bytes = true ∧ (Frame.read (rx 2 0 []).bytes).kind = 2 := by decide +kernel
/-- An ABORT seen before, a new one of no ticket, and a new one of a running launch. -/
theorem witness_AbortIsTakenOnce :
    let f := rx 0x3F 0 [7, 0, 0x21, 0]
    let fr := Frame.read f.bytes
    let a : AbortEnt := ⟨fr.part, fr.opcode, fr.groupSeq, field fr.payload 0 2⟩
    linked.startup = .run ∧ frameFormOk f.bytes = true ∧ fr.tag = linked.settings.groupTag.toNat ∧ (linked.port f.port).state = .up ∧
    fr.kind = 0x3F ∧ a ∈ ({ linked with abortSeen := [a] }).abortSeen ∧ a ∉ linked.abortSeen ∧
    linked.tickets = [] ∧ linked.groupDone = [] ∧
    (let g := rx 0x3F 0 [7, 0, 0x21, 0]
     let n := { g with bytes := overwrite g.bytes 9 [1] }
     let fn := Frame.read n.bytes
     let s : State := { linked with tickets := [held 1] }
     frameFormOk n.bytes = true ∧ s.tickets.find? (fun t => t.part == fn.part && t.op.code == fn.opcode &&
       t.groupSeq == fn.groupSeq && t.op.peer && t.cmdKnown) = some (held 1) ∧ s.ticket (held 1).seq = some (held 1) ∧
     (held 1).run = some fig ∧ (held 1).ended = none ∧ fig.phase ≠ .finished) := by decide +kernel
/-- A block whose port 3 begins bring-up as a parent, a child or a side link, with the member's depth. -/
def bringing (parent child : Nat) (d : BitVec 8) : State :=
  { live.modPort 3 (fun p => { p with state := .bringUp, rate := 16 }) with
    settings := { live.settings with parentPort := BitVec.ofNat 8 parent, childPorts := BitVec.ofNat 8 child, depth := 3 }, memberDepth := d }
/-- A HELLO of a neighbour with a depth and a role, in a group of one member and tree depth 3. -/
def helloOf (d role : Nat) : Sys2Proof.RxFrame :=
  rx 0x01 0 (leBytes 2 9 ++ leBytes 1 d ++ leBytes 1 role ++ leBytes 4 0 ++ leBytes 2 1 ++ leBytes 1 3 ++ leBytes 5 0)
theorem witness_HelloBringsTheLinkUp :
    let r (f : Sys2Proof.RxFrame) := Report.read (Frame.read f.bytes).payload
    let same (s : State) (f : Sys2Proof.RxFrame) : Bool := s.sameGroup (r f)
    (bringing 3 0 0xFF).startup = .run ∧ (bringing 3 0 0xFF).rstAsserted = false ∧ (linked.port 3).state = .up ∧
    (linked.port 3).rate ≠ 0 ∧ frameFormOk (helloOf 2 1).bytes = true ∧ (Frame.read (helloOf 2 1).bytes).kind = 0x01 ∧
    (Frame.read (helloOf 2 1).bytes).tag = (bringing 3 0 0xFF).settings.groupTag.toNat ∧ (live.port 3).rate = 0 ∧
    ((bringing 3 0 0xFF).port 3).rate ≠ 0 ∧ ((bringing 3 0 0xFF).port 3).state ≠ .up ∧
    ((bringing 3 0 0xFF).parentPort = some 3 ∧ (r (helloOf 2 1)).role = 1 ∧ same (bringing 3 0 0xFF) (helloOf 2 1) = true ∧
      (r (helloOf 2 1)).depth + 1 = (bringing 3 0 0xFF).settings.depth.toNat) ∧
    ¬(r (helloOf 3 1)).depth + 1 ≤ (bringing 3 0 0xFF).settings.depth.toNat ∧
    ((bringing 0xFF 8 0xFF).parentPort ≠ some 3 ∧ 3 ∈ (bringing 0xFF 8 0xFF).childPorts ∧ (bringing 0xFF 8 0xFF).memberDepth = 0xFF) ∧
    ((bringing 0xFF 8 0).memberDepth ≠ 0xFF ∧ (r (helloOf 1 0)).role = 0 ∧ same (bringing 0xFF 8 0) (helloOf 1 0) = true ∧
      (r (helloOf 1 0)).depth = (bringing 0xFF 8 0).memberDepth.toNat + 1) ∧ ¬(r (helloOf 2 0)).depth = 0 + 1 ∧
    ((bringing 0xFF 0 0).parentPort ≠ some 3 ∧ 3 ∉ (bringing 0xFF 0 0).childPorts ∧ (r (helloOf 0 2)).role = 2) := by decide +kernel
theorem witness_LinkTimersAndFailures : linked.startup = .run ∧ linked.rstAsserted = false ∧ (linked.port 3).rate ≠ 0 ∧
    3 ≤ (⟨3, true⟩ : Sys2Proof.BadFrame).resend ∧ (⟨2, false⟩ : Sys2Proof.BadFrame).resend < 3 ∧ (linked.port 3).state = .up ∧ (linked.port 0).state ≠ .up ∧
    (linked.port 0).rate = 0 ∧ ((bringing 3 0 0).port 3).state ≠ .up ∧ ((bringing 3 0 0).port 3).rate ≠ 0 := by decide +kernel
/-- An exchange that waits for its parent from tick 0. -/
def waiting (stalled : Bool) (n : Nat) : Exch :=
  { (default : Exch) with kind := 1, segment := 1, segments := 1, stalled := stalled, stallCount := n }
/-- A STEP whose exchange waits, at a tick long past, with a stall limit of 4. -/
def late (e : Exch) : State :=
  { withTicket { held 0x01 with run := some { fig with phase := .exchanging, exch := some e } } with
    tick := 100000, settings := { live.settings with parentPort := 3, depth := 1, stallLimit := 4 }, memberDepth := 1 }
theorem witness_DeadlinesPassOverStallOrEnd :
    let r (e : Exch) : Running := { fig with phase := .exchanging, exch := some e }
    let c : Running := { fig with phase := .checking }
    let p := (late (waiting false 0)).modPart 0 (fun q => { q with settleWithout := true })
    (late (waiting false 0)).startup ≠ .reset ∧ live.launched 0 = none ∧ (running 1).launched 0 = some (held 1, fig) ∧
    fig.exch = none ∧ fig.phase ≠ .checking ∧
    (late (waiting false 0)).launched 0 = some ({ held 0x01 with run := some (r (waiting false 0)) }, r (waiting false 0)) ∧
    (late (waiting false 0)).peerDue (r (waiting false 0)) (waiting false 0) = true ∧ (waiting false 0).stalled = false ∧
    (held 0x01).op.policy = true ∧ (p.part 0).settleWithout = true ∧ ((late (waiting false 0)).part 0).settleWithout = false ∧
    ({ late (waiting false 0) with tick := 0 }).peerDue (r (waiting false 0)) (waiting false 0) = false ∧
    (waiting true 4).stalled = true ∧ (late (waiting true 4)).settings.stallLimit ≠ 0 ∧
    (late (waiting true 4)).settings.stallLimit.toNat = (waiting true 4).stallCount ∧ ¬(4 ≤ (waiting true 3).stallCount) ∧
    c.phase = .checking ∧ (late (waiting false 0)).checkDue (held 0x01) c = true ∧ live.checkDue (held 0x01) c = false := by
  decide +kernel

/-! ### Witnesses of the window, the accesses and the downloads -/

/-- A request frame's body: operation, session, counter, index, sub-index, offset and payload. -/
def reqBody (op ses ctr idx sub off : Nat) (payload : Bytes) : Bytes :=
  leBytes 1 1 ++ leBytes 1 op ++ leBytes 2 9 ++ leBytes 4 ses ++ leBytes 8 ctr ++ leBytes 2 idx ++ leBytes 1 sub ++ [0] ++
  leBytes 4 off ++ leBytes 2 payload.length ++ leBytes 6 0 ++ payload
/-- The frame under a MAC. -/
def framed (body mac : Bytes) : Bytes := body ++ mac ++ leBytes 4 (crc32c (body ++ mac))
/-- A session of a role and a state, of id 1 and key zero. -/
def sess (r : Role) (isOpen : Bool) : Session := ⟨1, r, List.replicate 48 0, 0, isOpen, List.replicate 32 0⟩
/-- A window that holds a frame. -/
def windowOf (bs : Bytes) (isLatched : Bool) : Window :=
  { State.reset.window with
    request := overwrite State.reset.window.request 0 bs, sent := BitVec.ofNat 11 bs.length, latched := isLatched }
/-- A block in a start-up state with a request latched from the open session of a role. -/
def asked (st : Startup) (r : Role) (op idx sub off : Nat) (payload : Bytes) : State :=
  { live with
    startup := st
    window := windowOf (framed (reqBody op 1 1 idx sub off payload) (List.replicate 16 0)) true
    vault := { live.vault with sessions := [sess r true], drbg := some default, enrolled := true, state := .operational } }
/-- The last slot, a busy window and an idle one. -/
theorem witness_Data3AdvancesTheSlot :
    live.startup ≠ .reset ∧ live.rstAsserted = false ∧ live.window.busy = false ∧ ({ live with window := { live.window with slot := 63 } }).window.slot = 63 ∧
    ∃ u, exec (.mgtRegisterWrite 0 (some 0) true) { live with window := { live.window with busy := true } } = .next u :=
  ⟨by decide, rfl, by decide +kernel, rfl, _, rfl⟩
/-- A frame of no session that obeys R418, one cut short, one of a session that is none, and a window that is busy or holds a
response. -/
theorem witness_WindowCommandsAct :
    let ok := framed (reqBody 1 0 0 0x1000 0 0 []) (List.replicate 16 0)
    let no := framed (reqBody 1 7 1 0x1000 0 0 []) (List.replicate 16 0)
    live.startup ≠ .reset ∧ live.rstAsserted = false ∧ live.window.busy = false ∧ live.window.ready = false ∧
    frameOk ((windowOf ok false).request.take 51) = false ∧
    frameOk ((windowOf no false).request.take 52) = true ∧ ({ live with window := windowOf no false }).authOk = false ∧
    frameOk ((windowOf ok false).request.take 52) = true ∧ ({ live with window := windowOf ok false }).authOk = true ∧
    ({ live.window with busy := true }).busy = true ∧ ({ live.window with ready := true }).ready = true := by decide +kernel
theorem witness_ObjectAccessesAnswerInOrder :
    (asked .run .observer 1 0 0 0 []).window.latched = true ∧ (asked .run .observer 1 0 0 0 []).req.op = 1 ∧
    (asked .run .observer 1 0 0 0 []).object 0 = none ∧
    ((asked .run .observer 1 0x2000 0 0 []).object 0x2000 ≠ none ∧ (asked .run .observer 1 0x2000 0 0 []).req.index = 0x2000) ∧
    (asked .run .observer 1 0x2000 1 0 []).req.sub = 1 ∧ readRole (some .observer) 0x2000 0 = true ∧
    readRole none 0x2000 0 = false ∧ (asked .run .observer 1 0x8040 1 0 []).req.index = 0x8040 ∧
    (asked .whiteout .observer 1 0x2000 0 0 []).startup = .whiteout ∧
    whiteoutRead (asked .whiteout .observer 1 0x2000 0 0 []).reqRole 0x2000 = false ∧
    (asked .image .operator 2 0 0 0 []).req.op = 2 ∧ (asked .image .operator 2 0 0 0 []).startup = .image ∧
    (asked .run .observer 3 0x2031 3 0 []).req.op = 3 ∧ (asked .run .observer 3 0x2031 3 0 []).req.sub = 3 ∧
    (asked .run .observer 3 0x2031 3 0 []).advancing = false ∧ (asked .run .observer 3 0x2031 3 0 []).reqRole ≠ none := by
  decide +kernel
/-- An object of the dictionary, as a test reads it. -/
def accOf (s : State) : Option (OAcc × Nat) :=
  match s.object s.req.index with
  | none => none
  | some l => (l[s.req.sub]?).map (fun o => (o.acc, o.size))
/-- A write taken, one with a ticket held, one of a value that is none, and a partition that closes after its checkpoint. -/
theorem witness_WriteTakesEffectAndAnswers :
    let a := asked .ready .operator 2 0x2000 0 0 [0, 1, 0, 0]
    let b := { a with tickets := [held 0] }
    let c := asked .ready .operator 2 0x2000 0 0 [0, 0, 0, 0]
    let d := (asked .run .operator 2 0x303F 1 0 [0]).modPart 63 (fun p => { p with state := .opened })
    (accOf a = some (.rwIdle, 4) ∧ a.reqRole = some .operator ∧ a.req.op = 2 ∧ a.req.payload.length = 4 ∧
      a.writeIdle 0x2000 0 256 = true ∧ (a.writeObject 0x2000 0 256).isSome = true) ∧
    b.writeIdle 0x2000 0 256 = false ∧ (accOf c = some (.rwIdle, 4) ∧ (c.writeObject 0x2000 0 0).isSome = false) ∧
    (accOf d = some (.rw, 1) ∧ d.req.index = 0x303F ∧ d.req.payload.length = 1 ∧
      ((d.writeObject 0x303F 1 0).map (fun m => (m.part 63).waiting != .nothing)) = some true) := by decide +kernel
theorem witness_AccessReleaseActsOnTheLatchedAccess :
    live.window.latched = false ∧ (asked .run .operator 1 0x2000 0 0 []).req.op = 1 ∧
    (asked .run .operator 2 0x2000 0 0 []).req.op = 2 ∧ (asked .run .operator 3 0x2000 0 0 []).req.op = 3 ∧
    (asked .run .operator 0x14 0 0 0 (List.replicate 68 0)).req.op = 0x14 ∧
    (asked .run .operator 0x14 0 0 0 (List.replicate 68 0)).window.latched = true := by decide +kernel
/-- An image's signature block under the key whose private value is 1, made with the per-message secret 1. -/
def signature (intake : Nat) (image : Bytes) : Bytes :=
  let r := p384gx % p384n
  let g := 4 :: (beBytes 48 p384gx ++ beBytes 48 p384gy)
  leBytes 4 0x33475346 ++ [1, 0] ++ leBytes 1 intake ++ leBytes 9 0 ++ keyId g ++ beBytes 48 r ++
  beBytes 48 ((beNat (sha384 (image ++ leBytes 1 intake)) + r) % p384n)
/-- A figure image without stages. -/
def figureImage : Bytes :=
  overwrite (overwrite (overwrite (List.replicate 256 0) 0 (leBytes 4 0x33514746 ++ [1, 0, 1, 0])) 8
    [BitVec.ofNat 8 live.grade.code, BitVec.ofNat 8 live.grade.tiles]) 12 [0, 1]
/-- A block in IMAGE with a verification key, a download of an intake, and an operation latched. -/
def downloading (op sub off : Nat) (p : Bytes) (d : Option Download) : State :=
  let s := asked .image .officer op 0x8040 sub off p
  { s with
    download := d
    vault := { s.vault with verifyKeys := vset s.vault.verifyKeys 3 (4 :: (beBytes 48 p384gx ++ beBytes 48 p384gy)) } }
/-- Downloads that begin, go on, break off, and end: a whole image that is loaded, one that its own rules refuse, one with a
bad signature and one that is too short. -/
theorem witness_DownloadsRunInOrder :
    let b := downloading 4 2 384 [] none
    let c := downloading 5 2 2 [7] (some ⟨2, 384, [0, 0]⟩)
    let e := downloading 6 2 0 [] (some ⟨2, 384, figureImage ++ signature 2 figureImage⟩)
    (b.startup = .image ∧ b.window.latched = true ∧ b.intakeStatus = none ∧ b.req.op = 4) ∧
    (c.intakeStatus = none ∧ c.req.op = 5 ∧ c.req.sub = 2 ∧ c.req.offset = 2 ∧ c.req.payload = [7]) ∧
    (downloading 5 2 3 [7] (some ⟨2, 384, [0, 0]⟩)).req.offset = 3 ∧
    ((downloading 6 2 0 [7] none).req.op = 6 ∧ (downloading 6 2 0 [7] none).req.payload ≠ []) ∧
    (e.intakeStatus = none ∧ e.req.op = 6 ∧ e.req.payload = [] ∧ e.req.sub = 2 ∧ (e.loadImage 2 figureImage).isSome = true ∧
      (e.loadImage 2 [0]).isSome = false) ∧
    e.signatureOk 2 [0] (List.replicate 128 0) = false := by decide +kernel
theorem witness_signature_verifies :
    (downloading 6 2 0 [] none).signatureOk 2 figureImage (signature 2 figureImage) = true := by decide +kernel
theorem witness_signature_of_a_refused_image :
    (downloading 6 2 0 [] none).signatureOk 2 [0] (signature 2 [0]) = true := by decide +kernel
theorem witness_ProfileDigestIsOfTheProfile : ∃ t, State.reset.profileDigest = sha384 State.reset.profile.input ∧
    exec .mgtAdvance State.reset = .next t := ⟨_, by decide +kernel, rfl⟩

/-! ### Witnesses of the Vault and of start-up -/

/-- A challenge asked, a pending session proved under its key, and one closed. -/
def proving (mac : Bytes) : State :=
  let body := reqBody 0x11 1 1 0 0 0 (openProof (List.replicate 48 0) .observer 1 (List.replicate 32 0))
  { live with window := windowOf (framed body mac) true, vault := { live.vault with sessions := [sess .observer false] } }
theorem witness_SessionsOpenAndClose :
    let o := { asked .run .observer 0x10 0 0 0 [3, 0, 0, 0] with
      window := windowOf (framed (reqBody 0x10 0 0 0 0 0 [BitVec.ofNat 8 Role.observer.code, 0, 0, 0]) (List.replicate 16 0)) true }
    let c := asked .run .observer 0x12 0 0 0 []
    let n := { live with window := windowOf (framed (reqBody 0x11 0 0 0 0 0 []) (List.replicate 16 0)) true }
    (o.startup ≠ .reset ∧ o.window.latched = true ∧ o.req.op = 0x10 ∧ o.vaultOpen = true ∧ o.vault.enrolled = true ∧
      o.advancing = false ∧ o.req.session = 0 ∧ o.req.payload = [BitVec.ofNat 8 Role.observer.code, 0, 0, 0] ∧
      vget o.vault.failedProofs Role.observer.idx < 16 ∧ o.vault.sessions.length < 4 ∧ o.vault.nextSession ≠ 0) ∧
    (n.window.latched = true ∧ n.req.op = 0x11 ∧ n.req.session = 0 ∧ n.session n.req.session = none ∧ n.advancing = false) ∧
    (c.req.op = 0x12 ∧ c.vaultOpen = true ∧ c.session c.req.session = some (sess .observer true) ∧ c.req.payload = []) ∧
    (proving []).session 1 = some (sess .observer false) ∧ c.session 1 = some (sess .observer true) := by decide +kernel
theorem witness_proof_of_a_session :
    let body := reqBody 0x11 1 1 0 0 0 (openProof (List.replicate 48 0) .observer 1 (List.replicate 32 0))
    let p := proving (frameMac (List.replicate 48 0) body)
    p.window.latched = true ∧ p.req.op = 0x11 ∧ p.session p.req.session = some (sess .observer false) ∧
    p.macOk p.window.frame = true ∧ p.advancing = false ∧ p.req.payload.length = 48 ∧
    p.req.payload = openProof (vget p.vault.keys (sess .observer false).role.idx) .observer 1 (List.replicate 32 0) := by
  decide +kernel
theorem witness_wrong_proof_of_a_session :
    let q := proving (List.replicate 16 0)
    q.req.op = 0x11 ∧ q.session q.req.session = some (sess .observer false) ∧ q.macOk q.window.frame = false := by decide +kernel
/-- Three keys for ENROL, a public key for VERIFY_KEY, and AUDIT_KEY. -/
theorem witness_EnrolmentAndKeysAreSet :
    let k := fun (n : Byte) => List.replicate 48 n
    let e := { State.reset with startup := .selftest, window := windowOf (framed (reqBody 0x13 0 0 0 0 0 (k 1 ++ k 2 ++ k 3)) (List.replicate 16 0)) true }
    let v := asked .image .officer 0x16 0 0 0 (3 :: 0 :: 0 :: 0 :: 4 :: (beBytes 48 p384gx ++ beBytes 48 p384gy))
    let a := asked .image .observer 0x15 0 0 0 []
    (e.window.latched = true ∧ e.advancing = false ∧ e.req.op = 0x13 ∧ e.startup = .selftest ∧ e.vault.enrolled = false ∧
      e.vault.state ≠ .zeroised ∧ e.req.session = 0 ∧ e.req.payload = k 1 ++ k 2 ++ k 3 ∧ allZero (k 1) = false ∧
      allZero (k 2) = false ∧ allZero (k 3) = false ∧ k 1 ≠ k 2 ∧ k 1 ≠ k 3 ∧ k 2 ≠ k 3 ∧ e.testsDone = false ∧
      ({ e with testsDone := true }).testsDone = true) ∧
    (v.req.op = 0x16 ∧ v.startup = .image ∧ v.reqRole = some .officer ∧ v.req.payload.length = 101 ∧ byteAt v.req.payload 0 = 3 ∧
      zeroAt v.req.payload 1 4 = true ∧ pubValid (slice v.req.payload 4 97) = true) ∧
    (a.req.op = 0x15 ∧ a.startup ≠ .selftest ∧ a.reqRole ≠ none ∧ a.req.payload = [] ∧ a.vault.auditPub = []) := by decide +kernel
/-- A wrapped seed of partition 63, under a wrap key of zeros. -/
def wrapped : Bytes := [63] ++ leBytes 19 0 ++ List.replicate 32 0 ++
  [24, 97, 44, 3, 245, 151, 125, 154, 242, 79, 229, 34, 38, 44, 183, 220]
/-- The seed unwraps. -/
theorem witness_seed_unwraps : (live.unwrapSeed wrapped).isSome = true := by decide +kernel
/-- An import of an idle partition, of one that has received a ticket before or after the release, one that does not unwrap,
and a held seed. -/
theorem witness_SeedsTakeEffectWhenIdle :
    let s := asked .ready .operator 0x14 0 0 0 wrapped
    let b := { s with tickets := [{ held 0 with part := 63 }] }
    let h := live.modPart 63 (fun p => { p with held := some ⟨List.replicate 32 0, 0⟩ })
    (s.window.latched = true ∧ s.req.op = 0x14 ∧ s.startup = .ready ∧ s.advancing = false ∧ s.reqRole = some .operator ∧
      s.req.payload = wrapped ∧ field s.req.payload 0 1 = 63 ∧ s.partIdle 63 = true ∧ s.vault.seedWrap = live.vault.seedWrap) ∧
    (b.window.admitted = false ∧ b.partIdle 63 = false) ∧ ({ b.window with admitted := true }).admitted = true ∧
    (asked .ready .operator 0x14 0 0 0 (List.replicate 68 0xFF)).unwrapSeed (List.replicate 68 0xFF) = none ∧
    ((h.part 63).held ≠ none ∧ h.partIdle 63 = true) := by decide +kernel
theorem witness_ZeroisationClearsTheVault :
    let z := asked .run .officer 0x17 0 0 0 []
    z.startup ≠ .reset ∧ z.startup ≠ .whiteout ∧ z.vault.drbg ≠ none ∧ z.advancing = false ∧ z.window.latched = true ∧
    z.req.op = 0x17 ∧ z.reqRole = some .officer ∧ z.req.payload = [] ∧ State.reset.startup = .reset := by decide +kernel
/-- A sixth equal sample, an early sample, a later one, and SELFTEST with and without a ticket. -/
theorem witness_EntropyIsTestedThenCredited :
    let five := { live.vault.tests with samples := 5, last := 9, run := 5 }
    let many := { live.vault.tests with samples := 1024, last := 9, run := 1 }
    let z := asked .run .officer 0x18 0 0 0 []
    live.startup ≠ .whiteout ∧ live.rstAsserted = false ∧ live.vault.state ≠ .zeroised ∧ (five.take 9).repFailed = true ∧ five.samples ≠ 0 ∧ 5 ≤ five.run ∧
    ((live.vault.tests.take 9).repFailed = false ∧ (live.vault.tests.take 9).propFailed = false ∧ live.vault.tests.samples < 1024) ∧
    ((many.take 8).repFailed = false ∧ (many.take 8).propFailed = false ∧ 1024 ≤ many.samples) ∧
    (z.startup = .run ∧ z.window.latched = true ∧ z.req.op = 0x18 ∧ z.reqRole = some .officer ∧ z.req.payload = [] ∧
      z.advancing = false ∧ z.tickets = []) := by decide +kernel
/-- The test mode serves the window; out of it nothing is served in RESET. -/
theorem witness_ResetHoldsEverythingBack :
    let s := { asked .reset .operator 1 0 0 0 [] with released := true, testMode := true }
    State.reset.startup = .reset ∧ State.reset.rstAsserted = true ∧ s.rstAsserted = false ∧ (State.reset.released && State.reset.testMode) = false ∧ resetRow (.nop 0) = false ∧
    s.startup = .reset ∧ (s.released && s.testMode) = true ∧ windowRow (.nop 0) = false ∧ serviceRow (.nop 0) = none ∧
    s.window.latched = true ∧ serviceRow .read = some s.req.op := by decide +kernel
/-- The states that start-up passes, and reports that pass or fail. -/
theorem witness_StartUpRunsInOrder :
    let e := { State.reset with rstAsserted := false, released := true }
    let t := { live with startup := .selftest, testsDone := false, vault := { live.vault with drbg := some default, enrolled := true } }
    let good : Sys2Proof.TestReport := ⟨[], [], false, 0⟩
    let p := { live with startup := .profile, advancing := true, vault := { live.vault with state := .operational } }
    State.reset.rstAsserted = true ∧ (e.startup = .reset ∧ e.released = true ∧ e.testMode = false ∧ e.zeroisePin = false ∧
      e.tamperPin = false) ∧ ({ e with tamperPin := true }).tamperPin = true ∧
    (t.startup = .selftest ∧ t.testsDone = false ∧ good.failed = false ∧ good.vaultMap &&& 0x7FF = 0 ∧ t.vault.state ≠ .zeroised ∧
      t.vault.drbg ≠ none ∧ (t.takeReport good).activeTiles ≠ []) ∧
    (live.vault.state = .selfTesting ∧ live.vault.drbg = none) ∧ ({ good with failed := true }).failed = true ∧ ({ good with vaultMap := 0x400 }).vaultMap &&& 0x7FF ≠ 0 ∧
    ({ live with startup := .image }).startup = .image ∧
    (p.startup = .profile ∧ p.advancing = true ∧ p.vault.state = .operational ∧
      ({ p with tiles := p.tiles.map (fun t => { t with force := t.pinned }) } : State).activeTiles ≠ [] ∧
      ({ p with tiles := p.tiles.map (fun t => { t with pinned := 0xC000, force := 0xC000 }) } : State).activeTiles = []) := by decide +kernel
theorem witness_InstrumentsReadFreeValues :
    ({ State.reset with released := true, testMode := true }).testMode = true ∧ live.startup ≠ .reset := by decide
/-! ### Members of a group, and members alone -/

/-- A member with a child on port 0, whose link is up, that holds one ticket. -/
def grouped (t : Ticket) : State :=
  ({ withTicket t with settings := { live.settings with depth := 1, childPorts := 1 } }).modPort 0 (fun p => { p with state := .up })
/-- A member in a group of two whose only figure is the ticket's. -/
theorem quiet_of {t : Ticket} (h : t.seq = 0) : Quiet (grouped t) 0 :=
  ⟨(by decide : (1 : BitVec 8) ≠ 0), (by decide +kernel : (grouped default).childPorts ≠ []), by
    intro p hp
    have hp' : p ∈ (grouped default).childPorts := hp
    have hall : ∀ p : Fin 4, p ∈ (grouped default).childPorts → ((grouped default).port p).state = .up := by decide +kernel
    exact hall p hp', by
    intro p
    have hall : ∀ p : Fin 4, ((grouped default).port p).rxq = [] := by decide +kernel
    exact hall p, by
    intro x hx
    have : x ∈ [t] := hx
    rw [List.mem_singleton] at this
    exact .inl (this ▸ h)⟩
/-- A GRAD of one token with hidden size 1 and no columns. -/
def gradTicket : Ticket :=
  { held Op.grad.code with
    blocks := overwrite (overwrite (List.replicate 512 0) 4 [1]) 0x7C [1], rows := [default] }
theorem witness_RowsAwaitTheirChildren (o : Op) :
    (Quiet (grouped (held o.code)) 0 ∧ Ready (grouped (held o.code)) 0 o (held o.code) fig) ∧ (held o.code).smooths = false ∧
    (grouped gradTicket).swapFault fig = none ∧
    (Quiet (grouped gradTicket) 0 ∧ Ready (grouped gradTicket) 0 .grad gradTicket fig ∧ (grouped gradTicket).gradFits gradTicket fig ∧
      0 < gradTicket.tokens ∧ 0 < gradTicket.desc.h) := by
  refine ⟨⟨quiet_of rfl, ?_⟩, ?_, rfl, quiet_of rfl, ?_, ⟨?_, ?_, ?_⟩, ?_, ?_⟩
  · cases o <;> exact ⟨by decide, rfl, rfl, rfl, rfl, by decide +kernel⟩
  · cases o <;> decide +kernel
  · exact ⟨by decide, rfl, rfl, rfl, rfl, by decide +kernel⟩
  · exact .inr (by decide +kernel)
  all_goals decide +kernel
/-- A command of two streams. -/
def twoStreams (o : Nat) : Ticket := { held o with blocks := overwrite (List.replicate 512 0) 0x98 [2] }
theorem witness_LoneMembersFinish (o : Op) :
    let t := twoStreams o.code
    Lone (withTicket t) t ∧ Ready (withTicket t) 0 o t fig ∧ t.streams = 2 ∧
    (∀ i ∈ upto t.streams, oneRound ((withTicket t).ctx (t.rowCtx i)).params = true) ∧
    oneRound ((withTicket t).ctx (t.stream 0).ctx).params = true ∧ t.smooths = false ∧
    t.noOther ((withTicket t).ctx (t.stream 0).ctx).params = true ∧ (withTicket t).swapFault fig = none := by
  refine ⟨⟨rfl, ?_, ?_⟩, ?_, ?_, ?_, ?_, ?_, ?_, rfl⟩
  · intro p
    have hall : ∀ p : Fin 4, ((withTicket default).port p).rxq = [] := by decide +kernel
    exact hall p
  · intro x hx; exact .inl (List.mem_singleton.1 hx)
  · cases o <;> exact ⟨by decide, rfl, rfl, rfl, rfl, by decide +kernel⟩
  all_goals cases o <;> decide +kernel

end Sys2Proof.Tests
end

section
/-! The frame of every command: the row lemmas of `Laws/KeepsRows` brought together over the instruction type. -/
namespace Sys2Proof.Machine

/-- What a row's lemma names lies among what `touches` lists for it; the lists are closed, so the check computes. -/
theorem KeepsOut.within {w v : List Fld} {s : State} {o : Out} (k : KeepsOut w s o)
    (hw : w.all (· ∈ v) = true := by rfl) : KeepsOut v s o :=
  KeepsOut.after (Keeps.refl v s) k (fun f hf => of_decide_eq_true (List.all_eq_true.mp hw f hf))

/-- A command keeps every field that `touches` does not list for it. -/
theorem exec_keeps_touches : ∀ (i : Instr) (s : State), KeepsOut (touches i) s (exec i s)
  | .nop ticket, s => (execNop_keeps ticket s).within
  | .step ticket, s => (execStep_keeps ticket s).within
  | .score ticket, s => (execScore_keeps ticket s).within
  | .settle ticket, s => (execSettle_keeps ticket s).within
  | .verify ticket, s => (execVerify_keeps ticket s).within
  | .beam ticket, s => (execBeam_keeps ticket s).within
  | .loss ticket, s => (execLoss_keeps ticket s).within
  | .grad ticket, s => (execGrad_keeps ticket s).within
  | .reduce ticket, s => (execReduce_keeps ticket s).within
  | .func ticket, s => (execFunc_keeps ticket s).within
  | .fill ticket, s => (execFill_keeps ticket s).within
  | .loadw ticket, s => (execLoadw_keeps ticket s).within
  | .evictw ticket, s => (execEvictw_keeps ticket s).within
  | .save ticket, s => (execSave_keeps ticket s).within
  | .restore ticket, s => (execRestore_keeps ticket s).within
  | .waitcount ticket, s => (execWaitcount_keeps ticket s).within
  | .fence ticket, s => (execFence_keeps ticket s).within
  | .digest ticket, s => (execDigest_keeps ticket s).within
  | .dict ticket, s => (execDict_keeps ticket s).within
  | .halt ticket, s => (execHalt_keeps ticket s).within
  | .doorbell beat parityOk, s => (execDoorbell_keeps beat parityOk s).within
  | .commandCompletion ticket, s => (execCommandCompletion_keeps ticket s).within
  | .checkpointSigned, s => (execCheckpointSigned_keeps s).within
  | .pavaneCountLoad pav, s => (execPavaneCountLoad_keeps pav s).within
  | .pavaneAdvance pav, s => (execPavaneAdvance_keeps pav s).within
  | .pavaneSlip pav, s => (execPavaneSlip_keeps pav s).within
  | .dictionaryAccessRelease, s => (execDictionaryAccessRelease_keeps s).within
  | .frameBoundaryPreemption, s => (execFrameBoundaryPreemption_keeps s).within
  | .suspendedFigureResume, s => (execSuspendedFigureResume_keeps s).within
  | .cellResidueError tile row col use, s => (execCellResidueError_keeps tile row col use s).within
  | .registerParityError tile row col use, s => (execRegisterParityError_keeps tile row col use s).within
  | .accumulatorResidueError bank use, s => (execAccumulatorResidueError_keeps bank use s).within
  | .accumulatorUncorrectable bank use, s => (execAccumulatorUncorrectable_keeps bank use s).within
  | .laneMismatch slice unit use ticket, s => (execLaneMismatch_keeps slice unit use ticket s).within
  | .moraineMismatch ticket, s => (execMoraineMismatch_keeps ticket s).within
  | .flurryMismatch unit ticket, s => (execFlurryMismatch_keeps unit ticket s).within
  | .sleetParityError slice, s => (execSleetParityError_keeps slice s).within
  | .firnUncorrectableWeight region set bank ticket, s => (execFirnUncorrectableWeight_keeps region set bank ticket s).within
  | .firnUncorrectableWorkArea region bank ticket, s => (execFirnUncorrectableWorkArea_keeps region bank ticket s).within
  | .tableMemoryError slice mem ticket, s => (execTableMemoryError_keeps slice mem ticket s).within
  | .tableReloadDone slice verified, s => (execTableReloadDone_keeps slice verified s).within
  | .contextMemoryError ctx ticket, s => (execContextMemoryError_keeps ctx ticket s).within
  | .crossingDatumLate ticket, s => (execCrossingDatumLate_keeps ticket s).within
  | .streamedSetCheck ticket set, s => (execStreamedSetCheck_keeps ticket set s).within
  | .retryEnd stillFails, s => (execRetryEnd_keeps stillFails s).within
  | .scrubRead found, s => (execScrubRead_keeps found s).within
  | .backgroundRereadDone region set stillFails, s => (execBackgroundRereadDone_keeps region set stillFails s).within
  | .hiddenRow beats parityOk, s => (execHiddenRow_keeps beats parityOk s).within
  | .readResponse chan tag data parityOk, s => (execReadResponse_keeps chan tag data parityOk s).within
  | .writeAcknowledgement chan tag parityOk, s => (execWriteAcknowledgement_keeps chan tag parityOk s).within
  | .writeAckTimeout chan tag, s => (execWriteAckTimeout_keeps chan tag s).within
  | .hello f, s => (execHello_keeps f s).within
  | .idle f, s => (execIdle_keeps f s).within
  | .nak f, s => (execNak_keeps f s).within
  | .exchange f, s => (execExchange_keeps f s).within
  | .check f, s => (execCheck_keeps f s).within
  | .abort f, s => (execAbort_keeps f s).within
  | .helloTimer port, s => (execHelloTimer_keeps port s).within
  | .idleTimer port, s => (execIdleTimer_keeps port s).within
  | .linkReceiveTimeout port, s => (execLinkReceiveTimeout_keeps port s).within
  | .peerDeadline ticket, s => (execPeerDeadline_keeps ticket s).within
  | .stallLimit ticket, s => (execStallLimit_keeps ticket s).within
  | .checkDeadline ticket, s => (execCheckDeadline_keeps ticket s).within
  | .mgtSend length parityOk, s => (execMgtSend_keeps length parityOk s).within
  | .mgtRelease parityOk, s => (execMgtRelease_keeps parityOk s).within
  | .mgtClearOverrun parityOk, s => (execMgtClearOverrun_keeps parityOk s).within
  | .mgtData3Access write parityOk, s => (execMgtData3Access_keeps write parityOk s).within
  | .mgtRegisterWrite offset value parityOk, s => (execMgtRegisterWrite_keeps offset value parityOk s).within
  | .read, s => (execRead_keeps s).within
  | .write, s => (execWrite_keeps s).within
  | .describe, s => (execDescribe_keeps s).within
  | .downloadBegin, s => (execDownloadBegin_keeps s).within
  | .downloadData, s => (execDownloadData_keeps s).within
  | .downloadEnd, s => (execDownloadEnd_keeps s).within
  | .openChallenge, s => (execOpenChallenge_keeps s).within
  | .openProve, s => (execOpenProve_keeps s).within
  | .close, s => (execClose_keeps s).within
  | .enrol, s => (execEnrol_keeps s).within
  | .seedImport, s => (execSeedImport_keeps s).within
  | .seedKeyDeferredWrite part, s => (execSeedKeyDeferredWrite_keeps part s).within
  | .auditKey, s => (execAuditKey_keeps s).within
  | .verifyKey, s => (execVerifyKey_keeps s).within
  | .zeroise, s => (execZeroise_keeps s).within
  | .selftest failed, s => (execSelftest_keeps failed s).within
  | .sessionIdleTimeout session, s => (execSessionIdleTimeout_keeps session s).within
  | .pendingSessionTimeout session, s => (execPendingSessionTimeout_keeps session s).within
  | .entropySample sample parityOk, s => (execEntropySample_keeps sample parityOk s).within
  | .zeroiseInput, s => (execZeroiseInput_keeps s).within
  | .tamperInput cycles, s => (execTamperInput_keeps cycles s).within
  | .rstNAssert, s => (execRstNAssert_keeps s).within
  | .resetRelease testMode zeroisePin tamperPin, s => (execResetRelease_keeps testMode zeroisePin tamperPin s).within
  | .selftestEntry, s => (execSelftestEntry_keeps s).within
  | .selftestComplete report, s => (execSelftestComplete_keeps report s).within
  | .mgtAdvance, s => (execMgtAdvance_keeps s).within
  | .readyEntry, s => (execReadyEntry_keeps s).within
  | .testWrapperAccess instrument, s => (execTestWrapperAccess_keeps instrument s).within
  | .reelFrameCrcFailure port arrival, s => (execReelFrameCrcFailure_keeps port arrival s).within
  | .byteParityError path ticket, s => (execByteParityError_keeps path ticket s).within
  | .subChannelCredit sub, s => (execSubChannelCredit_keeps sub s).within

/-- Settles O4: each row's own frame lemma names only fields of `touches`, and a fault has no next state. -/
theorem commandsChangeOnlyTheirFields : Obligations.CommandsChangeOnlyTheirFields :=
  fun i s t hnext => (exec_keeps_touches i s).go t hnext

end Sys2Proof.Machine
end

section
/-! A received Reel frame that R300 lets through: what its acknowledgement, its place in link order and a NAK do (R301, R302,
R304). -/
namespace Sys2Proof.Machine

/-- R300 lets a frame through: the port takes frames, the frame is well formed and of the group, and its link is up. -/
structure Admits (s : State) (f : RxFrame) : Prop where
  live : s.startup = .ready ∨ s.startup = .run
  released : s.rstAsserted = false
  form : frameFormOk f.bytes = true
  tag : f.port ∈ s.treePorts → (Frame.read f.bytes).tag = s.settings.groupTag.toNat
  up : (s.port f.port).state = .up

/-- In READY and RUN the Reel rows run. -/
theorem State.onReel_live {s : State} {g : State → Out} (h : s.startup = .ready ∨ s.startup = .run) :
    s.onReel g = g s := by
  obtain h | h := h <;> simp [State.onReel, State.awake, State.dormant, State.reelLive, h]

theorem State.onPort_released {s : State} {i : InSub} {g : State → Out} (h : s.rstAsserted = false) :
    s.onPort i g = g (s.returnCredit i) := by
  simp [State.onPort, h]

/-- The state in which an admitted frame meets its row: its credit went back, its acknowledgement and credits are taken. -/
def State.acknowledged (s : State) (f : RxFrame) : State :=
  (s.returnCredit (.reelRx f.port)).takeAck f.port (Frame.read f.bytes)

/-- A frame that R300 lets through reaches its own row with its acknowledgement and credits taken. -/
theorem Admits.receive {s : State} {f : RxFrame} (h : Admits s f) {kind : Nat} {k : State → Frame → Out}
    (hkind : (Frame.read f.bytes).kind = kind) (hello : kind ≠ ftHello) :
    s.receive f kind k = k (s.acknowledged f) (Frame.read f.bytes) := by
  have hfree : ((s.returnCredit (.reelRx f.port)).isTree f.port &&
      (Frame.read f.bytes).tag != s.settings.groupTag.toNat) = false := by
    by_cases ht : f.port ∈ s.treePorts
    · simp [h.tag ht]
    · have hside : s.isTree f.port = false := by simpa [State.isTree] using ht
      have hcredit : (s.returnCredit (.reelRx f.port)).isTree f.port = s.isTree f.port := rfl
      simp [hcredit, hside]
  have hup : ((s.returnCredit (.reelRx f.port)).port f.port).state = .up := h.up
  unfold State.receive
  rw [State.onPort_released h.released, State.onReel_live (by simpa using h.live)]
  simp [h.form, hfree, hkind, hello, hup, State.acknowledged]

/-! ### Sending leaves the receive side of the port -/

theorem putFrame_rxSeq (s : State) (p : Fin 4) (f : Frame) : ((s.putFrame p f).port p).rxSeq = (s.port p).rxSeq := by
  unfold State.putFrame
  split
  · rfl
  · have hemit : ∀ (u : State) sub bs, (u.emit sub bs).port p = u.port p := fun u sub bs => by
      unfold State.port; rw [(State.emit_keeps u sub bs).same .ports (by decide)]
    rw [hemit, State.port_modPort]

theorem sendCreditedNow_rxSeq (s : State) (p : Fin 4) (f : Frame) :
    ((s.sendCreditedNow p f).port p).rxSeq = (s.port p).rxSeq := by
  have hbump : ∀ (u : State) c n, (u.bump c n).port p = u.port p := fun _ _ _ => rfl
  unfold State.sendCreditedNow
  rw [putFrame_rxSeq, hbump, State.port_modPort]

theorem flushBacklog_rxSeq (n : Nat) (p : Fin 4) (s : State) :
    ((State.flushBacklog n p s).port p).rxSeq = (s.port p).rxSeq := by
  induction n generalizing s with
  | zero => rfl
  | succ n ih =>
    unfold State.flushBacklog
    split
    · rfl
    · split
      · rfl
      · rw [ih, sendCreditedNow_rxSeq, State.port_modPort]

theorem takeAck_rxSeq (s : State) (p : Fin 4) (f : Frame) : ((s.takeAck p f).port p).rxSeq = (s.port p).rxSeq := by
  unfold State.takeAck
  rw [flushBacklog_rxSeq, State.port_modPort]

theorem takeAck_rxq (s : State) (p : Fin 4) (f : Frame) : ((s.takeAck p f).port p).rxq = (s.port p).rxq := by
  unfold State.takeAck
  rw [flush_rxq, State.port_modPort]

theorem State.acknowledged_keeps (s : State) (f : RxFrame) :
    Keeps [.ins, .ports, .outs, .counters] s (s.acknowledged f) :=
  ((Keeps.refl _ s).then (State.returnCredit_keeps ..)).then (State.takeAck_keeps ..)

theorem acknowledged_rxSeq (s : State) (f : RxFrame) :
    ((s.acknowledged f).port f.port).rxSeq = (s.port f.port).rxSeq := takeAck_rxSeq ..

theorem acknowledged_rxq (s : State) (f : RxFrame) :
    ((s.acknowledged f).port f.port).rxq = (s.port f.port).rxq := takeAck_rxq ..

/-! ### Link order (R301, R304) -/

/-- The frame is next in the port's link order, and the receive queue has room for it (R301, R304). -/
def Port.takes (pt : Port) (f : Frame) : Prop := f.linkSeq = (pt.rxSeq + 1).toNat ∧ pt.rxq.length < 8

theorem acceptFrame_takes {s : State} {p : Fin 4} {f : Frame} (h : (s.port p).takes f) :
    (s.acceptFrame p f).port p =
      { s.port p with rxSeq := (s.port p).rxSeq + 1, rxq := (s.port p).rxq ++ [f] } := by
  obtain ⟨hseq, hroom⟩ := h
  unfold State.acceptFrame
  rw [if_neg (by rw [not_or]; exact ⟨not_not.2 hseq, by omega⟩), State.port_modPort]

theorem acceptFrame_refuses {s : State} {p : Fin 4} {f : Frame} (h : ¬(s.port p).takes f) :
    s.acceptFrame p f = s := by
  refine if_pos ?_
  rw [Port.takes, not_and_or] at h
  exact h.imp_right Nat.le_of_not_lt

/-- A frame in link order joins the receive queue where there is room, and no other frame does. -/
def Queued (s m : State) (p : Fin 4) (f : Frame) : Prop :=
  ((s.port p).takes f →
    (m.port p).rxq = (s.port p).rxq ++ [f] ∧ (m.port p).rxSeq = (s.port p).rxSeq + 1) ∧
  (¬(s.port p).takes f → (m.port p).rxq = (s.port p).rxq ∧ (m.port p).rxSeq = (s.port p).rxSeq)

/-- Once its acknowledgement is taken, a credited frame is queued as the link order says: the acknowledgement touches the
sending side of the port alone. -/
theorem acceptFrame_queued (s : State) (f : RxFrame) (fr : Frame) :
    Queued s ((s.acknowledged f).acceptFrame f.port fr) f.port fr := by
  have hq := acknowledged_rxq s f
  have hs := acknowledged_rxSeq s f
  have hiff : ((s.acknowledged f).port f.port).takes fr ↔ (s.port f.port).takes fr := by
    unfold Port.takes; rw [hq, hs]
  constructor
  · intro h
    rw [acceptFrame_takes (hiff.2 h), ← hq, ← hs]
    exact ⟨rfl, rfl⟩
  · intro h
    rw [acceptFrame_refuses (hiff.not.2 h)]
    exact ⟨hq, hs⟩

/-! ### NAK (R301) -/

/-- A loop each of whose steps adds one to a counter adds its length. -/
theorem counter_foldl {α : Type} {g : State → α → State} {c : Counter}
    (h : ∀ u x, (g u x).counter c = u.counter c + 1) (l : List α) (s : State) :
    (l.foldl g s).counter c = s.counter c + BitVec.ofNat 64 l.length := by
  induction l generalizing s with
  | nil => simp
  | cons x l ih =>
    rw [List.foldl_cons, ih, h, List.length_cons, Nat.add_comm, BitVec.ofNat_add, BitVec.add_assoc]
    rfl

theorem putFrame_counter (s : State) (p : Fin 4) (f : Frame) (c : Counter) : (s.putFrame p f).counter c = s.counter c := by
  unfold State.counter
  rw [(State.putFrame_keeps s p f).same .counters (by decide)]

/-- Each unacknowledged frame is one resend and one retry (R35, R301). -/
theorem resendAll_counters (s : State) (p : Fin 4) :
    (s.resendAll p).counter .resends = s.counter .resends + BitVec.ofNat 64 (s.port p).unacked.length ∧
    (s.resendAll p).counter .retryFrame = s.counter .retryFrame + BitVec.ofNat 64 (s.port p).unacked.length := by
  constructor
  · refine counter_foldl (fun u f => ?_) _ s
    rw [putFrame_counter, State.counter_bump_ne _ _ _ _ (by decide), State.counter_bump]; rfl
  · refine counter_foldl (fun u f => ?_) _ s
    rw [putFrame_counter, State.counter_bump, State.counter_bump_ne _ _ _ _ (by decide)]; rfl

/-! ### The rows -/

section
variable {s : State} {f : RxFrame} (h : Admits s f)
include h

theorem execExchange_of_admits (hkind : (Frame.read f.bytes).kind = 0x10) :
    execExchange f s = .next ((s.acknowledged f).acceptFrame f.port (Frame.read f.bytes)).pump :=
  h.receive hkind (by decide)

theorem execCheck_of_admits (hkind : (Frame.read f.bytes).kind = 0x20) :
    execCheck f s = .next ((s.acknowledged f).acceptFrame f.port (Frame.read f.bytes)).pump :=
  h.receive hkind (by decide)

theorem execIdle_of_admits (hkind : (Frame.read f.bytes).kind = 0x00) : execIdle f s = .next (s.acknowledged f).pump :=
  h.receive hkind (by decide)

theorem execNak_of_admits (hkind : (Frame.read f.bytes).kind = 0x02) :
    execNak f s = .next ((s.acknowledged f).resendAll f.port).pump :=
  h.receive hkind (by decide)
end

/-- Settles O40: R300 lets the frame through, so each row acts on the state whose credit went back and whose acknowledgement
was taken, which leaves the receive side of the port. -/
theorem framesAreTakenInLinkOrder : Obligations.FramesAreTakenInLinkOrder := by
  intro s f live released form tag up
  have ha : Admits s f := ⟨live, released, form, tag, up⟩
  have hkeeps := s.acknowledged_keeps f
  have hqueued := acceptFrame_queued s f (Frame.read f.bytes)
  refine ⟨fun hk => ?_, fun hk => ?_, fun hk => ?_, fun hk => ?_⟩
  · exact ⟨_, execExchange_of_admits ha hk, hqueued, hkeeps.then (State.acceptFrame_keeps ..)⟩
  · exact ⟨_, execCheck_of_admits ha hk, hqueued, hkeeps.then (State.acceptFrame_keeps ..)⟩
  · exact ⟨_, execIdle_of_admits ha hk, acknowledged_rxq s f, hkeeps⟩
  · exact ⟨_, execNak_of_admits ha hk, rfl, hkeeps.then (State.resendAll_keeps ..), resendAll_counters ..⟩

end Sys2Proof.Machine
end

section
/-! The error rows: each runs outside RESET and Whiteout, and hands its error to the handler of its level (R384 to R389). -/
namespace Sys2Proof.Machine

/-- Outside RESET and Whiteout an error row runs. -/
theorem State.onError_runs {s : State} {f : State → Out} (h0 : s.startup ≠ .reset) (h1 : s.startup ≠ .whiteout) :
    s.onError f = f s := by
  simp [State.onError, State.awake, State.dormant, h0, h1]

/-- A launched command is the victim of an error that names it. -/
theorem State.victim_of_launched {s : State} {q : Nat} {x : Ticket × Running} (h : s.launched q = some x) :
    s.victim (some q) = some q := by
  simp [State.victim, h]

/-- A state whose slices differ at one place has every other slice unchanged. -/
theorem State.sliceOf_of_vset {s u : State} {n m : Nat} {c : Slice} (h : u.slices = vset s.slices n c) (hm : m ≠ n) :
    u.sliceOf m = s.sliceOf m := by
  unfold State.sliceOf; rw [h]; simp [vset, Ne.symm hm]

theorem State.sliceOf_congr {s u : State} (h : u.slices = s.slices) (n : Nat) : u.sliceOf n = s.sliceOf n := by
  unfold State.sliceOf; rw [h]

/-! ### Rows that always hand on their error -/

section
variable {s : State} (h0 : s.startup ≠ .reset) (h1 : s.startup ≠ .whiteout) (n k : Nat) (q : Option Nat)
include h0 h1

theorem execLaneMismatch_scoring (w : ArrayWork) :
    execLaneMismatch n (.lane k) (.scoring w) q s = .next ((s.bump .laneMismatches 1).detect (.slice (n % 4))
      ⟨.laneMismatch, .lane k, n % 4, k, s.victim q, 0, 0, true, s.count, w⟩) :=
  State.onError_runs h0 h1

theorem execLaneMismatch_lane :
    execLaneMismatch n (.lane k) .other q s = .next ((s.bump .laneMismatches 1).detect (.slice (n % 4))
      ⟨.laneMismatch, .lane k, n % 4, k, s.victim q, 0, 0, false, s.count, noWork⟩) :=
  State.onError_runs h0 h1

theorem execLaneMismatch_rounding :
    execLaneMismatch n (.rounding k) .other q s = .next ((s.bump .laneMismatches 1).detect (.slice (n % 4))
      ⟨.laneMismatch, .rounding k, k, 0xFF, s.victim q, 0, 0, false, s.count, noWork⟩) :=
  State.onError_runs h0 h1

theorem execMoraineMismatch_runs :
    execMoraineMismatch q s = .next ((s.bump .moraineMismatches 1).detect .block
      ⟨.moraineMismatch, .moraine, 0xFF, 0xFF, s.victim q, 0, 0, false, s.count, noWork⟩) :=
  State.onError_runs h0 h1

theorem execFlurryMismatch_moraine :
    execFlurryMismatch .moraine q s = .next ((s.bump .flurryMismatches 1).detect .block
      ⟨.flurryMismatch, .moraineFlurry, 0xFF, 0xFF, s.victim q, 0, 0, false, s.count, noWork⟩) :=
  State.onError_runs h0 h1

/-- A second mismatch of a slice's Flurry unit in one command escalates (R289). -/
theorem execFlurryMismatch_slice :
    let e : Err := ⟨.flurryMismatch, .flurry, n % 4, 0xFF, s.victim q, 0, 0, false, s.count, noWork⟩
    execFlurryMismatch (.slice n) q s = .next (if s.flurrySecond e
      then (s.bump .flurryMismatches 1).escalate (.slice (n % 4)) e
      else (s.bump .flurryMismatches 1).detect (.slice (n % 4)) e) := by
  intro e
  refine (State.onError_runs h0 h1).trans ?_
  have hsame : (s.bump .flurryMismatches 1).flurrySecond e = s.flurrySecond e := rfl
  by_cases h2 : s.flurrySecond e = true
  · exact (if_pos (hsame.trans h2)).trans (by rw [if_pos h2])
  · exact (if_neg (hsame ▸ h2)).trans (by rw [if_neg h2])

theorem execTableMemoryError_runs (m : TableMem) :
    execTableMemoryError n m q s = .next ((s.modSlice (n % 4) (fun c => { c with tableGood := false })).detect .block
      ⟨.tableWord, .table (n % 4), n % 4, 0xFF, s.victim q, 0, 0, false, s.count, noWork⟩) :=
  State.onError_runs h0 h1

theorem execContextMemoryError_runs :
    execContextMemoryError n q s = .next (s.detect .block
      ⟨.contextWord, .context (n % 256), n % 256, 0xFF, s.victim q, 0, 0, false, s.count, noWork⟩) :=
  State.onError_runs h0 h1
end

/-! ### Sleet (R290) -/

/-- The error of a slice's Sleet generator. -/
def sleetErr (s : State) (n : Nat) : Err := ⟨.sleetParity, .sleet, n, 0xFF, none, 0, 0, false, s.count, noWork⟩

theorem execSleetParityError_running {s : State} {n : Nat} (h0 : s.startup ≠ .reset) (h1 : s.startup ≠ .whiteout)
    (hrun : s.sleetRunning = true) (hn : n < s.grade.slices) :
    execSleetParityError n s =
      .next (((s.bump .sleetParity 1).reseedSlice n).logErr (.slice n) (sleetErr s n) .reloaded) :=
  (State.onError_runs h0 h1).trans (if_neg (by simp [hrun, hn]))

theorem execSleetParityError_idle {s : State} {n : Nat} (h0 : s.startup ≠ .reset) (h1 : s.startup ≠ .whiteout)
    (h : s.sleetRunning = false ∨ s.grade.slices ≤ n) : execSleetParityError n s = .next s :=
  (State.onError_runs h0 h1).trans (if_pos (by simpa using h))

/-- A re-seeding is counted, and no other slice's generator changes (R285, R290). -/
theorem State.reseedSlice_seedings (s : State) (n : Nat) : (s.reseedSlice n).seedings = s.seedings + 1 :=
  congrArg (· + 1) ((State.vaultDraw_keeps s 16).same .seedings (by decide))

theorem State.reseedSlice_sliceOf_ne (s : State) (n m : Nat) (h : m ≠ n) :
    (s.reseedSlice n).sliceOf m = s.sliceOf m := by
  have hdraw := (State.vaultDraw_keeps s 16).same .slices (by decide)
  unfold State.reseedSlice
  generalize s.vaultDraw 16 = d at hdraw ⊢
  obtain ⟨key, u⟩ := d
  exact (State.sliceOf_of_vset rfl h).trans (State.sliceOf_congr hdraw m)

/-- A Sleet parity error re-seeds its slice at once, is counted and logged, and touches no other slice. -/
theorem sleetParityError_reseeds (s : State) (n : Nat) (e : Err) :
    let u := ((s.bump .sleetParity 1).reseedSlice n).logErr (.slice n) e .reloaded
    u.counter .sleetParity = s.counter .sleetParity + 1 ∧ u.seedings = s.seedings + 1 ∧
      u.logWritten = s.logWritten + 1 ∧ (∀ m : Nat, m ≠ n → u.sliceOf m = s.sliceOf m) ∧
      Keeps [.counters, .slices, .seedings, .vault, .log, .logWritten] s u := by
  have hbump := State.bump_keeps s .sleetParity 1
  have hcount := State.counter_bump s .sleetParity 1
  generalize s.bump .sleetParity 1 = v at hbump hcount ⊢
  have hreseed := State.reseedSlice_keeps v n
  have hseedings := State.reseedSlice_seedings v n
  have hslices := fun m h => State.reseedSlice_sliceOf_ne v n m h
  generalize v.reseedSlice n = w at hreseed hseedings hslices ⊢
  have hlog := State.logErr_keeps w (.slice n) e .reloaded
  refine ⟨?_, ?_, ?_, fun m hm => ?_, ((((Keeps.refl _ s).then hbump).then hreseed).then hlog)⟩
  · unfold State.counter at hcount ⊢
    rw [hlog.same .counters (by decide), hreseed.same .counters (by decide), hcount]; rfl
  · exact ((hlog.same .seedings (by decide)).trans hseedings).trans
      (congrArg (· + 1) (hbump.same .seedings (by decide)))
  · exact congrArg (· + 1) ((hreseed.same .logWritten (by decide)).trans (hbump.same .logWritten (by decide)))
  · calc (w.logErr (.slice n) e .reloaded).sliceOf m
      _ = w.sliceOf m := State.sliceOf_congr (hlog.same .slices (by decide)) m
      _ = v.sliceOf m := hslices m hm
      _ = s.sliceOf m := State.sliceOf_congr (hbump.same .slices (by decide)) m

/-! ### Errors that rest on a condition: Firn, a late crossing, a swap into a stale set -/

theorem execFirnUncorrectableWeight_held {s : State} {n set : Nat} (k : Nat) (q : Option Nat) (h0 : s.startup ≠ .reset)
    (h1 : s.startup ≠ .whiteout) (hheld : s.holdsShard n = true) (hset : set < (s.regionDesc n).sets) :
    execFirnUncorrectableWeight n set k q s = .next ((s.bump .firnWeight 1).detect .block
      ⟨.firnWeight, .bank (k % 256), k % 256 / 8, n, s.victim q, n, set, false, s.count, noWork⟩) :=
  (State.onError_runs h0 h1).trans (if_neg (by simp [hheld, hset]))

theorem execFirnUncorrectableWeight_none {s : State} {n set : Nat} (k : Nat) (q : Option Nat) (h0 : s.startup ≠ .reset)
    (h1 : s.startup ≠ .whiteout) (h : s.holdsShard n = false ∨ (s.regionDesc n).sets ≤ set) :
    execFirnUncorrectableWeight n set k q s = .next s :=
  (State.onError_runs h0 h1).trans (if_pos (by simpa using h))

theorem execFirnUncorrectableWorkArea_eq {s : State} (n k : Nat) (q : Option Nat) (h0 : s.startup ≠ .reset)
    (h1 : s.startup ≠ .whiteout) :
    execFirnUncorrectableWorkArea n k q s = .next (if (s.region n).work = true then
      (s.bump .firnWork 1).detect .block
        ⟨.firnWork, .bank (k % 256), k % 256 / 8, n, s.victim q, 0, 0, false, s.count, noWork⟩ else s) := by
  refine (State.onError_runs h0 h1).trans ?_
  cases (s.region n).work with
  | true => rfl
  | false => rfl

/-- The error of a datum or a swap that comes late for a launched command (R20, R104). -/
def lateErr (s : State) (n : Nat) : Err := ⟨.scheduleFault, .crossing, 0xFF, 0xFF, some n, 0, 0, false, s.count, noWork⟩

theorem execCrossingDatumLate_launched {s : State} {n : Nat} {x : Ticket × Running} (h0 : s.startup ≠ .reset)
    (h1 : s.startup ≠ .whiteout) (h : s.launched n = some x) :
    execCrossingDatumLate n s = .next ((s.bump .scheduleFaults 1).detect .block (lateErr s n)) := by
  refine (State.onError_runs h0 h1).trans ?_
  have hvictim : (s.bump .scheduleFaults 1).victim (some n) = some n := State.victim_of_launched h
  simp only [h, State.hit, hvictim]
  rfl

theorem execCrossingDatumLate_missing {s : State} {n : Nat} (h0 : s.startup ≠ .reset)
    (h1 : s.startup ≠ .whiteout) (h : s.launched n = none) : execCrossingDatumLate n s = .fault .noSuchTicket := by
  refine (State.onError_runs h0 h1).trans ?_
  simp only [h]

/-- A launched figure's swap into a stale set marks the tile's shadow set, and is a schedule fault of its command. -/
theorem State.endStale_launched {s : State} {t : Ticket} {x : Ticket × Running} (tile : Nat)
    (h : s.launched t.seq = some x) :
    s.endStale t tile =
      ((s.modTile tile (fun x => { x with shadow := { x.shadow with stale := true } })).bump .scheduleFaults 1).detect
        .block (lateErr s t.seq) := by
  have hvictim : ((s.modTile tile (fun x => { x with shadow := { x.shadow with stale := true } })).bump
      .scheduleFaults 1).victim (some t.seq) = some t.seq := State.victim_of_launched h
  unfold State.endStale State.hit
  rw [hvictim]
  rfl

/-- The row of a command that scores does its work where no swap of its figure is into a stale set (R104). -/
theorem scoringRow_unlessStale {i : Instr} {o : Op} {n : Nat} {s : State} {t : Ticket} {r : Running}
    (hrow : opRow i = some (o, n)) (hr : Ready s n o t r)
    (ho : o ∈ [Op.step, .score, .settle, .verify, .beam, .loss, .grad]) :
    ∃ done : State, exec i s = .next (s.unlessStale t r done) := by
  cases i with
  | step q => cases hrow; exact ⟨_, State.engine_ready hr⟩
  | score q => cases hrow; exact ⟨_, State.engine_ready hr⟩
  | settle q => cases hrow; exact ⟨_, State.engine_ready hr⟩
  | verify q => cases hrow; exact ⟨_, State.engine_ready hr⟩
  | beam q => cases hrow; exact ⟨_, State.engine_ready hr⟩
  | loss q => cases hrow; exact ⟨_, State.engine_ready hr⟩
  | grad q => cases hrow; exact ⟨_, State.engine_ready hr⟩
  | nop _ | reduce _ | func _ | fill _ | loadw _ | evictw _ | save _ | restore _ | waitcount _ | fence _ | digest _
  | dict _ | halt _ => cases hrow; exact absurd ho (by decide)
  | _ => cases hrow

/-- Settles O34: outside RESET and Whiteout each row is its work, which hands the error it names to its level's handler. -/
theorem unitErrorsGoToTheirHandler : Obligations.UnitErrorsGoToTheirHandler := by
  intro s n k q h0 h1
  refine ⟨execLaneMismatch_scoring h0 h1 n k q, execLaneMismatch_lane h0 h1 n k q, execLaneMismatch_rounding h0 h1 n k q,
    execMoraineMismatch_runs h0 h1 q, execFlurryMismatch_moraine h0 h1 q, execFlurryMismatch_slice h0 h1 n q,
    fun hs hn => ⟨_, execSleetParityError_running h0 h1 hs hn, sleetParityError_reseeds s n _⟩,
    execSleetParityError_idle h0 h1,
    fun set => ⟨execFirnUncorrectableWeight_held k q h0 h1, execFirnUncorrectableWeight_none k q h0 h1⟩,
    execFirnUncorrectableWorkArea_eq n k q h0 h1, execTableMemoryError_runs h0 h1 n q,
    execContextMemoryError_runs h0 h1 n q, fun x => execCrossingDatumLate_launched h0 h1,
    execCrossingDatumLate_missing h0 h1, ?_⟩
  intro i o t r hrow hr ho
  obtain ⟨done, hexec⟩ := scoringRow_unlessStale hrow hr ho
  obtain ⟨rfl, -, -, -⟩ := seqOf hr.launched
  refine ⟨_, hexec, fun tile htile => ?_⟩
  rw [State.unlessStale, htile]
  exact State.endStale_launched tile hr.launched

end Sys2Proof.Machine
end

section
/-! The end of a table reload, the check of a streamed set, and byte parity (R143 to R145, R384, R388). -/
namespace Sys2Proof.Machine

/-! ### What the events share -/

theorem State.logError_logWritten (s : State) (l : Level) (k : ErrKind) (unit detail : Nat) (a : ErrAction)
    (q : Option Nat) : (s.logError l k unit detail a q).logWritten = s.logWritten + 1 := rfl

/-- The block enters Whiteout under the cause given, where it is not there yet (R390, R391). -/
theorem State.enterWhiteout_enters {s : State} (h : s.startup ≠ .whiteout) (cause : Nat) :
    (s.enterWhiteout cause).startup = .whiteout ∧ (s.enterWhiteout cause).whiteoutCause = BitVec.ofNat 8 cause := by
  unfold State.enterWhiteout
  rw [if_neg (by simpa using h)]
  exact ⟨(State.respondDeferred_keeps ..).same .startup (by decide),
    (State.respondDeferred_keeps ..).same .whiteoutCause (by decide)⟩

/-- The block's handler with nothing queued is idle once its error is done (R385). -/
theorem State.release_block_alone {s : State} (h : s.block.queue = []) :
    s.release .block = { s with block := Handler.idle } := by
  unfold State.release State.setHandler State.handler
  simp only [h]
  rfl

/-- A ticket that has ended is launched no more. -/
theorem State.launched_none_of_ended {s : State} {q : Nat} {t : Ticket} {x : Status × Nat × Nat} (h : s.ticket q = some t)
    (he : t.ended = some x) : s.launched q = none := by
  unfold State.launched
  rw [h]
  cases hr : t.run with
  | none => simp [hr]
  | some r => simp [hr, he]

theorem State.ticket_of_launched {s : State} {q : Nat} {t : Ticket} {r : Running} (h : s.launched q = some (t, r)) :
    s.ticket q = some t := by
  unfold State.launched at h
  split at h
  · rename_i x hx
    split at h
    · cases h; exact hx
    · cases h
  · cases h

theorem State.ticket_congr {s u : State} (h : u.tickets = s.tickets) (q : Nat) : u.ticket q = s.ticket q := by
  unfold State.ticket; rw [h]

theorem State.ticket_modTicket_some {s : State} {q : Nat} {t : Ticket} {f : Ticket → Ticket} (h : s.ticket q = some t)
    (hf : ∀ t, (f t).seq = t.seq) : (s.modTicket q f).ticket q = some (f t) := by
  rw [State.ticket_modTicket s q f hf, h]; rfl

/-- A launched command that is ended holds its status and its offset in ticks from its launch (R321). -/
theorem State.endLaunch_ends {s : State} {q : Nat} {t : Ticket} {r : Running} (h : s.launched q = some (t, r))
    (st : Status) :
    ∃ t' : Ticket, (s.endLaunch q st).ticket q = some t' ∧ t'.ended = some (st, 0, s.tick - r.launchTick) := by
  unfold State.endLaunch
  rw [h]
  dsimp only
  generalize hs1 : (if s.groupOpen t then s.sendAbort t st else s) = s1
  have hsent : s1.tickets = s.tickets := by
    subst hs1
    split
    · exact (State.sendAbort_keeps ..).same .tickets (by decide)
    · rfl
  have htickets : ((s1.openWritten q st.noResult).loadFails q).tickets = s.tickets :=
    (((State.loadFails_keeps ..).same .tickets (by decide)).trans
      ((State.openWritten_keeps ..).same .tickets (by decide))).trans hsent
  exact ⟨_, State.ticket_modTicket_some ((State.ticket_congr htickets q).trans (State.ticket_of_launched h))
    (fun _ => rfl), rfl⟩

/-! ### TABLE_RELOAD_DONE (R388) -/

/-- The state after a reload that verifies, before the handler takes its next error. -/
def State.tableVerified (s : State) (n : Nat) : State :=
  { (s.modSlice n (fun c => { c with tableGood := true })).bump .tableReloads 1 with tableReloaded := true }.logError
    .block .tableWord n 0xFF .reloaded none

theorem State.tableVerified_keeps (s : State) (n : Nat) :
    Keeps [.slices, .tableReloaded, .counters, .log, .logWritten] s (s.tableVerified n) :=
  ((((Keeps.refl _ s).then (State.modSlice_keeps ..)).then (State.bump_keeps ..)).set_tableReloaded).then
    (State.logError_keeps ..)

/-- A rewritten copy is one of the four slices'. -/
theorem State.rewrites_lt {s : State} {n : Nat} (h : s.rewrites n = true) : n < 4 := by
  simp only [State.rewrites, Bool.and_eq_true, decide_eq_true_eq] at h
  obtain ⟨⟨hn, -⟩, -⟩ := h
  exact hn

/-- A reload that verifies makes the copy good, is counted and logged, and leaves a handler with nothing queued idle. -/
theorem tableVerified_reloads {s : State} {n : Nat} (hn : n < 4) (hq : s.block.queue = []) :
    let u := (s.tableVerified n).release .block
    (u.sliceOf n).tableGood = true ∧ u.tableReloaded = true ∧ u.block = Handler.idle ∧
      u.counter .tableReloads = s.counter .tableReloads + 1 ∧ u.logWritten = s.logWritten + 1 ∧
      Keeps [.slices, .tableReloaded, .counters, .log, .logWritten, .block] s u := by
  intro u
  have hu : u = { s.tableVerified n with block := Handler.idle } := State.release_block_alone hq
  rw [hu]
  refine ⟨?_, rfl, rfl, ?_, rfl, ((s.tableVerified_keeps n).mono (by decide)).set_block⟩
  · exact congrArg Slice.tableGood (State.sliceOf_modSlice s n (fun c => { c with tableGood := true }) hn)
  · exact State.counter_bump (s.modSlice n (fun c => { c with tableGood := true })) .tableReloads 1

section
variable {s : State} (h0 : s.startup ≠ .reset) (h1 : s.startup ≠ .whiteout)
include h0 h1

theorem execTableReloadDone_idle {n : Nat} (h : s.rewrites n = false) (ok : Bool) :
    execTableReloadDone n ok s = .next s :=
  (State.onError_runs h0 h1).trans (if_pos (by simp [h]))

theorem execTableReloadDone_failed {n : Nat} (h : s.rewrites n = true) :
    execTableReloadDone n false s =
      .next ((s.logError .block .tableWord n 0xFF .whiteout none).enterWhiteout 5) :=
  (State.onError_runs h0 h1).trans (if_neg (by simp [h]))

theorem execTableReloadDone_verified {n : Nat} (h : s.rewrites n = true) :
    execTableReloadDone n true s = .next ((s.tableVerified n).release .block) :=
  (State.onError_runs h0 h1).trans (if_neg (by simp [h]))

end

/-! ### STREAMED_SET_CHECK (R143, R144) -/

/-- The figure streams the set, and has not judged it good yet. -/
def Running.streams (r : Running) (t : Ticket) (set : Nat) : Prop :=
  r.streamed = true ∧ t.op ≠ .loadw ∧ ¬(t.op = .settle ∧ r.pass = .idle) ∧ set < t.desc.sets ∧ set ∉ r.setsOk

/-- The check's guard, which passes over what the figure does not stream. -/
theorem Running.streams_iff (r : Running) (t : Ticket) (set : Nat) :
    (!r.streamed || t.op == .loadw || (t.op == .settle && r.pass == .idle) || decide (set ≥ t.desc.sets) ||
      r.setsOk.contains set) = false ↔ r.streams t set := by
  simp [Running.streams, and_assoc]

section
variable {s : State} (h0 : s.startup ≠ .reset) (h1 : s.startup ≠ .whiteout)
include h0 h1

section
variable {q set : Nat} {t : Ticket} {r : Running} (hl : s.launched q = some (t, r))
include hl

theorem execStreamedSetCheck_other (h : ¬r.streams t set) : execStreamedSetCheck q set s = .next s := by
  refine (State.onError_runs h0 h1).trans ?_
  simp only [hl]
  exact if_pos (Bool.of_not_eq_false (mt (r.streams_iff t set).1 h))

theorem execStreamedSetCheck_late (h : r.streams t set) (hm : s.rereading (.set q set) = true) :
    execStreamedSetCheck q set s = .next (s.modRun q (fun r => { r with lateSet := some set })) := by
  refine (State.onError_runs h0 h1).trans ?_
  simp only [hl]
  exact (if_neg (by rw [(r.streams_iff t set).2 h]; decide)).trans (if_pos hm)

theorem execStreamedSetCheck_judged (h : r.streams t set) (hm : s.rereading (.set q set) = false) :
    execStreamedSetCheck q set s = .next (s.judgeSet t r set (s.setVerdict t r set t.egBound)) := by
  refine (State.onError_runs h0 h1).trans ?_
  simp only [hl]
  exact (if_neg (by rw [(r.streams_iff t set).2 h]; decide)).trans (if_neg (by simp [hm]))
end

theorem execStreamedSetCheck_missing {q : Nat} (set : Nat) (h : s.launched q = none) :
    execStreamedSetCheck q set s = .fault .noSuchTicket := by
  refine (State.onError_runs h0 h1).trans ?_
  simp only [h]

/-! ### BYTE_PARITY_ERROR (R110, R145; logs 36 and 78) -/

/-- A parity error in staging or on the load path is one of a set's bytes. -/
def OfSet (path : ParityPath) (n : Nat) : Prop := path = .staging n ∨ path = .loadPath n

theorem execByteParityError_other (p : Option Nat) :
    execByteParityError .other p s = .next ((s.bump .byteParity 1).parityEnds (s.victim p)) :=
  State.onError_runs h0 h1

theorem execByteParityError_launched {q n : Nat} {x : Ticket × Running} {path : ParityPath} (hpath : OfSet path n)
    (hl : s.launched q = some x) :
    execByteParityError path (some q) s = .next (((s.bump .byteParity 1).modRun q (fun r =>
      { r with setsOk := r.setsOk.filter (fun m => m != n) })).badSet x.1 x.2 n .byteParity) := by
  refine (State.onError_runs h0 h1).trans ?_
  obtain ⟨t, r⟩ := x
  obtain ⟨hseq, -, -, -⟩ := seqOf hl
  have hbump : (s.bump .byteParity 1).launched q = some (t, r) := hl
  obtain rfl | rfl := hpath <;>
    simp only [State.victim_of_launched hl, Option.bind_some, hbump, hseq]

theorem execByteParityError_noVictim {n : Nat} {p : Option Nat} {path : ParityPath} (hpath : OfSet path n)
    (hv : s.victim p = none) :
    execByteParityError path p s = .next ((s.bump .byteParity 1).spoilReread n) := by
  refine (State.onError_runs h0 h1).trans ?_
  obtain rfl | rfl := hpath <;> simp only [hv, Option.bind_none]

theorem execByteParityError_split (n row : Nat) (w : ArrayWork) (p : Option Nat) :
    execByteParityError (.splitBuffer n row w) p s = .next ((s.bump .byteParity 1).splitBad n row w p) :=
  State.onError_runs h0 h1
end

/-- With no reread under way a parity error that names no running command is only logged. -/
theorem State.spoilReread_none {s : State} (hr : s.retries = []) (hb : s.background = []) (n : Nat) :
    s.spoilReread n = s.logError .block .byteParity 0xFF 0xFF .retried none := by
  unfold State.spoilReread
  simp [hr, hb]

/-- An error of an active tile's split buffer loses its entries, and is detected at the tile (R110). -/
theorem State.splitBad_active {s : State} {n : Nat} (h : s.tileActive n = true) (row : Nat) (w : ArrayWork)
    (p : Option Nat) :
    s.splitBad n row w p = (s.modTile n (fun t => { t with split := t.split.spoil })).detect (.tile n)
      ⟨.byteParity, .cell row 32, n, row, s.victim p, 0, 0, false, s.count, w⟩ := if_pos h

theorem State.splitBad_inactive {s : State} {n : Nat} (h : s.tileActive n = false) (row : Nat) (w : ArrayWork)
    (p : Option Nat) : s.splitBad n row w p = s := if_neg (by simp [h])

/-- Another parity error that names a running command ends it (log 36). -/
theorem State.parityEnds_launched {s : State} {q : Nat} {x : Ticket × Running} (h : s.launched q = some x) :
    (s.parityEnds (some q)).launched q = none ∧
      ∃ t : Ticket, (s.parityEnds (some q)).ticket q = some t ∧
        t.ended = some (.unrecovered, 0, s.tick - x.2.launchTick) := by
  obtain ⟨t', ht, he⟩ := State.endLaunch_ends (s := s.logError .block .byteParity 0xFF 0xFF .ended (some q)) h .unrecovered
  exact ⟨State.launched_none_of_ended ht he, t', ht, he⟩

/-- A parity error with no command to end is counted and logged, and nothing else. -/
theorem parityLogged (s : State) (a : ErrAction) :
    let u := (s.bump .byteParity 1).logError .block .byteParity 0xFF 0xFF a none
    u.counter .byteParity = s.counter .byteParity + 1 ∧ u.logWritten = s.logWritten + 1 ∧
      Keeps [.counters, .log, .logWritten] s u := by
  refine ⟨?_, State.logError_logWritten .., ((Keeps.refl _ s).then (State.bump_keeps ..)).then (State.logError_keeps ..)⟩
  have hlog := (State.logError_keeps (s.bump .byteParity 1) .block .byteParity 0xFF 0xFF a none).same .counters (by decide)
  unfold State.counter
  rw [hlog]
  exact State.counter_bump s .byteParity 1

theorem State.parityEnds_none (s : State) :
    s.parityEnds none = s.logError .block .byteParity 0xFF 0xFF .ended none := rfl

theorem State.victim_none (s : State) : s.victim none = none := rfl

/-- Settles O38: each row outside RESET and Whiteout is one of the cases above. -/
theorem setAndTableEventsComplete : Obligations.SetAndTableEventsComplete := by
  intro s h0 h1
  refine ⟨fun n => ⟨execTableReloadDone_idle h0 h1, fun h => ⟨?_, fun hq => ?_⟩⟩, fun q set t r hl => ?_,
    fun q => execStreamedSetCheck_missing h0 h1, ?_, fun q x hl => ⟨?_, fun n path hpath => ?_⟩,
    fun n p path hpath hv hr hb => ?_, fun n row w p => ⟨fun h => ?_, fun h => ?_⟩⟩
  · have hlog : (s.logError .block .tableWord n 0xFF .whiteout none).startup ≠ .whiteout := h1
    exact ⟨_, execTableReloadDone_failed h0 h1 h, State.enterWhiteout_enters hlog 5⟩
  · exact ⟨_, execTableReloadDone_verified h0 h1 h, tableVerified_reloads (State.rewrites_lt h) hq⟩
  · exact ⟨execStreamedSetCheck_other h0 h1 hl, execStreamedSetCheck_late h0 h1 hl,
      execStreamedSetCheck_judged h0 h1 hl⟩
  · refine ⟨_, execByteParityError_other h0 h1 none, ?_⟩
    rw [State.victim_none, State.parityEnds_none]
    exact parityLogged s .ended
  · refine ⟨_, execByteParityError_other h0 h1 (some q), ?_⟩
    rw [State.victim_of_launched hl]
    exact State.parityEnds_launched (s := s.bump .byteParity 1) hl
  · exact execByteParityError_launched h0 h1 hpath hl
  · refine ⟨_, execByteParityError_noVictim h0 h1 hpath hv, ?_⟩
    rw [State.spoilReread_none (s := s.bump .byteParity 1) hr hb]
    exact (parityLogged s .retried).2
  · exact (execByteParityError_split h0 h1 n row w p).trans
      (congrArg _ (State.splitBad_active (s := s.bump .byteParity 1) h row w p))
  · exact (execByteParityError_split h0 h1 n row w p).trans
      (congrArg _ (State.splitBad_inactive (s := s.bump .byteParity 1) h row w p))

end Sys2Proof.Machine
end

section
/-! One part of a state read through the field that holds it: it stands where the field stands. -/
namespace Sys2Proof.Machine

theorem State.part_congr {s u : State} (h : u.parts = s.parts) (p : Nat) : u.part p = s.part p := by
  unfold State.part
  rw [h]

theorem State.ctx_congr {s u : State} (h : u.ctxs = s.ctxs) (n : Nat) : u.ctx n = s.ctx n := by
  unfold State.ctx
  rw [h]

theorem State.tile_congr {s u : State} (h : u.tiles = s.tiles) (n : Nat) : u.tile n = s.tile n := by
  unfold State.tile
  rw [h]

theorem State.counter_congr {s u : State} (h : u.counters = s.counters) (c : Counter) : u.counter c = s.counter c := by
  unfold State.counter
  rw [h]

/-- A handler is a part of its tile, its slice or the block. -/
theorem State.handler_congr {s u : State} (ht : u.tiles = s.tiles) (hs : u.slices = s.slices) (hb : u.block = s.block)
    (l : Level) : u.handler l = s.handler l := by
  cases l with
  | tile n => exact congrArg Tile.handler (State.tile_congr ht n)
  | slice n => exact congrArg Slice.handler (State.sliceOf_congr hs n)
  | block => exact hb

/-- Each counter has a place of its own in the counter file. -/
theorem Counter.idx_ne {c d : Counter} (h : c ≠ d) : c.idx ≠ d.idx := fun hidx => h <| by
  rw [← Counter.ofNat_ctorIdx c, ← Counter.ofNat_ctorIdx d]
  exact congrArg Counter.ofNat hidx

/-- Out of reset a row that sleeps in reset runs. -/
theorem State.awake_runs {s : State} {f : State → Out} (h : s.startup ≠ .reset) : s.awake f = f s :=
  if_neg (by simpa [State.dormant] using h)

end Sys2Proof.Machine
end

section
/-! SAVE and RESTORE: where a result of host memory goes at the end of its command (R54), the image written (R38), and the
context loaded from one (R39, R42). -/
namespace Sys2Proof.Machine

/-! ### The end of a command that writes one stretch of host memory (R54) -/

theorem State.holdsPosts_of_launched {s : State} {q : Nat} {t : Ticket} {r : Running} (h : s.launched q = some (t, r)) :
    s.holdsPosts q = t.crossCheck := by
  unfold State.holdsPosts
  rw [State.ticket_of_launched h]
  rfl

theorem State.writeHost_unchecked {s : State} {q : Nat} {t : Ticket} {r : Running} (h : s.launched q = some (t, r))
    (hx : t.crossCheck = false) (a : Nat) (bs : Bytes) : s.writeHost q a bs = s.writeNoted q a bs false :=
  if_neg (by simp [State.holdsPosts_of_launched h, hx])

theorem State.writeHost_checked {s : State} {q : Nat} {t : Ticket} {r : Running} (h : s.launched q = some (t, r))
    (hx : t.crossCheck = true) (a : Nat) (bs : Bytes) : s.writeHost q a bs = s.hold q (.mem a bs) :=
  if_pos (by simp [State.holdsPosts_of_launched h, hx])

/-- What runs for a ticket is no part of where it stands. -/
theorem Finished.of_run {u : State} {q : Nat} {t : Ticket} {x : Option Running} {res : Result}
    (h : Finished u q { t with run := x } res) : Finished u q t res := h

/-- The end of a command's work leaves what its figure holds for the comparison. -/
theorem State.finishWith_posts {s : State} {q : Nat} {t : Ticket} {r : Running} (f : Result → Result)
    (h : s.launched q = some (t, r)) :
    ∃ (t' : Ticket) (r' : Running), (s.finishWith q f).launched q = some (t', r') ∧ r'.posts = r.posts := by
  have hres := State.launched_modRun (fun r => { r with result := f r.result }) h
  unfold State.finishWith State.finishRun
  rw [hres]
  dsimp only
  split
  · have hcheck := State.launched_modRun
      (fun r => { r with phase := .checking, exch := none, holding := false, checkWaited := 0 }) hres
    exact ⟨_, _, (State.launched_congr ((State.sendCredited_keeps ..).same .tickets (by decide)) q).trans hcheck, rfl⟩
  · exact ⟨_, _, State.launched_modRun (fun r => { r with phase := .finished, exch := none, holding := false }) hres, rfl⟩

/-- A command that ends with one stretch of host memory as its result has written it, or holds it for the comparison. -/
theorem State.writeHost_finishes {s : State} {q : Nat} {t : Ticket} {r : Running} (h : s.launched q = some (t, r))
    (f : Result → Result) (a : Nat) (bs : Bytes) :
    let u := (s.writeHost q a bs).finishWith q f
    Finished u q t (f r.result) ∧
      (t.crossCheck = false → StoredAt s.mem u.mem a bs) ∧
      (t.crossCheck = true → u.mem = s.mem ∧ HoldsPost u q r (.mem a bs)) ∧
      Keeps ([.mem, .reads, .writes, .written] ++ finishFlds) s u := by
  intro u
  have hmem : u.mem = (s.writeHost q a bs).mem := (State.finishWith_keeps ..).same .mem (by decide)
  have hkeeps : Keeps ([.mem, .reads, .writes, .written] ++ finishFlds) s u :=
    ((Keeps.refl _ s).then (State.writeHost_keeps ..)).then (State.finishWith_keeps ..)
  cases hx : t.crossCheck with
  | false =>
    have hlaunched : (s.writeHost q a bs).launched q = some (t, r) := by
      rw [State.writeHost_unchecked h hx, State.launched_congr ((State.writeNoted_keeps ..).same .tickets (by decide)), h]
    refine ⟨State.finishWith_finished f hlaunched, fun _ => ?_, fun hc => absurd hc (by decide), hkeeps⟩
    rw [hmem]
    exact State.writeHost_storedAt s q a bs (by rw [State.holdsPosts_of_launched h, hx])
  | true =>
    have hheld : (s.writeHost q a bs).launched q =
        some ({ t with run := some { r with posts := r.posts ++ [.mem a bs] } },
          { r with posts := r.posts ++ [.mem a bs] }) := by
      rw [State.writeHost_checked h hx]
      exact State.launched_modRun (fun r => { r with posts := r.posts ++ [.mem a bs] }) h
    refine ⟨(State.finishWith_finished f hheld).of_run, fun hc => absurd hc (by decide), fun _ => ⟨?_, ?_⟩, hkeeps⟩
    · rw [hmem, State.writeHost_checked h hx]
      rfl
    · exact State.finishWith_posts f hheld

/-! ### SAVE (R38, R230) -/

theorem execSave_ready {s : State} {q : Nat} {t : Ticket} {r : Running} (h : Ready s q .save t r) :
    execSave q s =
      .next ((s.writeHost q t.areaWord (s.streamImage t.part (s.ctx t.areaByte))).finishWith q id) := by
  obtain ⟨hseq, -⟩ := seqOf h.launched
  refine (State.engine_ready h).trans ?_
  rw [hseq]

/-- Settles O11: a SAVE ends with its image as the stretch of host memory that it writes or holds. -/
theorem saveWritesTheImage : Obligations.SaveWritesTheImage := by
  intro s q t r h
  exact ⟨_, execSave_ready h, State.writeHost_finishes h.launched id ..⟩

/-! ### RESTORE (R39, R42) -/

/-- Sending a frame over Reel counts it among the frames sent, and counts nothing else (R302). -/
theorem sendCreditedNow_counter (s : State) (p : Fin 4) (f : Frame) {c : Counter} (h : c ≠ .framesSent) :
    (s.sendCreditedNow p f).counter c = s.counter c :=
  (putFrame_counter ..).trans (State.counter_bump_ne _ _ _ _ (Counter.idx_ne h.symm))

theorem flushBacklog_counter (n : Nat) (p : Fin 4) (s : State) {c : Counter} (h : c ≠ .framesSent) :
    (State.flushBacklog n p s).counter c = s.counter c := by
  induction n generalizing s with
  | zero => rfl
  | succ n ih =>
    unfold State.flushBacklog
    split
    · rfl
    · split
      · rfl
      · exact (ih _).trans (sendCreditedNow_counter _ p _ h)

theorem State.finishWith_counter (s : State) (q : Nat) (f : Result → Result) {c : Counter} (h : c ≠ .framesSent) :
    (s.finishWith q f).counter c = s.counter c := by
  unfold State.finishWith State.finishRun
  split
  · rfl
  · split
    · exact flushBacklog_counter _ _ _ h
    · rfl

/-- The block once RESTORE has loaded the context of its image. -/
def State.imageLoaded (s : State) (t : Ticket) : State :=
  s.modCtx t.areaByte (fun c => ctxOfImage c.owner (s.imageOf t))

/-- The block once a loaded image whose stream used Sleet has re-seeded the generators, which its command counts (R42, R32). -/
def State.reseededFor (s : State) (q : Nat) : State :=
  (s.seedSleet.bump .sleetReseeds 1).modRun q (fun r => { r with nd := r.nd + 1 })

theorem execRestore_ready {s : State} {q : Nat} {t : Ticket} {r : Running} (h : Ready s q .restore t r) :
    execRestore q s = .next ((if bitAt (byteAt (s.imageOf t) 6) 0 then (s.imageLoaded t).reseededFor q
      else s.imageLoaded t).finishWith q id) := by
  obtain ⟨hseq, -⟩ := seqOf h.launched
  refine (State.engine_ready h).trans ?_
  rw [hseq]
  rfl

theorem State.imageLoaded_launched {s : State} {q : Nat} {x : Ticket × Running} (h : s.launched q = some x) (t : Ticket) :
    (s.imageLoaded t).launched q = some x := h

theorem State.reseededFor_launched {s : State} {q : Nat} {t : Ticket} {r : Running} (h : s.launched q = some (t, r)) :
    (s.reseededFor q).launched q = some ({ t with run := some { r with nd := r.nd + 1 } }, { r with nd := r.nd + 1 }) := by
  have hseeded : (s.seedSleet.bump .sleetReseeds 1).launched q = some (t, r) :=
    (State.launched_congr ((State.seedSleet_keeps s).same .tickets (by decide)) q).trans h
  exact State.launched_modRun (fun r => { r with nd := r.nd + 1 }) hseeded

theorem State.reseededFor_keeps (s : State) (q : Nat) :
    Keeps [.seedings, .sleetRunning, .slices, .vault, .counters, .tickets] s (s.reseededFor q) :=
  (((Keeps.refl _ s).then (State.seedSleet_keeps s)).then (State.bump_keeps ..)).then (State.modRun_keeps ..)

/-- A re-seeding is one more of 0x7010.04, and the generators run (R285). -/
theorem State.reseededFor_seeds (s : State) (q : Nat) :
    (s.reseededFor q).counter .sleetReseeds = s.counter .sleetReseeds + 1 ∧ (s.reseededFor q).sleetRunning = true := by
  have hcounters := (State.seedSleet_keeps s).same .counters (by decide)
  refine ⟨(State.counter_bump s.seedSleet .sleetReseeds 1).trans (congrArg (· + 1) ?_), rfl⟩
  unfold State.counter
  rw [hcounters]

/-- The end of RESTORE leaves the contexts as the load of the image left them. -/
theorem State.imageLoaded_ctx {s u : State} {t : Ticket} (hctx : t.areaByte < 256) (h : u.ctxs = (s.imageLoaded t).ctxs) :
    u.ctx t.areaByte = ctxOfImage (s.ctx t.areaByte).owner (s.imageOf t) ∧
      ∀ n : Nat, n ≠ t.areaByte → u.ctx n = s.ctx n :=
  ⟨(State.ctx_congr h _).trans (State.ctx_modCtx s _ _ hctx),
    fun n hn => (State.ctx_congr h n).trans (State.ctx_modCtx_ne s _ n _ hn)⟩

/-- Settles O12, by whether the image's stream used Sleet. -/
theorem restoreLoadsTheImage : Obligations.RestoreLoadsTheImage := by
  intro s q t r h hctx
  have hloaded := State.imageLoaded_launched h.launched t
  rw [show Sys2Proof.Machine.exec (.restore q) s = _ from execRestore_ready h]
  cases hsleet : bitAt (byteAt (s.imageOf t) 6) 0 with
  | true =>
    have hfinish := State.finishWith_keeps ((s.imageLoaded t).reseededFor q) q id
    obtain ⟨hseedings, hruns⟩ := (s.imageLoaded t).reseededFor_seeds q
    obtain ⟨hhere, helse⟩ := State.imageLoaded_ctx hctx ((hfinish.same .ctxs (by decide)).trans
      (((s.imageLoaded t).reseededFor_keeps q).same .ctxs (by decide)))
    exact ⟨_, rfl, (State.finishWith_finished id (State.reseededFor_launched hloaded)).of_run, hhere, helse,
      fun _ => ⟨(State.finishWith_counter _ q id (by decide)).trans hseedings,
        (hfinish.same .sleetRunning (by decide)).trans hruns⟩, fun hf => absurd hf (by decide)⟩
  | false =>
    have hfinish := State.finishWith_keeps (s.imageLoaded t) q id
    obtain ⟨hhere, helse⟩ := State.imageLoaded_ctx hctx (hfinish.same .ctxs (by decide))
    exact ⟨_, rfl, State.finishWith_finished id hloaded, hhere, helse, fun ht => absurd ht (by decide),
      fun _ => ⟨hfinish.same .slices (by decide), hfinish.same .vault (by decide)⟩⟩

end Sys2Proof.Machine
end

section
/-! CHECKPOINT_SIGNED: the signature and the two Floe slots of a checkpoint (R51, R443), and what its writing releases (R326,
R352). -/
namespace Sys2Proof.Machine

/-! ### The slots of a Floe ring (R323) -/

/-- The address of the Floe slot that a ring writes next. -/
def OutRing.floeSlot (r : OutRing) : Nat := r.base.toNat + 128 * (r.write.toNat % max 1 r.slots)

/-- A ring whose write index has risen by one. -/
def OutRing.advance (r : OutRing) : OutRing := { r with write := r.write + 1 }

theorem State.writeRecord_parts (s : State) (q : Option Nat) (a : Nat) (bs : Bytes) :
    (s.writeRecord q a bs).parts = s.parts := (State.writeRecord_keeps s q a bs).same .parts (by decide)

theorem State.putFloeSlot_mem (s : State) (p : Nat) (bs : Bytes) :
    (s.putFloeSlot p bs).mem = s.mem.storeHost (s.part p).floe.floeSlot bs := State.writeRecord_mem ..

theorem State.putFloeSlot_part (s : State) {p : Nat} (h : p < 64) (bs : Bytes) :
    (s.putFloeSlot p bs).part p = { s.part p with floe := (s.part p).floe.advance } := by
  unfold State.putFloeSlot
  dsimp only
  rw [State.part_modPart _ _ _ h, State.part_congr (State.writeRecord_parts ..)]
  rfl

theorem State.putFloeSlot_part_ne (s : State) {p n : Nat} (h : n ≠ p) (bs : Bytes) :
    (s.putFloeSlot p bs).part n = s.part n := by
  unfold State.putFloeSlot
  dsimp only
  rw [State.part_modPart_ne _ _ _ _ h, State.part_congr (State.writeRecord_parts ..)]

/-! ### Signing and writing a checkpoint (R51, R443) -/

/-- The signature of a checkpoint's head under the audit key (R443). -/
def Vault.signature (v : Vault) (head : Bytes) : Bytes :=
  match v.drbg with
  | some d => (ecdsaSign scalarTries d v.auditPriv head).1
  | none => []

/-- The second slot of a checkpoint: the signature of its head, the audit key identifier and padding (R51). -/
def Vault.ckptTail (v : Vault) (head : Bytes) : Bytes := v.signature head ++ v.auditId ++ List.replicate 16 0

/-- The block whose generator gave the secret of a signature (R443). -/
def State.signedHead (s : State) (head : Bytes) : State :=
  match s.vault.drbg with
  | some d => s.setDrbg (ecdsaSign scalarTries d s.vault.auditPriv head).2
  | none => s

theorem State.signedHead_keeps (s : State) (head : Bytes) : Keeps [.vault] s (s.signedHead head) := by
  unfold State.signedHead
  cases s.vault.drbg with
  | none => exact Keeps.refl _ s
  | some d => exact s.setDrbg_keeps _

theorem State.writeCheckpoint_eq (s : State) (c : Ckpt) :
    s.writeCheckpoint c =
      (((s.signedHead (c.head s.count.toNat)).putFloeSlot c.part (c.head s.count.toNat)).putFloeSlot c.part
        (s.vault.ckptTail (c.head s.count.toNat))).bump .checkpointsSigned 1 := by
  unfold State.writeCheckpoint Vault.ckptTail Vault.signature State.signedHead
  cases s.vault.drbg with
  | none => rfl
  | some d =>
    generalize ecdsaSign scalarTries d s.vault.auditPriv (c.head s.count.toNat) = r
    rfl

/-- The head lies in the ring's next slot and the tail in the one after. -/
theorem State.writeCheckpoint_mem (s : State) {c : Ckpt} (h : c.part < 64) :
    (s.writeCheckpoint c).mem =
      (s.mem.storeHost (s.part c.part).floe.floeSlot (c.head s.count.toNat)).storeHost
        (s.part c.part).floe.advance.floeSlot (s.vault.ckptTail (c.head s.count.toNat)) := by
  have hsign := s.signedHead_keeps (c.head s.count.toNat)
  rw [State.writeCheckpoint_eq, State.bump_mem, State.putFloeSlot_mem, State.putFloeSlot_mem,
    State.putFloeSlot_part _ h, hsign.same .mem (by decide), State.part_congr (hsign.same .parts (by decide))]

theorem State.writeCheckpoint_part (s : State) {c : Ckpt} (h : c.part < 64) :
    (s.writeCheckpoint c).part c.part = { s.part c.part with floe := (s.part c.part).floe.advance.advance } := by
  have hsign := s.signedHead_keeps (c.head s.count.toNat)
  rw [State.writeCheckpoint_eq, State.part_congr (State.bump_parts ..), State.putFloeSlot_part _ h,
    State.putFloeSlot_part _ h, State.part_congr (hsign.same .parts (by decide))]

theorem State.writeCheckpoint_part_ne (s : State) {c : Ckpt} {n : Nat} (h : n ≠ c.part) :
    (s.writeCheckpoint c).part n = s.part n := by
  have hsign := s.signedHead_keeps (c.head s.count.toNat)
  rw [State.writeCheckpoint_eq, State.part_congr (State.bump_parts ..), State.putFloeSlot_part_ne _ h,
    State.putFloeSlot_part_ne _ h, State.part_congr (hsign.same .parts (by decide))]

/-- A checkpoint's slots leave every completion ring. -/
theorem State.writeCheckpoint_comp (s : State) {c : Ckpt} (h : c.part < 64) (n : Nat) :
    ((s.writeCheckpoint c).part n).comp = (s.part n).comp := by
  by_cases hn : n = c.part
  · rw [hn, State.writeCheckpoint_part s h]
  · rw [State.writeCheckpoint_part_ne s hn]

theorem State.writeCheckpoint_counter (s : State) (c : Ckpt) :
    (s.writeCheckpoint c).counter .checkpointsSigned = s.counter .checkpointsSigned + 1 := by
  have hslots := ((((Keeps.refl [.vault, .mem, .outs, .parts, .reads, .writes] s).then
    (s.signedHead_keeps (c.head s.count.toNat))).then (State.putFloeSlot_keeps _ c.part (c.head s.count.toNat))).then
    (State.putFloeSlot_keeps _ c.part (s.vault.ckptTail (c.head s.count.toNat)))).same .counters (by decide)
  rw [State.writeCheckpoint_eq, State.counter_bump]
  unfold State.counter
  rw [hslots]
  rfl

/-! ### What a written checkpoint releases (R326, R352) -/

/-- The block once a written checkpoint has let its partition open or close (R326). -/
def State.ckptMoved (s : State) (c : Ckpt) : State :=
  match c.reason with
  | .genesis => s.modPart c.part (fun q => { q with state := .opened, waiting := .nothing })
  | .closed => s.closePart c.part
  | _ => s

/-- The block once a written checkpoint has let its partition move, and the response to the write that asked for it go. -/
def State.ckptReleased (s : State) (c : Ckpt) : State :=
  if (s.ckptMoved c).window.deferred = some (.ckpt c.part) ∧ (c.reason = .genesis ∨ c.reason = .closed) then
    (s.ckptMoved c).respond .ok []
  else s.ckptMoved c

theorem State.ckptMoved_keeps (s : State) (c : Ckpt) : Keeps [.parts, .ctxs, .regions] s (s.ckptMoved c) := by
  unfold State.ckptMoved
  split
  · exact (Keeps.refl _ s).then (State.modPart_keeps ..)
  · exact (Keeps.refl _ s).then (State.closePart_keeps ..)
  · exact Keeps.refl _ s

theorem State.ckptReleased_fromMoved (s : State) (c : Ckpt) : Keeps [.window] (s.ckptMoved c) (s.ckptReleased c) := by
  unfold State.ckptReleased
  split
  · exact State.respond_keeps ..
  · exact Keeps.refl _ _

theorem State.ckptReleased_keeps (s : State) (c : Ckpt) :
    Keeps [.parts, .ctxs, .regions, .window] s (s.ckptReleased c) :=
  ((Keeps.refl _ s).then (s.ckptMoved_keeps c)).then (s.ckptReleased_fromMoved c)

theorem State.ckptReleased_part (s : State) (c : Ckpt) (n : Nat) : (s.ckptReleased c).part n = (s.ckptMoved c).part n :=
  State.part_congr ((s.ckptReleased_fromMoved c).same .parts (by decide)) n

theorem State.ckptMoved_genesis (s : State) {c : Ckpt} (h : c.part < 64) (hr : c.reason = .genesis) :
    ((s.ckptMoved c).part c.part).state = .opened := by
  unfold State.ckptMoved
  rw [hr]
  exact congrArg Partition.state (State.part_modPart s c.part _ h)

/-- A partition that opens or closes keeps its Floe ring. -/
theorem State.ckptMoved_floe (s : State) {c : Ckpt} (h : c.part < 64) :
    ((s.ckptMoved c).part c.part).floe = (s.part c.part).floe := by
  unfold State.ckptMoved
  split
  · rw [State.part_modPart _ _ _ h]
  · have hkept := (State.releaseKeptPart_keeps s c.part).same .parts (by decide)
    unfold State.closePart
    rw [State.part_modPart _ _ _ h, State.part_congr hkept]
  · rfl

/-- A checkpoint that neither opens nor closes its partition releases nothing but its ticket. -/
theorem State.ckptReleased_of_record (s : State) {c : Ckpt} (hg : c.reason ≠ .genesis) (hc : c.reason ≠ .closed) :
    s.ckptReleased c = s := by
  have hmoved : s.ckptMoved c = s := by
    unfold State.ckptMoved
    split
    · next h => exact absurd h hg
    · next h => exact absurd h hc
    · rfl
  unfold State.ckptReleased
  rw [if_neg (by simp [hg, hc]), hmoved]

/-- The status of a record that waited for its checkpoint: a HALT's deadline is judged when its record is written (R339, R355). -/
def State.heldStatus (s : State) (t : Ticket) (st : Status) : Status :=
  if t.op == .halt then commandStatus st (s.pastDeadline t) else st

/-- A written checkpoint releases its partition, then the completion record it held (R352). -/
theorem State.ckptDone_eq (s : State) (c : Ckpt) :
    s.ckptDone c = match c.ticket.bind (s.ckptReleased c).ticket with
      | some t => match t.ended with
        | some (st, fl, off) =>
          ((s.ckptReleased c).putCompletion t ((s.ckptReleased c).heldStatus t st) fl off).settleHandlers
        | none => s.ckptReleased c
      | none => s.ckptReleased c := rfl

theorem State.ckptDone_noTicket (s : State) {c : Ckpt} (h : c.ticket = none) : s.ckptDone c = s.ckptReleased c := by
  rw [State.ckptDone_eq, h]
  rfl

/-- A checkpoint that holds a record and leaves its partition as it is writes that record, as it ended. -/
theorem State.ckptDone_record {s : State} {c : Ckpt} {q : Nat} {t : Ticket} {e : Status × Nat × Nat}
    (hq : c.ticket = some q) (ht : s.ticket q = some t) (he : t.ended = some e) (hg : c.reason ≠ .genesis)
    (hc : c.reason ≠ .closed) :
    s.ckptDone c = (s.putCompletion t (s.heldStatus t e.1) e.2.1 e.2.2).settleHandlers := by
  rw [State.ckptDone_eq, State.ckptReleased_of_record s hg hc, hq, Option.bind_some, ht]
  simp only [he]

/-! ### A completion record that waited for its checkpoint (R352) -/

/-- Idle handlers have no error to settle (R385). -/
theorem State.settleHandlers_idle {s : State} (h : ∀ l : Level, (s.handler l).current = none) : s.settleHandlers = s := by
  have hone : ∀ l : Level, s.settleHandler l = s := fun l => by
    unfold State.settleHandler
    rw [h l]
  have hall : ∀ ls : List Level, ls.foldl (fun (s : State) l => s.settleHandler l) s = s := fun ls => by
    induction ls with
    | nil => rfl
    | cons l ls ih => rw [List.foldl_cons, hone l, ih]
  exact hall _

theorem State.ticket_dropTicket (s : State) (q : Nat) : (s.dropTicket q).ticket q = none := by
  unfold State.ticket
  rw [State.dropTicket_tickets]
  exact List.find?_eq_none.2 fun x hx => by simpa using (List.mem_filter.1 hx).2

/-- A ticket's completion record frees it (R352). -/
theorem State.putCompletion_ticket (s : State) (t : Ticket) (st : Status) (fl off : Nat) :
    (s.putCompletion t st fl off).ticket t.seq = none := by
  unfold State.putCompletion
  exact State.ticket_dropTicket ..

/-- A completion record moves its partition's completion ring on, and changes no other partition (R323). -/
theorem State.putCompletion_parts (s : State) (t : Ticket) (st : Status) (fl off : Nat) :
    (s.putCompletion t st fl off).parts =
      (s.modPart t.part (fun q => { q with comp := { q.comp with write := q.comp.write + 1 } })).parts := by
  have hrecord : ∀ (a : Nat) (bs : Bytes) (f : Partition → Partition),
      ((s.writeRecord none a bs).modPart t.part f).parts = (s.modPart t.part f).parts := fun a bs f => by
    rw [State.modPart_parts, State.modPart_parts, State.writeRecord_parts, State.part_congr (State.writeRecord_parts ..)]
  have hevent : ∀ (u : State) (b : Bool), (if b then u.completionEvent t.part else u).parts = u.parts :=
    fun u b => by cases b <;> rfl
  have hstall : ∀ (u : State) (b : Bool), (if b then u.bump .deadlineStalls 1 else u).parts = u.parts :=
    fun u b => by cases b <;> rfl
  unfold State.putCompletion
  dsimp only
  rw [State.dropTicket_parts, hstall, hevent, hrecord]

/-- A completion record counts nothing but a stall beyond its deadline. -/
theorem State.putCompletion_counter (s : State) (t : Ticket) (st : Status) (fl off : Nat) {c : Counter}
    (h : c ≠ .deadlineStalls) : (s.putCompletion t st fl off).counter c = s.counter c := by
  have hrecord : ∀ (a : Nat) (bs : Bytes) (f : Partition → Partition),
      ((s.writeRecord none a bs).modPart t.part f).counter c = s.counter c := fun a bs f =>
    State.counter_congr ((State.writeRecord_keeps s none a bs).same .counters (by decide)) c
  have hevent : ∀ (u : State) (b : Bool), (if b then u.completionEvent t.part else u).counter c = u.counter c :=
    fun u b => by cases b <;> rfl
  have hstall : ∀ (u : State) (b : Bool), (if b then u.bump .deadlineStalls 1 else u).counter c = u.counter c :=
    fun u b => by
      cases b with
      | false => rfl
      | true => exact State.counter_bump_ne _ _ _ _ (Counter.idx_ne h.symm)
  unfold State.putCompletion
  dsimp only
  rw [State.counter_congr (State.dropTicket_counters ..), hstall, hevent, hrecord]

/-- A completion record touches no handler, so none that is idle takes up an error. -/
theorem State.putCompletion_settled {s : State} (h : ∀ l : Level, (s.handler l).current = none) (t : Ticket) (st : Status)
    (fl off : Nat) : (s.putCompletion t st fl off).settleHandlers = s.putCompletion t st fl off := by
  have hrecord := State.putCompletion_keeps s t st fl off
  exact State.settleHandlers_idle fun l => by
    rw [State.handler_congr (hrecord.same .tiles (by decide)) (hrecord.same .slices (by decide))
      (hrecord.same .block (by decide)), h l]

/-! ### CHECKPOINT_SIGNED -/

theorem execCheckpointSigned_none {s : State} (h0 : s.startup ≠ .reset) (h : s.ckpts = []) :
    execCheckpointSigned s = .next s :=
  (State.awake_runs h0).trans (by simp only [h])

/-- The block once the checkpoint that fell due first is signed and written, and pending no more. -/
def State.firstWritten (s : State) (c : Ckpt) (rest : List Ckpt) : State := ({ s with ckpts := rest }).writeCheckpoint c

theorem State.firstWritten_keeps (s : State) (c : Ckpt) (rest : List Ckpt) :
    Keeps [.ckpts, .counters, .mem, .outs, .parts, .reads, .vault, .writes] s (s.firstWritten c rest) :=
  ((Keeps.refl _ s).set_ckpts).then (State.writeCheckpoint_keeps ..)

theorem State.firstWritten_ckpts (s : State) (c : Ckpt) (rest : List Ckpt) : (s.firstWritten c rest).ckpts = rest :=
  (State.writeCheckpoint_keeps { s with ckpts := rest } c).same .ckpts (by decide)

theorem execCheckpointSigned_first {s : State} {c : Ckpt} {rest : List Ckpt} (h0 : s.startup ≠ .reset)
    (h : s.ckpts = c :: rest) :
    execCheckpointSigned s = .next (((s.firstWritten c rest).ckptDone c).followParts) :=
  (State.awake_runs h0).trans (by simp only [h]; rfl)

/-- A checkpoint that holds no ticket's record is pending no more, lies in its two slots, and is counted; a genesis opens its
partition. -/
theorem firstWritten_released (s : State) {c : Ckpt} {rest : List Ckpt} (hp : c.part < 64) :
    let floe := (s.part c.part).floe
    let head := c.head s.count.toNat
    let u := ((s.firstWritten c rest).ckptReleased c).followParts
    u.ckpts = rest ∧
      u.mem = (s.mem.storeHost floe.floeSlot head).storeHost floe.advance.floeSlot (s.vault.ckptTail head) ∧
      u.counter .checkpointsSigned = s.counter .checkpointsSigned + 1 ∧
      (u.part c.part).floe = floe.advance.advance ∧
      (c.reason = .genesis → (u.part c.part).state = .opened) ∧ u.tickets = s.tickets := by
  intro floe head u
  have hafter : Keeps [.parts, .ctxs, .regions, .window, .startup] (s.firstWritten c rest) u :=
    ((Keeps.refl _ _).then ((s.firstWritten c rest).ckptReleased_keeps c)).then (State.followParts_keeps _)
  have hpart : u.part c.part = ((s.firstWritten c rest).ckptMoved c).part c.part :=
    (State.part_congr ((State.followParts_keeps ((s.firstWritten c rest).ckptReleased c)).same .parts (by decide)) c.part).trans
      ((s.firstWritten c rest).ckptReleased_part c c.part)
  refine ⟨?_, ?_, ?_, ?_, fun hr => ?_, ?_⟩
  · exact (hafter.same .ckpts (by decide)).trans (s.firstWritten_ckpts c rest)
  · exact (hafter.same .mem (by decide)).trans (State.writeCheckpoint_mem { s with ckpts := rest } hp)
  · exact (State.counter_congr (hafter.same .counters (by decide)) _).trans
      (State.writeCheckpoint_counter { s with ckpts := rest } c)
  · rw [hpart, State.ckptMoved_floe _ hp]
    exact congrArg Partition.floe (State.writeCheckpoint_part { s with ckpts := rest } hp)
  · rw [hpart]
    exact State.ckptMoved_genesis _ hp hr
  · exact (hafter.same .tickets (by decide)).trans ((s.firstWritten_keeps c rest).same .tickets (by decide))

/-- A written checkpoint that held an ended ticket's record writes that record and frees the ticket, with every handler idle. -/
theorem firstWritten_record {s : State} {c : Ckpt} {rest : List Ckpt} {q : Nat} {t : Ticket} {e : Status × Nat × Nat}
    (hp : c.part < 64) (hq : c.ticket = some q) (ht : s.ticket q = some t) (he : t.ended = some e)
    (hg : c.reason ≠ .genesis) (hc : c.reason ≠ .closed) (htp : t.part < 64)
    (hidle : ∀ l : Level, (s.handler l).current = none) :
    let u := ((s.firstWritten c rest).ckptDone c).followParts
    u.ckpts = rest ∧ u.ticket q = none ∧ u.counter .checkpointsSigned = s.counter .checkpointsSigned + 1 ∧
      (u.part t.part).comp.write = (s.part t.part).comp.write + 1 := by
  intro u
  have hwritten := s.firstWritten_keeps c rest
  have hseq : t.seq = q := by simpa using List.find?_some ht
  have hdone := State.ckptDone_record hq ((State.ticket_congr (hwritten.same .tickets (by decide)) q).trans ht) he hg hc
  have hfree : ∀ l : Level, ((s.firstWritten c rest).handler l).current = none := fun l => by
    rw [State.handler_congr (hwritten.same .tiles (by decide)) (hwritten.same .slices (by decide))
      (hwritten.same .block (by decide)), hidle l]
  rw [State.putCompletion_settled hfree] at hdone
  have hu : u = State.followParts _ := congrArg State.followParts hdone
  generalize (s.firstWritten c rest).heldStatus t e.1 = st at hu
  have hrecord := State.putCompletion_keeps (s.firstWritten c rest) t st e.2.1 e.2.2
  have hfollow := State.followParts_keeps ((s.firstWritten c rest).putCompletion t st e.2.1 e.2.2)
  rw [hu]
  refine ⟨?_, ?_, ?_, ?_⟩
  · exact ((hfollow.same .ckpts (by decide)).trans (hrecord.same .ckpts (by decide))).trans (s.firstWritten_ckpts c rest)
  · rw [State.ticket_congr (hfollow.same .tickets (by decide)), ← hseq, State.putCompletion_ticket]
  · rw [State.counter_congr (hfollow.same .counters (by decide)), State.putCompletion_counter _ _ _ _ _ (by decide)]
    exact State.writeCheckpoint_counter { s with ckpts := rest } c
  · rw [State.part_congr (hfollow.same .parts (by decide)), State.part_congr (State.putCompletion_parts ..),
      State.part_modPart _ _ _ htp]
    exact congrArg (fun r : OutRing => r.write + 1) (State.writeCheckpoint_comp { s with ckpts := rest } hp t.part)

/-- Settles O25: the checkpoint due first is signed and written, and releases its partition or the record it held. -/
theorem checkpointIsWrittenInTwoSlots : Obligations.CheckpointIsWrittenInTwoSlots := by
  intro s h0
  refine ⟨execCheckpointSigned_none h0, fun c rest hck hp => ⟨fun hnone => ?_, fun q t e hq ht he hg hc htp hidle => ?_⟩⟩
  · obtain ⟨hckpts, hmem, hcounter, hfloe, hopened, htickets⟩ := firstWritten_released s (rest := rest) hp
    have hrow := execCheckpointSigned_first h0 hck
    rw [State.ckptDone_noTicket _ hnone] at hrow
    refine ⟨_, hrow, hckpts,
      ⟨_, s.vault.signature (c.head s.count.toNat), Memory.storeHost_storedAt .., ?_⟩, hcounter, ?_, hopened, htickets⟩
    · rw [hmem]
      exact Memory.storeHost_storedAt ..
    · rw [hfloe]
      exact BitVec.add_assoc ..
  · exact ⟨_, execCheckpointSigned_first h0 hck, firstWritten_record hp hq ht he hg hc htp hidle⟩

end Sys2Proof.Machine
end

section
/-! A cell error at a tile whose handler is idle: the tile-load retry it starts, and what that counts (R35, R115, R117, R372 to
R374, R384). -/
namespace Sys2Proof.Machine

/-- Two changes of one tile are one change. -/
theorem State.modTile_modTile (s : State) {n : Nat} (h : n < 16) (f g : Tile → Tile) :
    (s.modTile n f).modTile n g = s.modTile n (fun t => g (f t)) := by
  have htile := State.tile_modTile s n f h
  have hset : ∀ a b : Tile, vset (vset s.tiles n a) n b = vset s.tiles n b := fun a b => by simp [vset]
  unfold State.modTile at htile ⊢
  rw [htile]
  exact congrArg (fun v => { s with tiles := v }) (hset _ _)

/-- A checked row is a row of its tile that is not bypassed (R118). -/
theorem State.rowChecked_iff (s : State) (n row : Nat) :
    s.rowChecked n row = true ↔
      n < s.grade.tiles ∧ row < 33 ∧ (s.tile n).disabled = false ∧ (s.tile n).entry.toNat % 64 ≠ row := by
  simp [State.rowChecked, and_assoc]

/-! ### An error that its handler takes at once -/

/-- An idle tile handler takes an error at once and acts on it (R384, R385). -/
theorem State.detect_idleTile {s : State} {n : Nat} (hn : n < 16) (h1 : s.startup ≠ .whiteout)
    (hidle : (s.tile n).handler = Handler.idle) (e : Err)
    (hbusy : ((s.setHandler (.tile n) ⟨some e, []⟩).perform (some (.tile n)) (.tile n) e).2 = true) :
    s.detect (.tile n) e = ((s.setHandler (.tile n) ⟨some e, []⟩).perform (some (.tile n)) (.tile n) e).1 := by
  have hqueued : (s.setHandler (.tile n) ⟨none, [e]⟩).handler (.tile n) = ⟨none, [e]⟩ :=
    congrArg Tile.handler (State.tile_modTile s n (fun t => { t with handler := ⟨none, [e]⟩ }) hn)
  have htaken : (s.setHandler (.tile n) ⟨none, [e]⟩).setHandler (.tile n) ⟨some e, []⟩ =
      s.setHandler (.tile n) ⟨some e, []⟩ :=
    State.modTile_modTile s hn (fun t => { t with handler := ⟨none, [e]⟩ }) (fun t => { t with handler := ⟨some e, []⟩ })
  have hserve : State.serve 1 (.tile n) (s.setHandler (.tile n) ⟨none, [e]⟩) =
      ((s.setHandler (.tile n) ⟨some e, []⟩).perform (some (.tile n)) (.tile n) e).1 := by
    unfold State.serve
    simp only [hqueued, htaken, hbusy, if_true]
  unfold State.detect
  rw [if_neg (by simpa using h1)]
  have hhandler : s.handler (.tile n) = Handler.idle := hidle
  rw [hhandler]
  exact hserve

/-! ### The tile-load retry -/

/-- The retry of an array error at a tile's handler (R372). -/
def State.tileLoadRetry (s : State) (n : Nat) (e : Err) : Retry :=
  ⟨.tileLoad, s.tileRetryLen (e.ticket.bind s.ticket) e.work, some (.tile n), some e, 0, false, false⟩

/-- A cell error's handler starts a tile-load retry, logs it, counts it on the row, and stays busy (R384). -/
theorem State.perform_cellResidue (s : State) {n row col : Nat} {e : Err} (hkind : e.kind = .cellResidue)
    (hcell : e.resource = .cell row col) :
    s.perform (some (.tile n)) (.tile n) e =
      ((((s.startRetry (s.tileLoadRetry n e)).logErr (.tile n) e .retried).countRow n row e), true) := by
  have hresponse : s.response e = .retry .tileLoad := by simp only [State.response, hkind]
  have hnote : s.noteFlurry e = s := if_pos (by simp [hkind])
  unfold State.perform
  simp only [hresponse, hnote, hcell]
  rfl

/-- A tile that counts one more retry of a physical row (R117). -/
def Tile.countRetry (t : Tile) (row : Nat) : Tile := { t with retries := vset t.retries row (vget t.retries row + 1) }

/-- A retry of a row that is not bypassed and does not reach its third is counted on the row alone (R117). -/
theorem State.countRow_notThird {s : State} {n row : Nat} (hentry : (s.tile n).entry.toNat % 64 ≠ row)
    (hcount : vget (s.tile n).retries row ≠ 2) (e : Err) :
    s.countRow n row e = s.modTile n (fun t => t.countRetry row) := by
  unfold State.countRow
  rw [if_neg hentry]
  exact if_neg (by omega)

theorem State.startRetry_retries (s : State) (x : Retry) : (s.startRetry x).retries = s.retries ++ [x] := rfl

theorem State.logErr_logWritten (s : State) (l : Level) (e : Err) (a : ErrAction) :
    (s.logErr l e a).logWritten = s.logWritten + 1 := rfl

/-- The running figures that no preemption has suspended move by a retry's length and count it (R35, R373; log 45). -/
theorem State.startRetry_tickets (s : State) (x : Retry) :
    (s.startRetry x).tickets = s.tickets.map (fun t => { t with run := t.run.map (fun r =>
      if t.ended = none ∧ r.suspendedAt = none then { r with moved := r.moved + x.length, retries := r.retries + 1 }
      else r) }) := by
  simp [State.startRetry, State.mapRuns, Running.active]

/-! ### CELL_RESIDUE_ERROR -/

/-- A checked row's residue error is counted, and detected at its tile with the column's sums pending (R92, R115). -/
theorem execCellResidueError_checked {s : State} {n row : Nat} (h0 : s.startup ≠ .reset) (h1 : s.startup ≠ .whiteout)
    (h : s.rowChecked n row = true) (col : Nat) (use : ArrayUse) :
    execCellResidueError n row col use s = .next (((s.bump .cellResidue 1).pendColumn n col).detect (.tile n)
      ⟨.cellResidue, .cell row col, n, row, s.victim use.ticket, 0, 0, false, s.count, use.work⟩) :=
  (State.onError_runs h0 h1).trans (if_neg (by simp [h]))

/-- A column is pending once the sums of the column are held for the retry (R115). -/
def Tile.pend (t : Tile) (col : Nat) : Tile :=
  { t with pendCols := if t.pendCols.contains col then t.pendCols else t.pendCols ++ [col] }

theorem State.pendColumn_eq (s : State) (n col : Nat) : s.pendColumn n col = s.modTile n (fun t => t.pend col) := rfl

theorem Tile.mem_pendCols_pend (t : Tile) (col : Nat) : col ∈ (t.pend col).pendCols := by
  unfold Tile.pend
  dsimp only
  split
  · next h => exact List.contains_iff_mem.1 h
  · exact List.mem_append_right _ (List.mem_singleton.2 rfl)

/-- The block whose idle tile handler has taken a cell error: the error counted, and its column pending. -/
def State.cellTaken (s : State) (n col : Nat) (e : Err) : State :=
  ((s.bump .cellResidue 1).pendColumn n col).setHandler (.tile n) ⟨some e, []⟩

theorem State.cellTaken_keeps (s : State) (n col : Nat) (e : Err) : Keeps [.tiles, .counters] s (s.cellTaken n col e) :=
  (((Keeps.refl _ s).then (State.bump_keeps s .cellResidue 1)).then (State.pendColumn_keeps _ n col)).then
    (State.modTile_keeps _ n (fun t => { t with handler := ⟨some e, []⟩ }))

theorem State.cellTaken_tile (s : State) {n : Nat} (hn : n < 16) (col : Nat) (e : Err) :
    (s.cellTaken n col e).tile n = { (s.tile n).pend col with handler := ⟨some e, []⟩ } := by
  unfold State.cellTaken State.setHandler
  rw [State.pendColumn_eq]
  dsimp only
  rw [State.modTile_modTile _ hn, State.tile_modTile _ _ _ hn]
  rfl

/-- The retry of a taken error is that of the error where it was found: its length rests on neither tiles nor counters. -/
theorem State.cellTaken_tileLoadRetry (s : State) (n col : Nat) (e : Err) :
    (s.cellTaken n col e).tileLoadRetry n e = s.tileLoadRetry n e := rfl

/-- The block once the retry of a taken cell error has begun and is logged. -/
def State.cellRetried (s : State) (n col : Nat) (e : Err) : State :=
  ((s.cellTaken n col e).startRetry (s.tileLoadRetry n e)).logErr (.tile n) e .retried

theorem State.cellRetried_keeps (s : State) (n col : Nat) (e : Err) :
    Keeps [.tickets, .tiles, .retries, .counters, .log, .logWritten] s (s.cellRetried n col e) :=
  (((Keeps.refl _ s).then (s.cellTaken_keeps n col e)).then (State.startRetry_keeps ..)).then (State.logErr_keeps ..)

theorem State.cellRetried_tile (s : State) {n : Nat} (hn : n < 16) (col : Nat) (e : Err) :
    (s.cellRetried n col e).tile n = { (s.tile n).pend col with handler := ⟨some e, []⟩ } :=
  (State.tile_congr (u := s.cellRetried n col e) (s := s.cellTaken n col e) rfl n).trans (s.cellTaken_tile hn col e)

/-- The error and its retry are counted, each in its own counter (R372). -/
theorem State.cellRetried_counters (s : State) (n col : Nat) (e : Err) :
    (s.cellRetried n col e).counter .retryTile = s.counter .retryTile + 1 ∧
      (s.cellRetried n col e).counter .cellResidue = s.counter .cellResidue + 1 := by
  have hbumps : (s.cellRetried n col e).counters = ((s.bump .cellResidue 1).bump .retryTile 1).counters := rfl
  constructor
  · rw [State.counter_congr hbumps, State.counter_bump, State.counter_bump_ne _ _ _ _ (by decide)]
    rfl
  · rw [State.counter_congr hbumps, State.counter_bump_ne _ _ _ _ (by decide), State.counter_bump]
    rfl

/-- The block once the retry of a cell error that is no third of its row is counted on the row. -/
def State.cellCounted (s : State) (n row col : Nat) (e : Err) : State :=
  (s.cellRetried n col e).modTile n (fun t => t.countRetry row)

theorem State.cellCounted_keeps (s : State) (n row col : Nat) (e : Err) :
    Keeps [.tickets, .tiles, .retries, .counters, .log, .logWritten] s (s.cellCounted n row col e) :=
  (s.cellRetried_keeps n col e).then (State.modTile_keeps ..)

theorem State.cellCounted_tile (s : State) {n : Nat} (hn : n < 16) (row col : Nat) (e : Err) :
    (s.cellCounted n row col e).tile n =
      Tile.countRetry { (s.tile n).pend col with handler := ⟨some e, []⟩ } row := by
  unfold State.cellCounted
  rw [State.tile_modTile _ _ _ hn, s.cellRetried_tile hn col e]

theorem State.cellCounted_retries (s : State) (n row col : Nat) (e : Err) :
    (s.cellCounted n row col e).retries = s.retries ++ [s.tileLoadRetry n e] :=
  calc (s.cellCounted n row col e).retries
    _ = ((s.cellTaken n col e).startRetry (s.tileLoadRetry n e)).retries :=
      (State.logErr_keeps _ (.tile n) e .retried).same .retries (by decide)
    _ = (s.cellTaken n col e).retries ++ [s.tileLoadRetry n e] := State.startRetry_retries ..
    _ = s.retries ++ [s.tileLoadRetry n e] :=
      congrArg (· ++ [s.tileLoadRetry n e]) ((s.cellTaken_keeps n col e).same .retries (by decide))

theorem State.cellCounted_logWritten (s : State) (n row col : Nat) (e : Err) :
    (s.cellCounted n row col e).logWritten = s.logWritten + 1 :=
  calc (s.cellCounted n row col e).logWritten
    _ = ((s.cellTaken n col e).startRetry (s.tileLoadRetry n e)).logWritten + 1 :=
      State.logErr_logWritten _ (.tile n) e .retried
    _ = (s.cellTaken n col e).logWritten + 1 :=
      congrArg (· + 1) ((State.startRetry_keeps ..).same .logWritten (by decide))
    _ = s.logWritten + 1 := congrArg (· + 1) ((s.cellTaken_keeps n col e).same .logWritten (by decide))

theorem State.cellCounted_counter (s : State) (n row col : Nat) (e : Err) (c : Counter) :
    (s.cellCounted n row col e).counter c = (s.cellRetried n col e).counter c := rfl

theorem State.cellCounted_tickets (s : State) (n row col : Nat) (e : Err) :
    (s.cellCounted n row col e).tickets = (s.startRetry (s.tileLoadRetry n e)).tickets := rfl

/-- An error of a checked row that is no third of its row is retried and counted on the row, at an idle handler. -/
theorem execCellResidueError_retried {s : State} {n row : Nat} (h0 : s.startup ≠ .reset) (h1 : s.startup ≠ .whiteout)
    (hn : n < 16) (h : s.rowChecked n row = true) (hidle : (s.tile n).handler = Handler.idle)
    (hcount : vget (s.tile n).retries row ≠ 2) (col : Nat) (use : ArrayUse) :
    execCellResidueError n row col use s = .next (s.cellCounted n row col
      ⟨.cellResidue, .cell row col, n, row, s.victim use.ticket, 0, 0, false, s.count, use.work⟩) := by
  refine (execCellResidueError_checked h0 h1 h col use).trans (congrArg _ ?_)
  generalize he : (⟨.cellResidue, .cell row col, n, row, s.victim use.ticket, 0, 0, false, s.count, use.work⟩ : Err) = e
  obtain ⟨-, -, -, hentry⟩ := (s.rowChecked_iff n row).1 h
  have hperform := (s.cellTaken n col e).perform_cellResidue (n := n) (e := e) (by rw [← he]) (by rw [← he])
  rw [State.cellTaken_tileLoadRetry] at hperform
  have hfree : (((s.bump .cellResidue 1).pendColumn n col).tile n).handler = Handler.idle :=
    (congrArg Tile.handler (State.tile_modTile (s.bump .cellResidue 1) n (fun t => t.pend col) hn)).trans hidle
  have htile := s.cellRetried_tile hn col e
  calc ((s.bump .cellResidue 1).pendColumn n col).detect (.tile n) e
    _ = ((s.cellTaken n col e).perform (some (.tile n)) (.tile n) e).1 :=
      State.detect_idleTile (s := (s.bump .cellResidue 1).pendColumn n col) hn h1 hfree e (congrArg Prod.snd hperform)
    _ = (s.cellRetried n col e).countRow n row e := congrArg Prod.fst hperform
    _ = s.cellCounted n row col e :=
      State.countRow_notThird (by rw [htile]; exact hentry) (by rw [htile]; exact hcount) e

/-- Settles O36: the error is taken by its idle handler, and the retry it starts is counted on the row alone. -/
theorem cellErrorRetriesItsTileLoad : Obligations.CellErrorRetriesItsTileLoad := by
  intro s n row col use h0 h1 hn h hidle hcount e len
  obtain ⟨-, hrow, -, -⟩ := (s.rowChecked_iff n row).1 h
  obtain ⟨hretry, hresidue⟩ := s.cellRetried_counters n col e
  have htile := s.cellCounted_tile hn row col e
  refine ⟨s.cellCounted n row col e, execCellResidueError_retried h0 h1 hn h hidle hcount col use,
    s.cellCounted_retries n row col e,
    (s.cellCounted_tickets n row col e).trans (s.startRetry_tickets (s.tileLoadRetry n e)),
    (s.cellCounted_counter n row col e _).trans hretry, (s.cellCounted_counter n row col e _).trans hresidue,
    ?_, ?_, ?_, s.cellCounted_logWritten n row col e, s.cellCounted_keeps n row col e⟩
  · rw [htile]
    exact vget_vset _ _ _ hrow
  · rw [htile]
    rfl
  · rw [htile]
    exact (s.tile n).mem_pendCols_pend col

end Sys2Proof.Machine
end

section
/-! The ticket timers: a frame missing at its peer deadline, a stall at its limit, a CHECK frame missing at its deadline (R56,
R317 to R319). -/
namespace Sys2Proof.Machine

/-- A launched command that is ended is launched no more, and holds its status and its offset from its launch (R321). -/
theorem State.endLaunch_stops {s : State} {q : Nat} {t : Ticket} {r : Running} (h : s.launched q = some (t, r))
    (st : Status) :
    (s.endLaunch q st).launched q = none ∧
      ∃ x : Ticket, (s.endLaunch q st).ticket q = some x ∧ x.ended = some (st, 0, s.tick - r.launchTick) := by
  obtain ⟨x, hx, hended⟩ := State.endLaunch_ends h st
  exact ⟨State.launched_none_of_ended hx hended, x, hx, hended⟩

section
variable {s : State} {q : Nat} (h0 : s.startup ≠ .reset)
include h0

/-! ### No launched figure -/

theorem execPeerDeadline_missing (h : s.launched q = none) : execPeerDeadline q s = .fault .noSuchTicket :=
  (State.awake_runs h0).trans (by simp only [h])

theorem execStallLimit_missing (h : s.launched q = none) : execStallLimit q s = .fault .noSuchTicket :=
  (State.awake_runs h0).trans (by simp only [h])

theorem execCheckDeadline_missing (h : s.launched q = none) : execCheckDeadline q s = .fault .noSuchTicket :=
  (State.awake_runs h0).trans (by simp only [h])

section
variable {t : Ticket} {r : Running} (hl : s.launched q = some (t, r))
include hl

/-! ### PEER_DEADLINE (R317 to R319) -/

theorem execPeerDeadline_noExchange (h : r.exch = none) : execPeerDeadline q s = .next s :=
  (State.awake_runs h0).trans (by simp only [hl, h])

theorem execPeerDeadline_exchange {e : Exch} (he : r.exch = some e) :
    execPeerDeadline q s = .next (
      if s.peerDue r e = false ∨ e.stalled = true then s
      else if t.op.policy = true ∧ (s.part t.part).settleWithout = true then (s.passOver t e).pump
      else s.modRun q (fun r => { r with exch := some { e with stalled := true } })) := by
  refine (State.awake_runs h0).trans ?_
  simp only [hl, he, Bool.or_eq_true, Bool.not_eq_true', Bool.and_eq_true]
  split
  · rfl
  · split <;> rfl

/-! ### STALL_LIMIT (R255, R318) -/

theorem execStallLimit_noExchange (h : r.exch = none) : execStallLimit q s = .next s :=
  (State.awake_runs h0).trans (by simp only [hl, h])

theorem execStallLimit_exchange {e : Exch} (he : r.exch = some e) :
    execStallLimit q s = .next (
      if e.stalled = true ∧ s.settings.stallLimit.toNat ≠ 0 ∧ s.settings.stallLimit.toNat ≤ e.stallCount then
        (s.endLaunch q .unrecovered).pump
      else s) := by
  refine (State.awake_runs h0).trans ?_
  simp only [hl, he, Bool.and_eq_true, decide_eq_true_eq]
  split <;> rfl

/-! ### CHECK_DEADLINE (R56) -/

/-- A CHECK frame missing at its deadline is counted, and ends its command. -/
theorem execCheckDeadline_launched :
    execCheckDeadline q s = .next (
      if r.phase = .checking ∧ s.checkDue t r = true then ((s.bump .checkMisses 1).endLaunch q .unrecovered).pump else s) := by
  refine (State.awake_runs h0).trans ?_
  simp only [hl, Bool.and_eq_true, beq_iff_eq]
  split <;> rfl

end
end

/-- The stall limit's condition in the settings' own word. -/
theorem stallLimit_toNat_ne_zero {v : U32} : v.toNat ≠ 0 ↔ v ≠ 0 := by
  rw [ne_eq, ne_eq, ← BitVec.toNat_inj]
  rfl

/-- Settles O44: each row out of reset is one of the cases above. -/
theorem deadlinesPassOverStallOrEnd : Obligations.DeadlinesPassOverStallOrEnd := by
  intro s q h0
  refine ⟨fun hl => ⟨execPeerDeadline_missing h0 hl, execStallLimit_missing h0 hl, execCheckDeadline_missing h0 hl⟩,
    fun t r hl => ⟨fun he => ⟨execPeerDeadline_noExchange h0 hl he, execStallLimit_noExchange h0 hl he⟩,
      fun e he => ?_, fun hphase hdue => ?_, fun h => ?_⟩⟩
  · have hpeer := execPeerDeadline_exchange h0 hl he
    have hstall := execStallLimit_exchange h0 hl he
    refine ⟨fun hdue hwaits => ?_, fun h => hpeer.trans (by rw [if_pos h]), fun hst hne hle => ?_, fun h => ?_⟩
    · have hnow : ¬(s.peerDue r e = false ∨ e.stalled = true) := by simp [hdue, hwaits]
      rw [if_neg hnow] at hpeer
      refine ⟨fun hpol => hpeer.trans (by rw [if_pos hpol]), fun hpol => ?_⟩
      rw [if_neg hpol] at hpeer
      exact ⟨_, hpeer, State.launched_modRun _ hl, State.modRun_keeps ..⟩
    · rw [if_pos ⟨hst, stallLimit_toNat_ne_zero.2 hne, hle⟩] at hstall
      exact ⟨_, hstall, State.endLaunch_stops hl .unrecovered⟩
    · refine hstall.trans ?_
      rw [if_neg (by rwa [stallLimit_toNat_ne_zero])]
  · have hmissed := execCheckDeadline_launched h0 hl
    rw [if_pos ⟨hphase, hdue⟩] at hmissed
    exact ⟨_, hmissed, State.endLaunch_stops (s := s.bump .checkMisses 1) hl .unrecovered⟩
  · refine (execCheckDeadline_launched h0 hl).trans ?_
    rw [if_neg (by rw [not_and_or, Bool.not_eq_true]; exact h)]

end Sys2Proof.Machine
end

section
/-! The tile errors: a row whose checks are enabled and an accumulator bank of an active tile hand their error to the tile's
handler, and anything else raises nothing (R92, R93, R105, R115, R116, R118, R384). -/
namespace Sys2Proof.Machine

section
variable {s : State} (h0 : s.startup ≠ .reset) (h1 : s.startup ≠ .whiteout) (n row col : Nat) (use : ArrayUse)
include h0 h1

/-! ### Rows whose checks are disabled, and disabled tiles (R118) -/

theorem execCellResidueError_unchecked (h : s.rowChecked n row = false) :
    execCellResidueError n row col use s = .next s :=
  (State.onError_runs h0 h1).trans (if_pos (by simp [h]))

theorem execRegisterParityError_unchecked (h : s.rowChecked n row = false) :
    execRegisterParityError n row col use s = .next s :=
  (State.onError_runs h0 h1).trans (if_pos (by simp [h]))

theorem execAccumulatorResidueError_inactive (h : s.tileActive n = false) :
    execAccumulatorResidueError ⟨n, col⟩ use s = .next s :=
  (State.onError_runs h0 h1).trans (if_pos (by simp [h]))

theorem execAccumulatorUncorrectable_inactive (h : s.tileActive n = false) :
    execAccumulatorUncorrectable ⟨n, col⟩ use s = .next s :=
  (State.onError_runs h0 h1).trans (if_pos (by simp [h]))

/-! ### Errors that reach the tile's handler -/

/-- A parity error of a checked row also loses the cell's register (R93). -/
theorem execRegisterParityError_checked (h : s.rowChecked n row = true) :
    execRegisterParityError n row col use s =
      .next ((((s.bump .registerParity 1).pendColumn n col).spoilCell n row col).detect (.tile n)
        ⟨.registerParity, .cell row col, n, row, s.victim use.ticket, 0, 0, false, s.count, use.work⟩) :=
  (State.onError_runs h0 h1).trans (if_neg (by simp [h]))

theorem execAccumulatorResidueError_active (h : s.tileActive n = true) :
    execAccumulatorResidueError ⟨n, col⟩ use s =
      .next (((s.bump .accumulatorResidue 1).pendColumn n (col % 32)).detect (.tile n)
        ⟨.accResidue, .accumulator (col % 32), n, 0xFF, s.victim use.ticket, 0, 0, false, s.count, use.work⟩) :=
  (State.onError_runs h0 h1).trans (if_neg (by simp [h]))

/-- An uncorrectable accumulator leaves no sums pending: its command ends (R116). -/
theorem execAccumulatorUncorrectable_active (h : s.tileActive n = true) :
    execAccumulatorUncorrectable ⟨n, col⟩ use s =
      .next ((s.bump .accumulatorUncorrectable 1).detect (.tile n)
        ⟨.accUncorrectable, .accumulator (col % 32), n, 0xFF, s.victim use.ticket, 0, 0, false, s.count, use.work⟩) :=
  (State.onError_runs h0 h1).trans (if_neg (by simp [h]))
end

/-- Settles O33: the four rows, each with its checks enabled and disabled. -/
theorem tileErrorsGoToTheirHandler : Obligations.TileErrorsGoToTheirHandler := by
  intro s n row col use h0 h1
  refine ⟨fun h => ⟨?_, ?_⟩, fun h => ⟨?_, ?_⟩, fun h => ⟨?_, ?_⟩, fun h => ⟨?_, ?_⟩⟩
  · exact execCellResidueError_checked h0 h1 h col use
  · exact execRegisterParityError_checked h0 h1 n row col use h
  · exact execCellResidueError_unchecked h0 h1 n row col use h
  · exact execRegisterParityError_unchecked h0 h1 n row col use h
  · exact execAccumulatorResidueError_active h0 h1 n col use h
  · exact execAccumulatorUncorrectable_active h0 h1 n col use h
  · exact execAccumulatorResidueError_inactive h0 h1 n col use h
  · exact execAccumulatorUncorrectable_inactive h0 h1 n col use h

end Sys2Proof.Machine
end

section
/-! Start-up from the release of RST_N to READY (R124, R285, R390, R447, R465, R468 to R472). -/
namespace Sys2Proof.Machine

/-! ### Zeroisation and Whiteout on the way -/

/-- Zeroisation leaves the Vault zeroised (R449). -/
theorem State.beginZeroise_zeroised (s : State) : s.beginZeroise.vault.state = .zeroised := by
  have hkept : s.beginZeroise.vault = s.zeroiseBlock.vault :=
    (State.followParts_keeps s.zeroiseBlock).same .vault (by decide)
  rw [hkept, State.zeroiseBlock]

/-- Before READY no partition moves the start-up state, so zeroisation leaves it (R469). -/
theorem State.beginZeroise_startup {s : State} (h0 : s.startup ≠ .ready) (h1 : s.startup ≠ .run) :
    s.beginZeroise.startup = s.startup := by
  have hzeroise : s.zeroiseBlock.startup = s.startup := (State.zeroiseBlock_keeps s).same .startup (by decide)
  have hwaits : ¬(s.zeroiseBlock.startup = .ready ∨ s.zeroiseBlock.startup = .run) := by
    rw [hzeroise]
    exact not_or.2 ⟨h0, h1⟩
  rw [State.beginZeroise, State.followParts, if_neg hwaits, hzeroise]

/-- Whiteout under cause 0x04 fails the Vault (R447). -/
theorem State.enterWhiteout_four_failed {s : State} (h : s.startup ≠ .whiteout) :
    (s.enterWhiteout 4).vault.state = .failed := by
  unfold State.enterWhiteout
  rw [if_neg (by simpa using h)]
  have hkept : ∀ u : State, (u.respondDeferred .whiteout).vault = u.vault := fun u =>
    (State.respondDeferred_keeps u .whiteout).same .vault (by decide)
  rw [hkept, if_pos rfl]

/-! ### Release of RST_N and SELFTEST_ENTRY (R465, R468, R472) -/

theorem execResetRelease_asserted {s : State} (h : s.startup = .reset) (hrst : s.rstAsserted = true) (a b c : Bool) :
    execResetRelease a b c s = .next { s with
      rstAsserted := false, released := true, testMode := a, zeroisePin := b, tamperPin := c,
      ins := Vector.ofFn (fun i => ⟨true, inEntries.getD i.val 0⟩) } :=
  if_neg (by simp [State.dormant, h, hrst])

theorem execSelftestEntry_released {s : State} (h : s.startup = .reset) (hrel : s.released = true)
    (htest : s.testMode = false) :
    execSelftestEntry s = .next (if s.zeroisePin || s.tamperPin then { s with startup := .selftest }.beginZeroise
      else { s with startup := .selftest }) :=
  if_neg (by simp [State.dormant, h, hrel, htest])

/-! ### The report of the self-tests (R390, R393, R446, R447, R469) -/

/-- The block with the repair map and the spare-word map that a report gives (R393, R395). -/
def State.takeMaps (s : State) (r : TestReport) : State :=
  r.spares.foldl (fun (s : State) p => { s with bankSpares := vset s.bankSpares p.1 (min 16 p.2) })
    (s.tileNos.foldl (fun (s : State) n => s.modTile n (fun t => { t with entry := repairEntry (r.tiles.getD n []) })) s)

theorem State.takeMaps_keeps (s : State) (r : TestReport) : Keeps [.tiles, .bankSpares] s (s.takeMaps r) :=
  ((Keeps.refl _ s).foldl (fun u n => (State.modTile_keeps u n _).mono (by decide))).foldl
    (fun u _ => Keeps.set_bankSpares (Keeps.refl _ u))

/-- Of the Vault a report changes the failed-test map alone. -/
theorem State.takeReport_vault (s : State) (r : TestReport) :
    (s.takeReport r).vault = { s.vault with failures := r.vaultMap &&& 0x7FF } :=
  congrArg (fun v : Vault => { v with failures := r.vaultMap &&& 0x7FF })
    ((s.takeMaps_keeps r).same .vault (by decide))

theorem State.takeReport_startup (s : State) (r : TestReport) : (s.takeReport r).startup = s.startup :=
  (State.takeReport_keeps s r).same .startup (by decide)

/-- A block whose tests have passed and whose Vault waits for ENROL (R429). -/
def State.awaitEnrol (s : State) : State := { s with vault := { s.vault with state := .awaitingEnrol } }

section
variable {s : State} {r : TestReport} (h : s.startup = .selftest) (hdone : s.testsDone = false)
include h hdone

/-- A report in SELFTEST before one was taken, where `bad` says whether a Vault test failed (R390, R446, R447). -/
theorem execSelftestComplete_first {bad : Bool} (hbad : ((r.vaultMap &&& 0x7FF) != 0) = bad) :
    execSelftestComplete r s =
      if !(r.failed || bad) && s.vault.state == .selfTesting && s.vault.drbg.isNone then .next s
      else if r.failed then .next ((s.takeReport r).enterWhiteout 3)
      else if r.failed || bad then .next ((s.takeReport r).enterWhiteout 4)
      else if (s.takeReport r).activeTiles.isEmpty then .next ((s.takeReport r).enterWhiteout 2)
      else if (s.takeReport r).vault.state = .zeroised then .next (s.takeReport r)
      else .next (s.takeReport r).awaitEnrol.leaveSelftest := by
  subst hbad
  exact if_neg (by simp [h, hdone])

theorem execSelftestComplete_failed (hfail : r.failed = true) :
    execSelftestComplete r s = .next ((s.takeReport r).enterWhiteout 3) := by
  simp [execSelftestComplete_first h hdone rfl, hfail]

theorem execSelftestComplete_vaultFailed (hfail : r.failed = false) (hmap : r.vaultMap &&& 0x7FF ≠ 0) :
    execSelftestComplete r s = .next ((s.takeReport r).enterWhiteout 4) := by
  simp [execSelftestComplete_first h hdone (bne_iff_ne.2 hmap), hfail]

/-- A report that passes waits for CTR_DRBG (R446). -/
theorem execSelftestComplete_waits (hfail : r.failed = false) (hmap : r.vaultMap &&& 0x7FF = 0)
    (hstate : s.vault.state = .selfTesting) (hdrbg : s.vault.drbg = none) :
    execSelftestComplete r s = .next s := by
  simp [execSelftestComplete_first h hdone (bne_eq_false_iff_eq.2 hmap), hfail, hstate, hdrbg]

theorem execSelftestComplete_passed (hfail : r.failed = false) (hmap : r.vaultMap &&& 0x7FF = 0)
    (hstate : s.vault.state ≠ .zeroised) (hdrbg : s.vault.drbg ≠ none) (htiles : (s.takeReport r).activeTiles ≠ []) :
    execSelftestComplete r s = .next (s.takeReport r).awaitEnrol.leaveSelftest := by
  have hkept : (s.takeReport r).vault.state ≠ .zeroised := by rwa [State.takeReport_vault]
  simp [execSelftestComplete_first h hdone (bne_eq_false_iff_eq.2 hmap), hfail, hdrbg, htiles, hkept]
end

/-- SELFTEST with its tests passed is left where ENROL has been accepted, and only there (R469). -/
theorem State.awaitEnrol_leaves {s : State} (h : s.startup = .selftest) (hdone : s.testsDone = true) :
    s.awaitEnrol.leaveSelftest.testsDone = true ∧
      s.awaitEnrol.leaveSelftest.startup = (if s.vault.enrolled then .image else .selftest) ∧
      s.awaitEnrol.leaveSelftest.vault.state = (if s.vault.enrolled then .operational else .awaitingEnrol) := by
  cases hen : s.vault.enrolled with
  | false => simp [State.leaveSelftest, State.awaitEnrol, h, hdone, hen]
  | true => simp [State.leaveSelftest, State.awaitEnrol, h, hdone, hen]

/-! ### MGT_ADVANCE and READY_ENTRY (R124, R285, R469) -/

theorem execMgtAdvance_image {s : State} (h : s.startup = .image) :
    execMgtAdvance s = .next { s with startup := .profile, download := none } := by
  simp [execMgtAdvance, State.awake, State.dormant, h]

theorem execMgtAdvance_profile {s : State} (h : s.startup = .profile) :
    execMgtAdvance s = .next (if s.vault.state = .operational then { s with advancing := true } else s) := by
  simp [execMgtAdvance, State.awake, State.dormant, h]

/-- One more seeding, whatever the number of slices (R285). -/
theorem State.seedSleet_seedings (s : State) : s.seedSleet.seedings = s.seedings + 1 := by
  have hslices : Keeps [.slices] (s.vaultDraw 16).2
      ((upto (s.vaultDraw 16).2.grade.slices).foldl (fun (u : State) n => u.modSlice n (fun c => { c with
        sleet := sleetSeed (leNat ((s.vaultDraw 16).1.take 8), leNat ((s.vaultDraw 16).1.drop 8)) n u.seedings }))
        (s.vaultDraw 16).2) :=
    (Keeps.refl _ _).foldl (fun u n => State.modSlice_keeps u n _)
  exact congrArg (· + 1) ((hslices.same .seedings (by decide)).trans
    ((State.vaultDraw_keeps s 16).same .seedings (by decide)))

/-- A tile with its pinned entry in force (R120; log 43). -/
def Tile.pin (t : Tile) : Tile := { t with force := t.pinned }

/-- The tiles with the pinned map in force (R469). -/
def State.pinTiles (s : State) : State := { s with tiles := s.tiles.map Tile.pin }

/-- The block as it enters READY: Sleet seeded, the pinned map in force, Reel bring-up begun (R285, R294, R469). -/
def State.enterReady (s : State) : State :=
  { s.seedSleet.pinTiles with startup := .ready, advancing := false, linksBegun := true }

theorem State.enterReady_tiles (s : State) : s.enterReady.tiles = s.pinTiles.tiles :=
  congrArg (Vector.map Tile.pin) ((State.seedSleet_keeps s).same .tiles (by decide))

/-- Seeding changes no tile, so the active tiles are those of the pinned map. -/
theorem State.enterReady_activeTiles (s : State) : s.enterReady.activeTiles = s.pinTiles.activeTiles := by
  have hgrade : s.enterReady.grade = s.pinTiles.grade := (State.seedSleet_keeps s).grade
  unfold State.activeTiles State.tileNos
  rw [s.enterReady_tiles, hgrade]

theorem execReadyEntry_advancing {s : State} (h : s.startup = .profile) (hadv : s.advancing = true)
    (hop : s.vault.state = .operational) :
    execReadyEntry s = .next (if s.enterReady.activeTiles.isEmpty then s.enterReady.enterWhiteout 2
      else s.enterReady.renewLinks) :=
  (State.awake_runs (by simp [h])).trans (if_neg (by simp [h, hadv, hop]))

theorem execReadyEntry_active {s : State} (h : s.startup = .profile) (hadv : s.advancing = true)
    (hop : s.vault.state = .operational) (htiles : s.pinTiles.activeTiles ≠ []) :
    ∃ u : State, execReadyEntry s = .next u ∧ u.startup = .ready ∧ u.advancing = false ∧ u.sleetRunning = true ∧
      u.seedings = s.seedings + 1 ∧ u.linksBegun = true ∧ u.tiles = s.pinTiles.tiles := by
  have hlinks := State.renewLinks_keeps s.enterReady
  refine ⟨s.enterReady.renewLinks, (execReadyEntry_advancing h hadv hop).trans ?_, hlinks.same .startup (by decide),
    hlinks.same .advancing (by decide), hlinks.same .sleetRunning (by decide),
    (hlinks.same .seedings (by decide)).trans s.seedSleet_seedings, hlinks.same .linksBegun (by decide),
    (hlinks.same .tiles (by decide)).trans s.enterReady_tiles⟩
  rw [if_neg (by simpa [s.enterReady_activeTiles] using htiles)]

/-- With no active tile the block goes to Whiteout instead (R124). -/
theorem execReadyEntry_noTile {s : State} (h : s.startup = .profile) (hadv : s.advancing = true)
    (hop : s.vault.state = .operational) (htiles : s.pinTiles.activeTiles = []) :
    execReadyEntry s = .next (s.enterReady.enterWhiteout 2) := by
  refine (execReadyEntry_advancing h hadv hop).trans ?_
  rw [if_pos (by simpa [s.enterReady_activeTiles] using htiles)]

/-- Settles O59: each start-up row in the states in which R465 to R472 let it act. -/
theorem startUpRunsInOrder : Obligations.StartUpRunsInOrder := by
  intro s
  refine ⟨fun a b c h hrst => execResetRelease_asserted h hrst a b c, fun h hrel htest => ?_, fun r h hdone => ?_,
    execMgtAdvance_image, execMgtAdvance_profile,
    fun h hadv hop => ⟨execReadyEntry_active h hadv hop, fun htiles => ?_⟩⟩
  · have hentry := execSelftestEntry_released h hrel htest
    refine ⟨fun hz ht => hentry.trans (by simp [hz, ht]), fun hpin => ?_⟩
    rw [if_pos (by simpa using hpin)] at hentry
    exact ⟨_, hentry, State.beginZeroise_startup (by decide : Startup.selftest ≠ .ready)
      (by decide : Startup.selftest ≠ .run), State.beginZeroise_zeroised _⟩
  · have htaken : (s.takeReport r).startup = .selftest := (s.takeReport_startup r).trans h
    have houtside : (s.takeReport r).startup ≠ .whiteout := by simp [htaken]
    refine ⟨fun hfail => ?_, fun hfail hmap => ?_, execSelftestComplete_waits h hdone,
      fun hfail hmap hstate hdrbg htiles => ?_⟩
    · exact ⟨_, execSelftestComplete_failed h hdone hfail, State.enterWhiteout_enters houtside 3⟩
    · obtain ⟨hstartup, hcause⟩ := State.enterWhiteout_enters houtside 4
      exact ⟨_, execSelftestComplete_vaultFailed h hdone hfail hmap, hstartup, hcause,
        State.enterWhiteout_four_failed houtside⟩
    · have hleaves := State.awaitEnrol_leaves htaken (rfl : (s.takeReport r).testsDone = true)
      rw [s.takeReport_vault r] at hleaves
      exact ⟨_, execSelftestComplete_passed h hdone hfail hmap hstate hdrbg htiles, hleaves⟩
  · exact ⟨_, execReadyEntry_noTile h hadv hop htiles,
      State.enterWhiteout_enters (by decide : Startup.ready ≠ .whiteout) 2⟩

end Sys2Proof.Machine
end

section
/-! LOADW and EVICTW: one region of Firn gets new bytes and a new state at the end of its command (R133, R135, R137). -/
namespace Sys2Proof.Machine

theorem State.region_congr {s u : State} (h : u.regions = s.regions) (n : Nat) : u.region n = s.region n := by
  unfold State.region
  rw [h]

/-- Bytes stored from a region's first page on, and the region changed. -/
def State.refill (s : State) (n : Nat) (bs : Bytes) (f : Region → Region) : State :=
  { s with firn := s.firn.store (s.region n).addr bs }.modRegion n f

theorem State.refill_keeps (s : State) (n : Nat) (bs : Bytes) (f : Region → Region) :
    Keeps [.regions, .firn] s (s.refill n bs f) :=
  (Keeps.set_firn (Keeps.refl _ s) (fun h => Memory.store_wf h _ _)).then (State.modRegion_keeps ..)

theorem State.region_refill (s : State) {n : Nat} (bs : Bytes) (f : Region → Region) (hn : n < 64) :
    (s.refill n bs f).region n = f (s.region n) :=
  State.region_modRegion _ n f hn

theorem State.region_refill_ne (s : State) {n m : Nat} (bs : Bytes) (f : Region → Region) (h : m ≠ n) :
    (s.refill n bs f).region m = s.region m :=
  State.region_modRegion_ne _ n m f h

/-- The end of a command's work touches no region and no byte of Firn. -/
theorem State.finishWith_firn (s : State) (q : Nat) (f : Result → Result) :
    (s.finishWith q f).regions = s.regions ∧ (s.finishWith q f).firn = s.firn :=
  ⟨(State.finishWith_keeps s q f).same .regions (by decide), (State.finishWith_keeps s q f).same .firn (by decide)⟩

/-- A command that ends with its region refilled: the region is the changed one, its first bytes are the new ones, and no
other region and no other byte of Firn changes. -/
theorem State.refill_finishes {s : State} {q : Nat} {t : Ticket} {r : Running} (h : s.launched q = some (t, r)) {n : Nat}
    (hn : n < 64) (bs : Bytes) (f : Region → Region) :
    let u := (s.refill n bs f).finishWith q id
    Finished u q t r.result ∧ u.region n = f (s.region n) ∧ (∀ m : Nat, m ≠ n → u.region m = s.region m) ∧
      (∀ a : Nat, u.firn.byte a = if (s.region n).addr ≤ a ∧ a < (s.region n).addr + bs.length
        then bs.getD (a - (s.region n).addr) 0 else s.firn.byte a) ∧
      Keeps ([.regions, .firn] ++ finishFlds) s u := by
  intro u
  obtain ⟨hregions, hfirn⟩ := (s.refill n bs f).finishWith_firn q id
  have hlaunched : (s.refill n bs f).launched q = some (t, r) :=
    (State.launched_congr ((s.refill_keeps n bs f).same .tickets (by decide)) q).trans h
  refine ⟨State.finishWith_finished id hlaunched, (State.region_congr hregions n).trans (s.region_refill bs f hn),
    fun m hm => (State.region_congr hregions m).trans (s.region_refill_ne bs f hm), fun a => ?_,
    ((Keeps.refl _ s).then (s.refill_keeps n bs f)).then (State.finishWith_keeps ..)⟩
  rw [hfirn]
  exact Memory.byte_store s.firn (s.region n).addr bs a

/-! ### EVICTW (R137) -/

/-- A region after its eviction. -/
def Region.evicted (g : Region) : Region := { g with state := .empty, descriptor := [] }

theorem execEvictw_ready {s : State} {q : Nat} {t : Ticket} {r : Running} (h : Ready s q .evictw t r) :
    execEvictw q s = .next ((s.refill t.areaByte (List.replicate (s.region t.areaByte).bytes 0)
      Region.evicted).finishWith q id) := by
  obtain ⟨hseq, -⟩ := seqOf h.launched
  refine (State.engine_ready h).trans ?_
  rw [hseq]
  rfl

/-- Settles O9: EVICTW refills its region with as many zeros as its pages hold. -/
theorem evictwZeroesItsRegion : Obligations.EvictwZeroesItsRegion := by
  intro s q t r h hn
  obtain ⟨hfinished, hregion, helse, hbytes, hkeeps⟩ := State.refill_finishes h.launched hn
    (List.replicate (s.region t.areaByte).bytes 0) Region.evicted
  refine ⟨_, execEvictw_ready h, hfinished, congrArg Region.state hregion, helse, fun a => ?_, hkeeps⟩
  rw [hbytes a, List.length_replicate, List.getD_eq_getElem?_getD,
    List.getElem?_getD_replicate_default_eq]

/-! ### LOADW (R135, R129) -/

/-- A region that holds the image of a LOADW, whose descriptor it records. -/
def Region.loadedBy (t : Ticket) (m : Memory) (g : Region) : Region :=
  { g with state := .resident, descriptor := t.blocks.take 64, mapAscending := t.desc.ascending m }

theorem execLoadw_good {s : State} {q : Nat} {t : Ticket} {r : Running} (h : Ready s q .loadw t r)
    (hgood : s.firstBad t r = none) :
    execLoadw q s = .next ((s.refill t.areaByte (t.desc.imageBytes s.mem)
      (Region.loadedBy t s.mem)).finishWith q id) := by
  obtain ⟨hseq, -⟩ := seqOf h.launched
  refine (State.engine_ready h).trans ?_
  rw [hgood, ← hseq]
  rfl

theorem execLoadw_bad {s : State} {q : Nat} {t : Ticket} {r : Running} (h : Ready s q .loadw t r) {n : Nat}
    {v : SetVerdict} (hbad : s.firstBad t r = some (n, v)) : execLoadw q s = .next (s.judgeSet t r n v) := by
  refine (State.engine_ready h).trans ?_
  rw [hbad]

/-- Settles O10: with every set good LOADW refills its region with the image; else the first bad set is judged. -/
theorem loadwLoadsOrJudges : Obligations.LoadwLoadsOrJudges := by
  intro s q t r h hn
  refine ⟨fun hgood => ?_, fun n v => execLoadw_bad h⟩
  obtain ⟨hfinished, hregion, hrest⟩ := State.refill_finishes h.launched hn (t.desc.imageBytes s.mem)
    (Region.loadedBy t s.mem)
  exact ⟨_, execLoadw_good h hgood, hfinished, congrArg Region.state hregion, congrArg Region.descriptor hregion, hrest⟩

end Sys2Proof.Machine
end

section
/-! The end of a retry, the scrub and background rereads (R146 to R151, R373, R374, R384). -/
namespace Sys2Proof.Machine

section
variable {s : State} (h0 : s.startup ≠ .reset) (h1 : s.startup ≠ .whiteout)
include h0 h1

/-! ### RETRY_END (R373, R374) -/

theorem execRetryEnd_none (h : s.retries = []) (b : Bool) : execRetryEnd b s = .next s := by
  refine (State.onError_runs h0 h1).trans ?_
  rw [h]

theorem execRetryEnd_pops {r : Retry} {rest : List Retry} (h : s.retries = r :: rest) (hkind : r.kind ≠ .firnReread)
    (b : Bool) : execRetryEnd b s = .next (s.popRetry r) := by
  refine (State.onError_runs h0 h1).trans ?_
  rw [h]
  dsimp only
  split
  · next hreread _ => exact absurd hreread hkind
  · rfl

/-- A Firn reread goes on holding until its bytes have come, and is judged then (R146). -/
theorem execRetryEnd_reread {r : Retry} {rest : List Retry} (h : s.retries = r :: rest) {e : Err}
    (hkind : r.kind = .firnReread) (herr : r.err = some e) (b : Bool) :
    execRetryEnd b s = if s.rereading (.reread e.region e.set)
      then .next { s with retries := { r with late := true } :: rest } else .next (s.endReread r e b) := by
  refine (State.onError_runs h0 h1).trans ?_
  rw [h]
  dsimp only
  rw [hkind, herr]

/-! ### SCRUB_READ (R151) -/

theorem execScrubRead_none (h : s.scrubAt = none) (f : ScrubFound) : execScrubRead f s = .next { s with scrub := 0 } := by
  refine (State.onError_runs h0 h1).trans ?_
  rw [h]

section
variable {w g : Nat} {m : State} (h : s.scrubAt = some (w, g, m))
include h

theorem execScrubRead_good : execScrubRead .good s = .next { m with scrub := w + 1 } := by
  refine (State.onError_runs h0 h1).trans ?_
  rw [h]

theorem execScrubRead_corrected (still : Bool) :
    execScrubRead (.corrected still) s =
      .next (({ m with scrub := w + 1 }.bump .firnCorrections 1).stillBad .firnScrub (w % 256) g none still) := by
  refine (State.onError_runs h0 h1).trans ?_
  rw [h]

theorem execScrubRead_uncorrectable : execScrubRead .uncorrectable s = .next ({ m with scrub := w + 1 }.scrubBad w g) := by
  refine (State.onError_runs h0 h1).trans ?_
  rw [h]
end

/-! ### BACKGROUND_REREAD_DONE (R147, R151) -/

theorem execBackgroundRereadDone_none {g n : Nat}
    (h : s.background.find? (fun b => b.region == g && b.set == n) = none) (still : Bool) :
    execBackgroundRereadDone g n still s = .next s := by
  refine (State.onError_runs h0 h1).trans ?_
  rw [h]

/-- A background reread whose bytes have come and pass is written back, and the handler takes its next error. -/
theorem execBackgroundRereadDone_passes {g n : Nat} {b : Background}
    (h : s.background.find? (fun b => b.region == g && b.set == n) = some b)
    (hcome : s.rereading (.background g n) = false) (hholds : s.holdsShard g = true) (hgood : b.bad = false)
    (hok : s.rereadOk g n = true) (still : Bool) :
    execBackgroundRereadDone g n still s =
      .next (((s.writeBack g n).stillBad .firnScrub b.bank g none still).endBackground b) := by
  refine (State.onError_runs h0 h1).trans ?_
  simp [h, hcome, hholds, hgood, hok]
end

/-- Settles O37: outside RESET and Whiteout each row is one of the cases above, where a word that still fails is retired
and one that does not is left. -/
theorem retriesAndTheScrubGoOn : Obligations.RetriesAndTheScrubGoOn := by
  intro s h0 h1
  refine ⟨execRetryEnd_none h0 h1,
    fun r rest b h => ⟨fun hkind => ?_, fun e hkind herr => ⟨fun hwait => ?_, fun hcome => ?_⟩⟩,
    execScrubRead_none h0 h1, fun w g m h => ⟨?_, ?_, ?_, ?_⟩, fun g n b h hcome hholds hgood hok => ⟨?_, ?_⟩,
    fun g n b h => ?_⟩
  · exact execRetryEnd_pops h0 h1 h hkind b
  · exact (execRetryEnd_reread h0 h1 h hkind herr b).trans (if_pos hwait)
  · exact (execRetryEnd_reread h0 h1 h hkind herr b).trans (if_neg (by simp [hcome]))
  · exact execScrubRead_good h0 h1 h
  · exact execScrubRead_corrected h0 h1 h false
  · exact execScrubRead_corrected h0 h1 h true
  · exact execScrubRead_uncorrectable h0 h1 h
  · exact execBackgroundRereadDone_passes h0 h1 h hcome hholds hgood hok false
  · exact execBackgroundRereadDone_passes h0 h1 h hcome hholds hgood hok true
  · exact execBackgroundRereadDone_none h0 h1 h b

end Sys2Proof.Machine
end

section
/-! The commands that score and select (STEP, SCORE, SETTLE, VERIFY, BEAM, LOSS), and GRAD and REDUCE: what SCORE leaves in its
contexts and its work area (R230, R231, R347), and how far the others go in a group and alone (R216, R221, R305). -/
namespace Sys2Proof.Machine

/-! ### The row of a figure that makes no swap into a stale set (R104) -/

theorem State.unlessStale_none {s : State} {r : Running} (h : s.swapFault r = none) (t : Ticket) (done : State) :
    s.unlessStale t r done = done := by
  unfold State.unlessStale
  rw [h]

theorem State.engine_unlessStale {s : State} {q : Nat} {o : Op} {t : Ticket} {r : Running} (h : Ready s q o t r)
    (hswap : s.swapFault r = none) (work : Ticket → Running → State) :
    s.engine q o (fun t r => .next (s.unlessStale t r (work t r))) = .next (work t r) :=
  (State.engine_ready h).trans (congrArg _ (State.unlessStale_none hswap t (work t r)))

/-! ### SCORE (R230, R231, R347) -/

/-- The summaries of some contexts marked scored under a step (R230). -/
def State.markScored (s : State) (ctxs : List Nat) (step : Nat) : State :=
  ctxs.foldl (fun (s : State) c => s.modCtx c (fun x => { x with summary := { x.summary with mark := .scored step } })) s

theorem State.markScored_keeps (s : State) (ctxs : List Nat) (step : Nat) : Keeps [.ctxs] s (s.markScored ctxs step) :=
  (Keeps.refl _ s).foldl (fun _ _ => State.modCtx_keeps ..)

/-- A context that is among those marked, or was marked so before, is marked: no later mark takes it back. -/
theorem State.markScored_mark {ctxs : List Nat} {step c : Nat} (hc : c < 256) {s : State}
    (h : c ∈ ctxs ∨ (s.ctx c).summary.mark = .scored step) :
    ((s.markScored ctxs step).ctx c).summary.mark = .scored step := by
  induction ctxs generalizing s with
  | nil => exact h.resolve_left List.not_mem_nil
  | cons d ctxs ih =>
    refine ih ?_
    by_cases hcd : c = d
    · subst hcd
      rw [State.ctx_modCtx _ _ _ hc]
      exact .inr rfl
    · rw [State.ctx_modCtx_ne _ _ _ _ hcd]
      exact h.imp_left (fun hmem => (List.mem_cons.1 hmem).resolve_left hcd)

/-- A work area that holds the rows kept for a SETTLE (R231). -/
def Region.keeping (k : Kept) (g : Region) : Region :=
  { g with state := if g.state = RegionState.degraded then .degraded else .resident, kept := some k }

/-- What the work area of a SCORE records of its rows. -/
def Ticket.keptRecord (t : Ticket) (rows : List CastRow) : Kept :=
  ⟨t.entries.map StreamEnt.ctx, t.stepValue, t.actFmt, t.desc.h, rows.map CastRow.scale⟩

theorem State.keepRows_refill (s : State) (t : Ticket) (rows : List CastRow) :
    s.keepRows t rows = s.refill (t.b 0x9A) (rows.flatMap CastRow.bytes) (Region.keeping (t.keptRecord rows)) := rfl

/-- The scores that a SCORE writes for all its streams (R347). -/
def State.putScores (s : State) (t : Ticket) (scores : List (List Score)) : State :=
  (scores.zip (upto scores.length)).foldl (fun (s : State) e => s.scoreOutputs t e.2 e.1) s

theorem scoreOutputs_runs (t : Ticket) (p : Nat) (scores : List Score) (s : State) :
    RunsMapped t.seq s (s.scoreOutputs t p scores) := by
  refine foldl_runs _ (fun u i => ?_) _ s
  dsimp only
  split
  · exact writeHost_runs ..
  · exact RunsMapped.of_tickets rfl

theorem State.putScores_runs (s : State) (t : Ticket) (scores : List (List Score)) :
    RunsMapped t.seq s (s.putScores t scores) := by
  unfold State.putScores
  refine foldl_runs _ (fun u e => ?_) _ s
  exact scoreOutputs_runs t e.2 e.1 u

theorem State.putScores_keeps (s : State) (t : Ticket) (scores : List (List Score)) :
    Keeps [.mem, .outs, .reads, .tickets, .writes, .written] s (s.putScores t scores) :=
  (Keeps.refl _ s).foldl (fun _ _ => State.scoreOutputs_keeps ..)

/-- The block once a SCORE has scored its rows and marked its contexts. -/
def State.scoredAndMarked (s : State) (t : Ticket) : State :=
  ((s.scoreAll t).2.2.2.addFlags t.seq (s.scoreAll t).2.2.1).markScored (t.entries.map StreamEnt.ctx) t.stepValue

theorem State.scoredAndMarked_runs (s : State) (t : Ticket) : RunsMapped t.seq s (s.scoredAndMarked t) :=
  ((scoreAll_runs s t).trans (addFlags_runs ..)).trans (of_keeps (State.markScored_keeps ..) (by decide))

theorem State.scoredAndMarked_region (s : State) (t : Ticket) (n : Nat) : (s.scoredAndMarked t).region n = s.region n :=
  State.region_congr ((((State.markScored_keeps ..).same .regions (by decide)).trans
    ((State.addFlags_keeps ..).same .regions (by decide))).trans ((State.scoreAll_keeps s t).same .regions (by decide))) n

theorem State.scoredAndMarked_mark (s : State) {t : Ticket} {c : Nat} (h : c ∈ t.entries.map StreamEnt.ctx) (hc : c < 256) :
    ((s.scoredAndMarked t).ctx c).summary.mark = .scored t.stepValue :=
  State.markScored_mark hc (.inl h)

theorem State.doScore_eq (s : State) (t : Ticket) :
    s.doScore t = (((s.scoredAndMarked t).keepRows t (s.scoreAll t).2.1.rows).putScores t (s.scoreAll t).1).finishWith t.seq id :=
  rfl

/-- After its rows are kept a SCORE writes scores and ends: the contexts and the regions stand. -/
theorem State.doScore_ctxs_regions (s : State) (t : Ticket) :
    (s.doScore t).ctxs = (s.scoredAndMarked t).ctxs ∧
      (s.doScore t).regions = ((s.scoredAndMarked t).keepRows t (s.scoreAll t).2.1.rows).regions := by
  rw [State.doScore_eq]
  have hfinish := State.finishWith_keeps (((s.scoredAndMarked t).keepRows t (s.scoreAll t).2.1.rows).putScores t
    (s.scoreAll t).1) t.seq id
  have hscores := State.putScores_keeps ((s.scoredAndMarked t).keepRows t (s.scoreAll t).2.1.rows) t (s.scoreAll t).1
  exact ⟨((hfinish.same .ctxs (by decide)).trans (hscores.same .ctxs (by decide))).trans
      ((State.keepRows_keeps ..).same .ctxs (by decide)),
    (hfinish.same .regions (by decide)).trans (hscores.same .regions (by decide))⟩

theorem State.doScore_region (s : State) {t : Ticket} (h : t.b 0x9A < 64) :
    (s.doScore t).region (t.b 0x9A) = (s.region (t.b 0x9A)).keeping (t.keptRecord (s.scoreAll t).2.1.rows) := by
  rw [State.region_congr (s.doScore_ctxs_regions t).2, State.keepRows_refill, State.region_refill _ _ _ h,
    State.scoredAndMarked_region]

theorem State.doScore_finished {s : State} {t : Ticket} {r : Running} (h : s.launched t.seq = some (t, r)) :
    ∃ res, Finished (s.doScore t) t.seq t res := by
  have hkept : RunsMapped t.seq s ((s.scoredAndMarked t).keepRows t (s.scoreAll t).2.1.rows) :=
    (s.scoredAndMarked_runs t).trans (of_keeps (State.keepRows_keeps ..) (by decide))
  obtain ⟨r', hlaunched⟩ := (hkept.trans (State.putScores_runs _ t (s.scoreAll t).1)).launched h
  exact ⟨_, (State.finishWith_finished id hlaunched).of_run⟩

/-- Settles O15: the marks stand from the marking of the contexts on, and the work area from the keeping of the rows on. -/
theorem scoreMarksItsContexts : Obligations.ScoreMarksItsContexts := by
  intro s q t r h hswap
  obtain ⟨rfl, -⟩ := seqOf h.launched
  obtain ⟨res, hfinished⟩ := State.doScore_finished h.launched
  refine ⟨s.doScore t, res, State.engine_unlessStale h hswap (fun t _ => s.doScore t), hfinished, fun c hmem hc => ?_,
    fun harea => ?_⟩
  · rw [State.ctx_congr (s.doScore_ctxs_regions t).1]
    exact s.scoredAndMarked_mark hmem hc
  · rw [s.doScore_region harea]
    exact ⟨rfl, rfl⟩

/-! ### Round 1 in a group (R216, R305) -/

/-- A LOSS whose metadata is of its exponent scores its tokens (R246). -/
theorem State.doLoss_fits {s : State} {t : Ticket} {r : Running}
    (h : t.smooths = false ∨ r.streamed = true ∨ s.egBroken t = false) : s.doLoss t r = s.lossScore t r := by
  refine if_neg ?_
  obtain h | h | h := h <;> simp [h]

/-- Settles O16: each row is its member's own part, after which the exchange awaits the children. -/
theorem rowsAwaitTheirChildren : Obligations.RowsAwaitTheirChildren := by
  intro s q t r hquiet
  refine ⟨fun h hswap => ?_, fun h hswap => ?_, fun h hswap => ?_, fun h hswap => ?_, fun h hswap hfits => ?_, fun h => ?_,
    fun h hswap hfits htokens hwidth => ?_⟩
  · exact ⟨_, State.engine_unlessStale h hswap s.doSelect, doSelect_begins hquiet h.launched⟩
  · exact ⟨_, State.engine_unlessStale h hswap s.doSelect, doSelect_begins hquiet h.launched⟩
  · exact ⟨_, State.engine_unlessStale h hswap s.doSelect, doSelect_begins hquiet h.launched⟩
  · exact ⟨_, State.engine_unlessStale h hswap (fun t r => ((s.markSleet t).startRound1 t r).pump),
      settle_begins hquiet h.launched⟩
  · refine ⟨_, State.engine_unlessStale h hswap (fun t r => (s.doLoss t r).pump), ?_⟩
    rw [State.doLoss_fits hfits]
    exact lossScore_begins hquiet h.launched
  · exact ⟨_, State.engine_ready h, reduce_begins hquiet h.launched⟩
  · obtain ⟨hmetadata, htransposed, hrecords⟩ := hfits
    exact ⟨_, State.engine_unlessStale h hswap (fun t r => (s.doGrad t r).pump),
      grad_begins hquiet h.launched hmetadata hrecords htransposed htokens hwidth⟩

/-! ### Rows that round 1 settles in a member alone (R221) -/

theorem State.rowCount_step {s : State} {t : Ticket} (h : t.op = .step) : s.rowCount t = t.streams := by
  simp [State.rowCount, h]

theorem State.rowCount_settle {s : State} {t : Ticket} (h : t.op = .settle) : s.rowCount t = t.streams := by
  simp [State.rowCount, h]

/-- Only a VERIFY takes a second highest key (R238). -/
theorem Ticket.noOther_of_ne {t : Ticket} (h : t.op ≠ .verify) (p : Bytes) : t.noOther p = true := by
  simp [Ticket.noOther, h]

/-- Every row of a VERIFY is under the controls of its one stream (R238). -/
theorem Ticket.rowCtx_verify {t : Ticket} (h : t.op = .verify) (i : Nat) : t.rowCtx i = (t.stream 0).ctx := by
  simp [Ticket.rowCtx, h]

/-- Settles O17: alone, each row goes through its exchange to the end of its work. -/
theorem loneMembersFinish : Obligations.LoneMembersFinish := by
  intro s q t r halone hswap
  refine ⟨fun h hone => ?_, fun h hone => ?_, fun h hone hother => ?_, fun h => ?_, fun h hfits => ?_⟩
  · have hop := h.opcode
    have hrows := State.rowCount_step (s := s) hop
    obtain ⟨res, hfinished, hres, -, hkeeps⟩ := doSelect_finishes (r := r) halone h.launched (by rw [hop]; decide)
      (.inr fun i hi => ⟨hone i (hrows ▸ hi), Ticket.noOther_of_ne (by rw [hop]; decide) _⟩)
    exact ⟨_, res, State.engine_unlessStale h hswap s.doSelect, hfinished, by simpa [hop, hrows] using hres, hkeeps⟩
  · have hrows := State.rowCount_settle (s := s) h.opcode
    obtain ⟨res, hfinished, hres, hkeeps⟩ := settle_finishes (r := r) halone h.launched h.opcode
      (fun i hi => hone i (hrows ▸ hi))
    exact ⟨_, res, State.engine_unlessStale h hswap (fun t r => ((s.markSleet t).startRound1 t r).pump), hfinished,
      hres.trans hrows, hkeeps⟩
  · have hop := h.opcode
    obtain ⟨res, hfinished, hres, -, hkeeps⟩ := doSelect_finishes (r := r) halone h.launched (by rw [hop]; decide)
      (.inr fun i _ => by rw [Ticket.rowCtx_verify hop]; exact ⟨hone, hother⟩)
    exact ⟨_, res, State.engine_unlessStale h hswap s.doSelect, hfinished, by simpa [hop] using hres, hkeeps⟩
  · have hop := h.opcode
    obtain ⟨res, hfinished, -, hres, hkeeps⟩ := doSelect_finishes (r := r) halone h.launched (by rw [hop]; decide) (.inl hop)
    exact ⟨_, res, State.engine_unlessStale h hswap s.doSelect, hfinished, hres hop, hkeeps⟩
  · obtain ⟨res, hfinished, hkeeps⟩ := lossScore_finishes (r := r) halone h.launched h.opcode
    rw [← State.doLoss_fits hfits] at hfinished hkeeps
    exact ⟨_, res, State.engine_unlessStale h hswap (fun t r => (s.doLoss t r).pump), hfinished, hkeeps⟩

end Sys2Proof.Machine
end

section
/-! SEED_IMPORT and SEED_KEY_DEFERRED_WRITE: what an import does of an idle partition and of one that has received a ticket
since its release, and when a held seed takes its effect (R435 to R437). -/
namespace Sys2Proof.Machine

/-! ### A service that is carried out (R420, R433) -/

/-- Out of reset the latched request is served by the row of its operation. -/
theorem State.onRequest_runs {s : State} {op : Nat} {f : State → State} (h0 : s.startup ≠ .reset)
    (hlatched : s.window.latched = true) (hop : s.req.op = op) : s.onRequest op f = .next (f s) := by
  have hawake : s.dormant = false := by simpa [State.dormant] using h0
  simp [State.onRequest, State.testing, hawake, hlatched, hop]

/-- A service whose state, caller and length are right is carried out, outside RESET and Whiteout and while no advance is
under way. -/
theorem State.service_runs {s : State} {code : Nat} {inWhiteout stateOk : Bool} {c : Caller} {len : Nat} {f : State → State}
    (h0 : s.startup ≠ .reset) (h1 : s.startup ≠ .whiteout) (hlatched : s.window.latched = true) (hop : s.req.op = code)
    (hstate : stateOk = true) (hadvancing : s.advancing = false) (hcaller : s.callerOk c = true)
    (hlength : s.req.payload.length = len) : s.service code inWhiteout stateOk c len f = .next (f s) := by
  unfold State.service
  rw [State.onRequest_runs h0 hlatched hop]
  simp [h1, hstate, hadvancing, hcaller, hlength]

theorem State.respond_window_ready (s : State) (status : MStatus) (payload : Bytes) :
    (s.respond status payload).window.ready = true := rfl

theorem State.respond_window_deferred (s : State) (status : MStatus) (payload : Bytes) :
    (s.respond status payload).window.deferred = none := rfl

theorem State.respond_part (s : State) (status : MStatus) (payload : Bytes) (n : Nat) :
    (s.respond status payload).part n = s.part n := State.part_congr rfl n

/-! ### A seed that takes effect, and one that is held (R436, R437) -/

/-- A partition whose seed, epoch and key have taken their new values, and that holds no other seed. -/
def Partition.withSeed (q : Partition) (p : Nat) (sd : Seed) : Partition :=
  { q with seed := some sd, key := partitionKey p sd, held := none }

theorem State.putSeed_part (s : State) {p : Nat} (h : p < 64) (sd : Seed) :
    (s.putSeed p sd).part p = (s.part p).withSeed p sd := State.part_modPart s p _ h

theorem State.putSeed_part_ne (s : State) {p n : Nat} (h : n ≠ p) (sd : Seed) : (s.putSeed p sd).part n = s.part n :=
  State.part_modPart_ne s p n _ h

/-- A partition that holds an imported seed, and keeps the seed and the key it had. -/
def Partition.holding (q : Partition) (sd : Seed) : Partition := { q with held := some sd }

/-- The block whose partition holds an imported seed: the response waits until the seed takes effect. -/
def State.holdSeed (s : State) (p : Nat) (sd : Seed) : State :=
  (s.modPart p (fun q => q.holding sd)).modWindow (fun w =>
    { w with latched := false, admitted := false, refused := false, deferred := some (.seed p) })

theorem State.holdSeed_part (s : State) {p : Nat} (h : p < 64) (sd : Seed) :
    (s.holdSeed p sd).part p = (s.part p).holding sd :=
  State.part_modPart s p (fun q => q.holding sd) h

theorem State.holdSeed_part_ne (s : State) {p n : Nat} (h : n ≠ p) (sd : Seed) : (s.holdSeed p sd).part n = s.part n :=
  State.part_modPart_ne s p n (fun q => q.holding sd) h

/-! ### SEED_IMPORT (R404, R435 to R437) -/

/-- An Operator's SEED_IMPORT of 68 bytes is latched, in a state that serves it. -/
structure SeedRequest (s : State) : Prop where
  latched : s.window.latched = true
  op : s.req.op = 0x14
  startup : s.startup = .profile ∨ s.startup = .ready ∨ s.startup = .run
  advancing : s.advancing = false
  role : s.reqRole = some .operator
  length : s.req.payload.length = 68

/-- The partition that a SEED_IMPORT names. -/
def State.seedPart (s : State) : Nat := field s.req.payload 0 1

theorem State.importAdmitted_iff (s : State) (idle : Bool) :
    s.importAdmitted idle = true ↔ s.window.admitted = true ∨ (s.window.refused = false ∧ idle = true) := by
  simp [State.importAdmitted]

/-- The block once an import's seed has been unwrapped and counted: the seed takes effect, or is held. -/
def State.takeSeed (s : State) (p : Nat) (sd : Seed) : State :=
  if s.partIdle p then ((s.bump .seedImports 1).putSeed p sd).respond .ok [] else (s.bump .seedImports 1).holdSeed p sd

theorem State.takeSeed_idle {s : State} {p : Nat} (h : s.partIdle p = true) (sd : Seed) :
    s.takeSeed p sd = ((s.bump .seedImports 1).putSeed p sd).respond .ok [] := if_pos h

theorem State.takeSeed_busy {s : State} {p : Nat} (h : s.partIdle p = false) (sd : Seed) :
    s.takeSeed p sd = (s.bump .seedImports 1).holdSeed p sd := if_neg (Bool.eq_false_iff.1 h)

/-- The block once an Operator's import of the right length has been judged by its release, its seed and its partition. -/
def State.importSeed (s : State) : State :=
  if !(s.importAdmitted (s.partIdle s.seedPart)) then s.respond .notIdle []
  else match s.unwrapSeed s.req.payload with
    | none => (s.bump .seedImportFailures 1).respond .refused []
    | some sd => s.takeSeed s.seedPart sd

section
variable {s : State} (h : SeedRequest s)
include h

theorem execSeedImport_served : execSeedImport s = .next s.importSeed := by
  have hup : s.startup ≠ .reset ∧ s.startup ≠ .whiteout := by
    obtain hs | hs | hs := h.startup <;> simp [hs]
  obtain ⟨h0, h1⟩ := hup
  exact State.service_runs h0 h1 h.latched h.op (by simpa [or_assoc] using h.startup) h.advancing
    (by simp [State.callerOk, h.role]) h.length

theorem execSeedImport_notIdle (hadm : s.importAdmitted (s.partIdle s.seedPart) = false) :
    execSeedImport s = .next (s.respond .notIdle []) :=
  (execSeedImport_served h).trans (by simp [State.importSeed, hadm])

variable (hadm : s.importAdmitted (s.partIdle s.seedPart) = true)
include hadm

theorem execSeedImport_refused (hseed : s.unwrapSeed s.req.payload = none) :
    execSeedImport s = .next ((s.bump .seedImportFailures 1).respond .refused []) :=
  (execSeedImport_served h).trans (by simp [State.importSeed, hadm, hseed])

theorem execSeedImport_unwrapped {sd : Seed} (hseed : s.unwrapSeed s.req.payload = some sd) :
    execSeedImport s = .next (s.takeSeed s.seedPart sd) :=
  (execSeedImport_served h).trans (by simp [State.importSeed, hadm, hseed])

end

/-! ### SEED_KEY_DEFERRED_WRITE (R437) -/

/-- The block once a held seed has taken its effect, with the response that waited for it. -/
def State.heldWritten (s : State) (p : Nat) (sd : Seed) : State :=
  if s.window.deferred = some (.seed p) then (s.putSeed p sd).respond .ok [] else s.putSeed p sd

theorem State.heldWritten_part (s : State) (p : Nat) (sd : Seed) (n : Nat) :
    (s.heldWritten p sd).part n = (s.putSeed p sd).part n := by
  unfold State.heldWritten
  split
  · exact State.respond_part ..
  · rfl

theorem State.heldWritten_answers {s : State} {p : Nat} (h : s.window.deferred = some (.seed p)) (sd : Seed) :
    s.heldWritten p sd = (s.putSeed p sd).respond .ok [] := if_pos h

section
variable {s : State} (h0 : s.startup ≠ .reset)
include h0

theorem execSeedKeyDeferredWrite_notHeld {p : Nat} (h : (s.part p).held = none) :
    execSeedKeyDeferredWrite p s = .next s :=
  (State.awake_runs h0).trans (by simp only [h])

theorem execSeedKeyDeferredWrite_busy {p : Nat} (hbusy : s.partIdle p = false) :
    execSeedKeyDeferredWrite p s = .next s :=
  (State.awake_runs h0).trans (by cases (s.part p).held <;> simp [hbusy])

theorem execSeedKeyDeferredWrite_idle {p : Nat} {sd : Seed} (h : (s.part p).held = some sd) (hidle : s.partIdle p = true) :
    execSeedKeyDeferredWrite p s = .next (s.heldWritten p sd) :=
  (State.awake_runs h0).trans (by simp only [h, hidle]; rfl)

end

/-- Settles O54: an import takes effect at once where its partition is idle, else the seed is held until it is. -/
theorem seedsTakeEffectWhenIdle : Obligations.SeedsTakeEffectWhenIdle := by
  intro s
  refine ⟨fun hlatched hop hstartup hadvancing hrole hlength => ?_, fun p h0 hnot => ?_, fun p sd h0 hp hheld hidle => ?_⟩
  · have h : SeedRequest s := ⟨hlatched, hop, hstartup, hadvancing, hrole, hlength⟩
    have hadm := s.importAdmitted_iff (s.partIdle s.seedPart)
    refine ⟨fun hnot => execSeedImport_notIdle h (Bool.eq_false_iff.2 (mt hadm.1 hnot)), fun hwas =>
      ⟨execSeedImport_refused h (hadm.2 hwas), fun sd hseed hp => ?_⟩⟩
    have hrow := execSeedImport_unwrapped h (hadm.2 hwas) hseed
    have hkeeps := ((execSeedImport_keeps s).go _ hrow).mono (v := [.parts, .window, .counters]) (by decide)
    obtain hidle | hbusy := Bool.eq_false_or_eq_true (s.partIdle s.seedPart)
    · rw [State.takeSeed_idle hidle] at hrow hkeeps
      refine ⟨_, hrow, s.counter_bump .seedImports 1, fun n hn => ?_, hkeeps, fun _ => ⟨?_, State.respond_window_ready ..⟩,
        fun hbusy => absurd hidle (Bool.eq_false_iff.1 hbusy)⟩
      · exact (State.respond_part ..).trans (State.putSeed_part_ne _ hn sd)
      · exact (State.respond_part ..).trans (State.putSeed_part _ hp sd)
    · rw [State.takeSeed_busy hbusy] at hrow hkeeps
      exact ⟨_, hrow, s.counter_bump .seedImports 1, fun n hn => State.holdSeed_part_ne _ hn sd, hkeeps,
        fun hidle => absurd hidle (Bool.eq_false_iff.1 hbusy), fun _ => ⟨State.holdSeed_part _ hp sd, rfl, rfl⟩⟩
  · obtain hnone | hbusy := hnot
    · exact execSeedKeyDeferredWrite_notHeld h0 hnone
    · exact execSeedKeyDeferredWrite_busy h0 hbusy
  · have hrow := execSeedKeyDeferredWrite_idle h0 hheld hidle
    refine ⟨_, hrow, ?_, fun n hn => ?_, fun hdeferred => ?_, (execSeedKeyDeferredWrite_keeps p s).go _ hrow⟩
    · exact (s.heldWritten_part p sd p).trans (s.putSeed_part hp sd)
    · exact (s.heldWritten_part p sd n).trans (s.putSeed_part_ne hn sd)
    · rw [State.heldWritten_answers hdeferred]
      exact ⟨State.respond_window_ready .., State.respond_window_deferred ..⟩

end Sys2Proof.Machine
end

section
/-! Reel frames that R300 discards, and frames and timers of a block whose Reel is silent (R294, R300, R391, R457). -/
namespace Sys2Proof.Machine

/-- R300 discards the frame: it is of a wrong form, or came on a tree port from another group. -/
def Discards (s : State) (f : RxFrame) : Prop :=
  frameFormOk f.bytes = false ∨ (f.port ∈ s.treePorts ∧ (Frame.read f.bytes).tag ≠ s.settings.groupTag.toNat)

/-- R300's test in the row's own words; the credit that goes back has no part in it. -/
theorem discards_iff (s : State) (f : RxFrame) :
    (!(frameFormOk f.bytes) || ((s.returnCredit (.reelRx f.port)).isTree f.port &&
      (Frame.read f.bytes).tag != (s.returnCredit (.reelRx f.port)).settings.groupTag.toNat)) = true ↔ Discards s f := by
  have htree : (s.returnCredit (.reelRx f.port)).treePorts = s.treePorts := rfl
  simp [Discards, State.isTree, htree]

/-- Before READY and in Whiteout a Reel row does nothing (R294, R391). -/
theorem State.onReel_silent {s : State} {g : State → Out} (h : ¬(s.startup = .ready ∨ s.startup = .run)) :
    s.onReel g = .next s := by
  obtain ⟨hready, hrun⟩ := not_or.1 h
  simp [State.onReel, State.awake, State.reelLive, hready, hrun]

section
variable {s : State} {f : RxFrame} {kind : Nat} {k : State → Frame → Out} (released : s.rstAsserted = false)
include released

theorem State.receive_silent (h : ¬(s.startup = .ready ∨ s.startup = .run)) :
    s.receive f kind k = .next (s.returnCredit (.reelRx f.port)) := by
  unfold State.receive
  rw [State.onPort_released released, State.onReel_silent (by simpa using h)]

theorem State.receive_discarded (live : s.startup = .ready ∨ s.startup = .run) (h : Discards s f) :
    s.receive f kind k = .next ((s.returnCredit (.reelRx f.port)).bump .framesDiscarded 1) := by
  unfold State.receive
  rw [State.onPort_released released, State.onReel_live (by simpa using live)]
  exact if_pos ((discards_iff s f).2 h)
end

/-- What R300 does with a frame whatever its type, every row of a received frame does. -/
theorem exec_frameRow {i : Instr} {f : RxFrame} {s : State} {o : Out} (h : frameRow i = some f)
    (ho : ∀ kind k, s.receive f kind k = o) : exec i s = o := by
  unfold frameRow at h
  split at h <;> cases h
  · exact (ho ftHello _ : execHello f s = o)
  · exact (ho ftIdle _ : execIdle f s = o)
  · exact (ho ftNak _ : execNak f s = o)
  · exact (ho ftExchange _ : execExchange f s = o)
  · exact (ho ftCheck _ : execCheck f s = o)
  · exact (ho ftAbort _ : execAbort f s = o)

section
variable {s : State} {p : Fin 4} (silent : ¬(s.startup = .ready ∨ s.startup = .run))
include silent

theorem execHelloTimer_silent : execHelloTimer p s = .next s := State.onReel_silent silent

theorem execIdleTimer_silent : execIdleTimer p s = .next s := State.onReel_silent silent

theorem execLinkReceiveTimeout_silent : execLinkReceiveTimeout p s = .next s := State.onReel_silent silent

theorem execReelFrameCrcFailure_silent (released : s.rstAsserted = false) {a : BadFrame} :
    execReelFrameCrcFailure p a s = .next (s.returnCredit (.reelRx p)) :=
  (State.onPort_released released).trans (State.onReel_silent (by simpa using silent))
end

/-- Settles O39: R300 comes before the frame's type, and a timer of a silent Reel does nothing. -/
theorem framesAreDiscardedWithoutNak : Obligations.FramesAreDiscardedWithoutNak := by
  intro i f s hrow released
  refine ⟨fun live hbad => exec_frameRow hrow fun _ _ => State.receive_discarded released live hbad, fun silent =>
    ⟨exec_frameRow hrow fun _ _ => State.receive_silent released silent, fun p => ⟨execHelloTimer_silent silent,
      execIdleTimer_silent silent, execLinkReceiveTimeout_silent silent, fun _ =>
      execReelFrameCrcFailure_silent silent released⟩⟩⟩

end Sys2Proof.Machine
end

section
/-! ABORT: what makes it new, what it ends, and where it waits (R321, R322). -/
namespace Sys2Proof.Machine

/-- The launch and the origin that an ABORT names (R299). -/
def Frame.abortEnt (fr : Frame) : AbortEnt := ⟨fr.part, fr.opcode, fr.groupSeq, field fr.payload 0 2⟩

/-- The ticket is of the launch that an ABORT names (R322). -/
def AbortEnt.names (a : AbortEnt) (t : Ticket) : Bool :=
  t.part == a.part && t.op.code == a.opcode && t.groupSeq == a.groupSeq && t.op.peer && t.cmdKnown

/-- The state in which a new ABORT is remembered, counted and sent on (R322). -/
def State.relayAbort (s : State) (p : Fin 4) (fr : Frame) : State :=
  let s1 := ({ s with abortSeen := s.abortSeen ++ [fr.abortEnt] }).bump .abortsReceived 1
  s1.putFrames (s1.upPorts.filter (fun q => q != p))
    (s1.abortFrame fr.abortEnt.part fr.abortEnt.opcode fr.abortEnt.groupSeq fr.abortEnt.origin (field fr.payload 2 1))

/-! ### Acknowledgements count the frames they let out, and nothing else -/

theorem acknowledged_counter (s : State) (f : RxFrame) {c : Counter} (hc : c ≠ .framesSent) :
    (s.acknowledged f).counter c = s.counter c := flushBacklog_counter _ _ _ hc

/-! ### A new ABORT is sent on -/

theorem putFrames_counter (s : State) (ps : List (Fin 4)) (f : Frame) (c : Counter) :
    (s.putFrames ps f).counter c = s.counter c :=
  State.counter_congr ((State.putFrames_keeps s ps f).same .counters (by decide)) c

theorem State.relayAbort_keeps (s : State) (p : Fin 4) (fr : Frame) :
    Keeps [.abortSeen, .counters, .outs, .ports] s (s.relayAbort p fr) :=
  ((Keeps.set_abortSeen (Keeps.refl _ s)).then (State.bump_keeps ..)).then (State.putFrames_keeps ..)

theorem State.relayAbort_abortSeen (s : State) (p : Fin 4) (fr : Frame) :
    (s.relayAbort p fr).abortSeen = s.abortSeen ++ [fr.abortEnt] :=
  (State.putFrames_keeps ..).same .abortSeen (by decide)

theorem State.relayAbort_counter (s : State) (p : Fin 4) (fr : Frame) :
    (s.relayAbort p fr).counter .abortsReceived = s.counter .abortsReceived + 1 :=
  (putFrames_counter ..).trans (State.counter_bump ..)

/-! ### The launch that it names (R322) -/

theorem State.endQuietly_ends {s : State} {q : Nat} {t : Ticket} {r : Running} (h : s.ticket q = some t)
    (hr : t.run = some r) (st : Status) :
    ∃ x : Ticket, (s.endQuietly q st).ticket q = some x ∧ x.ended = some (st, 0, s.tick - r.launchTick) := by
  have hkept : ((s.openWritten q st.noResult).loadFails q).tickets = s.tickets :=
    ((State.loadFails_keeps ..).same .tickets (by decide)).trans ((State.openWritten_keeps ..).same .tickets (by decide))
  refine ⟨_, State.ticket_modTicket_some ((State.ticket_congr hkept q).trans h) (fun _ => rfl), ?_⟩
  simp only [hr]

/-- A launch that runs and has not completed ends. -/
theorem State.takeAbort_running {s : State} {a : AbortEnt} {t : Ticket} {r : Running}
    (h : s.tickets.find? a.names = some t) (hr : t.run = some r) (hended : t.ended = none) (hphase : r.phase ≠ .finished) :
    s.takeAbort a = s.endQuietly t.seq .unrecovered := by
  unfold AbortEnt.names at h
  unfold State.takeAbort
  simp [h, hr, hended, hphase]

/-- An ABORT of a launch that is none of the block's is kept. -/
theorem State.takeAbort_unknown {s : State} {a : AbortEnt} (h : ∀ t ∈ s.tickets, a.names t = false)
    (hdone : ∀ e ∈ s.groupDone, ¬(e.part = a.part ∧ e.opcode = a.opcode ∧ e.groupSeq = a.groupSeq)) :
    s.takeAbort a = s.keepAbort a := by
  have hnone : s.tickets.find? a.names = none := List.find?_eq_none.2 (fun t ht => by simp [h t ht])
  have hnew : s.groupDone.any (fun e => e.part == a.part && e.opcode == a.opcode && e.groupSeq == a.groupSeq) = false :=
    List.any_eq_false.2 (fun e he => by simpa [and_assoc] using hdone e he)
  unfold AbortEnt.names at hnone
  unfold State.takeAbort
  simp [hnone, hnew]

/-! ### ABORT -/

section
variable {s : State} {f : RxFrame} (h : Admits s f) (hkind : (Frame.read f.bytes).kind = 0x3F)
include h hkind

theorem execAbort_seen (hseen : (Frame.read f.bytes).abortEnt ∈ s.abortSeen) :
    execAbort f s = .next (s.acknowledged f) := by
  have hkept : (s.acknowledged f).abortSeen = s.abortSeen := (s.acknowledged_keeps f).same .abortSeen (by decide)
  refine (h.receive hkind (by decide)).trans (if_pos ?_)
  rw [hkept]
  exact List.contains_iff_mem.2 hseen

theorem execAbort_new (hnew : (Frame.read f.bytes).abortEnt ∉ s.abortSeen) :
    execAbort f s = .next
      (((s.acknowledged f).relayAbort f.port (Frame.read f.bytes)).takeAbort (Frame.read f.bytes).abortEnt).pump := by
  have hkept : (s.acknowledged f).abortSeen = s.abortSeen := (s.acknowledged_keeps f).same .abortSeen (by decide)
  refine (h.receive hkind (by decide)).trans (if_neg ?_)
  rw [hkept]
  exact mt List.contains_iff_mem.1 hnew
end

/-- Settles O41: a new ABORT is remembered, counted and sent on before it is taken, and none of that touches the tickets, the
launches done or the table. -/
theorem abortIsTakenOnce : Obligations.AbortIsTakenOnce := by
  intro s f live released form tag up hkind fr a names
  have ha : Admits s f := ⟨live, released, form, tag, up⟩
  refine ⟨execAbort_seen ha hkind, fun hnew => ⟨_, execAbort_new ha hkind hnew, ?_⟩⟩
  have hack := s.acknowledged_keeps f
  have hseen := (s.acknowledged f).relayAbort_abortSeen f.port fr
  have hcount := (s.acknowledged f).relayAbort_counter f.port fr
  have hrelay := (hack.mono (v := [.abortSeen, .counters, .ins, .outs, .ports]) (by decide)).then
    ((s.acknowledged f).relayAbort_keeps f.port fr)
  rw [hack.same .abortSeen (by decide)] at hseen
  rw [acknowledged_counter s f (by decide)] at hcount
  generalize (s.acknowledged f).relayAbort f.port fr = m at hseen hcount hrelay ⊢
  have htickets : m.tickets = s.tickets := hrelay.same .tickets (by decide)
  have htake := m.takeAbort_keeps a
  refine ⟨(htake.same .abortSeen (by decide)).trans hseen,
    (State.counter_congr (htake.same .counters (by decide)) _).trans hcount,
    fun t r hnamed hticket hrun hended hphase => ?_, fun hunnamed hundone => ?_⟩
  · rw [State.takeAbort_running (by rw [htickets]; exact hnamed) hrun hended hphase]
    have htick : m.tick = s.tick := hrelay.same .tick (by decide)
    rw [← htick]
    exact State.endQuietly_ends ((State.ticket_congr htickets _).trans hticket) hrun _
  · have hdone : m.groupDone = s.groupDone := hrelay.same .groupDone (by decide)
    have htable : m.abortTable = s.abortTable := hrelay.same .abortTable (by decide)
    rw [State.takeAbort_unknown (by rw [htickets]; exact hunnamed) (by rw [hdone]; exact hundone), ← htable]
    exact ⟨rfl, htickets⟩

end Sys2Proof.Machine
end

section
/-! HELLO: a port's verdict on its neighbour's report, and what the verdict makes of the port (R294, R299, R302). -/
namespace Sys2Proof.Machine

/-- A well-formed frame of the group is not discarded. -/
theorem not_discards {s : State} {f : RxFrame} (form : frameFormOk f.bytes = true)
    (tag : f.port ∈ s.treePorts → (Frame.read f.bytes).tag = s.settings.groupTag.toNat) : ¬Discards s f := by
  rintro (hform | ⟨htree, hother⟩)
  · exact absurd form (by simp [hform])
  · exact hother (tag htree)

/-- A frame that R300 lets through on a link in any state reaches HELLO's row with its credit returned. -/
theorem State.receive_hello {s : State} {f : RxFrame} {k : State → Frame → Out} (live : s.startup = .ready ∨ s.startup = .run)
    (released : s.rstAsserted = false) (h : ¬Discards s f) (hkind : (Frame.read f.bytes).kind = ftHello) :
    s.receive f ftHello k = k (s.returnCredit (.reelRx f.port)) (Frame.read f.bytes) := by
  unfold State.receive
  rw [State.onPort_released released, State.onReel_live (by simpa using live)]
  refine (if_neg (mt (discards_iff s f).1 h)).trans ?_
  simp [hkind]

/-! ### The verdict (R294) -/

/-- The report is of a port of the member's own group. -/
def Report.Agrees (r : Report) (s : State) : Prop :=
  r.tag = s.settings.groupTag.toNat ∧ r.size = s.settings.groupSize.toNat ∧ r.treeDepth = s.settings.depth.toNat

theorem sameGroup_iff {s : State} {r : Report} : s.sameGroup r = true ↔ r.Agrees s := by
  simp [State.sameGroup, Report.Agrees, and_assoc]

section
variable {s : State} {p : Fin 4} {r : Report}

section
variable (hp : s.parentPort = some p)
include hp

theorem helloRole_parent : s.helloRole p = 0 := by simp [State.helloRole, hp]

theorem judgeHello_parent_up (h : r.role = 1 ∧ r.Agrees s ∧ r.depth + 1 ≤ s.settings.depth.toNat) :
    s.judgeHello p r = .up (some (r.depth + 1)) := by
  obtain ⟨hrole, hgroup, hdepth⟩ := h
  simp [State.judgeHello, helloRole_parent hp, hrole, sameGroup_iff.2 hgroup, hdepth]

theorem judgeHello_parent_misWired (h : ¬(r.role = 1 ∧ r.Agrees s ∧ r.depth + 1 ≤ s.settings.depth.toNat)) :
    s.judgeHello p r = .misWired := by
  unfold State.judgeHello
  rw [helloRole_parent hp]
  exact if_neg (by simpa [sameGroup_iff, and_assoc] using h)
end

section
variable (hp : s.parentPort ≠ some p) (hc : p ∈ s.childPorts)
include hp hc

theorem helloRole_child : s.helloRole p = 1 := by simp [State.helloRole, hp, hc]

theorem judgeHello_child_foreign (h : ¬(r.role = 0 ∧ r.Agrees s)) : s.judgeHello p r = .misWired := by
  unfold State.judgeHello
  rw [helloRole_child hp hc]
  exact if_pos (by simpa [← sameGroup_iff, imp_iff_not_or] using h)

/-- A child port's verdict on a parent port of its own group rests on the depths alone. -/
theorem judgeHello_child (h : r.role = 0 ∧ r.Agrees s) :
    s.judgeHello p r = if s.memberDepth = 0xFF then .wait
      else if r.depth = s.memberDepth.toNat + 1 then .up none else .misWired := by
  obtain ⟨hrole, hgroup⟩ := h
  simp [State.judgeHello, helloRole_child hp hc, hrole, sameGroup_iff.2 hgroup]
end

theorem judgeHello_side (hp : s.parentPort ≠ some p) (hc : p ∉ s.childPorts) :
    s.judgeHello p r = if r.role = 2 then .up none else .misWired := by
  simp [State.judgeHello, State.helloRole, hp, hc]

/-- Only the parent port's verdict gives the member a depth. -/
theorem judgeHello_depthless (hp : s.parentPort ≠ some p) (n : Nat) : s.judgeHello p r ≠ .up (some n) := by
  by_cases hc : p ∈ s.childPorts
  · by_cases h : r.role = 0 ∧ r.Agrees s
    · rw [judgeHello_child hp hc h]
      split
      · simp
      · split <;> simp
    · simp [judgeHello_child_foreign hp hc h]
  · rw [judgeHello_side hp hc]
    split <;> simp
end

/-! ### What the verdict makes of the port -/

/-- The port once it has recorded its neighbour's report. -/
def Port.recorded (pt : Port) (r : Report) : Port :=
  { pt with neighbour := BitVec.ofNat 16 r.id, neighbourTag := BitVec.ofNat 32 r.tag }

/-- The port once its verdict is carried out. -/
def HelloVerdict.settle : HelloVerdict → Port → Port
  | .up _, pt => pt.bringUp
  | .wait, pt => pt
  | .misWired, pt => { pt with state := .misWired }

/-- The member's depth once a port's verdict is carried out. -/
def HelloVerdict.depth : HelloVerdict → BitVec 8 → BitVec 8
  | .up (some n), _ => BitVec.ofNat 8 n
  | _, d => d

theorem HelloVerdict.settle_neighbour (v : HelloVerdict) (pt : Port) : (v.settle pt).neighbour = pt.neighbour := by
  cases v <;> rfl

theorem HelloVerdict.settle_neighbourTag (v : HelloVerdict) (pt : Port) :
    (v.settle pt).neighbourTag = pt.neighbourTag := by
  cases v <;> rfl

theorem HelloVerdict.depth_of_depthless {v : HelloVerdict} (h : ∀ n, v ≠ .up (some n)) (d : BitVec 8) : v.depth d = d := by
  cases v with
  | up o =>
    cases o with
    | none => rfl
    | some n => exact absurd rfl (h n)
  | wait => rfl
  | misWired => rfl

theorem takeHello_port (s : State) (p : Fin 4) (r : Report) :
    (s.takeHello p r).port p = (s.judgeHello p r).settle ((s.port p).recorded r) := by
  have hrecorded := s.port_modPort p (fun pt => pt.recorded r)
  unfold State.takeHello
  cases s.judgeHello p r with
  | up d => cases d <;> exact (State.port_modPort ..).trans (congrArg _ hrecorded)
  | wait => exact hrecorded
  | misWired => exact (State.port_modPort ..).trans (congrArg (fun pt : Port => { pt with state := .misWired }) hrecorded)

theorem takeHello_memberDepth (s : State) (p : Fin 4) (r : Report) :
    (s.takeHello p r).memberDepth = (s.judgeHello p r).depth s.memberDepth := by
  unfold State.takeHello
  cases s.judgeHello p r with
  | up d => cases d <;> rfl
  | wait => rfl
  | misWired => rfl

/-! ### A report's fields fit where the port keeps them -/

theorem leNat_lt (bs : Bytes) : leNat bs < 256 ^ bs.length := by
  induction bs with
  | nil => simp [leNat]
  | cons b bs ih =>
    have hb := b.isLt
    simp only [leNat, List.length_cons, pow_succ]
    omega

theorem slice_length (bs : Bytes) (o n : Nat) : (slice bs o n).length = n := by
  simp [slice]

theorem field_lt (bs : Bytes) (o n : Nat) : field bs o n < 256 ^ n := by
  simpa only [field, slice_length] using leNat_lt (slice bs o n)

/-! ### HELLO -/

section
variable {s : State} {f : RxFrame} (live : s.startup = .ready ∨ s.startup = .run) (released : s.rstAsserted = false)
  (h : ¬Discards s f) (hkind : (Frame.read f.bytes).kind = 0x01)
include live released h hkind

theorem execHello_unused (hrate : (s.port f.port).rate = 0) :
    execHello f s = .next (s.returnCredit (.reelRx f.port)) :=
  (State.receive_hello live released h hkind).trans (if_pos hrate)

theorem execHello_down (hrate : (s.port f.port).rate ≠ 0) (hstate : (s.port f.port).state ≠ .up) :
    execHello f s = .next ((s.returnCredit (.reelRx f.port)).takeHello f.port (Report.read (Frame.read f.bytes).payload)) := by
  have hport : (s.returnCredit (.reelRx f.port)).port f.port = s.port f.port := rfl
  refine (State.receive_hello live released h hkind).trans ((if_neg hrate).trans ?_)
  simp [hport, hstate]

theorem execHello_up (hrate : (s.port f.port).rate ≠ 0) (hstate : (s.port f.port).state = .up) :
    execHello f s = .next (((s.returnCredit (.reelRx f.port)).dropLink f.port).takeHello f.port
      (Report.read (Frame.read f.bytes).payload)) := by
  have hport : (s.returnCredit (.reelRx f.port)).port f.port = s.port f.port := rfl
  refine (State.receive_hello live released h hkind).trans ((if_neg hrate).trans ?_)
  simp [hport, hstate]
end

/-- A link that comes up has 8 credits and empty queues (R302). -/
theorem Port.bringUp_fresh (pt : Port) :
    pt.bringUp.state = .up ∧ pt.bringUp.credits = 8 ∧ pt.bringUp.rxq = [] ∧ pt.bringUp.unacked = [] ∧
      pt.bringUp.backlog = [] := ⟨rfl, rfl, rfl, rfl, rfl⟩

/-- Settles O42: a HELLO that meets a link that is not up is judged by the port's own configuration, and the verdict is carried
out on the port that recorded the report. -/
theorem helloBringsTheLinkUp : Obligations.HelloBringsTheLinkUp := by
  intro s f live released form tag hkind v r same fresh
  have h := not_discards form tag
  refine ⟨execHello_unused live released h hkind, execHello_up live released h hkind, fun hrate hstate =>
    ⟨_, execHello_down live released h hkind hrate hstate, ?_⟩⟩
  have hkeeps : Keeps [.ins, .ports, .memberDepth] s (v.takeHello f.port r) :=
    ((Keeps.refl _ s).then (State.returnCredit_keeps ..)).then (State.takeHello_keeps ..)
  have hjudge : v.judgeHello f.port r = s.judgeHello f.port r := rfl
  have hport := takeHello_port v f.port r
  have hdepth := takeHello_memberDepth v f.port r
  rw [hjudge] at hport hdepth
  refine ⟨?_, ?_, hkeeps, fun hp => ⟨fun hup => ?_, fun hnot => ?_⟩, fun hp => ?_,
    fun hp hc => ⟨fun hnot => ?_, fun hsame hunknown => ?_, fun hsame hknown hnext => ?_, fun hsame hknown hnext => ?_⟩,
    fun hp hc => ⟨fun hside => ?_, fun hside => ?_⟩⟩
  · rw [hport, HelloVerdict.settle_neighbour]
    exact Nat.mod_eq_of_lt (field_lt _ 0 2)
  · rw [hport, HelloVerdict.settle_neighbourTag]
    exact Nat.mod_eq_of_lt (field_lt _ 4 4)
  · rw [judgeHello_parent_up hp hup] at hport hdepth
    have hbyte := s.settings.depth.isLt
    refine ⟨by rw [hport]; exact Port.bringUp_fresh _, ?_⟩
    rw [hdepth]
    exact Nat.mod_eq_of_lt (by omega)
  · rw [hport, judgeHello_parent_misWired hp hnot]; rfl
  · exact hdepth.trans (HelloVerdict.depth_of_depthless (judgeHello_depthless hp) _)
  · rw [hport, judgeHello_child_foreign hp hc hnot]; rfl
  · rw [hport, judgeHello_child hp hc hsame, if_pos hunknown]; rfl
  · rw [hport, judgeHello_child hp hc hsame, if_neg hknown, if_pos hnext]; exact Port.bringUp_fresh _
  · rw [hport, judgeHello_child hp hc hsame, if_neg hknown, if_neg hnext]; rfl
  · rw [hport, judgeHello_side hp hc, if_pos hside]; exact Port.bringUp_fresh _
  · rw [hport, judgeHello_side hp hc, if_neg hside]; rfl

end Sys2Proof.Machine
end

section
/-! The link timers, and a frame whose CRC fails (R294, R300, R301, R303, R384, R461). -/
namespace Sys2Proof.Machine

section
variable {s : State} {p : Fin 4} (live : s.startup = .ready ∨ s.startup = .run)
include live

/-! ### The timers (R294, R303) -/

theorem execIdleTimer_up (h : (s.port p).state = .up) : execIdleTimer p s = .next (s.sendControl p 0x00 []) :=
  (State.onReel_live live).trans (if_pos h)

theorem execIdleTimer_down (h : (s.port p).state ≠ .up) : execIdleTimer p s = .next s :=
  (State.onReel_live live).trans (if_neg h)

theorem execLinkReceiveTimeout_up (h : (s.port p).state = .up) : execLinkReceiveTimeout p s = .next (s.dropLink p) :=
  (State.onReel_live live).trans (if_pos h)

theorem execLinkReceiveTimeout_down (h : (s.port p).state ≠ .up) : execLinkReceiveTimeout p s = .next s :=
  (State.onReel_live live).trans (if_neg h)

theorem execHelloTimer_notDue (h : (s.port p).rate = 0 ∨ (s.port p).state = .up) : execHelloTimer p s = .next s :=
  (State.onReel_live live).trans (if_pos h)

theorem execHelloTimer_due (h : ¬((s.port p).rate = 0 ∨ (s.port p).state = .up)) :
    execHelloTimer p s = .next ((s.modPort p (fun pt =>
      { pt with state := if pt.state = .unused then .bringUp else pt.state })).sendHello p) :=
  (State.onReel_live live).trans (if_neg h)
end

/-! ### REEL_FRAME_CRC_FAILURE (R300, R301, R384, R461) -/

/-- A frame whose CRC fails gives its credit back and is counted, and a parity error of its beats with it. -/
def State.crcCounted (s : State) (p : Fin 4) (a : BadFrame) : State :=
  (if a.parityOk then s.returnCredit (.reelRx p) else (s.returnCredit (.reelRx p)).portError).bump .crcFailures 1

section
variable {s : State} {p : Fin 4} {a : BadFrame} (live : s.startup = .ready ∨ s.startup = .run)
  (released : s.rstAsserted = false)
include live released

theorem execReelFrameCrcFailure_live :
    execReelFrameCrcFailure p a s = .next (
      if (s.port p).rate = 0 then s.crcCounted p a
      else if (s.port p).state ≠ .up then (s.crcCounted p a).sendControl p 0x02 []
      else if a.resend ≥ 3 then ((s.crcCounted p a).sendControl p 0x02 []).dropLink p
      else ((s.crcCounted p a).sendControl p 0x02 []).hit .block .reel (.port p.val) p.val 0xFF none) := by
  refine (State.onPort_released released).trans ((State.onReel_live (by simpa using live)).trans ?_)
  have hport : (s.returnCredit (.reelRx p)).port p = s.port p := rfl
  simp only [hport]
  split
  · rfl
  · split
    · rfl
    · split <;> rfl
end

/-- The resend of the frame is the block's retry, which names no command. -/
theorem crcCounted_retry (s : State) (p : Fin 4) (a : BadFrame) :
    ((s.crcCounted p a).sendControl p 0x02 []).hit .block .reel (.port p.val) p.val 0xFF none =
      ((s.crcCounted p a).sendControl p 0x02 []).detect .block
        ⟨.reel, .port p.val, p.val, 0xFF, none, 0, 0, false, s.count, noWork⟩ := by
  have hcount : ((s.crcCounted p a).sendControl p 0x02 []).count = s.count := by
    refine ((State.sendControl_keeps ..).same .count (by decide)).trans ?_
    unfold State.crcCounted
    split <;> rfl
  unfold State.hit
  rw [hcount]
  rfl

/-- Settles O43: each timer acts on the links it is for, and a frame whose CRC fails is counted before its port is asked. -/
theorem linkTimersAndFailures : Obligations.LinkTimersAndFailures := by
  intro s p a live released v c
  have hrow := execReelFrameCrcFailure_live (p := p) (a := a) live released
  refine ⟨fun hup => ⟨execIdleTimer_up live hup, execLinkReceiveTimeout_up live hup⟩,
    fun hdown => ⟨execIdleTimer_down live hdown, execLinkReceiveTimeout_down live hdown⟩, execHelloTimer_notDue live,
    fun hrate hdown => ?_, fun hrate => ?_, fun hrate => ⟨fun hdown => ?_, fun hup hthird => ?_, fun hup hearlier => ?_⟩⟩
  · refine ⟨_, execHelloTimer_due live (not_or.2 ⟨hrate, hdown⟩), ?_, State.modPort_keeps ..⟩
    rw [State.port_modPort]
  · rw [if_pos hrate] at hrow
    exact hrow
  · rw [if_neg hrate, if_pos hdown] at hrow
    exact hrow
  · rw [if_neg hrate, if_neg (not_not.2 hup), if_pos hthird] at hrow
    exact hrow
  · rw [if_neg hrate, if_neg (not_not.2 hup), if_neg (Nat.not_le.2 hearlier), crcCounted_retry] at hrow
    exact hrow

end Sys2Proof.Machine
end

section
/-! The invariant of the block over every step: the memories and the tickets by the frame of each command (log 3, R328, R329), the
profile by its writes (R407, R408). -/
namespace Sys2Proof.Machine

/-! ### Tickets that came from others -/

/-- A ticket whose place was among those of other tickets is one of them, by its sequence and its partition. -/
theorem Ticket.mem_of_keys {ts us : List Ticket} (h : (us.map Ticket.key).Sublist (ts.map Ticket.key)) {x : Ticket}
    (hx : x ∈ us) : ∃ y ∈ ts, y.seq = x.seq ∧ y.part = x.part := by
  obtain ⟨y, hy, hkey⟩ := List.mem_map.1 (h.subset (List.mem_map_of_mem hx))
  simp only [Ticket.key, Prod.mk.injEq] at hkey
  exact ⟨y, hy, hkey.1, hkey.2.1⟩

theorem Ticket.seqs_of_keys {ts us : List Ticket} (h : (us.map Ticket.key).Sublist (ts.map Ticket.key)) :
    (us.map Ticket.seq).Sublist (ts.map Ticket.seq) := by
  have hfst := h.map Prod.fst
  rwa [List.map_map, List.map_map] at hfst

/-- Only a doorbell and RST_N may number tickets (R329). -/
theorem nextSeq_touched {i : Instr} (h : Fld.nextSeq ∈ touches i) : (∃ b ok, i = .doorbell b ok) ∨ i = .rstNAssert := by
  cases i with
  | doorbell b ok => exact .inl ⟨b, ok, rfl⟩
  | rstNAssert => exact .inr rfl
  | _ => exact absurd h (of_decide_eq_false rfl)

/-! ### What a doorbell grants (R328, R329) -/

/-- The tickets that an accepted doorbell grants. -/
def State.bellTickets (s : State) (b : BitVec 64) : List Ticket :=
  let r := vget (s.part (dbPart b)).rings (dbQueue b)
  (upto (dbCount r (dbTail b))).map
    (fun k => Ticket.granted (s.nextSeq + k) (dbPart b) (dbQueue b) ((r.tail.toNat + k) % r.slots))

theorem State.bellTickets_length (s : State) (b : BitVec 64) :
    (s.bellTickets b).length = dbCount (vget (s.part (dbPart b)).rings (dbQueue b)) (dbTail b) := by
  simp [State.bellTickets, upto]

theorem State.bellTickets_seqs (s : State) (b : BitVec 64) :
    (s.bellTickets b).map Ticket.seq = (upto (s.bellTickets b).length).map (fun k => s.nextSeq + k) := by
  rw [State.bellTickets_length, State.bellTickets, List.map_map]
  rfl

theorem State.acceptDoorbell_grants (s : State) (b : BitVec 64) :
    (s.acceptDoorbell b).tickets = s.tickets ++ s.bellTickets b ∧
      (s.acceptDoorbell b).nextSeq = s.nextSeq + (s.bellTickets b).length := by
  rw [State.bellTickets_length]
  exact s.acceptDoorbell_tickets b

/-- The block once a doorbell of its status is taken: accepted, counted as busy, or refused (R328). -/
def State.rung (s : State) (b : BitVec 64) : State :=
  match s.doorbellStatus b with
  | .ok => s.acceptDoorbell b
  | .busy => s.bump .busyDoorbells 1
  | _ => s

theorem execDoorbell_answered {s : State} (h0 : s.startup ≠ .reset) (released : s.rstAsserted = false) (b : BitVec 64) :
    execDoorbell b true s =
      .next (((s.returnCredit .cmdDb).rung b).emit .cmdDbs (leBytes 1 ((s.returnCredit .cmdDb).doorbellStatus b).code)) :=
  (State.onPort_released released).trans (State.awake_runs (s := s.returnCredit .cmdDb) h0)

/-- A doorbell that gives a next state is held back by RST_N or by reset, has a parity error, or is answered. -/
theorem execDoorbell_cases {b : BitVec 64} {ok : Bool} {s t : State} (h : execDoorbell b ok s = .next t) :
    t = s ∨ t = s.returnCredit .cmdDb ∨ t = (s.returnCredit .cmdDb).portError.emit .cmdDbs [0xFF] ∨
      t = ((s.returnCredit .cmdDb).rung b).emit .cmdDbs (leBytes 1 ((s.returnCredit .cmdDb).doorbellStatus b).code) := by
  unfold execDoorbell State.onPort State.awake at h
  split at h
  · exact .inl (Host.Outcome.next.inj h).symm
  · dsimp only at h
    split at h
    · exact .inr (.inl (Host.Outcome.next.inj h).symm)
    · split at h
      · exact .inr (.inr (.inl (Host.Outcome.next.inj h).symm))
      · exact .inr (.inr (.inr (Host.Outcome.next.inj h).symm))

theorem State.rung_tickets (s : State) (b : BitVec 64) :
    ((s.rung b).tickets = s.tickets ∧ (s.rung b).nextSeq = s.nextSeq) ∨
      (s.doorbellStatus b = .ok ∧ (s.rung b).tickets = s.tickets ++ s.bellTickets b ∧
        (s.rung b).nextSeq = s.nextSeq + (s.bellTickets b).length) := by
  unfold State.rung
  split
  · next hst => exact .inr ⟨hst, s.acceptDoorbell_grants b⟩
  · exact .inl ⟨State.bump_tickets .., State.bump_nextSeq ..⟩
  · exact .inl ⟨rfl, rfl⟩

/-- A doorbell grants its tickets where its status is 0x00, and otherwise numbers none. -/
theorem execDoorbell_tickets {b : BitVec 64} {ok : Bool} {s t : State} (h : execDoorbell b ok s = .next t) :
    (t.tickets = s.tickets ∧ t.nextSeq = s.nextSeq) ∨
      (s.doorbellStatus b = .ok ∧ t.tickets = s.tickets ++ s.bellTickets b ∧
        t.nextSeq = s.nextSeq + (s.bellTickets b).length) := by
  obtain rfl | rfl | rfl | rfl := execDoorbell_cases h
  · exact .inl ⟨rfl, rfl⟩
  · exact .inl ⟨State.returnCredit_tickets .., State.returnCredit_nextSeq ..⟩
  · rw [State.emit_tickets, State.emit_nextSeq]
    exact .inl ⟨rfl, rfl⟩
  · rw [State.emit_tickets, State.emit_nextSeq]
    exact (s.returnCredit .cmdDb).rung_tickets b

/-- A doorbell is accepted only where the ticket table has room for its commands (R328). -/
theorem State.doorbellStatus_room {s : State} {b : BitVec 64} (h : s.doorbellStatus b = .ok) (hroom : s.tickets.length ≤ 512) :
    s.tickets.length + (s.bellTickets b).length ≤ 512 := by
  rw [State.bellTickets_length]
  unfold State.doorbellStatus at h
  dsimp only at h
  split at h
  · cases h
  · split at h
    · omega
    · split at h
      · cases h
      · next hbusy => omega

/-! ### The tickets stay numbered -/

/-- The tickets are held in ascending sequence, each below the next sequence (R329), and are at most 512 (R328). -/
structure State.Numbered (s : State) : Prop where
  order : (s.tickets.map Ticket.seq).Pairwise (· < ·)
  fresh : ∀ t ∈ s.tickets, t.seq < s.nextSeq
  room : s.tickets.length ≤ 512

/-- Tickets that only went leave the rest numbered. -/
theorem State.Numbered.of_keys {s t : State} (h : s.Numbered)
    (hkeys : (t.tickets.map Ticket.key).Sublist (s.tickets.map Ticket.key)) (hseq : t.nextSeq = s.nextSeq) : t.Numbered where
  order := h.order.sublist (Ticket.seqs_of_keys hkeys)
  fresh x hx := by
    obtain ⟨y, hy, hyx, -⟩ := Ticket.mem_of_keys hkeys hx
    rw [hseq, ← hyx]
    exact h.fresh y hy
  room := by
    have hlen := hkeys.length_le
    rw [List.length_map, List.length_map] at hlen
    exact hlen.trans h.room

/-- Tickets numbered from the next sequence on come behind all that are held. -/
theorem State.Numbered.append {s t : State} {new : List Ticket} (h : s.Numbered) (htickets : t.tickets = s.tickets ++ new)
    (hseq : t.nextSeq = s.nextSeq + new.length)
    (hnew : new.map Ticket.seq = (upto new.length).map (fun k => s.nextSeq + k)) (hroom : s.tickets.length + new.length ≤ 512) :
    t.Numbered := by
  have hat : ∀ x ∈ new, s.nextSeq ≤ x.seq ∧ x.seq < s.nextSeq + new.length := fun x hx => by
    obtain ⟨k, hk, hkx⟩ := List.mem_map.1 (hnew ▸ List.mem_map_of_mem hx)
    have hlt := List.mem_range.1 hk
    omega
  refine ⟨?_, fun x hx => ?_, ?_⟩
  · rw [htickets, List.map_append, List.pairwise_append]
    refine ⟨h.order, ?_, fun a ha c hc => ?_⟩
    · rw [hnew, List.pairwise_map]
      exact List.pairwise_lt_range.imp (fun hlt => Nat.add_lt_add_left hlt _)
    · obtain ⟨x, hx, rfl⟩ := List.mem_map.1 ha
      obtain ⟨y, hy, rfl⟩ := List.mem_map.1 hc
      exact (h.fresh x hx).trans_le (hat y hy).1
  · rw [hseq]
    rw [htickets] at hx
    rcases List.mem_append.1 hx with hx | hx
    · exact Nat.lt_add_right _ (h.fresh x hx)
    · exact (hat x hx).2
  · rw [htickets, List.length_append]
    exact hroom

/-- Every command keeps the tickets numbered: a doorbell numbers its own behind the rest, RST_N frees all, and of the others none
makes a ticket. -/
theorem exec_numbered {i : Instr} {s t : State} (h : s.Numbered) (hnext : exec i s = .next t) : t.Numbered := by
  have hframe := (exec_keeps_touches i s).go t hnext
  by_cases hseq : Fld.nextSeq ∈ touches i
  · obtain ⟨b, ok, rfl⟩ | rfl := nextSeq_touched hseq
    · obtain ⟨htickets, hnextSeq⟩ | ⟨hst, htickets, hnextSeq⟩ := execDoorbell_tickets hnext
      · exact h.of_keys (by rw [htickets]) hnextSeq
      · exact h.append htickets hnextSeq (s.bellTickets_seqs b) (State.doorbellStatus_room hst h.room)
    · cases hnext
      exact ⟨List.Pairwise.nil, fun x hx => absurd hx List.not_mem_nil, Nat.zero_le _⟩
  · exact h.of_keys (hframe.keys hseq) (hframe.same .nextSeq hseq)

/-! ### The profile stays legal (R407, R408) -/

theorem Profile.defaults_legal : Profile.defaults.Legal := by constructor <;> decide +kernel

/-- A dictionary write puts a legal value and forms the digest again, RST_N restores the defaults, and no other command touches
the profile. -/
theorem exec_profiled (i : Instr) (s : State) : ProfiledOut s (exec i s) := by
  cases i with
  | dict q => exact execDict_profiled q s
  | dictionaryAccessRelease => exact execDictionaryAccessRelease_profiled s
  | write => exact execWrite_profiled s
  | rstNAssert => exact .next fun _ => ⟨Profile.defaults_legal, rfl⟩
  | _ => exact .keep (exec_keeps_touches _ s) ⟨of_decide_eq_false rfl, of_decide_eq_false rfl⟩

/-! ### The invariant -/

theorem State.Inv.numbered {s : State} (h : s.Inv) : s.Numbered := ⟨h.order, h.fresh, h.room⟩

/-- Every command keeps the invariant of the block. -/
theorem exec_inv {i : Instr} {s t : State} (h : s.Inv) (hnext : exec i s = .next t) : t.Inv := by
  have hframe := (exec_keeps_touches i s).go t hnext
  obtain ⟨horder, hfresh, hroom⟩ := exec_numbered h.numbered hnext
  obtain ⟨hlegal, hdigest⟩ := (exec_profiled i s).go t hnext ⟨h.legal, h.digest⟩
  exact ⟨hframe.mem h.mem, hframe.firn h.firn, horder, hfresh, hroom, hdigest, hlegal⟩

/-- The queue of waiting commands is no part of the invariant. -/
theorem State.Inv.withPending {s : State} (h : s.Inv) (q : List Instr) : (s.withPending q).Inv :=
  ⟨h.mem, h.firn, h.order, h.fresh, h.room, h.digest, h.legal⟩

/-- Settles O3: a step is the front command on the rest of the queue, and every command keeps the invariant. -/
theorem everyStepKeepsTheInvariant : Obligations.EveryStepKeepsTheInvariant := by
  intro s t h hstep
  unfold Sys2Proof.Machine.step at hstep
  split at hstep
  · cases hstep
    exact h
  · exact exec_inv (h.withPending _) hstep

/-- Settles O22: a doorbell numbers its tickets from the next sequence on, RST_N starts again at 0, and every other command's frame
keeps the numbering. -/
theorem ticketSequencesRiseByOne : Obligations.TicketSequencesRiseByOne := by
  refine ⟨rfl, fun s t h => ?_, fun s t b ok h => ?_, fun i s t hrst hbell h => ?_⟩
  · cases h
    exact ⟨rfl, rfl⟩
  · obtain ⟨htickets, hseq⟩ | ⟨-, htickets, hseq⟩ := execDoorbell_tickets h
    · exact ⟨[], by rw [htickets, List.append_nil], hseq, rfl⟩
    · exact ⟨s.bellTickets b, htickets, hseq, s.bellTickets_seqs b⟩
  · have hframe := (exec_keeps_touches i s).go t h
    have hseq : Fld.nextSeq ∉ touches i := fun hmem => by
      obtain ⟨b, ok, rfl⟩ | rfl := nextSeq_touched hmem
      · exact hbell b ok rfl
      · exact hrst rfl
    exact ⟨hframe.same .nextSeq hseq, hframe.keys hseq⟩

end Sys2Proof.Machine
end

section
/-! The opcode rows: which tickets they act on (R333, R373; log 11), and how the commands without an exchange of their own end:
NOP, FENCE, WAITCOUNT, FUNC, FILL, DIGEST and DICT (R349, R353, R354, R356). -/
namespace Sys2Proof.Machine

/-! ### Which tickets an opcode row acts on -/

theorem opRow_engine {i : Instr} {o : Op} {q : Nat} (h : opRow i = some (o, q)) (s : State) :
    ∃ f : Ticket → Running → Out, exec i s = s.engine q o f := by
  cases i <;> cases h
  all_goals exact ⟨_, rfl⟩

section
variable {s : State} {q : Nat} {o : Op} {f : Ticket → Running → Out} (h0 : s.startup ≠ .reset)
include h0

theorem State.engine_unheld (h : s.launched q = none) : s.engine q o f = .fault .noSuchTicket :=
  (State.awake_runs h0).trans (by rw [h])

variable {t : Ticket} {r : Running} (hl : s.launched q = some (t, r))
include hl

theorem State.engine_foreign (h : t.op ≠ o) : s.engine q o f = .fault .noSuchTicket :=
  (State.awake_runs h0).trans (by simp [hl, h])

theorem State.engine_idles (h : t.op = o) (hidle : r.phase ≠ .launched ∨ r.suspendedAt ≠ none) :
    s.engine q o f = .next s := by
  have hdone : (r.phase != .launched || r.suspendedAt.isSome) = true := by
    simpa [Option.isSome_iff_ne_none] using hidle
  exact (State.awake_runs h0).trans (by simp only [hl, h, hdone, bne_self_eq_false, Bool.false_eq_true, if_false, if_true])
end

/-- Settles O20: every opcode row is the engines' row of its opcode. -/
theorem opcodeRowsNeedTheirTicket : Obligations.OpcodeRowsNeedTheirTicket := by
  intro i o q s hrow h0
  obtain ⟨f, hf⟩ := opRow_engine hrow s
  rw [hf]
  exact ⟨State.engine_unheld h0, fun t r hl => ⟨State.engine_foreign h0 hl, State.engine_idles h0 hl⟩⟩

/-! ### NOP, FENCE and WAITCOUNT (R353, R354) -/

/-- The end of a command's work changes its ticket, the link that its CHECK frame goes out on, and the counters (R54). -/
theorem State.finishWith_completes {s : State} {q : Nat} {t : Ticket} {r : Running} (h : s.launched q = some (t, r))
    (f : Result → Result) :
    Finished (s.finishWith q f) q t (f r.result) ∧ Keeps finishFlds s (s.finishWith q f) :=
  ⟨State.finishWith_finished f h, (Keeps.refl _ s).then (State.finishWith_keeps ..)⟩

/-- Settles O7: both commands have no work but the end of it. -/
theorem nopAndFenceComplete : Obligations.NopAndFenceComplete := by
  intro s q t r
  constructor
  all_goals
    intro h
    obtain ⟨rfl, -⟩ := seqOf h.launched
    exact ⟨_, State.engine_ready h, State.finishWith_completes h.launched id⟩

/-- Settles O8, by whether the local count has reached the command's. -/
theorem waitcountCompletesAtItsCount : Obligations.WaitcountCompletesAtItsCount := by
  intro s q t r h
  have hrow : execWaitcount q s = if s.count.toNat < t.areaWord then .next s else .next (s.finishWith t.seq id) :=
    State.engine_ready h
  refine ⟨fun hreached => ?_, fun hbefore => hrow.trans (if_pos hbefore)⟩
  obtain ⟨rfl, -⟩ := seqOf h.launched
  exact ⟨_, hrow.trans (if_neg (Nat.not_lt.2 hreached)), State.finishWith_completes h.launched id⟩

/-! ### FUNC, FILL and DIGEST (R349) -/

theorem putTensor_runs (q : Nat) (o : Tens) (inp : Option Tens) (els others : List (Nat × Nat)) (s : State) :
    RunsMapped q s (s.putTensor q o inp els others) :=
  foldl_runs _ (fun _ _ => putElem_runs ..) _ _

/-- Work on a command's own figure, then its end: the figure is finished with a result. -/
theorem RunsMapped.finishes {s u : State} {t : Ticket} {r : Running} (h : RunsMapped t.seq s u)
    (hl : s.launched t.seq = some (t, r)) (f : Result → Result) : ∃ res, Finished (u.finishWith t.seq f) t.seq t res := by
  obtain ⟨r', hlaunched⟩ := h.launched hl
  exact ⟨_, (State.finishWith_finished f hlaunched).of_run⟩

theorem State.doFunc_finishes {s : State} {t : Ticket} {r : Running} (h : s.launched t.seq = some (t, r)) :
    ∃ res, Finished (s.doFunc t) t.seq t res := by
  have hbits := State.inBits_keeps s t.inT (some t.outT)
  unfold State.doFunc
  generalize s.inBits t.inT (some t.outT) = input at hbits
  obtain ⟨bits, s0⟩ := input
  dsimp only at hbits ⊢
  refine RunsMapped.finishes (RunsMapped.trans (settleR_runs _ (of_keeps (w := [.free]) ?_ (by decide))) (putTensor_runs ..)) h _
  exact Keeps.foldl_st hbits fun _ _ => Rounded.addFunc_keeps ..

theorem State.doFill_finishes {s : State} {t : Ticket} {r : Running} (h : s.launched t.seq = some (t, r)) :
    ∃ res, Finished (s.doFill t) t.seq t res := by
  have helements := Keeps.foldl_st (w := [.free]) (xs := upto t.outT.count) (b := ⟨[], 0, 0, s⟩) (Keeps.refl _ s)
    fun a i => Rounded.addFill_keeps a t (s.partKey t.part) i
  exact ((settleR_runs _ (of_keeps helements (by decide))).trans (putTensor_runs ..)).finishes h _

/-- Settles O14: the elements take free values alone, their writes and the end of the work touch no other ticket. -/
theorem funcAndFillComplete : Obligations.FuncAndFillComplete := by
  intro s q t r
  refine ⟨fun h => ?_, fun h => ?_⟩ <;> obtain ⟨rfl, -⟩ := seqOf h.launched
  · have hrow : exec (.func t.seq) s = .next (s.doFunc t) := State.engine_ready h
    obtain ⟨res, hfinished⟩ := State.doFunc_finishes h.launched
    exact ⟨_, res, hrow, hfinished, (exec_keeps_touches (.func t.seq) s).go _ hrow⟩
  · have hrow : exec (.fill t.seq) s = .next (s.doFill t) := State.engine_ready h
    obtain ⟨res, hfinished⟩ := State.doFill_finishes h.launched
    exact ⟨_, res, hrow, hfinished, (exec_keeps_touches (.fill t.seq) s).go _ hrow⟩

/-- Settles O13: the digest is the one stretch of host memory that the command writes or holds. -/
theorem digestWritesItsValue : Obligations.DigestWritesItsValue := by
  intro s q t r h
  obtain ⟨rfl, -⟩ := seqOf h.launched
  exact ⟨_, State.engine_ready h, State.writeHost_finishes h.launched _ ..⟩

/-! ### DICT (R356, R414) -/

/-- A completion or Floe ring of a partition, or its settle policy: DICT writes no other object (R414). -/
theorem dictWritable_cases {p i sub : Nat} (h : dictWritable p i sub = true) : i = 0x3080 + p ∨ (i = 0x2402 ∧ sub = p + 1) := by
  simp only [dictWritable, Bool.or_eq_true, Bool.and_eq_true, beq_iff_eq] at h
  exact h.imp_left And.left

theorem State.writeObject_ring (s : State) {p : Nat} (hp : p < 64) (sub v : Nat) :
    s.writeObject (0x3080 + p) sub v = ((s.part p).putOut sub v).map (fun q => s.modPart p (fun _ => q)) := by
  have hmod : (0x3080 + p) % 64 = p := by omega
  unfold State.writeObject State.writePart
  rw [if_neg (by omega), if_neg (by omega), if_neg (by omega), if_pos (by omega), if_neg (by omega), if_neg (by omega),
    if_pos (by omega), hmod]

theorem State.writeObject_policy (s : State) (p v : Nat) :
    s.writeObject 0x2402 (p + 1) v = if v ≤ 1 then some (s.modPart p (fun q => { q with settleWithout := v == 1 })) else none :=
  rfl

/-- A DICT write changes its partition and nothing else. -/
theorem State.dictWrite_parts (s : State) {p : Nat} (hp : p < 64) (i sub : Nat) (v : Bytes) :
    KeepsOpt [.parts] s (s.dictWrite p i sub v) := by
  unfold State.dictWrite
  split
  · split
    · exact .none
    · next hadmitted =>
      simp only [Bool.or_eq_true, Bool.not_eq_true', not_or, Bool.not_eq_false] at hadmitted
      obtain rfl | ⟨rfl, rfl⟩ := dictWritable_cases hadmitted.1
      · rw [State.writeObject_ring s hp]
        exact .map fun _ => State.modPart_keeps ..
      · rw [State.writeObject_policy]
        split
        · exact .some (State.modPart_keeps ..)
        · exact .none
  · exact .none

theorem State.readEffect_launched (s : State) (i sub q : Nat) : (s.readEffect i sub).launched q = s.launched q :=
  State.launched_congr ((State.readEffect_keeps s i sub).same .tickets (by decide)) q

section
variable {s : State} {q : Nat} {t : Ticket} {r : Running} (h : Ready s q .dict t r)
include h

theorem execDict_read (hop : byteAt t.cmd 0x33 ≠ 1) {v : Bytes}
    (hv : s.dictRead (field t.cmd 0x30 2) (byteAt t.cmd 0x32) (field t.cmd 0x34 2) = some v) :
    execDict t.seq s = .next (((s.readEffect (field t.cmd 0x30 2) (byteAt t.cmd 0x32)).writeHost t.seq t.areaWord v).finishWith
      t.seq (fun r => { r with value := BitVec.ofNat 64 (field t.cmd 0x34 2) })) := by
  obtain ⟨rfl, -⟩ := seqOf h.launched
  refine (State.engine_ready h).trans ?_
  dsimp only
  rw [if_neg hop, hv]

theorem execDict_write (hop : byteAt t.cmd 0x33 = 1) {s1 : State}
    (hw : s.dictWrite t.part (field t.cmd 0x30 2) (byteAt t.cmd 0x32) (s.host t.areaWord (field t.cmd 0x34 2)) = some s1) :
    execDict t.seq s = .next (s1.finishWith t.seq (fun r => { r with value := BitVec.ofNat 64 (field t.cmd 0x34 2) })) := by
  obtain ⟨rfl, -⟩ := seqOf h.launched
  refine (State.engine_ready h).trans ?_
  dsimp only
  rw [if_pos hop, hw]

theorem execDict_refused
    (hno : (byteAt t.cmd 0x33 ≠ 1 ∧ s.dictRead (field t.cmd 0x30 2) (byteAt t.cmd 0x32) (field t.cmd 0x34 2) = none) ∨
      (byteAt t.cmd 0x33 = 1 ∧ s.dictWrite t.part (field t.cmd 0x30 2) (byteAt t.cmd 0x32)
        (s.host t.areaWord (field t.cmd 0x34 2)) = none)) :
    execDict t.seq s = .next (s.finishWith t.seq (fun r => { r with status := .range })) := by
  obtain ⟨rfl, -⟩ := seqOf h.launched
  refine (State.engine_ready h).trans ?_
  dsimp only
  obtain ⟨hop, hv⟩ | ⟨hop, hw⟩ := hno
  · rw [if_neg hop, hv]
  · rw [if_pos hop, hw]
end

/-- Settles O18: a read's value is the one stretch of host memory that it writes or holds, a write changes its partition before the
end of the work, and any other access has no effect but its status. -/
theorem dictReadsAndWrites : Obligations.DictReadsAndWrites := by
  intro s q t r h hp
  obtain ⟨rfl, -⟩ := seqOf h.launched
  refine ⟨fun hop v hv => ?_, fun hop s1 hw => ?_, fun hno => ?_⟩
  · have heffect := State.readEffect_keeps s (field t.cmd 0x30 2) (byteAt t.cmd 0x32)
    obtain ⟨hfinished, hstored, hheld, hkeeps⟩ := State.writeHost_finishes
      ((s.readEffect_launched (field t.cmd 0x30 2) (byteAt t.cmd 0x32) t.seq).trans h.launched)
      (fun r => { r with value := BitVec.ofNat 64 (field t.cmd 0x34 2) }) t.areaWord v
    rw [heffect.same .mem (by decide)] at hstored hheld
    exact ⟨_, execDict_read h hop hv, hfinished, hstored, hheld, ((Keeps.refl _ s).then heffect).then hkeeps⟩
  · have hparts := (State.dictWrite_parts s hp _ _ _).of hw
    obtain ⟨hfinished, hkeeps⟩ := State.finishWith_completes
      ((State.launched_congr (hparts.same .tickets (by decide)) t.seq).trans h.launched)
      (fun r => { r with value := BitVec.ofNat 64 (field t.cmd 0x34 2) })
    exact ⟨_, execDict_write h hop hw, hfinished, hkeeps, hparts⟩
  · obtain ⟨hfinished, hkeeps⟩ := State.finishWith_completes h.launched (fun r => { r with status := .range })
    exact ⟨_, execDict_refused h hno, hfinished, hkeeps⟩

end Sys2Proof.Machine
end

section
/-! DOORBELL: its status, and what an accepted one changes (R327, R328, R329). -/
namespace Sys2Proof.Machine

/-! ### The fields and the status of a doorbell (R327, R328) -/

/-- A doorbell's partition is not open, its queue is unused, its tail is beyond the ring, or a reserved bit is set (R328). -/
def State.bellOutOfRange (s : State) (b : BitVec 64) : Prop :=
  let r := vget (s.part (dbPart b)).rings (dbQueue b)
  (s.part (dbPart b)).state ≠ .opened ∨ (s.part (dbPart b)).waiting ≠ .nothing ∨ r.size = 0 ∨ r.slots ≤ dbTail b ∨
    dbReserved b = true

/-- A doorbell adds commands that its partition's quota, the ticket table or one of its record rings has no room for (R328). -/
def State.bellBusy (s : State) (b : BitVec 64) : Prop :=
  let p := s.part (dbPart b)
  let n := dbCount (vget p.rings (dbQueue b)) (dbTail b)
  let h := s.heldTickets (dbPart b)
  n ≠ 0 ∧ (p.quota.toNat < h + n ∨ 512 < s.tickets.length + n ∨ p.comp.free < h + n ∨ p.floe.free < 3 * (h + n))

theorem dbPart_eq (b : BitVec 64) : dbPart b = b.toNat % 64 := by simp [dbPart, bitsAt, pow2]

theorem dbQueue_eq (b : BitVec 64) : dbQueue b = b.toNat / 64 % 4 := by simp [dbQueue, bitsAt, pow2]

theorem dbTail_eq (b : BitVec 64) : dbTail b = b.toNat / 4294967296 % 65536 := by simp [dbTail, bitsAt, pow2]

theorem dbReserved_iff (b : BitVec 64) :
    dbReserved b = true ↔ b.toNat / 281474976710656 ≠ 0 ∨ b.toNat / 256 % 16777216 ≠ 0 := by
  have htop : b.toNat / 281474976710656 % 65536 = b.toNat / 281474976710656 := Nat.mod_eq_of_lt (by omega)
  simp [dbReserved, bitsAt, pow2, htop]

theorem State.doorbellStatus_range {s : State} {b : BitVec 64} (h : s.bellOutOfRange b) : s.doorbellStatus b = .range :=
  if_pos (by simpa [State.bellOutOfRange, or_assoc] using h)

theorem State.doorbellStatus_inRange {s : State} {b : BitVec 64} (h : ¬s.bellOutOfRange b) :
    s.doorbellStatus b =
      let p := s.part (dbPart b)
      let n := dbCount (vget p.rings (dbQueue b)) (dbTail b)
      let h := s.heldTickets (dbPart b)
      if n = 0 then .ok
      else if h + n > p.quota.toNat ∨ n > 512 - s.tickets.length ∨ p.comp.free < h + n ∨ p.floe.free < 3 * (h + n) then .busy
      else .ok :=
  if_neg (by simpa [State.bellOutOfRange, or_assoc] using h)

theorem State.doorbellStatus_busy {s : State} {b : BitVec 64} (h : ¬s.bellOutOfRange b) (hb : s.bellBusy b) :
    s.doorbellStatus b = .busy := by
  obtain ⟨hn, hfull⟩ := hb
  exact (State.doorbellStatus_inRange h).trans ((if_neg hn).trans (if_pos (by omega)))

theorem State.doorbellStatus_ok {s : State} {b : BitVec 64} (h : ¬s.bellOutOfRange b) (hb : ¬s.bellBusy b) :
    s.doorbellStatus b = .ok := by
  refine (State.doorbellStatus_inRange h).trans ?_
  dsimp only
  split
  · rfl
  · next hn => exact if_neg fun hfull => hb ⟨hn, by omega⟩

/-! ### What an accepted doorbell changes (R328, R329) -/

/-- A partition whose queue has a new tail. -/
def Partition.withTail (p : Partition) (q tail : Nat) : Partition :=
  { p with rings := vmod p.rings q (fun r => { r with tail := BitVec.ofNat 16 tail }) }

/-- The grants of a doorbell make tickets and read their commands. -/
theorem State.acceptDoorbell_moved (s : State) (b : BitVec 64) :
    Keeps [.nextSeq, .outs, .reads, .tickets, .writes] (s.modPart (dbPart b) (fun p => p.withTail (dbQueue b) (dbTail b)))
      (s.acceptDoorbell b) :=
  (Keeps.refl _ _).foldl fun _ _ => (Keeps.refl _ _).then (State.grant_keeps ..)

theorem State.acceptDoorbell_part (s : State) (b : BitVec 64) :
    (s.acceptDoorbell b).part (dbPart b) = (s.part (dbPart b)).withTail (dbQueue b) (dbTail b) := by
  have hpart : dbPart b < 64 := by
    rw [dbPart_eq]
    exact Nat.mod_lt _ (by decide)
  rw [State.part_congr ((s.acceptDoorbell_moved b).same .parts (by decide)), State.part_modPart _ _ _ hpart]

theorem State.acceptDoorbell_part_ne (s : State) {b : BitVec 64} {j : Nat} (h : j ≠ dbPart b) :
    (s.acceptDoorbell b).part j = s.part j := by
  rw [State.part_congr ((s.acceptDoorbell_moved b).same .parts (by decide)), State.part_modPart_ne _ _ _ _ h]

theorem Partition.withTail_tail (p : Partition) {q tail : Nat} (hq : q < 4) (ht : tail < 65536) :
    (vget (p.withTail q tail).rings q).tail.toNat = tail := by
  unfold Partition.withTail vmod
  dsimp only
  rw [vget_vset _ _ _ hq, BitVec.toNat_ofNat]
  exact Nat.mod_eq_of_lt ht

theorem Partition.withTail_ring_ne (p : Partition) {q tail j : Nat} (h : j ≠ q) :
    vget (p.withTail q tail).rings j = vget p.rings j := by
  unfold Partition.withTail vmod
  exact vget_vset_ne _ _ _ _ h.symm

theorem State.rung_range {s : State} {b : BitVec 64} (h : s.doorbellStatus b = .range) : s.rung b = s := by
  unfold State.rung
  rw [h]

theorem State.rung_busy {s : State} {b : BitVec 64} (h : s.doorbellStatus b = .busy) :
    s.rung b = s.bump .busyDoorbells 1 := by
  unfold State.rung
  rw [h]

theorem State.rung_ok {s : State} {b : BitVec 64} (h : s.doorbellStatus b = .ok) : s.rung b = s.acceptDoorbell b := by
  unfold State.rung
  rw [h]

/-- An accepted doorbell grants its tickets and moves the tail of its ring. -/
theorem State.acceptDoorbell_effect (s : State) (b : BitVec 64) :
    let p := dbPart b
    let k := dbQueue b
    let u := s.acceptDoorbell b
    u.tickets = s.tickets ++ s.bellTickets b ∧ (vget (u.part p).rings k).tail.toNat = dbTail b ∧
      (∀ j : Nat, j ≠ k → vget (u.part p).rings j = vget (s.part p).rings j) ∧
      (∃ rings, u.part p = { s.part p with rings := rings }) ∧ (∀ j : Nat, j ≠ p → u.part j = s.part j) ∧
      Keeps [.parts, .tickets, .nextSeq, .reads, .writes, .outs] s u := by
  have hqueue : dbQueue b < 4 := by
    rw [dbQueue_eq]
    exact Nat.mod_lt _ (by decide)
  have htail : dbTail b < 65536 := by
    rw [dbTail_eq]
    exact Nat.mod_lt _ (by decide)
  intro p k u
  have hpart : u.part p = (s.part p).withTail k (dbTail b) := s.acceptDoorbell_part b
  rw [hpart]
  exact ⟨(s.acceptDoorbell_grants b).1, Partition.withTail_tail _ hqueue htail, fun j => Partition.withTail_ring_ne _,
    ⟨_, rfl⟩, fun j => s.acceptDoorbell_part_ne,
    ((Keeps.refl _ s).then (State.modPart_keeps ..)).then (s.acceptDoorbell_moved b)⟩

/-- Settles O21: the status is that of R328, and only an accepted doorbell changes more than the counter of the busy ones. -/
theorem doorbellAnswersItsStatus : Obligations.DoorbellAnswersItsStatus := by
  intro s b h0 released p k tail r n h range busy
  have hrow := execDoorbell_answered h0 released b
  have hrange : (s.returnCredit .cmdDb).bellOutOfRange b ↔ range := by
    unfold State.bellOutOfRange
    rw [dbReserved_iff, dbTail_eq, dbPart_eq, dbQueue_eq]
    rfl
  have hbusy : (s.returnCredit .cmdDb).bellBusy b ↔ busy := by
    unfold State.bellBusy
    rw [dbTail_eq, dbPart_eq, dbQueue_eq]
    rfl
  refine ⟨fun hr => ?_, fun hr hb => ?_, fun hr hb => ?_⟩
  · have hst := State.doorbellStatus_range (hrange.2 hr)
    rw [State.rung_range hst, hst] at hrow
    exact hrow
  · have hst := State.doorbellStatus_busy (fun h => hr (hrange.1 h)) (hbusy.2 hb)
    rw [State.rung_busy hst, hst] at hrow
    exact hrow
  · have hst := State.doorbellStatus_ok (fun h => hr (hrange.1 h)) (fun h => hb (hbusy.1 h))
    rw [State.rung_ok hst, hst] at hrow
    have heffect := (s.returnCredit .cmdDb).acceptDoorbell_effect b
    dsimp only at heffect
    unfold State.bellTickets at heffect
    unfold dbCount at heffect
    rw [dbTail_eq, dbPart_eq, dbQueue_eq] at heffect
    obtain ⟨htickets, htail, hqueues, hpart, hparts, hkeeps⟩ := heffect
    exact ⟨_, hrow, htickets, htail, hqueues, hpart, hparts, ((Keeps.refl _ s).then (State.returnCredit_keeps ..)).then hkeeps⟩

end Sys2Proof.Machine
end

section
/-! COMMAND_COMPLETION: what it waits for (R352, R355), and the completion record that it writes (R351, R352, R157). -/
namespace Sys2Proof.Machine

/-! ### What a completion waits for -/

theorem State.ckptHolds_iff (s : State) (q : Nat) : s.ckptHolds q = true ↔ ∃ c ∈ s.ckpts, c.ticket = some q := by
  simp [State.ckptHolds, List.any_eq_true]

theorem State.writesFor_isEmpty_iff (s : State) (q : Nat) :
    (s.writesFor q).isEmpty = true ↔ ∀ w ∈ s.writes, w.ticket ≠ some q := by
  simp [State.writesFor, List.isEmpty_iff, List.filter_eq_nil_iff]

theorem State.halting_iff (s : State) (t : Ticket) : s.halting t = true ↔ t.op = .halt ∧ (s.part t.part).state = .halted := by
  simp [State.halting]

/-- The block once a ticket has the record of the end it came to earlier, or of its completion (R352). -/
def State.withRecord (s : State) (t : Ticket) (r : Running) : State :=
  match t.ended with
  | some (st, fl, off) => s.finish t st fl off
  | none => s.complete t r

section
variable {s : State} {q : Nat} (h0 : s.startup ≠ .reset)
include h0

theorem execCommandCompletion_unlaunched (h : ∀ t : Ticket, s.ticket q = some t → t.run = none) :
    execCommandCompletion q s = .fault .noSuchTicket := by
  refine (State.awake_runs h0).trans ?_
  cases ht : s.ticket q with
  | none => rfl
  | some t => simp only [h t ht]

variable {t : Ticket} {r : Running} (ht : s.ticket q = some t) (hr : t.run = some r)
include ht hr

theorem execCommandCompletion_launched :
    execCommandCompletion q s =
      if r.phase != .finished || s.ckptHolds q then .next s
      else if !(s.writesFor q).isEmpty then .next (s.modRun q (fun r => { r with holding := true }))
      else if s.halting t then .next (s.haltDue t r)
      else .next (s.withRecord t r).settleHandlers := by
  refine (State.awake_runs h0).trans ?_
  rw [ht]
  dsimp only
  rw [hr]
  unfold State.withRecord
  cases t.ended <;> rfl

theorem execCommandCompletion_notDue (h : r.phase ≠ .finished ∨ ∃ c ∈ s.ckpts, c.ticket = some q) :
    execCommandCompletion q s = .next s := by
  rw [← State.ckptHolds_iff] at h
  exact (execCommandCompletion_launched h0 ht hr).trans (if_pos (by simpa using h))

variable (hphase : r.phase = .finished) (hck : ∀ c ∈ s.ckpts, c.ticket ≠ some q)
include hphase hck

theorem execCommandCompletion_due :
    execCommandCompletion q s =
      if !(s.writesFor q).isEmpty then .next (s.modRun q (fun r => { r with holding := true }))
      else if s.halting t then .next (s.haltDue t r)
      else .next (s.withRecord t r).settleHandlers := by
  have hfree : s.ckptHolds q = false := by
    rw [← Bool.not_eq_true, State.ckptHolds_iff]
    exact fun ⟨c, hc, hq⟩ => hck c hc hq
  exact (execCommandCompletion_launched h0 ht hr).trans (if_neg (by simp [hphase, hfree]))

theorem execCommandCompletion_unaccepted (h : ∃ w ∈ s.writes, w.ticket = some q) :
    execCommandCompletion q s = .next (s.modRun q (fun r => { r with holding := true })) := by
  refine (execCommandCompletion_due h0 ht hr hphase hck).trans (if_pos ?_)
  rw [Bool.not_eq_true', ← Bool.not_eq_true, State.writesFor_isEmpty_iff]
  obtain ⟨w, hw, hq⟩ := h
  exact fun hall => hall w hw hq

variable (hwrites : ∀ w ∈ s.writes, w.ticket ≠ some q)
include hwrites

theorem execCommandCompletion_accepted :
    execCommandCompletion q s =
      if s.halting t then .next (s.haltDue t r)
      else .next (s.withRecord t r).settleHandlers :=
  (execCommandCompletion_due h0 ht hr hphase hck).trans
    (if_neg (by simpa using (State.writesFor_isEmpty_iff s q).2 hwrites))

theorem execCommandCompletion_halting (h : t.op = .halt ∧ (s.part t.part).state = .halted) :
    execCommandCompletion q s = .next (s.haltDue t r) :=
  (execCommandCompletion_accepted h0 ht hr hphase hck hwrites).trans (if_pos ((State.halting_iff s t).2 h))

theorem execCommandCompletion_records (h : ¬(t.op = .halt ∧ (s.part t.part).state = .halted)) :
    execCommandCompletion q s = .next (s.withRecord t r).settleHandlers :=
  (execCommandCompletion_accepted h0 ht hr hphase hck hwrites).trans (if_neg (mt (State.halting_iff s t).1 h))
end

theorem State.withRecord_ended (s : State) {t : Ticket} {e : Status × Nat × Nat} (h : t.ended = some e) (r : Running) :
    s.withRecord t r = s.finish t e.1 e.2.1 e.2.2 := by
  unfold State.withRecord
  rw [h]

theorem State.withRecord_completed (s : State) {t : Ticket} (h : t.ended = none) (r : Running) :
    s.withRecord t r = s.complete t r := by
  unfold State.withRecord
  rw [h]

/-! ### The completion record (R351, R352) -/

/-- The address of the completion slot that a ring writes next. -/
def OutRing.compSlot (r : OutRing) : Nat := r.base.toNat + 32 * (r.write.toNat % max 1 r.slots)

theorem State.putCompletion_mem (s : State) (t : Ticket) (st : Status) (fl off : Nat) :
    (s.putCompletion t st fl off).mem =
      s.mem.storeHost (s.part t.part).comp.compSlot (State.completionRecord t st fl off) := by
  have hrecord : ∀ (a : Nat) (bs : Bytes) (f : Partition → Partition),
      ((s.writeRecord none a bs).modPart t.part f).mem = s.mem.storeHost a bs :=
    fun a bs f => (State.modPart_mem ..).trans (State.writeRecord_mem ..)
  have hevent : ∀ (u : State) (b : Bool), (if b then u.completionEvent t.part else u).mem = u.mem :=
    fun u b => by cases b <;> rfl
  have hstall : ∀ (u : State) (b : Bool), (if b then u.bump .deadlineStalls 1 else u).mem = u.mem :=
    fun u b => by cases b <;> rfl
  unfold State.putCompletion
  dsimp only
  rw [State.dropTicket_mem, hstall, hevent, hrecord]
  rfl

/-- The block once it has forgotten what a command wrote. -/
def State.forgotten (s : State) (q : Nat) : State := { s with written := s.written.filter (fun w => w.ticket != q) }

theorem State.forgotten_keeps (s : State) (q : Nat) : Keeps [.written] s (s.forgotten q) := (Keeps.refl _ s).set_written

/-- A command that wrote no scratch leaves no undefined bytes at its completion (R157). -/
theorem State.openWritten_unscratched {s : State} {q : Nat} (h : ∀ w ∈ s.written, w.ticket = q → w.scratch = false) :
    s.openWritten q false = s.forgotten q := by
  have hnone : (s.written.filter (fun w => w.ticket == q)).filter (fun w => false || w.scratch) = [] := by
    rw [List.filter_eq_nil_iff]
    intro w hw
    obtain ⟨hmem, hq⟩ := List.mem_filter.1 hw
    simp [h w hmem (by simpa using hq)]
  unfold State.openWritten
  dsimp only
  rw [hnone]
  rfl

/-- A ticket without a Floe record ends with its completion record alone (R43, R352). -/
theorem State.finish_noFloe (s : State) {t : Ticket} (h : t.op.floe = false) (st : Status) (fl off : Nat) :
    s.finish t st fl off = s.putCompletion t st fl off := by
  have hput : s.putFloe t st off = (s, false) := by
    unfold State.putFloe
    split
    · rfl
    · rw [h]
      rfl
  unfold State.finish
  rw [hput]
  rfl

/-- A command other than SETTLE that has no Floe record and wrote no scratch completes with its completion record. -/
theorem State.complete_record {s : State} {t : Ticket} (r : Running) (hop : t.op ≠ .settle) (hfloe : t.op.floe = false)
    (hscratch : ∀ w ∈ s.written, w.ticket = t.seq → w.scratch = false) :
    s.complete t r =
      (s.forgotten t.seq).putCompletion t (commandStatus r.result.status (s.pastDeadline t)) 0 r.offset := by
  have hsettle : (t.op == .settle) = false := by simpa using hop
  rw [← State.openWritten_unscratched hscratch, ← State.finish_noFloe _ hfloe]
  unfold State.complete
  rw [hsettle]
  rfl

theorem State.pastDeadline_eq (s : State) (t : Ticket) :
    s.pastDeadline t = decide (t.deadline ≠ 0 ∧ t.deadline < s.count.toNat) := by
  simp only [State.pastDeadline, Bool.decide_and, decide_not]
  rfl

/-- With every handler idle, a completion that is the completion record alone writes it, moves the ring on and frees the ticket. -/
theorem State.complete_writes {s : State} {t : Ticket} (r : Running) (hop : t.op ≠ .settle) (hfloe : t.op.floe = false)
    (hpart : t.part < 64) (hidle : ∀ l : Level, (s.handler l).current = none)
    (hscratch : ∀ w ∈ s.written, w.ticket = t.seq → w.scratch = false) :
    let late := t.deadline ≠ 0 ∧ t.deadline < s.count.toNat
    let u := (s.complete t r).settleHandlers
    StoredAt s.mem u.mem (s.part t.part).comp.compSlot
        (State.completionRecord t (commandStatus r.result.status (decide late)) 0 r.offset) ∧
      (u.part t.part).comp.write = (s.part t.part).comp.write + 1 ∧ u.ticket t.seq = none ∧
      (∀ n : Nat, n ≠ t.part → u.part n = s.part n) ∧
      Keeps [.parts, .tickets, .mem, .reads, .writes, .written, .outs, .pendingCompletions, .freshCompletions, .counters] s u := by
  intro late u
  have hforgot := s.forgotten_keeps t.seq
  have hfree : ∀ l : Level, ((s.forgotten t.seq).handler l).current = none := fun l => by
    rw [State.handler_congr (hforgot.same .tiles (by decide)) (hforgot.same .slices (by decide))
      (hforgot.same .block (by decide)), hidle l]
  have hu : u = (s.forgotten t.seq).putCompletion t (commandStatus r.result.status (decide late)) 0 r.offset := by
    unfold u
    rw [State.complete_record r hop hfloe hscratch, State.putCompletion_settled hfree, State.pastDeadline_eq]
  have hpartOf : ∀ n, (s.forgotten t.seq).part n = s.part n := State.part_congr (hforgot.same .parts (by decide))
  rw [hu]
  refine ⟨?_, ?_, State.putCompletion_ticket .., fun n hn => ?_, ?_⟩
  · rw [State.putCompletion_mem, hpartOf, hforgot.same .mem (by decide)]
    exact Memory.storeHost_storedAt ..
  · rw [State.part_congr (State.putCompletion_parts ..), State.part_modPart _ _ _ hpart, hpartOf]
  · rw [State.part_congr (State.putCompletion_parts ..), State.part_modPart_ne _ _ _ _ hn, hpartOf]
  · exact ((Keeps.refl _ s).then hforgot).then (State.putCompletion_keeps ..)

theorem State.ticket_modRun {s : State} {q : Nat} {t : Ticket} (h : s.ticket q = some t) (f : Running → Running) :
    (s.modRun q f).ticket q = some { t with run := t.run.map f } :=
  State.ticket_modTicket_some (f := fun t => { t with run := t.run.map f }) h (fun _ => rfl)

/-- Settles O24: a completion waits for what the figure, its checkpoints and its writes still owe, and then ends the ticket. -/
theorem completionWaitsForOutputsAndCheckpoints : Obligations.CompletionWaitsForOutputsAndCheckpoints := by
  intro s q h0
  refine ⟨execCommandCompletion_unlaunched h0, fun t r ht hr => ⟨execCommandCompletion_notDue h0 ht hr, fun hphase hck =>
    ⟨fun hunaccepted => ?_, fun hwrites hhalt => ⟨fun e => ?_, fun he => ?_⟩⟩⟩⟩
  · refine ⟨_, execCommandCompletion_unaccepted h0 ht hr hphase hck hunaccepted, State.modRun_keeps .., ?_⟩
    rw [State.ticket_modRun ht, hr]
    rfl
  · intro he
    rw [← s.withRecord_ended he r]
    exact execCommandCompletion_records h0 ht hr hphase hck hwrites hhalt
  · have hrow := execCommandCompletion_records h0 ht hr hphase hck hwrites hhalt
    rw [s.withRecord_completed he] at hrow
    refine ⟨hrow, fun hop hfloe hpart hidle hscratch => ?_⟩
    obtain rfl : t.seq = q := by simpa using List.find?_some ht
    exact ⟨_, hrow, State.complete_writes r hop hfloe hpart hidle hscratch⟩

end Sys2Proof.Machine
end

section
/-! HALT: the later tickets that it cancels, the kept rows that it releases (R231, R355; log 28), and the checkpoint that its
completion waits for (R50, R355). -/
namespace Sys2Proof.Machine

/-! ### Tickets of one sequence -/

/-- Tickets change only in ticket `q`, which keeps its sequence and keeps or lacks its figure as before. -/
def TicketMapped (q : Nat) (s u : State) : Prop :=
  ∃ f : Ticket → Ticket, (∀ t, (f t).seq = t.seq) ∧ (∀ t, (f t).run = none ↔ t.run = none) ∧
    u.tickets = (s.modTicket q f).tickets

theorem TicketMapped.modTicket {q : Nat} (s : State) {f : Ticket → Ticket} (hseq : ∀ t, (f t).seq = t.seq)
    (hrun : ∀ t, (f t).run = none ↔ t.run = none) : TicketMapped q s (s.modTicket q f) :=
  ⟨f, hseq, hrun, rfl⟩

theorem TicketMapped.refl (q : Nat) (s : State) : TicketMapped q s s :=
  ⟨id, fun _ => rfl, fun _ => Iff.rfl, by simp [State.modTicket_tickets]⟩

theorem TicketMapped.of_left {q : Nat} {s u v : State} (h : u.tickets = s.tickets) (k : TicketMapped q u v) :
    TicketMapped q s v := by
  obtain ⟨f, hseq, hrun, hv⟩ := k
  exact ⟨f, hseq, hrun, by rw [hv, State.modTicket_tickets, State.modTicket_tickets, h]⟩

theorem TicketMapped.trans {q : Nat} {s u v : State} (h : TicketMapped q s u) (k : TicketMapped q u v) : TicketMapped q s v := by
  obtain ⟨f, hfseq, hfrun, hu⟩ := h
  obtain ⟨g, hgseq, hgrun, hv⟩ := k
  refine ⟨g ∘ f, fun t => (hgseq _).trans (hfseq t), fun t => (hgrun _).trans (hfrun t), ?_⟩
  rw [hv, State.modTicket_tickets, hu, State.modTicket_tickets, State.modTicket_tickets, List.map_map]
  refine List.map_congr_left fun t _ => ?_
  by_cases ht : t.seq = q <;> simp [ht, hfseq]

theorem TicketMapped.of_runs {q : Nat} {s u : State} (h : RunsMapped q s u) : TicketMapped q s u := by
  obtain ⟨f, hf⟩ := h
  exact ⟨fun t => { t with run := t.run.map f }, fun _ => rfl, fun _ => Option.map_eq_none_iff,
    hf.trans (State.modTicket_tickets ..).symm⟩

theorem TicketMapped.mem {q : Nat} {s u : State} (h : TicketMapped q s u) {x : Ticket} (hx : x ∈ u.tickets) :
    (x.seq ≠ q → x ∈ s.tickets) ∧ (x.seq = q → ∃ y ∈ s.tickets, y.seq = q ∧ (x.run = none ↔ y.run = none)) := by
  obtain ⟨f, hseq, hrun, hu⟩ := h
  rw [hu, State.modTicket_tickets] at hx
  obtain ⟨y, hy, rfl⟩ := List.mem_map.1 hx
  by_cases hyq : y.seq = q
  · rw [if_pos hyq]
    exact ⟨fun hne => absurd ((hseq y).trans hyq) hne, fun _ => ⟨y, hy, hyq, hrun y⟩⟩
  · rw [if_neg hyq]
    exact ⟨fun _ => hy, fun h => absurd h hyq⟩

/-- The first ticket of a sequence other than `q` is where it was. -/
theorem find_map_ne {q n : Nat} (h : n ≠ q) {f : Ticket → Ticket} (hf : ∀ t, (f t).seq = t.seq) (l : List Ticket) :
    (l.map (fun t => if t.seq = q then f t else t)).find? (fun t => t.seq == n) = l.find? (fun t => t.seq == n) := by
  induction l with
  | nil => rfl
  | cons t l ih =>
    rw [List.map_cons, List.find?_cons, List.find?_cons, ih]
    by_cases ht : t.seq = q
    · have hne : (t.seq == n) = false := by simpa [ht] using h.symm
      rw [if_pos ht, hf, hne]
    · rw [if_neg ht]

theorem find_filter_ne {q n : Nat} (h : n ≠ q) (l : List Ticket) :
    (l.filter (fun t => t.seq != q)).find? (fun t => t.seq == n) = l.find? (fun t => t.seq == n) := by
  rw [List.find?_filter]
  refine congrArg (fun p => l.find? p) (funext fun t => ?_)
  by_cases ht : t.seq = n
  · simp [ht, h]
  · simp [ht]

theorem State.launched_of_ticket {s u : State} {q : Nat} (h : u.ticket q = s.ticket q) : u.launched q = s.launched q := by
  unfold State.launched
  rw [h]

/-- No two tickets have one sequence. -/
def State.Distinct (s : State) : Prop := (s.tickets.map Ticket.seq).Nodup

theorem State.Inv.distinct {s : State} (h : s.Inv) : s.Distinct := h.order.imp (fun hlt => Nat.ne_of_lt hlt)

theorem State.Distinct.of_keys {s u : State} (h : s.Distinct)
    (hkeys : (u.tickets.map Ticket.key).Sublist (s.tickets.map Ticket.key)) : u.Distinct :=
  h.sublist (Ticket.seqs_of_keys hkeys)

theorem State.Distinct.ticket {s : State} (h : s.Distinct) {x : Ticket} (hx : x ∈ s.tickets) : s.ticket x.seq = some x := by
  unfold State.ticket
  unfold State.Distinct at h
  generalize s.tickets = l at h hx
  induction l with
  | nil => exact absurd hx List.not_mem_nil
  | cons t l ih =>
    rw [List.map_cons, List.nodup_cons] at h
    rw [List.find?_cons]
    rcases List.mem_cons.1 hx with rfl | hx
    · simp
    · have hne : (t.seq == x.seq) = false := by
        have hnotin : t.seq ≠ x.seq := fun he => h.1 (he ▸ List.mem_map_of_mem hx)
        simpa using hnotin
      rw [hne]
      exact ih h.2 hx

/-! ### A cancelled ticket (R355) -/

/-- An ended launch holds its end in its ticket, which keeps its figure (R321). -/
theorem State.endLaunch_mapped (s : State) (q : Nat) (st : Status) : TicketMapped q s (s.endLaunch q st) := by
  unfold State.endLaunch
  split
  · exact .refl q s
  · next t r _ =>
    dsimp only
    generalize hs1 : (if s.groupOpen t then s.sendAbort t st else s) = s1
    have hsent : s1.tickets = s.tickets := by
      subst hs1
      split
      · exact (State.sendAbort_keeps ..).same .tickets (by decide)
      · rfl
    refine .of_left ?_ (.modTicket _ (fun _ => rfl) (fun _ => Option.map_eq_none_iff))
    exact ((State.loadFails_keeps ..).same .tickets (by decide)).trans
      (((State.openWritten_keeps ..).same .tickets (by decide)).trans hsent)

/-- A ticket without a figure ends with its completion record alone (R43, R352). -/
theorem State.finish_unlaunched (s : State) {t : Ticket} (h : t.run = none) (st : Status) (fl off : Nat) :
    s.finish t st fl off = s.putCompletion t st fl off := by
  have hput : s.putFloe t st off = (s, false) := by
    unfold State.putFloe
    rw [h]
  unfold State.finish
  rw [hput]
  rfl

theorem State.putCompletion_tickets (s : State) (t : Ticket) (st : Status) (fl off : Nat) :
    (s.putCompletion t st fl off).tickets = s.tickets.filter (fun x => x.seq != t.seq) := by
  have hrecord : ∀ (a : Nat) (bs : Bytes) (f : Partition → Partition),
      ((s.writeRecord none a bs).modPart t.part f).tickets = s.tickets :=
    fun a bs f => (State.modPart_tickets ..).trans ((State.writeRecord_keeps s none a bs).same .tickets (by decide))
  have hevent : ∀ (u : State) (b : Bool), (if b then u.completionEvent t.part else u).tickets = u.tickets :=
    fun u b => by cases b <;> rfl
  have hstall : ∀ (u : State) (b : Bool), (if b then u.bump .deadlineStalls 1 else u).tickets = u.tickets :=
    fun u b => by cases b <;> rfl
  unfold State.putCompletion
  dsimp only
  rw [State.dropTicket_tickets, hstall, hevent, hrecord]

/-- A cancelled ticket that has no figure is free; one that has stays, and what the block does to it leaves every other. -/
theorem State.cancelTicket_cases (s : State) (q : Nat) :
    (s.cancelTicket q).tickets = s.tickets.filter (fun x => x.seq != q) ∨
      (TicketMapped q s (s.cancelTicket q) ∧ ∀ t, s.ticket q = some t → t.run ≠ none) := by
  unfold State.cancelTicket
  split
  · next hnone => exact .inr ⟨.refl q s, fun t ht => by rw [hnone] at ht; cases ht⟩
  · next t ht =>
    obtain rfl : t.seq = q := by simpa using List.find?_some ht
    split
    · next hrun =>
      left
      rw [State.finish_unlaunched _ hrun, State.putCompletion_tickets, (State.freeBanks_keeps ..).same .tickets (by decide)]
    · next r hrun =>
      right
      refine ⟨?_, fun x hx => ?_⟩
      · split
        · exact .refl ..
        · exact (s.endLaunch_mapped t.seq .unrecovered).trans (.modTicket _ (fun _ => rfl) (fun _ => Iff.rfl))
      · obtain rfl : t = x := Option.some.inj (ht.symm.trans hx)
        rw [hrun]
        exact Option.some_ne_none r

theorem State.cancelTicket_other (s : State) {q n : Nat} (h : n ≠ q) : (s.cancelTicket q).ticket n = s.ticket n := by
  unfold State.ticket
  obtain hfreed | ⟨⟨f, hseq, -, hmapped⟩, -⟩ := s.cancelTicket_cases q
  · rw [hfreed, find_filter_ne h]
  · rw [hmapped, State.modTicket_tickets, find_map_ne h hseq]

theorem State.cancelTicket_mem {s : State} {q : Nat} {x : Ticket} (hx : x ∈ (s.cancelTicket q).tickets) (h : x.seq ≠ q) :
    x ∈ s.tickets := by
  obtain hfreed | ⟨hmapped, -⟩ := s.cancelTicket_cases q
  · rw [hfreed] at hx
    exact (List.mem_filter.1 hx).1
  · exact (hmapped.mem hx).1 h

/-- A cancelled ticket is not left to launch. -/
theorem State.cancelTicket_launched {s : State} (hs : s.Distinct) {q : Nat} {x : Ticket} (hx : x ∈ (s.cancelTicket q).tickets)
    (h : x.seq = q) : x.run ≠ none := by
  obtain hfreed | ⟨hmapped, hrun⟩ := s.cancelTicket_cases q
  · rw [hfreed] at hx
    exact absurd h (by simpa using (List.mem_filter.1 hx).2)
  · obtain ⟨y, hy, hyq, hxy⟩ := (hmapped.mem hx).2 h
    exact fun hnone => hrun y (hyq ▸ hs.ticket hy) (hxy.1 hnone)

/-! ### The tickets that a HALT cancels (R355) -/

/-- The block once some tickets are cancelled. -/
def State.cancelAll (s : State) (l : List Nat) : State := l.foldl (fun (s : State) q => s.cancelTicket q) s

theorem State.cancelTicket_keys (s : State) (q : Nat) :
    ((s.cancelTicket q).tickets.map Ticket.key).Sublist (s.tickets.map Ticket.key) :=
  (State.cancelTicket_keeps s q).keys (by decide)

theorem State.cancelAll_keys (s : State) (l : List Nat) :
    ((s.cancelAll l).tickets.map Ticket.key).Sublist (s.tickets.map Ticket.key) := by
  induction l generalizing s with
  | nil => exact List.Sublist.refl _
  | cons q l ih => exact (ih (s.cancelTicket q)).trans (s.cancelTicket_keys q)

theorem State.cancelAll_other (s : State) {l : List Nat} {n : Nat} (h : n ∉ l) : (s.cancelAll l).ticket n = s.ticket n := by
  induction l generalizing s with
  | nil => rfl
  | cons q l ih =>
    obtain ⟨hq, hl⟩ := not_or.1 (mt List.mem_cons.2 h)
    exact (ih (s.cancelTicket q) hl).trans (s.cancelTicket_other hq)

theorem State.cancelAll_mem {s : State} {l : List Nat} {x : Ticket} (hx : x ∈ (s.cancelAll l).tickets) (h : x.seq ∉ l) :
    x ∈ s.tickets := by
  induction l generalizing s with
  | nil => exact hx
  | cons q l ih =>
    obtain ⟨hq, hl⟩ := not_or.1 (mt List.mem_cons.2 h)
    exact State.cancelTicket_mem (ih hx hl) hq

/-- None of the cancelled tickets is left to launch. -/
theorem State.cancelAll_launched {s : State} (hs : s.Distinct) {l : List Nat} {x : Ticket} (hx : x ∈ (s.cancelAll l).tickets)
    (h : x.seq ∈ l) : x.run ≠ none := by
  induction l generalizing s with
  | nil => exact absurd h List.not_mem_nil
  | cons q l ih =>
    by_cases hl : x.seq ∈ l
    · exact ih (hs.of_keys (s.cancelTicket_keys q)) hx hl
    · exact State.cancelTicket_launched hs (State.cancelAll_mem hx hl) ((List.mem_cons.1 h).resolve_right hl)

/-- The tickets of a partition behind a sequence. -/
def State.laterThan (s : State) (part q : Nat) : List Nat :=
  (s.tickets.filter (fun x => x.part == part && decide (x.seq > q))).map Ticket.seq

theorem State.mem_laterThan {s : State} {part q n : Nat} :
    n ∈ s.laterThan part q ↔ q < n ∧ ∃ y ∈ s.tickets, y.seq = n ∧ y.part = part := by
  simp only [State.laterThan, List.mem_map, List.mem_filter, Bool.and_eq_true, beq_iff_eq, decide_eq_true_eq]
  constructor
  · rintro ⟨y, ⟨hy, hp, hlt⟩, rfl⟩
    exact ⟨hlt, y, hy, rfl, hp⟩
  · rintro ⟨hlt, y, hy, rfl, hp⟩
    exact ⟨y, ⟨hy, hp, hlt⟩, rfl⟩

/-! ### The kept rows that a HALT releases (R231) -/

/-- From `s` to `u` regions kept their owners, and none keeps rows that kept none. -/
def KeptOnlyLess (s u : State) : Prop :=
  ∀ n : Nat, (u.region n).owner = (s.region n).owner ∧ ((s.region n).kept = none → (u.region n).kept = none)

theorem KeptOnlyLess.refl (s : State) : KeptOnlyLess s s := fun _ => ⟨rfl, id⟩

theorem KeptOnlyLess.trans {s u v : State} (h : KeptOnlyLess s u) (k : KeptOnlyLess u v) : KeptOnlyLess s v :=
  fun n => ⟨(k n).1.trans (h n).1, fun hnone => (k n).2 ((h n).2 hnone)⟩

theorem State.region_beyond (s : State) {n : Nat} (h : 64 ≤ n) : s.region n = Region.reset := by
  unfold State.region
  rw [Vector.getElem?_eq_none h]
  rfl

/-- A release of kept rows takes the record from its region, and marks from the contexts of those rows. -/
theorem State.releaseKept_some {s : State} {r : Nat} {k : Kept} (h : (s.region r).kept = some k) :
    (s.releaseKept r).regions = (s.modRegion r (fun g =>
      { g with kept := none, state := if g.state = .degraded then .degraded else .empty })).regions := by
  unfold State.releaseKept
  rw [h]
  refine (Keeps.foldl (w := [.ctxs]) (Keeps.refl _ _) fun u c => ?_).same .regions (by decide)
  split
  · exact State.modCtx_keeps ..
  · exact Keeps.refl _ u

theorem State.releaseKept_kept (s : State) (r : Nat) : ((s.releaseKept r).region r).kept = none := by
  by_cases hr : r < 64
  · cases hk : (s.region r).kept with
    | none =>
      unfold State.releaseKept
      rw [hk]
      exact hk
    | some k => rw [State.region_congr (State.releaseKept_some hk), State.region_modRegion _ _ _ hr]
  · rw [State.region_beyond _ (Nat.not_lt.1 hr)]
    rfl

theorem State.releaseKept_less (s : State) (r : Nat) : KeptOnlyLess s (s.releaseKept r) := by
  cases hk : (s.region r).kept with
  | none =>
    have hsame : s.releaseKept r = s := by
      unfold State.releaseKept
      rw [hk]
    rw [hsame]
    exact .refl s
  | some k =>
    intro n
    rw [State.region_congr (State.releaseKept_some hk)]
    by_cases hn : n = r
    · subst hn
      have hlt : n < 64 := Nat.lt_of_not_le fun h => by
        rw [State.region_beyond s h] at hk
        cases hk
      rw [State.region_modRegion _ _ _ hlt]
      exact ⟨rfl, fun _ => rfl⟩
    · rw [State.region_modRegion_ne _ _ _ _ hn]
      exact ⟨rfl, id⟩

/-- The block once the kept rows of a partition in one region are released. -/
def State.releaseAt (s : State) (p r : Nat) : State := if (s.region r).owner.toNat = p then s.releaseKept r else s

/-- The block once the kept rows of a partition in some regions are released. -/
def State.releaseIn (s : State) (p : Nat) (l : List Nat) : State := l.foldl (fun (s : State) r => s.releaseAt p r) s

theorem State.releaseKeptPart_releaseIn (s : State) (p : Nat) : s.releaseKeptPart p = s.releaseIn p (upto 64) := rfl

theorem State.releaseAt_less (s : State) (p r : Nat) : KeptOnlyLess s (s.releaseAt p r) := by
  unfold State.releaseAt
  split
  · exact s.releaseKept_less r
  · exact .refl s

theorem State.releaseIn_less (s : State) (p : Nat) (l : List Nat) : KeptOnlyLess s (s.releaseIn p l) := by
  induction l generalizing s with
  | nil => exact .refl s
  | cons r l ih => exact (s.releaseAt_less p r).trans (ih _)

theorem State.releaseIn_kept {s : State} {p n : Nat} {l : List Nat} (hn : n ∈ l) (hp : (s.region n).owner.toNat = p) :
    ((s.releaseIn p l).region n).kept = none := by
  induction l generalizing s with
  | nil => exact absurd hn List.not_mem_nil
  | cons r l ih =>
    by_cases hnr : n = r
    · subst hnr
      have hhere : s.releaseAt p n = s.releaseKept n := if_pos hp
      exact ((s.releaseAt p n).releaseIn_less p l n).2 (by rw [hhere]; exact s.releaseKept_kept n)
    · exact ih ((List.mem_cons.1 hn).resolve_left hnr) (by rw [(s.releaseAt_less p r n).1, hp])

/-- No region of the partition keeps rows after its release. -/
theorem State.releaseKeptPart_kept (s : State) (p n : Nat) (hp : ((s.releaseKeptPart p).region n).owner.toNat = p) :
    ((s.releaseKeptPart p).region n).kept = none := by
  rw [State.releaseKeptPart_releaseIn] at hp ⊢
  by_cases hn : n < 64
  · exact State.releaseIn_kept (List.mem_range.2 hn) (by rw [← (s.releaseIn_less p (upto 64) n).1, hp])
  · rw [State.region_beyond _ (Nat.not_lt.1 hn)]
    rfl

/-! ### The row (R355) -/

/-- The block once a HALT has cancelled the later tickets and halted its partition. -/
def State.haltedBy (s : State) (t : Ticket) : State :=
  ((s.cancelAll (s.laterThan t.part t.seq)).releaseKeptPart t.part).modPart t.part (fun p => { p with state := .halted })

theorem execHalt_ready {s : State} {t : Ticket} {r : Running} (h : Ready s t.seq .halt t r) :
    execHalt t.seq s = .next ((s.haltedBy t).finishWith t.seq id) :=
  State.engine_ready h

theorem State.haltedBy_tickets (s : State) (t : Ticket) :
    (s.haltedBy t).tickets = (s.cancelAll (s.laterThan t.part t.seq)).tickets :=
  (State.modPart_tickets ..).trans ((State.releaseKeptPart_keeps ..).same .tickets (by decide))

theorem State.haltedBy_launched (s : State) (t : Ticket) : (s.haltedBy t).launched t.seq = s.launched t.seq := by
  rw [State.launched_congr (s.haltedBy_tickets t)]
  exact State.launched_of_ticket (s.cancelAll_other fun h => absurd (State.mem_laterThan.1 h).1 (Nat.lt_irrefl _))

/-- No later ticket of the partition is left to launch. -/
theorem State.haltedBy_later {s : State} (hs : s.Distinct) {t x : Ticket} (hx : x ∈ (s.haltedBy t).tickets)
    (hp : x.part = t.part) (hlt : t.seq < x.seq) : x.run ≠ none := by
  rw [s.haltedBy_tickets t] at hx
  obtain ⟨y, hy, hseq, hpart⟩ := Ticket.mem_of_keys (s.cancelAll_keys _) hx
  exact State.cancelAll_launched hs hx (State.mem_laterThan.2 ⟨hlt, y, hy, hseq, hpart.trans hp⟩)

theorem State.haltedBy_kept (s : State) (t : Ticket) (n : Nat) (hp : ((s.haltedBy t).region n).owner.toNat = t.part) :
    ((s.haltedBy t).region n).kept = none := by
  unfold State.haltedBy at hp ⊢
  rw [State.region_congr (State.modPart_regions ..)] at hp ⊢
  exact State.releaseKeptPart_kept _ t.part n hp

theorem State.haltedBy_part (s : State) {t : Ticket} (h : t.part < 64) :
    ((s.haltedBy t).part t.part).state = .halted := by
  unfold State.haltedBy
  rw [State.part_modPart _ _ _ h]

theorem finishWith_runs (q : Nat) (f : Result → Result) (s : State) : RunsMapped q s (s.finishWith q f) := by
  unfold State.finishWith State.finishRun
  dsimp only
  split
  · exact RunsMapped.modRun ..
  · split
    · exact (RunsMapped.modRun ..).trans ((RunsMapped.modRun ..).trans (of_keeps (State.sendCredited_keeps ..) (by decide)))
    · exact (RunsMapped.modRun ..).trans (RunsMapped.modRun ..)

/-! ### The completion of a HALT (R50, R355) -/

theorem State.haltDue_waits {s : State} {t : Ticket} (h : ∃ x ∈ s.tickets, x.part = t.part ∧ x.seq ≠ t.seq) (r : Running) :
    s.haltDue t r = s :=
  if_pos (by simpa [List.any_eq_true] using h)

theorem State.haltDue_alone {s : State} {t : Ticket} (h : ∀ x ∈ s.tickets, x.part = t.part → x.seq = t.seq) (r : Running) :
    s.haltDue t r = (s.checkpointDue t.part .halted (some t.seq)).modTicket t.seq (fun t =>
      { t with ended := some (t.ended.getD (.ok, 0, r.offset)) }) :=
  if_neg (by simpa [List.any_eq_true] using h)

theorem State.checkpointDue_ckpts (s : State) (p : Nat) (reason : CkptReason) (q : Option Nat) :
    ∃ c : Ckpt, (s.checkpointDue p reason q).ckpts = s.ckpts ++ [c] ∧ c.part = p ∧ c.reason = reason ∧ c.ticket = q :=
  ⟨_, State.modPart_ckpts .., rfl, rfl, rfl⟩

/-- Once no other ticket of the partition is held, the HALT checkpoint falls due and holds the HALT's record. -/
theorem State.haltDue_falls {s : State} {q : Nat} {t : Ticket} (ht : s.ticket q = some t)
    (h : ∀ x ∈ s.tickets, x.part = t.part → x.seq = t.seq) (r : Running) :
    ∃ c : Ckpt, (s.haltDue t r).ckpts = s.ckpts ++ [c] ∧ c.part = t.part ∧ c.reason = .halted ∧ c.ticket = some q ∧
      (s.haltDue t r).ticket q = some { t with ended := some (t.ended.getD (.ok, 0, r.offset)) } := by
  obtain rfl : t.seq = q := by simpa using List.find?_some ht
  obtain ⟨c, hckpts, hpart, hreason, hticket⟩ := s.checkpointDue_ckpts t.part .halted (some t.seq)
  rw [State.haltDue_alone h]
  refine ⟨c, (State.modTicket_ckpts ..).trans hckpts, hpart, hreason, hticket, ?_⟩
  exact State.ticket_modTicket_some (f := fun t => { t with ended := some (t.ended.getD (.ok, 0, r.offset)) })
    ((State.ticket_congr ((State.checkpointDue_keeps ..).same .tickets (by decide)) _).trans ht) (fun _ => rfl)

/-- Settles O19: the later tickets of the partition are cancelled before its state and its rows go, and the checkpoint falls due at
the completion that finds no other ticket. -/
theorem haltHaltsItsPartition : Obligations.HaltHaltsItsPartition := by
  intro s q t r
  refine ⟨fun hinv h hp => ?_, fun h0 ht hr hphase hop hhalted hwrites hck => ?_⟩
  · obtain ⟨rfl, -⟩ := seqOf h.launched
    have hlaunched := (s.haltedBy_launched t).trans h.launched
    have hend := State.finishWith_keeps (s.haltedBy t) t.seq id
    refine ⟨_, execHalt_ready h, State.finishWith_finished id hlaunched, ?_, fun x hx hpart hlt => ?_, fun n => ?_⟩
    · rw [State.part_congr (hend.same .parts (by decide)), s.haltedBy_part hp]
    · have hbefore := ((TicketMapped.of_runs (finishWith_runs t.seq id (s.haltedBy t))).mem hx).1 (Nat.ne_of_gt hlt)
      exact State.haltedBy_later hinv.distinct hbefore hpart hlt
    · rw [State.region_congr (hend.same .regions (by decide))]
      exact s.haltedBy_kept t n
  · have hrow := execCommandCompletion_halting h0 ht hr hphase hck hwrites ⟨hop, hhalted⟩
    refine ⟨fun hothers => ?_, fun halone => ?_⟩
    · rw [State.haltDue_waits hothers] at hrow
      exact hrow
    · obtain ⟨c, hckpts, hpart, hreason, hticket, hended⟩ := State.haltDue_falls ht halone r
      exact ⟨_, c, hrow, hckpts, hpart, hreason, hticket, hended, State.haltDue_keeps ..⟩

end Sys2Proof.Machine
end

section
/-! HIDDEN_ROW: a row that arrives on the activation port, and the ticket that takes it (R457, R461, R462, R475). -/
namespace Sys2Proof.Machine

/-- The block once a hidden row has come behind those that wait, a parity error of it being counted (R461). -/
def State.rowArrived (s : State) (row : Bytes × Bool) : State :=
  let s1 := if row.2 then s else s.portError
  { s1 with actIn := s1.actIn ++ [row] }

theorem execHiddenRow_awake {s : State} (h0 : s.startup ≠ .reset) (released : s.rstAsserted = false) (beats : Bytes) (ok : Bool) :
    execHiddenRow beats ok s =
      .next (State.pumpRows (s.rowArrived (beats, ok)).actIn.length (s.rowArrived (beats, ok))) := by
  have hdormant : s.dormant = false := by simpa [State.dormant] using h0
  unfold execHiddenRow
  rw [released, hdormant]
  rfl

theorem State.rowArrived_good (s : State) (beats : Bytes) :
    s.rowArrived (beats, true) = { s with actIn := s.actIn ++ [(beats, true)] } := rfl

theorem State.rowArrived_keeps (s : State) (row : Bytes × Bool) :
    Keeps [.actIn, .portErrors, .counters] s (s.rowArrived row) := by
  unfold State.rowArrived
  dsimp only
  split
  · exact (Keeps.refl _ s).set_actIn
  · exact ((Keeps.refl _ s).then (State.portError_keeps s)).set_actIn

theorem State.rowArrived_actIn (s : State) (row : Bytes × Bool) : (s.rowArrived row).actIn = s.actIn ++ [row] := by
  unfold State.rowArrived
  dsimp only
  split <;> rfl

theorem State.rowArrived_portErrors (s : State) (row : Bytes × Bool) :
    (s.rowArrived row).portErrors = s.portErrors + (if row.2 then 0 else 1) := by
  unfold State.rowArrived
  dsimp only
  split <;> rfl

/-- Which ticket takes the next row is not a matter of the rows that wait (R475). -/
theorem State.rowArrived_rowTicket (s : State) (row : Bytes × Bool) : (s.rowArrived row).rowTicket = s.rowTicket := by
  unfold State.rowArrived
  dsimp only
  split <;> rfl

/-- Where no ticket takes rows they wait (R475). -/
theorem State.pumpRows_waits {s : State} (h : s.rowTicket = none) (n : Nat) : State.pumpRows n s = s := by
  have htake : ∀ row : Bytes × Bool, s.takeRow row = none := fun row => by
    unfold State.takeRow
    rw [h]
  cases n with
  | zero => rfl
  | succ n =>
    unfold State.pumpRows
    split
    · rfl
    · rw [htake]

/-- The row as a ticket holds it: of the right length and without parity error. -/
def Ticket.goodRow (t : Ticket) (beats : Bytes) : ActRow := ⟨beats, false, false, arrivalStats t.rowFmt beats⟩

/-- A ticket that has taken one more row. -/
def Ticket.withRow (t : Ticket) (a : ActRow) : Ticket := { t with rows := t.rows ++ [a] }

/-- The ticket whose turn it is takes a row of its length without parity error where the buffer has room (R475). -/
theorem State.takeRow_good {s : State} {t : Ticket} {beats : Bytes} (ht : s.rowTicket = some t) (hknown : s.rowsKnown t = true)
    (hroom : s.rowRoom t = true) (hlen : beats.length = t.rowBytes) :
    s.takeRow (beats, true) = some (s.modTicket t.seq (fun x => x.withRow (t.goodRow beats))) := by
  unfold State.takeRow
  rw [ht]
  simp [hknown, hroom, hlen, Ticket.goodRow, Ticket.withRow]

/-- The only row on the port, once a ticket takes it, leaves the port and gives its credit back (R457). -/
theorem State.pumpRows_one {s u : State} {row : Bytes × Bool} (hrow : s.actIn = [row]) (htake : s.takeRow row = some u) :
    State.pumpRows s.actIn.length s = ({ u with actIn := [] } : State).returnCredit .actIn := by
  rw [hrow]
  simp only [List.length_singleton, State.pumpRows, hrow, htake]

/-- A row that comes with none before it, and that the ticket whose turn it is takes, becomes that ticket's next row. -/
theorem State.rowArrived_taken {s : State} {t : Ticket} {beats : Bytes} (hempty : s.actIn = []) (ht : s.rowTicket = some t)
    (hknown : s.rowsKnown t = true) (hroom : s.rowRoom t = true) (hlen : beats.length = t.rowBytes) :
    let v := s.rowArrived (beats, true)
    let u := State.pumpRows v.actIn.length v
    u.actIn = [] ∧
      u.tickets = s.tickets.map (fun x => if x.seq = t.seq then x.withRow (t.goodRow beats) else x) ∧
      u.ins = (s.returnCredit .actIn).ins ∧ Keeps [.tickets, .ins] s u := by
  intro v u
  have hu : u = ({ v.modTicket t.seq (fun x => x.withRow (t.goodRow beats)) with actIn := [] } : State).returnCredit .actIn :=
    State.pumpRows_one (by rw [State.rowArrived_actIn, hempty]; rfl)
      (State.takeRow_good ((s.rowArrived_rowTicket _).trans ht) hknown hroom hlen)
  have hback : ({ v.modTicket t.seq (fun x => x.withRow (t.goodRow beats)) with actIn := [] } : State) =
      s.modTicket t.seq (fun x => x.withRow (t.goodRow beats)) := by
    unfold v
    rw [State.rowArrived_good, ← hempty]
    rfl
  have hmod := s.modTicket_keeps t.seq (fun x => x.withRow (t.goodRow beats)) (fun _ => rfl)
  rw [hu, hback]
  refine ⟨?_, ?_, rfl, ?_⟩
  · exact (State.returnCredit_actIn ..).trans ((State.modTicket_actIn ..).trans hempty)
  · exact (State.returnCredit_tickets ..).trans (State.modTicket_tickets ..)
  · exact ((Keeps.refl _ s).then hmod).then (State.returnCredit_keeps ..)

/-- Settles O28: a row arrives behind those that wait, and goes on to the ticket whose turn it is. -/
theorem hiddenRowsQueueUntilATicketTakesThem : Obligations.HiddenRowsQueueUntilATicketTakesThem := by
  intro s beats ok h0 released
  have hrow := execHiddenRow_awake h0 released beats ok
  refine ⟨⟨_, hrow, ?_⟩, fun hnone => ?_, fun t hempty ht hknown hroom hlen hok => ?_⟩
  · exact ((State.pumpRows_keeps ..).same .portErrors (by decide)).trans (s.rowArrived_portErrors _)
  · rw [State.pumpRows_waits ((s.rowArrived_rowTicket _).trans hnone)] at hrow
    exact ⟨_, hrow, s.rowArrived_actIn _, s.rowArrived_portErrors _, s.rowArrived_keeps _⟩
  · subst hok
    exact ⟨_, hrow, State.rowArrived_taken hempty ht hknown hroom hlen⟩

end Sys2Proof.Machine
end

section
/-! The queue of commands, and the Pavane count: what a count and a slip change, and what the events of the count leave (R357,
R359, R360). -/
namespace Sys2Proof.Machine

/-- Settles O1, by whether the queue is empty. -/
theorem stepRunsTheFrontCommand : Obligations.StepRunsTheFrontCommand := by
  unfold Obligations.StepRunsTheFrontCommand Sys2Proof.Machine.step
  refine ⟨fun c q s hpending => ?_, fun s hpending => ?_⟩
  · rw [hpending]
    rfl
  · rw [hpending]

/-! ### A count -/

/-- The input difference is read in two's complement (R359). -/
theorem pavDiff_eq_toInt (pav count : U64) : pavDiff pav count = (pav - count).toInt := by
  have hlt : (pav - count).toNat < pow2 64 := (pav - count).isLt
  have hhalf : (pav - count).toNat < pow2 63 ↔ 2 * (pav - count).toNat < 2 ^ 64 := by
    rw [show pow2 63 = 2 ^ 63 from rfl]
    omega
  unfold pavDiff signed
  rw [Nat.mod_eq_of_lt hlt, BitVec.toInt_eq_toNat_cond]
  exact if_congr hhalf rfl rfl

theorem State.fresh_counter (s : State) (c : Counter) : s.fresh.2.counter c = s.counter c := rfl

/-- The corrections met in line are counted in counters of their own (log 65). -/
theorem State.inlineCorrected_counter (s : State) {c : Counter} (hacc : .accumulatorCorrections ≠ c)
    (hfirn : .firnCorrections ≠ c) (htable : .tableCorrections ≠ c) : s.inlineCorrected.counter c = s.counter c := by
  simp only [State.inlineCorrected, List.foldl_cons, List.foldl_nil, State.fresh_counter,
    State.counter_bump_ne _ _ _ _ (Counter.idx_ne hacc), State.counter_bump_ne _ _ _ _ (Counter.idx_ne hfirn),
    State.counter_bump_ne _ _ _ _ (Counter.idx_ne htable)]

/-- What goes on in a count besides its time: the Sleet generators run, and reads are corrected (R284; log 65). -/
theorem State.countRuns_keeps (s : State) : Keeps [.slices, .counters, .free] s s.runSleet.inlineCorrected :=
  ((Keeps.refl _ s).then (State.runSleet_keeps s)).then (State.inlineCorrected_keeps _)

theorem State.setCount_time (s : State) (n pav : U64) :
    (s.setCount n pav).count = n ∧ (s.setCount n pav).tick = s.tick + 8 ∧
      (s.setCount n pav).slipPending = (s.slipPending || decide (pavDiff pav n < -2 ∨ 2 < pavDiff pav n)) := by
  unfold State.setCount
  have hruns := State.countRuns_keeps
  exact ⟨(hruns _).same .count (by decide), (hruns _).same .tick (by decide), (hruns _).same .slipPending (by decide)⟩

theorem State.takeSlip_time (s : State) (pav : U64) :
    (s.takeSlip pav).count = pav ∧ (s.takeSlip pav).tick = s.tick + 8 ∧ (s.takeSlip pav).slipPending = false := by
  unfold State.takeSlip
  have hruns := fun u : State => (State.countRuns_keeps u).then (State.bump_keeps _ .slips 1)
  exact ⟨(hruns _).same .count (by decide), (hruns _).same .tick (by decide), (hruns _).same .slipPending (by decide)⟩

theorem State.takeSlip_slips (s : State) (pav : U64) : (s.takeSlip pav).counter .slips = s.counter .slips + 1 := by
  unfold State.takeSlip
  rw [State.counter_bump, State.inlineCorrected_counter _ (by decide) (by decide) (by decide),
    State.counter_congr ((State.runSleet_keeps _).same .counters (by decide))]
  rfl

/-- The events of a count move neither the count nor its slip. -/
theorem State.atCount_time (s : State) :
    s.atCount.count = s.count ∧ s.atCount.tick = s.tick ∧ s.atCount.slipPending = s.slipPending :=
  have h := State.atCount_keeps s
  ⟨h.same .count (by decide), h.same .tick (by decide), h.same .slipPending (by decide)⟩

theorem State.slipDue_iff {s : State} {pav : U64} : s.slipDue pav = true ↔ s.slipPending = true ∧ pav.toNat % 512 = 0 := by
  simp [State.slipDue]

/-! ### The rows of the count -/

section
variable {s : State} (h0 : s.startup ≠ .reset) (pav : U64)
include h0

theorem execPavaneCountLoad_once (hloaded : s.countLoaded = true) : execPavaneCountLoad pav s = .next s :=
  (State.awake_runs h0).trans (if_pos hloaded)

theorem execPavaneCountLoad_first (hloaded : s.countLoaded = false) :
    execPavaneCountLoad pav s = .next { s with count := pav, countLoaded := true, inputDiff := 0 } :=
  (State.awake_runs h0).trans (if_neg (by simp [hloaded]))

theorem execPavaneAdvance_unloaded (hloaded : s.countLoaded = false) : execPavaneAdvance pav s = .next s :=
  (State.awake_runs h0).trans (if_pos (by simp [hloaded]))

theorem execPavaneAdvance_loaded (hloaded : s.countLoaded = true) :
    execPavaneAdvance pav s = .next (if s.slipDue pav then s.takeSlip pav else s.setCount (s.count + 1) pav).atCount := by
  refine (State.awake_runs h0).trans ((if_neg (by simp [hloaded])).trans ?_)
  split <;> rfl

theorem execPavaneSlip_awake :
    execPavaneSlip pav s = .next (if s.slipDue pav then (s.takeSlip pav).atCount else s) := by
  refine (State.awake_runs h0).trans ?_
  split <;> rfl

end

/-- Settles O30: a slip that is due replaces the advance, and the events of the count come after either. -/
theorem countAdvancesOrSlips : Obligations.CountAdvancesOrSlips := by
  intro s v h0 slips d
  have hslips : s.slipDue v = true ↔ slips := State.slipDue_iff
  have hslip := execPavaneSlip_awake h0 v
  refine ⟨fun hloaded hs => ?_, fun hloaded hs => ?_, fun hs => ?_, fun hloaded => ?_, fun hloaded => ?_⟩
  · have hadvance := execPavaneAdvance_loaded h0 v hloaded
    rw [if_pos (hslips.2 hs)] at hadvance hslip
    obtain ⟨hcount, htick, hpending⟩ := s.takeSlip_time v
    obtain ⟨hcount', htick', hpending'⟩ := (s.takeSlip v).atCount_time
    exact ⟨s.takeSlip v, hadvance, hslip, hcount'.trans hcount, htick'.trans htick, hpending'.trans hpending,
      s.takeSlip_slips v, (Keeps.refl _ s).then (s.takeSlip_keeps v)⟩
  · have hadvance := execPavaneAdvance_loaded h0 v hloaded
    rw [if_neg (mt hslips.1 hs)] at hadvance
    obtain ⟨hcount, htick, hpending⟩ := s.setCount_time (s.count + 1) v
    rw [pavDiff_eq_toInt] at hpending
    obtain ⟨hcount', htick', hpending'⟩ := (s.setCount (s.count + 1) v).atCount_time
    exact ⟨s.setCount (s.count + 1) v, hadvance, hcount'.trans hcount, htick'.trans htick, hpending'.trans hpending,
      (Keeps.refl _ s).then (s.setCount_keeps (s.count + 1) v)⟩
  · rw [if_neg (mt hslips.1 hs)] at hslip
    exact hslip
  · exact ⟨execPavaneAdvance_unloaded h0 v hloaded, _, execPavaneCountLoad_first h0 v hloaded, rfl, rfl, rfl,
      (Keeps.refl _ s).set_count_countLoaded_inputDiff⟩
  · exact execPavaneCountLoad_once h0 v hloaded

end Sys2Proof.Machine
end

section
/-! Preemption at a frame boundary, and the resumption of the figures that it suspended (R376, R378, R379). -/
namespace Sys2Proof.Machine

/-- The block with every figure that uses Serac or the lanes suspended, a preemption being counted where there is one
(R376). -/
def State.arraySuspended (s : State) : State :=
  let s1 := s.mapRuns (fun x r => if s.suspendable x r then { r with suspendedAt := some s.tick } else r)
  if s.tickets.any (fun x => match x.run with | some r => s.suspendable x r | none => false) then s1.bump .preemptions 1 else s1

theorem State.arraySuspended_tickets (s : State) :
    s.arraySuspended.tickets = s.tickets.map (fun x => { x with run := x.run.map (fun r =>
      if s.suspendable x r then { r with suspendedAt := some s.tick } else r) }) := by
  unfold State.arraySuspended
  dsimp only
  split <;> rfl

theorem State.arraySuspended_keeps (s : State) : Keeps [.tickets, .counters] s s.arraySuspended := by
  have hmap := fun f => (Keeps.refl [.tickets, .counters] s).then (State.mapRuns_keeps s f)
  unfold State.arraySuspended
  dsimp only
  split
  · exact (hmap _).then (State.bump_keeps ..)
  · exact hmap _

theorem State.preempt_launches {s : State} {t : Ticket} (hnone : s.urgentRuns = false) (ht : s.urgentTicket = some t) :
    s.preempt = s.arraySuspended.launch t := by
  unfold State.preempt
  rw [ht, hnone]
  rfl

/-- The figure with its suspension, where it has one, ended at a tick: its later offsets move by the ticks since its boundary and
by the 64 of the reload (R378). -/
def Running.resumed (r : Running) (tick : Nat) : Running :=
  match r.suspendedAt with
  | some k => { r with suspendedAt := none, moved := r.moved + (tick - k) + 64 }
  | none => r

/-- No preemption has suspended the ticket's figure, where it has one. -/
def Ticket.unsuspended (t : Ticket) : Bool := match t.run with | some r => r.suspendedAt.isNone | none => true

theorem Ticket.unsuspended_iff {t : Ticket} : t.unsuspended = true ↔ ∀ r, t.run = some r → r.suspendedAt = none := by
  unfold Ticket.unsuspended
  cases t.run <;> simp

/-- No figure is suspended. -/
def State.NoneSuspended (s : State) : Prop := ∀ t ∈ s.tickets, ∀ r, t.run = some r → r.suspendedAt = none

theorem State.noneSuspended_iff {s : State} : s.tickets.all Ticket.unsuspended = true ↔ s.NoneSuspended :=
  List.all_eq_true.trans (forall₂_congr fun _ _ => Ticket.unsuspended_iff)

/-! ### The rows of preemption -/

section
variable {s : State} (h0 : s.startup ≠ .reset)
include h0

theorem execFrameBoundaryPreemption_idle
    (h : s.count.toNat % 512 ≠ 0 ∨ s.urgentRuns = true ∨ s.urgentTicket = none) :
    execFrameBoundaryPreemption s = .next s :=
  (State.awake_runs h0).trans (if_pos (by simpa using h))

/-- A preemption that a boundary calls for begins there, unless a retry holds the member (R376, R379). -/
theorem execFrameBoundaryPreemption_called {t : Ticket} (hframe : s.count.toNat % 512 = 0) (hnone : s.urgentRuns = false)
    (ht : s.urgentTicket = some t) : execFrameBoundaryPreemption s =
      .next (if s.retries = [] then s.arraySuspended.launch t else { s with preemptDue := true }) := by
  refine (State.awake_runs h0).trans ((if_neg (by simp [hframe, hnone, ht])).trans ?_)
  rw [State.preempt_launches hnone ht]
  cases s.retries <;> rfl

theorem execSuspendedFigureResume_idle (h : s.NoneSuspended) : execSuspendedFigureResume s = .next s :=
  (State.awake_runs h0).trans (if_pos (State.noneSuspended_iff.2 h))

theorem execSuspendedFigureResume_resumes (h : ¬s.NoneSuspended) :
    execSuspendedFigureResume s = .next (s.mapRuns (fun _ r => r.resumed s.tick)) :=
  (State.awake_runs h0).trans (if_neg (mt State.noneSuspended_iff.1 h))

end

/-- Settles O31, by whether the boundary calls for a preemption and a retry holds the member, and by whether a figure is
suspended. -/
theorem preemptionSuspendsAndResumes : Obligations.PreemptionSuspendsAndResumes := by
  intro s h0
  refine ⟨fun t hframe hnone ht => ?_, fun h => execFrameBoundaryPreemption_idle h0 h, ?_,
    fun h => execSuspendedFigureResume_idle h0 h⟩
  · have hrow := execFrameBoundaryPreemption_called h0 hframe hnone ht
    refine ⟨fun hfree => ?_, fun hretry => ?_⟩
    · rw [if_pos hfree] at hrow
      exact ⟨s.arraySuspended, hrow, s.arraySuspended_tickets, s.arraySuspended_keeps⟩
    · rw [if_neg hretry] at hrow
      exact hrow
  · rintro ⟨t, ht, r, hr, hsuspended⟩
    exact execSuspendedFigureResume_resumes h0 fun hnone => hsuspended (hnone t ht r hr)

end Sys2Proof.Machine
end

section
/-! Errors in RESET and in Whiteout, which no row handles (R392, R469), and errors that meet a busy block handler: the queue, the
overflow into Whiteout, and the escalation to the host (R385 to R387, R390, R391). -/
namespace Sys2Proof.Machine

/-! ### Error rows in RESET and in Whiteout (R392, R469) -/

/-- An error row in RESET or in Whiteout does nothing. -/
theorem State.onError_skips {s : State} (h : s.startup = .reset ∨ s.startup = .whiteout) (f : State → Out) :
    s.onError f = .next s := by
  unfold State.onError State.awake State.dormant
  obtain h | h := h <;> simp [h]

/-- Every error row does all its work under the check of an error row. -/
theorem exec_errorRow {i : Instr} (hrow : errorRow i = true) (s : State) : ∃ f : State → Out, exec i s = s.onError f := by
  cases i with
  | cellResidueError | registerParityError | accumulatorResidueError | accumulatorUncorrectable | laneMismatch
  | moraineMismatch | flurryMismatch | sleetParityError | firnUncorrectableWeight | firnUncorrectableWorkArea
  | tableMemoryError | tableReloadDone | contextMemoryError | crossingDatumLate | streamedSetCheck | retryEnd | scrubRead
  | backgroundRereadDone | byteParityError =>
    unfold exec
    exact ⟨_, rfl⟩
  | _ => cases hrow

/-- Settles O32: each error row checks for RESET and Whiteout before its work. -/
theorem errorsOutsideOperationAreIgnored : Obligations.ErrorsOutsideOperationAreIgnored := by
  intro i s hrow h
  obtain ⟨f, hf⟩ := exec_errorRow hrow s
  exact hf.trans (State.onError_skips h f)

/-! ### An error that meets a busy handler (R385 to R387) -/

section
variable {s : State} (h1 : s.startup ≠ .whiteout) {l : Level} {e : Err}
include h1

/-- An error on a resource with an earlier error that is handled or queued escalates (R386). -/
theorem State.detect_escalates (hheld : (s.handler l).holds e.resource = true) : s.detect l e = s.escalate l e := by
  unfold State.detect
  rw [if_neg (by simpa using h1)]
  exact if_pos hheld

section
variable (hbusy : (s.handler l).current ≠ none) (hother : (s.handler l).holds e.resource = false)
include hbusy hother

/-- An error on another resource joins a queue with room (R385). -/
theorem State.detect_queues (hroom : (s.handler l).queue.length < 4) :
    s.detect l e = s.setHandler l { s.handler l with queue := (s.handler l).queue ++ [e] } := by
  unfold State.detect
  rw [if_neg (by simpa using h1)]
  simp [hother, hbusy, hroom]

/-- An error on another resource that finds four queued overflows the queue (R387). -/
theorem State.detect_overflows (hfull : 4 ≤ (s.handler l).queue.length) : s.detect l e = s.overflow l e := by
  unfold State.detect
  rw [if_neg (by simpa using h1)]
  simp [hother, hbusy, Nat.not_lt.2 hfull]

end
end

/-- A full queue at the block puts it in Whiteout under cause 0x01 (R387, R391). -/
theorem State.overflow_block (s : State) (e : Err) :
    s.overflow .block e = (s.logError .block .queueOverflow 0xFF 0xFF .whiteout e.ticket).enterWhiteout 1 := rfl

/-! ### Every ticket freed (R391, R449) -/

/-- Write the Floe record that a ticket still owes and its completion record, and free it (R352, R391). -/
def State.recordAndFree (status : Status) (s : State) (t : Ticket) : State :=
  let offset := match t.run with | some r => s.tick - r.launchTick | none => 0
  let done := s.ckpts.any (fun c => c.ticket == some t.seq)
  let s1 := if done then s else ((s.openWritten t.seq true).putFloe t status offset).1
  s1.putCompletion t status 0 offset

theorem State.dropAllTickets_eq (s : State) (status : Status) :
    s.dropAllTickets status =
      (sortBy (fun a b => decide (a.seq < b.seq)) s.tickets).foldl (fun (s : State) t => s.recordAndFree status t) s := rfl

theorem State.recordAndFree_tickets (status : Status) (s : State) (t : Ticket) :
    (s.recordAndFree status t).tickets = s.tickets.filter (fun x => x.seq != t.seq) := by
  have hrecord : ∀ off, ((s.openWritten t.seq true).putFloe t status off).1.tickets = s.tickets := fun off =>
    ((State.putFloe_keeps ..).same .tickets (by decide)).trans ((State.openWritten_keeps ..).same .tickets (by decide))
  unfold State.recordAndFree
  dsimp only
  rw [State.putCompletion_tickets]
  congr 1
  split
  · rfl
  · exact hrecord _

/-- A ticket that is left after some are freed was held before, and is none of those. -/
theorem State.mem_recordAndFree (status : Status) {l : List Ticket} {s : State} {x : Ticket}
    (hx : x ∈ (l.foldl (fun (s : State) t => s.recordAndFree status t) s).tickets) : x ∈ s.tickets ∧ x ∉ l := by
  induction l generalizing s with
  | nil => exact ⟨hx, List.not_mem_nil⟩
  | cons t l ih =>
    obtain ⟨hleft, hl⟩ := ih hx
    rw [State.recordAndFree_tickets, List.mem_filter] at hleft
    obtain ⟨hheld, hseq⟩ := hleft
    have hne : x ≠ t := fun h => by simp [h] at hseq
    exact ⟨hheld, List.not_mem_cons_of_ne_of_not_mem hne hl⟩

theorem State.dropAllTickets_tickets (s : State) (status : Status) : (s.dropAllTickets status).tickets = [] := by
  rw [State.dropAllTickets_eq]
  refine List.eq_nil_iff_forall_not_mem.2 fun x hx => ?_
  obtain ⟨hheld, hsorted⟩ := State.mem_recordAndFree status hx
  exact hsorted ((sortBy_mem ..).2 hheld)

/-! ### Every partition halted (R53, R391) -/

theorem State.haltAll_part (s : State) {n : Nat} (h : n < 64) : (s.haltAll.part n).state = .halted := by
  simp [State.haltAll, State.part, h]

theorem State.clearKeys_part (s : State) {n : Nat} (h : n < 64) : (s.clearKeys.part n).state = (s.part n).state := by
  simp [State.clearKeys, State.part, h]

/-! ### What Whiteout leaves (R390, R391, R424) -/

/-- The block with its figures stopped, its tickets freed, its partitions halted and its keys cleared. -/
def State.shutDown (s : State) : State :=
  ((((s.stopFigures .whiteout).dropAllTickets .whiteout).releaseAllKept).haltAll).clearKeys

theorem State.shutDown_tickets (s : State) : s.shutDown.tickets = [] :=
  calc s.shutDown.tickets
    _ = (((s.stopFigures .whiteout).dropAllTickets .whiteout).releaseAllKept).haltAll.tickets :=
      (State.clearKeys_keeps _).same .tickets (by decide)
    _ = (((s.stopFigures .whiteout).dropAllTickets .whiteout).releaseAllKept).tickets :=
      (State.haltAll_keeps _).same .tickets (by decide)
    _ = ((s.stopFigures .whiteout).dropAllTickets .whiteout).tickets :=
      (State.releaseAllKept_keeps _).same .tickets (by decide)
    _ = [] := State.dropAllTickets_tickets ..

theorem State.shutDown_ckpts (s : State) : s.shutDown.ckpts = [] := rfl

theorem State.shutDown_part (s : State) {n : Nat} (h : n < 64) : (s.shutDown.part n).state = .halted :=
  (State.clearKeys_part _ h).trans (State.haltAll_part _ h)

/-- The tickets, checkpoints and partitions of a block in Whiteout are those of the block that has shut down, its handler is
idle, and the count of its entry is kept. -/
theorem State.enterWhiteout_shutDown {s : State} (h : s.startup ≠ .whiteout) (cause : Nat) :
    let u := s.enterWhiteout cause
    u.tickets = s.shutDown.tickets ∧ u.ckpts = s.shutDown.ckpts ∧ u.parts = s.shutDown.parts ∧ u.block = Handler.idle ∧
      u.whiteoutCount = s.count := by
  unfold State.enterWhiteout
  rw [if_neg (by simpa using h)]
  have hdown : ((((s.stopFigures .whiteout).dropAllTickets .whiteout).releaseAllKept).haltAll).clearKeys = s.shutDown := rfl
  dsimp only
  rw [hdown]
  generalize s.shutDown = d
  exact ⟨(State.respondDeferred_keeps ..).same .tickets (by decide), (State.respondDeferred_keeps ..).same .ckpts (by decide),
    (State.respondDeferred_keeps ..).same .parts (by decide), (State.respondDeferred_keeps ..).same .block (by decide),
    (State.respondDeferred_keeps ..).same .whiteoutCount (by decide)⟩

/-- A block that enters Whiteout under a cause holds no ticket and no checkpoint, and its partitions are halted. -/
theorem State.enterWhiteout_leaves {s : State} (h : s.startup ≠ .whiteout) (cause : Nat) :
    let u := s.enterWhiteout cause
    u.startup = .whiteout ∧ u.whiteoutCause = BitVec.ofNat 8 cause ∧ u.whiteoutCount = s.count ∧ u.tickets = [] ∧
      u.ckpts = [] ∧ u.block = Handler.idle ∧ ∀ n : Nat, n < 64 → (u.part n).state = .halted := by
  obtain ⟨hstartup, hcause⟩ := State.enterWhiteout_enters h cause
  obtain ⟨htickets, hckpts, hparts, hblock, hcount⟩ := State.enterWhiteout_shutDown h cause
  refine ⟨hstartup, hcause, hcount, htickets.trans s.shutDown_tickets, hckpts.trans s.shutDown_ckpts, hblock, fun n hn => ?_⟩
  rw [State.part_congr hparts]
  exact s.shutDown_part hn

/-! ### A Moraine mismatch of no command -/

/-- The error of a Moraine mismatch that names no command (R382). -/
def moraineErr (s : State) : Err := ⟨.moraineMismatch, .moraine, 0xFF, 0xFF, none, 0, 0, false, s.count, noWork⟩

theorem execMoraineMismatch_noCommand {s : State} (h0 : s.startup ≠ .reset) (h1 : s.startup ≠ .whiteout) :
    execMoraineMismatch none s = .next ((s.bump .moraineMismatches 1).detect .block (moraineErr s)) :=
  execMoraineMismatch_runs h0 h1 none

/-- The block once a Moraine mismatch has escalated: counted, with a health event, and logged as escalated and as ended
(R386, R397). -/
def State.moraineEscalated (s : State) (e : Err) : State :=
  (((s.bump .hostEscalations 1).logErr .block e .escalated).healthEvent).logErr .block e .ended

/-- A Moraine mismatch of no command that escalates ends no command. -/
theorem State.escalate_moraine (s u : State) : s.escalate .block (moraineErr u) = s.moraineEscalated (moraineErr u) := rfl

theorem State.moraineEscalated_keeps (s : State) (e : Err) :
    Keeps [.counters, .log, .logWritten, .pendingHealth, .freshHealth] s (s.moraineEscalated e) :=
  ((((Keeps.refl _ s).then (State.bump_keeps ..)).then (State.logErr_keeps ..)).then (State.healthEvent_keeps _)).then
    (State.logErr_keeps ..)

theorem State.moraineEscalated_logWritten (s : State) (e : Err) : (s.moraineEscalated e).logWritten = s.logWritten + 2 :=
  BitVec.add_assoc s.logWritten 1 1

theorem State.moraineEscalated_counter (s : State) (e : Err) :
    (s.moraineEscalated e).counter .hostEscalations = s.counter .hostEscalations + 1 := by
  have hcounted : (s.moraineEscalated e).counters = (s.bump .hostEscalations 1).counters := rfl
  rw [State.counter_congr hcounted]
  exact s.counter_bump .hostEscalations 1

/-- Settles O35: the block's busy handler queues, overflows or escalates the error of the mismatch. -/
theorem busyHandlerQueuesFourAndThenOverflows : Obligations.BusyHandlerQueuesFourAndThenOverflows := by
  intro s h0 h1 hbusy
  have hrow := execMoraineMismatch_noCommand h0 h1
  have hcounted : (s.bump .moraineMismatches 1).startup ≠ .whiteout := h1
  have hkept := (Keeps.refl [.block, .counters] s).then (State.bump_keeps s .moraineMismatches 1)
  refine ⟨fun hother hroom => ?_, fun hother hfull => ?_, fun hheld => ?_⟩
  · rw [State.detect_queues hcounted (l := .block) (e := moraineErr s) hbusy hother hroom] at hrow
    exact ⟨_, hrow, rfl, s.counter_bump .moraineMismatches 1, hkept.set_block⟩
  · rw [State.detect_overflows hcounted (l := .block) (e := moraineErr s) hbusy hother hfull, State.overflow_block] at hrow
    have hlogged : ((s.bump .moraineMismatches 1).logError .block .queueOverflow 0xFF 0xFF .whiteout none).startup ≠
      .whiteout := h1
    exact ⟨_, hrow, State.enterWhiteout_leaves hlogged 1⟩
  · rw [State.detect_escalates hcounted (l := .block) (e := moraineErr s) hheld, State.escalate_moraine] at hrow
    refine ⟨_, hrow, ?_, rfl, State.moraineEscalated_logWritten .., ?_⟩
    · exact (State.moraineEscalated_counter ..).trans
        (congrArg (· + 1) (State.counter_bump_ne s .moraineMismatches .hostEscalations 1 (by decide)))
    · exact ((Keeps.refl _ s).then (State.bump_keeps s .moraineMismatches 1)).then (State.moraineEscalated_keeps ..)

end Sys2Proof.Machine
end

section
/-! The start-up state, host memory and the profile's digest over every command: only RST_N goes back (R392, R466, R469), host memory
changes under writes alone (R140, R458, R459), and the digest is of the profile's records (R407). -/
namespace Sys2Proof.Machine

/-! ### The start-up state goes on (R392, R469) -/

/-- A row that may change the start-up state takes it onwards, and every other row leaves it alone. -/
theorem exec_onward {i : Instr} (hi : i ≠ .rstNAssert) (s : State) : OnwardOut s (exec i s) := by
  cases i with
  | rstNAssert => exact absurd rfl hi
  | step ticket => exact execStep_onward ticket s
  | score ticket => exact execScore_onward ticket s
  | settle ticket => exact execSettle_onward ticket s
  | verify ticket => exact execVerify_onward ticket s
  | beam ticket => exact execBeam_onward ticket s
  | loss ticket => exact execLoss_onward ticket s
  | grad ticket => exact execGrad_onward ticket s
  | reduce ticket => exact execReduce_onward ticket s
  | dict ticket => exact execDict_onward ticket s
  | commandCompletion ticket => exact execCommandCompletion_onward ticket s
  | checkpointSigned => exact execCheckpointSigned_onward s
  | pavaneAdvance pav => exact execPavaneAdvance_onward pav s
  | pavaneSlip pav => exact execPavaneSlip_onward pav s
  | dictionaryAccessRelease => exact execDictionaryAccessRelease_onward s
  | cellResidueError tile row col use => exact execCellResidueError_onward tile row col use s
  | registerParityError tile row col use => exact execRegisterParityError_onward tile row col use s
  | accumulatorResidueError bank use => exact execAccumulatorResidueError_onward bank use s
  | accumulatorUncorrectable bank use => exact execAccumulatorUncorrectable_onward bank use s
  | laneMismatch slice unit use ticket => exact execLaneMismatch_onward slice unit use ticket s
  | moraineMismatch ticket => exact execMoraineMismatch_onward ticket s
  | flurryMismatch unit ticket => exact execFlurryMismatch_onward unit ticket s
  | sleetParityError slice => exact execSleetParityError_onward slice s
  | firnUncorrectableWeight region set bank ticket => exact execFirnUncorrectableWeight_onward region set bank ticket s
  | firnUncorrectableWorkArea region bank ticket => exact execFirnUncorrectableWorkArea_onward region bank ticket s
  | tableMemoryError slice mem ticket => exact execTableMemoryError_onward slice mem ticket s
  | tableReloadDone slice verified => exact execTableReloadDone_onward slice verified s
  | contextMemoryError ctx ticket => exact execContextMemoryError_onward ctx ticket s
  | crossingDatumLate ticket => exact execCrossingDatumLate_onward ticket s
  | retryEnd stillFails => exact execRetryEnd_onward stillFails s
  | scrubRead found => exact execScrubRead_onward found s
  | backgroundRereadDone region set stillFails => exact execBackgroundRereadDone_onward region set stillFails s
  | hello f => exact execHello_onward f s
  | idle f => exact execIdle_onward f s
  | nak f => exact execNak_onward f s
  | exchange f => exact execExchange_onward f s
  | check f => exact execCheck_onward f s
  | abort f => exact execAbort_onward f s
  | linkReceiveTimeout port => exact execLinkReceiveTimeout_onward port s
  | peerDeadline ticket => exact execPeerDeadline_onward ticket s
  | stallLimit ticket => exact execStallLimit_onward ticket s
  | checkDeadline ticket => exact execCheckDeadline_onward ticket s
  | write => exact execWrite_onward s
  | enrol => exact execEnrol_onward s
  | zeroise => exact execZeroise_onward s
  | selftest failed => exact execSelftest_onward failed s
  | entropySample sample parityOk => exact execEntropySample_onward sample parityOk s
  | zeroiseInput => exact execZeroiseInput_onward s
  | tamperInput cycles => exact execTamperInput_onward cycles s
  | selftestEntry => exact execSelftestEntry_onward s
  | selftestComplete report => exact execSelftestComplete_onward report s
  | mgtAdvance => exact execMgtAdvance_onward s
  | readyEntry => exact execReadyEntry_onward s
  | reelFrameCrcFailure port arrival => exact execReelFrameCrcFailure_onward port arrival s
  | byteParityError path ticket => exact execByteParityError_onward path ticket s
  | _ => exact .keep (exec_keeps_touches _ s) (of_decide_eq_false rfl)

/-- Settles O6: every row but RST_N takes the start-up state onwards or leaves it alone. -/
theorem onlyResetGoesBack : Obligations.OnlyResetGoesBack :=
  fun _ s t hi hnext => (exec_onward hi s).go t hnext

/-! ### Host memory changes under writes alone (R140, R458, R459) -/

/-- A row that writes host memory issues the requests that cover what it writes, and every other row leaves host memory and the
writes in flight alone. -/
theorem exec_wrote {i : Instr} (hread : ∀ ch tag d ok, i ≠ .readResponse ch tag d ok)
    (hack : ∀ ch tag ok, i ≠ .writeAcknowledgement ch tag ok) (hrst : i ≠ .rstNAssert) (s : State) : WroteOut s (exec i s) := by
  cases i with
  | readResponse ch tag d ok => exact absurd rfl (hread ch tag d ok)
  | writeAcknowledgement ch tag ok => exact absurd rfl (hack ch tag ok)
  | rstNAssert => exact absurd rfl hrst
  | step ticket => exact execStep_wrote ticket s
  | score ticket => exact execScore_wrote ticket s
  | settle ticket => exact execSettle_wrote ticket s
  | verify ticket => exact execVerify_wrote ticket s
  | beam ticket => exact execBeam_wrote ticket s
  | loss ticket => exact execLoss_wrote ticket s
  | grad ticket => exact execGrad_wrote ticket s
  | reduce ticket => exact execReduce_wrote ticket s
  | func ticket => exact execFunc_wrote ticket s
  | fill ticket => exact execFill_wrote ticket s
  | loadw ticket => exact execLoadw_wrote ticket s
  | save ticket => exact execSave_wrote ticket s
  | digest ticket => exact execDigest_wrote ticket s
  | dict ticket => exact execDict_wrote ticket s
  | halt ticket => exact execHalt_wrote ticket s
  | doorbell beat parityOk => exact execDoorbell_wrote beat parityOk s
  | commandCompletion ticket => exact execCommandCompletion_wrote ticket s
  | checkpointSigned => exact execCheckpointSigned_wrote s
  | pavaneAdvance pav => exact execPavaneAdvance_wrote pav s
  | pavaneSlip pav => exact execPavaneSlip_wrote pav s
  | dictionaryAccessRelease => exact execDictionaryAccessRelease_wrote s
  | frameBoundaryPreemption => exact execFrameBoundaryPreemption_wrote s
  | cellResidueError tile row col use => exact execCellResidueError_wrote tile row col use s
  | registerParityError tile row col use => exact execRegisterParityError_wrote tile row col use s
  | accumulatorResidueError bank use => exact execAccumulatorResidueError_wrote bank use s
  | accumulatorUncorrectable bank use => exact execAccumulatorUncorrectable_wrote bank use s
  | laneMismatch slice unit use ticket => exact execLaneMismatch_wrote slice unit use ticket s
  | moraineMismatch ticket => exact execMoraineMismatch_wrote ticket s
  | flurryMismatch unit ticket => exact execFlurryMismatch_wrote unit ticket s
  | sleetParityError slice => exact execSleetParityError_wrote slice s
  | firnUncorrectableWeight region set bank ticket => exact execFirnUncorrectableWeight_wrote region set bank ticket s
  | firnUncorrectableWorkArea region bank ticket => exact execFirnUncorrectableWorkArea_wrote region bank ticket s
  | tableMemoryError slice mem ticket => exact execTableMemoryError_wrote slice mem ticket s
  | tableReloadDone slice verified => exact execTableReloadDone_wrote slice verified s
  | contextMemoryError ctx ticket => exact execContextMemoryError_wrote ctx ticket s
  | crossingDatumLate ticket => exact execCrossingDatumLate_wrote ticket s
  | streamedSetCheck ticket set => exact execStreamedSetCheck_wrote ticket set s
  | retryEnd stillFails => exact execRetryEnd_wrote stillFails s
  | scrubRead found => exact execScrubRead_wrote found s
  | backgroundRereadDone region set stillFails => exact execBackgroundRereadDone_wrote region set stillFails s
  | hiddenRow beats parityOk => exact execHiddenRow_wrote beats parityOk s
  | hello f => exact execHello_wrote f s
  | idle f => exact execIdle_wrote f s
  | nak f => exact execNak_wrote f s
  | exchange f => exact execExchange_wrote f s
  | check f => exact execCheck_wrote f s
  | abort f => exact execAbort_wrote f s
  | linkReceiveTimeout port => exact execLinkReceiveTimeout_wrote port s
  | peerDeadline ticket => exact execPeerDeadline_wrote ticket s
  | stallLimit ticket => exact execStallLimit_wrote ticket s
  | checkDeadline ticket => exact execCheckDeadline_wrote ticket s
  | write => exact execWrite_wrote s
  | zeroise => exact execZeroise_wrote s
  | selftest failed => exact execSelftest_wrote failed s
  | entropySample sample parityOk => exact execEntropySample_wrote sample parityOk s
  | zeroiseInput => exact execZeroiseInput_wrote s
  | tamperInput cycles => exact execTamperInput_wrote cycles s
  | selftestEntry => exact execSelftestEntry_wrote s
  | selftestComplete report => exact execSelftestComplete_wrote report s
  | readyEntry => exact execReadyEntry_wrote s
  | reelFrameCrcFailure port arrival => exact execReelFrameCrcFailure_wrote port arrival s
  | byteParityError path ticket => exact execByteParityError_wrote path ticket s
  | _ => exact .keep (exec_keeps_touches _ s) ⟨of_decide_eq_false rfl, of_decide_eq_false rfl, of_decide_eq_false rfl⟩

/-- Settles O5: every row but the three named adds the requests that cover what it writes. -/
theorem hostMemoryChangesOnlyUnderWrites : Obligations.HostMemoryChangesOnlyUnderWrites :=
  fun _ s t hread hack hrst hnext => (exec_wrote hread hack hrst s).go t hnext

/-! ### The profile's digest (R407) -/

/-- If the digest object held the digest of the profile, it still does. -/
def Redigested (s t : State) : Prop := s.profileDigest = s.profile.digest → t.profileDigest = t.profile.digest

theorem Redigested.trans {s t u : State} (h : Redigested s t) (k : Redigested t u) : Redigested s u := fun hs => k (h hs)

theorem Redigested.of_keeps {w : List Fld} {s t : State} (k : Keeps w s t)
    (hw : Fld.profile ∉ w ∧ Fld.profileDigest ∉ w := by decide) : Redigested s t := fun h =>
  (k.same .profileDigest hw.2).trans (h.trans (congrArg Profile.digest (k.same .profile hw.1).symm))

/-- An opcode row that answers has left everything but its ticket alone, or has done the work of its command. -/
theorem State.engine_cases {s u : State} {q : Nat} {o : Op} {f : Ticket → Running → Out} (h : s.engine q o f = .next u) :
    Keeps [.tickets] s u ∨ ∃ t r, f t r = .next u := by
  unfold State.engine State.awake at h
  split at h
  · cases h
    exact .inl (.refl _ _)
  · dsimp only at h
    split at h
    · rename_i t r _
      split at h
      · cases h
      · split at h
        · cases h
          exact .inl (.refl _ _)
        · split at h
          · cases h
            refine .inl ?_
            split
            · exact State.modRun_keeps ..
            · exact .refl _ _
          · exact .inr ⟨t, r, h⟩
    · cases h

/-- A write to a class B object forms the digest again, and no other write touches the profile. -/
theorem State.writeObject_redigested {s u : State} {i sub v : Nat} (h : s.writeObject i sub v = some u) : Redigested s u := by
  unfold State.writeObject at h
  split at h
  · exact .of_keeps ((State.writeMgt_keeps ..).go _ h)
  split at h
  · obtain ⟨p, -, rfl⟩ := Option.map_eq_some_iff.1 h
    exact fun _ => rfl
  split at h
  · exact .of_keeps ((State.writeTiming_keeps ..).go _ h)
  split at h
  · exact .of_keeps ((State.writePart_keeps ..).go _ h)
  split at h
  · exact .of_keeps ((State.writeReel_keeps ..).go _ h)
  split at h
  · exact .of_keeps ((State.writePin_keeps ..).go _ h)
  · cases h

theorem State.writeObject_of_dictWrite {s u : State} {p i sub : Nat} {v : Bytes} (h : s.dictWrite p i sub v = some u) :
    s.writeObject i sub (leNat v) = some u := by
  unfold State.dictWrite at h
  split at h
  · split at h
    · cases h
    · exact h
  · cases h

theorem execDict_redigested {q : Nat} {s t : State} (h : execDict q s = .next t) : Redigested s t := by
  obtain hkeeps | ⟨x, r, h⟩ := State.engine_cases h
  · exact .of_keeps hkeeps
  · dsimp only at h
    split at h <;> split at h <;> cases h
    · rename_i hwrite
      exact (State.writeObject_redigested (State.writeObject_of_dictWrite hwrite)).trans (.of_keeps (State.finishWith_keeps ..))
    · exact .of_keeps (State.finishWith_keeps ..)
    · exact (Redigested.of_keeps (State.readEffect_keeps ..)).trans
        ((Redigested.of_keeps (State.writeHost_keeps ..)).trans (.of_keeps (State.finishWith_keeps ..)))
    · exact .of_keeps (State.finishWith_keeps ..)

/-- A WRITE has only its response, or it has taken its object's effect. -/
theorem State.doWrite_cases (s : State) : Keeps [.window] s s.doWrite ∨
    ∃ u, s.writeObject s.req.index s.req.sub (leNat s.req.payload) = some u ∧ s.doWrite = u.answerWrite s.req.index := by
  unfold State.doWrite
  dsimp only
  split
  · exact .inl (State.respond_keeps ..)
  split
  · exact .inl (State.respond_keeps ..)
  split
  · exact .inl (State.respond_keeps ..)
  split
  · exact .inl (State.respond_keeps ..)
  split
  · exact .inl (State.respond_keeps ..)
  split
  · exact .inl (State.respond_keeps ..)
  split
  · exact .inl (State.respond_keeps ..)
  split
  · exact .inl (State.respond_keeps ..)
  split
  · exact .inl (State.respond_keeps ..)
  · exact .inr ⟨_, ‹_›, rfl⟩

theorem State.doWrite_redigested (s : State) : Redigested s s.doWrite := by
  obtain hkeeps | ⟨u, hwrite, hdone⟩ := s.doWrite_cases
  · exact .of_keeps hkeeps
  · rw [hdone]
    exact (State.writeObject_redigested hwrite).trans (.of_keeps (State.answerWrite_keeps ..))

theorem execWrite_redigested {s t : State} (h : execWrite s = .next t) : Redigested s t := by
  unfold execWrite State.onRequest at h
  split at h
  · cases h
    exact id
  split at h
  · cases h
    exact id
  split at h <;> cases h
  · exact .of_keeps (State.respond_keeps ..)
  · exact s.doWrite_redigested

theorem execDictionaryAccessRelease_redigested {s t : State} (h : execDictionaryAccessRelease s = .next t) :
    Redigested s t := by
  unfold execDictionaryAccessRelease at h
  split at h
  · cases h
    exact id
  split at h
  · cases h
    exact id
  split at h
  · cases h
    exact .of_keeps (State.respond_keeps ..)
  split at h <;> cases h
  · exact .of_keeps (State.doRead_keeps ..)
  · exact s.doWrite_redigested
  · exact .of_keeps (State.doDescribe_keeps ..)
  · exact .of_keeps (State.modWindow_keeps ..)
  · exact id

/-- A dictionary write to a class B object and RST_N form the digest again, and no other command touches the profile. -/
theorem exec_redigested {i : Instr} {s t : State} (h : exec i s = .next t) : Redigested s t := by
  cases i with
  | dict q => exact execDict_redigested h
  | dictionaryAccessRelease => exact execDictionaryAccessRelease_redigested h
  | write => exact execWrite_redigested h
  | rstNAssert =>
    cases h
    exact fun _ => rfl
  | _ => exact .of_keeps ((exec_keeps_touches _ s).go t h) ⟨of_decide_eq_false rfl, of_decide_eq_false rfl⟩

theorem profileRecord_eq (i sub size v : Nat) :
    profileRecord i sub size v = leBytes 2 i ++ [BitVec.ofNat 8 sub, BitVec.ofNat 8 size] ++ leBytes size v := by
  simp [profileRecord, leBytes]

theorem Profile.digest_eq (p : Profile) : p.digest = sha384 p.input := rfl

theorem State.resetOf_profileDigest (g : Grade) (st : Stepping) :
    (State.resetOf g st).profileDigest = (State.resetOf g st).profile.digest := by
  unfold State.resetOf
  rfl

/-- Settles O51: the digest is formed again by every command that changes the profile. -/
theorem profileDigestIsOfTheProfile : Obligations.ProfileDigestIsOfTheProfile := by
  refine ⟨fun p => ?_, (State.resetOf_profileDigest .a .b0).trans (Profile.digest_eq _), fun i s t h hnext => exec_redigested hnext h⟩
  simp only [Profile.input, profileRecord_eq, List.append_assoc]
  simp

end Sys2Proof.Machine
end

section
/-! The reset state (R407, R424, R466), and the instruments of the test wrapper (R467, R468). -/
namespace Sys2Proof.Machine

/-- Settles O2: nothing is stored, no ticket is held, and the profile is that of the defaults. -/
theorem resetMeetsTheInvariant : Obligations.ResetMeetsTheInvariant :=
  { mem := rfl, firn := rfl, order := List.Pairwise.nil, fresh := fun _ h => absurd h List.not_mem_nil, room := Nat.zero_le _,
    digest := State.resetOf_profileDigest .a .b0, legal := Profile.defaults_legal }

theorem State.resetOf_part (g : Grade) (st : Stepping) (n : Nat) : (State.resetOf g st).part n = Partition.reset := by
  by_cases hn : n < 64 <;> simp only [State.part, State.resetOf, Vector.getElem?_replicate, hn] <;> rfl

theorem State.resetOf_sliceOf (g : Grade) (st : Stepping) (n : Nat) : (State.resetOf g st).sliceOf n = Slice.reset := by
  by_cases hn : n < 4 <;> simp only [State.sliceOf, State.resetOf, Vector.getElem?_replicate, hn] <;> rfl

theorem State.resetOf_port (g : Grade) (st : Stepping) (p : Fin 4) : (State.resetOf g st).port p = Port.reset := by
  simp [State.port, State.resetOf]

theorem vget_replicate {α : Type} [Inhabited α] (n i : Nat) : vget (Vector.replicate n (default : α)) i = default := by
  by_cases hi : i < n <;> simp [vget, hi]

/-- Settles O57: RST_N puts the reset state in place, but for what is outside the block. -/
theorem resetEndsEverything : Obligations.ResetEndsEverything := by
  intro s
  refine ⟨_, rfl, rfl, rfl, rfl, rfl, rfl, rfl, fun p => ?_, rfl, rfl, fun i => ?_, rfl, fun n => ?_, fun n _ => ?_,
    fun i => vget_replicate 80 i, rfl, rfl, rfl, rfl, rfl, rfl⟩
  · have hport := State.resetOf_port s.grade s.stepping p
    exact ⟨congrArg Port.state hport, congrArg Port.unacked hport, congrArg Port.backlog hport, congrArg Port.rxq hport⟩
  · simp [State.resetOf]
  · exact (State.part_congr rfl n).trans (State.resetOf_part s.grade s.stepping n)
  · exact congrArg Slice.sleet ((State.sliceOf_congr rfl n).trans (State.resetOf_sliceOf s.grade s.stepping n))

/-- Settles O60, by instrument. -/
theorem instrumentsReadFreeValues : Obligations.InstrumentsReadFreeValues := by
  intro s i
  have hopens : ∀ b : Bool, s.instrumentOpen i = b →
      (b = true → execTestWrapperAccess i s = .next { s with testReading := Config.freeBits s.free, free := s.free + 1 }) ∧
      (b = false → execTestWrapperAccess i s = .next s) := by
    rintro b rfl
    exact ⟨fun h => if_pos h, fun h => if_neg (Bool.eq_false_iff.1 h)⟩
  cases i <;> exact hopens _ rfl

end Sys2Proof.Machine
end

section
/-! The ports: beats with a parity error (R457, R460, R461), read responses and acknowledgements (R458, R459, R461), and credits that
arrive (R452, R453, R456). -/
namespace Sys2Proof.Machine

/-! ### A beat that is taken (R455, R457) -/

/-- Out of reset a beat is taken, and its credit goes back before it acts. -/
theorem State.onPort_awake {s : State} (h0 : s.startup ≠ .reset) (released : s.rstAsserted = false) (i : InSub)
    (f : State → Out) : s.onPort i (fun u => u.awake f) = f (s.returnCredit i) :=
  (State.onPort_released released).trans (State.awake_runs h0)

/-- Out of reset a window access is performed after its credit has gone back. -/
theorem State.onWindow_awake {s : State} (h0 : s.startup ≠ .reset) (released : s.rstAsserted = false) (f : State → State) :
    s.onWindow true f = .next (f (s.returnCredit .mgtRq)) := by
  have hawake : (s.returnCredit .mgtRq).dormant = false := beq_eq_false_iff_ne.2 h0
  simp [State.onWindow, State.onPort_released released, hawake]

/-- The parity of a window access, where a row is one. -/
def windowParity : Instr → Option Bool
  | .mgtSend _ ok => some ok | .mgtRelease ok => some ok | .mgtClearOverrun ok => some ok | .mgtData3Access _ ok => some ok
  | .mgtRegisterWrite _ _ ok => some ok | _ => none

/-- Every row of the window is an access to it. -/
theorem exec_windowRow {i : Instr} {ok : Bool} (h : windowParity i = some ok) :
    ∃ f : State → State, ∀ s : State, exec i s = s.onWindow ok f := by
  cases i
  case mgtSend | mgtRelease | mgtClearOverrun | mgtData3Access | mgtRegisterWrite =>
    cases h
    simp only [exec, execMgtSend, execMgtRelease, execMgtClearOverrun, execMgtData3Access, execMgtRegisterWrite]
    exact ⟨_, fun _ => rfl⟩
  all_goals cases h

/-- Out of reset a window access with a parity error is only answered. -/
theorem exec_windowRow_parity {s : State} (h0 : s.startup ≠ .reset) (released : s.rstAsserted = false) {i : Instr}
    (h : windowParity i = some false) : exec i s = .next (s.returnCredit .mgtRq).mgtParity := by
  obtain ⟨f, hf⟩ := exec_windowRow h
  have hawake : (s.returnCredit .mgtRq).dormant = false := beq_eq_false_iff_ne.2 h0
  simp [hf, State.onWindow, State.onPort_released released, hawake]

/-- Settles O23: on each port the parity error is counted once the credit has gone back, and the beat does nothing more. -/
theorem beatsWithBadParityAreNotTaken : Obligations.BeatsWithBadParityAreNotTaken := by
  intro s h0 released
  have hwindow := fun i h => exec_windowRow_parity h0 released (i := i) h
  exact ⟨fun _ => State.onPort_awake h0 released .cmdDb _, fun _ => State.onPort_awake h0 released .cmdWa _,
    fun n _ => State.onPort_awake h0 released (.drfWa n) _, fun _ => State.onPort_awake h0 released .vltEnt _,
    fun _ => hwindow _ rfl, hwindow _ rfl, hwindow _ rfl, fun _ => hwindow _ rfl, fun _ _ => hwindow _ rfl⟩

/-! ### Requests in flight (R458, R459) -/

/-- What a read request asks, whether or not it has left. -/
def ReadReq.what (r : ReadReq) : MemChan × Nat × Nat × ReadFor := (r.chan, r.addr, r.len, r.who)

/-- Sending a request leaves what every read request asks. -/
theorem ReadReq.what_modFirst (r : ReadReq) (n : Nat) (l : List ReadReq) :
    (modFirst (· == r) (fun x => { x with tag := n, sent := true }) l).map ReadReq.what = l.map ReadReq.what := by
  induction l with
  | nil => rfl
  | cons x l ih =>
    unfold modFirst
    split
    · rfl
    · rw [List.map_cons, List.map_cons, ih]

theorem State.sendWaiting_reads (n : Nat) (ch : MemChan) (s : State) :
    (State.sendWaiting n ch s).reads.map ReadReq.what = s.reads.map ReadReq.what := by
  induction n generalizing s with
  | zero => rfl
  | succ n ih =>
    unfold State.sendWaiting
    split
    · rfl
    split
    · exact (ih _).trans (ReadReq.what_modFirst ..)
    split
    · exact ih _
    · rfl

/-- The block once a response has answered a read: its credit has gone back, the read is in flight no more, and what waited for its
tag may have left. -/
def State.readAnswered (s : State) (ch : MemChan) (tag : Nat) : State :=
  ({ s.returnCredit (rdSub ch) with reads := s.reads.filter (fun x => !(x.answers ch tag)) }).drainChannel ch

theorem State.readAnswered_keeps (s : State) (ch : MemChan) (tag : Nat) :
    Keeps [.ins, .outs, .reads, .writes] s (s.readAnswered ch tag) :=
  (((State.returnCredit_keeps ..).mono (by decide)).set_reads).then (State.drainChannel_keeps ..)

theorem State.readAnswered_reads (s : State) (ch : MemChan) (tag : Nat) : (s.readAnswered ch tag).reads.map ReadReq.what =
    (s.reads.filter (fun x => !(x.answers ch tag))).map ReadReq.what := State.sendWaiting_reads ..

theorem execReadResponse_taken {s : State} (h0 : s.startup ≠ .reset) (released : s.rstAsserted = false) {ch : MemChan} {tag : Nat}
    {r : ReadReq} (h : s.reads.find? (fun x => x.answers ch tag) = some r) (data : Bytes) (ok : Bool) :
    execReadResponse ch tag data ok s =
      if ok then .next ({ s.readAnswered ch tag with mem := (s.readAnswered ch tag).mem.storeHost r.addr (padTo r.len data) } :
        State).pumpIn
      else .next ((s.readAnswered ch tag).portError.badResponse r).pumpIn := by
  have h' : (s.returnCredit (rdSub ch)).reads.find? (fun x => x.answers ch tag) = some r := h
  refine (State.onPort_awake h0 released (rdSub ch) _).trans ?_
  rw [h']
  rfl

theorem execReadResponse_unasked {s : State} (h0 : s.startup ≠ .reset) (released : s.rstAsserted = false) {ch : MemChan} {tag : Nat}
    (h : s.reads.find? (fun x => x.answers ch tag) = none) (data : Bytes) (ok : Bool) :
    execReadResponse ch tag data ok s = .fault .unsolicited := by
  have h' : (s.returnCredit (rdSub ch)).reads.find? (fun x => x.answers ch tag) = none := h
  refine (State.onPort_awake h0 released (rdSub ch) _).trans ?_
  rw [h']

/-- Settles O26, by whether the response answers a read in flight. -/
theorem readDataLandsWhereItWasAsked : Obligations.ReadDataLandsWhereItWasAsked := by
  intro s ch tag data h0 released
  refine ⟨fun r hr => ?_, fun hnone ok => execReadResponse_unasked h0 released hnone data ok⟩
  have hkeeps := s.readAnswered_keeps ch tag
  have hmem : (s.readAnswered ch tag).mem = s.mem := hkeeps.same .mem (by decide)
  have herrors : (s.readAnswered ch tag).portErrors = s.portErrors := hkeeps.same .portErrors (by decide)
  refine ⟨s.readAnswered ch tag, hkeeps, s.readAnswered_reads ch tag,
    ⟨_, execReadResponse_taken h0 released hr data true, ?_⟩, ?_⟩
  · rw [hmem]
    exact Memory.storeHost_storedAt ..
  · rw [← herrors]
    exact execReadResponse_taken h0 released hr data false

/-- The block once a write is acknowledged: its credit has gone back, the write is in flight no more, and what waited for its tag
may have left. -/
def State.writeAccepted (s : State) (ch : MemChan) (tag : Nat) : State :=
  ({ s.returnCredit (waSub ch) with writes := s.writes.filter (fun w => !(w.answers ch tag)) }).drainChannel ch

theorem State.writeAccepted_keeps (s : State) (ch : MemChan) (tag : Nat) :
    Keeps [.ins, .outs, .reads, .writes] s (s.writeAccepted ch tag) :=
  (((State.returnCredit_keeps ..).mono (by decide)).set_writes).then (State.drainChannel_keeps ..)

theorem State.writeAccepted_writes (s : State) (ch : MemChan) (tag : Nat) : (s.writeAccepted ch tag).writes.map WriteReq.what =
    (s.writes.filter (fun w => !(w.answers ch tag))).map WriteReq.what := (State.sendWaiting_core ..).2.2

theorem WriteReq.answers_iff (w : WriteReq) (ch : MemChan) (tag : Nat) :
    w.answers ch tag = true ↔ w.sent = true ∧ w.chan = ch ∧ w.tag = tag := by
  simp [WriteReq.answers, and_assoc]

theorem execWriteAcknowledgement_good {s : State} (h0 : s.startup ≠ .reset) (released : s.rstAsserted = false) (ch : MemChan)
    (tag : Nat) : execWriteAcknowledgement ch tag true s =
      if s.writes.any (fun w => w.answers ch tag) then .next (s.writeAccepted ch tag) else .fault .unsolicited :=
  State.onPort_awake h0 released (waSub ch) _

/-- The write-data beat of a write: over Drift it is padded to 512 bytes (R459). -/
def WriteReq.beat (w : WriteReq) : MemChan → Bytes
  | .cmd => w.data
  | .drf _ => padTo 512 w.data

theorem execWriteAckTimeout_due {s : State} (h0 : s.startup ≠ .reset) {ch : MemChan} {tag : Nat} {w : WriteReq}
    (h : s.writes.find? (fun w => w.answers ch tag) = some w) :
    execWriteAckTimeout ch tag s = .next ((s.emit (rqSub ch) (requestBeat 2 tag w.data.length w.addr)).emit (wdSub ch)
      (w.beat ch)) := by
  refine (State.awake_runs h0).trans ?_
  rw [h]
  cases ch <;> rfl

theorem execWriteAckTimeout_unasked {s : State} (h0 : s.startup ≠ .reset) {ch : MemChan} {tag : Nat}
    (h : s.writes.find? (fun w => w.answers ch tag) = none) : execWriteAckTimeout ch tag s = .fault .unsolicited := by
  refine (State.awake_runs h0).trans ?_
  rw [h]

/-- Settles O27, by whether a write in flight has the channel and the tag. -/
theorem acknowledgedWritesAreInFlightNoMore : Obligations.AcknowledgedWritesAreInFlightNoMore := by
  intro s ch tag h0 released
  have hany : s.writes.any (fun w => w.answers ch tag) = true ↔ ∃ w ∈ s.writes, w.sent = true ∧ w.chan = ch ∧ w.tag = tag := by
    simp only [List.any_eq_true, WriteReq.answers_iff]
  have hrow := execWriteAcknowledgement_good h0 released ch tag
  refine ⟨fun hw => ⟨_, hrow.trans (if_pos (hany.2 hw)), s.writeAccepted_writes ch tag, s.writeAccepted_keeps ch tag⟩,
    fun hno => ⟨hrow.trans (if_neg (mt hany.1 hno)), execWriteAckTimeout_unasked h0 ?_⟩, fun w hw => ?_⟩
  · exact List.find?_eq_none.2 fun w hw h => hno ⟨w, hw, (w.answers_iff ch tag).1 h⟩
  · refine (execWriteAckTimeout_due h0 hw).trans ?_
    cases ch <;> rfl

/-! ### Credits that arrive (R456) -/

theorem vset_getElem? {α : Type} {n : Nat} {v : Vector α n} {i : Nat} (h : i < n) {a : α} : (vset v i a)[i]? = some a := by
  simp [vset, h]

theorem vset_getElem?_ne {α : Type} {n : Nat} {v : Vector α n} {i j : Nat} (h : j ≠ i) {a : α} : (vset v i a)[j]? = v[j]? := by
  simp [vset, h.symm]

/-- A credit sends the message that waits longest, or is kept. -/
theorem OutPort.drain_one {o : OutPort} (h : o.credits = 0) (w : Nat) :
    ({ o with credits := o.credits + 1 } : OutPort).drain w = match o.queue with
      | [] => { o with credits := 1 }
      | m :: rest => { credits := 0, queue := rest, sent := o.sent ++ beatsOf w m } := by
  cases hq : o.queue <;> simp [OutPort.drain, h]

theorem outIdx_lt (sub : OutSub) : outIdx sub < 17 := by
  cases sub <;> simp only [outIdx] <;> omega

/-- A credit has arrived on a sub-channel, and a message that waited has left. -/
def State.credited (s : State) (sub : OutSub) (o : OutPort) : State :=
  { s with outs := vset s.outs (outIdx sub) (({ o with credits := o.credits + 1 } : OutPort).drain (beatBytes sub)) }

/-- Settles O29, by whether a message waits. -/
theorem creditSendsTheMessageThatWaits : Obligations.CreditSendsTheMessageThatWaits := by
  intro s sub o released ho hcredits
  have hrow : execSubChannelCredit sub s = .next (s.credited sub o) := by
    simp [execSubChannelCredit, State.credited, released, ho]
  refine ⟨_, _, hrow, vset_getElem? (outIdx_lt sub), fun hempty => ?_, fun m rest hqueue => ?_, fun j hj => vset_getElem?_ne hj,
    (execSubChannelCredit_keeps sub s).go _ hrow⟩
  · rw [OutPort.drain_one hcredits, hempty]
  · rw [OutPort.drain_one hcredits, hqueue]

end Sys2Proof.Machine
end

section
/-! The management window: its registers and its commands (R415 to R418, R420, R453). -/
namespace Sys2Proof.Machine

/-! ### What an access does (R415, R416, R453) -/

section
variable {s : State} (h0 : s.startup ≠ .reset) (released : s.rstAsserted = false)
include h0 released

theorem execMgtSend_good (n : BitVec 11) :
    execMgtSend n true s = .next ((s.returnCredit .mgtRq).send n).mgtZero := by
  unfold execMgtSend
  exact State.onWindow_awake h0 released _

theorem execMgtRelease_good : execMgtRelease true s = .next ((s.returnCredit .mgtRq).writeCtrl 0x40000000).mgtZero := by
  unfold execMgtRelease
  exact State.onWindow_awake h0 released _

theorem execMgtClearOverrun_good :
    execMgtClearOverrun true s = .next ((s.returnCredit .mgtRq).writeCtrl 0x20000000).mgtZero := by
  unfold execMgtClearOverrun
  exact State.onWindow_awake h0 released _

theorem execMgtData3Access_write (v : BitVec 32) : execMgtData3Access (some v) true s =
    .next ((s.returnCredit .mgtRq).modWindow (fun w => w.putWord 3 v)).mgtZero.nextSlot := by
  unfold execMgtData3Access
  exact State.onWindow_awake h0 released _

theorem execMgtData3Access_read : execMgtData3Access none true s =
    .next ((s.returnCredit .mgtRq).emit .mgtRs (leBytes 4 (s.window.word 3).toNat)).nextSlot := by
  unfold execMgtData3Access
  exact State.onWindow_awake h0 released _

theorem execMgtRegisterWrite_write (o : BitVec 8) (v : BitVec 32) :
    execMgtRegisterWrite o (some v) true s = .next ((s.returnCredit .mgtRq).writeWindow o v).mgtZero := by
  unfold execMgtRegisterWrite
  exact State.onWindow_awake h0 released _

theorem execMgtRegisterWrite_read (o : BitVec 8) :
    execMgtRegisterWrite o none true s = .next ((s.returnCredit .mgtRq).answerRead o) := by
  unfold execMgtRegisterWrite
  exact State.onWindow_awake h0 released _

end

/-! ### The data registers and the slot (R416) -/

theorem Window.word_toNat (w : Window) (i : Nat) : (w.word i).toNat = field w.response (16 * w.slot.toNat + 4 * i) 4 :=
  Nat.mod_eq_of_lt (field_lt ..)

theorem Window.putWord_slot (w : Window) (i : Nat) (v : U32) : (w.putWord i v).slot = w.slot := by
  unfold Window.putWord
  split <;> rfl

theorem Window.putWord_busy {w : Window} (h : w.busy = true) (i : Nat) (v : U32) : w.putWord i v = w := if_pos h

theorem Window.putWord_request (w : Window) (i : Nat) (v : U32) : (w.putWord i v).request =
    if w.busy then w.request else overwrite w.request (16 * w.slot.toNat + 4 * i) (leBytes 4 v.toNat) := by
  unfold Window.putWord
  split <;> rfl

theorem State.nextSlot_slot (s : State) : s.nextSlot.window.slot.toNat = (s.window.slot.toNat + 1) % 64 := by
  simp [State.nextSlot, BitVec.toNat_add]

/-- While Busy is set a write to MGT_CTRL leaves the request buffer alone. -/
theorem State.writeCtrl_request {s : State} (h : s.window.busy = true) (v : BitVec 32) :
    (s.writeCtrl v).window.request = s.window.request := by
  have hsend : ∀ n, (s.send n).window.request = s.window.request := fun n => by simp [State.send, h]
  have hrelease : ∀ u : State, u.releaseResponse.window.request = u.window.request := fun _ => rfl
  have hclear : ∀ u : State, u.clearOverrun.window.request = u.window.request := fun _ => rfl
  unfold State.writeCtrl
  dsimp only
  split <;> split <;> split <;> simp only [hsend, hrelease, hclear, State.modWindow_window]

/-- While Busy is set no write to a register changes the request buffer. -/
theorem State.writeWindow_request {s : State} (h : s.window.busy = true) (o : BitVec 8) (v : BitVec 32) :
    (s.writeWindow o v).window.request = s.window.request := by
  have hput : ∀ i, (s.window.putWord i v).request = s.window.request := fun i => by rw [Window.putWord_busy h]
  unfold State.writeWindow
  split
  · exact State.writeCtrl_request h v
  · rfl
  · exact hput 0
  · exact hput 1
  · exact hput 2
  · exact hput 3
  · rfl

theorem State.answerRead_request (s : State) (o : BitVec 8) : (s.answerRead o).window.request = s.window.request := by
  unfold State.answerRead
  dsimp only
  split <;> rfl

/-- Settles O45: each access to the register advances the slot once, whether it comes with a word or not. -/
theorem data3AdvancesTheSlot : Obligations.Data3AdvancesTheSlot := by
  intro s h0 released
  refine ⟨fun w => ?_, fun v => ?_, fun o v u hbusy hrow => ?_⟩
  · cases w with
    | none =>
      refine ⟨_, execMgtData3Access_read h0 released, State.nextSlot_slot _, fun _ => ?_, nofun⟩
      rw [Window.word_toNat]
      rfl
    | some v =>
      refine ⟨_, execMgtData3Access_write h0 released v, ?_, nofun, ?_⟩
      · rw [State.nextSlot_slot]
        exact congrArg (fun x => (BitVec.toNat x + 1) % 64) (Window.putWord_slot ..)
      · rintro _ ⟨⟩
        exact Window.putWord_request ..
  · cases v with
    | none => exact ⟨_, execMgtRegisterWrite_read h0 released 0x18, State.nextSlot_slot _⟩
    | some v =>
      refine ⟨_, execMgtRegisterWrite_write h0 released 0x18 v, (State.nextSlot_slot _).trans ?_⟩
      exact congrArg (fun x => (BitVec.toNat x + 1) % 64) (Window.putWord_slot ..)
  · cases v with
    | none =>
      cases (execMgtRegisterWrite_read h0 released o).symm.trans hrow
      exact State.answerRead_request ..
    | some v =>
      cases (execMgtRegisterWrite_write h0 released o v).symm.trans hrow
      exact State.writeWindow_request (s := s.returnCredit .mgtRq) hbusy o v

/-! ### Send (R417, R418, R420) -/

/-- The window once Send has latched the frame's length. -/
def State.sending (s : State) (n : BitVec 11) : State :=
  s.modWindow (fun w => { w with length := n, sent := n, busy := true })

theorem State.authOk_congr {s u : State} (hw : u.window = s.window) (hv : u.vault = s.vault) : u.authOk = s.authOk := by
  have hreq : u.req = s.req := by simp only [State.req, hw]
  have hsession : u.session = s.session := funext fun n => by simp only [State.session, hv]
  have hmac : u.macOk = s.macOk := funext fun bs => by simp only [State.macOk, hsession]
  simp only [State.authOk, hreq, hsession, hmac, hw]

theorem State.send_refused {s : State} (h : s.window.busy = true ∨ s.window.ready = true) (n : BitVec 11) :
    s.send n = s.modWindow (fun w => { w with overrun := true }) :=
  if_pos (by simpa using h)

theorem State.acceptCounter_window (s : State) : s.acceptCounter.window = s.window := by
  unfold State.acceptCounter
  dsimp only
  split <;> rfl

section
variable {s : State} (hbusy : s.window.busy = false) (hready : s.window.ready = false) {n : BitVec 11}
include hbusy hready

/-- A window that is free judges the frame. -/
theorem State.send_judges : s.send n =
    if !(frameOk (s.window.request.take n.toNat)) then (s.sending n).badFrame
    else if !(s.sending n).authOk then (s.sending n).badAuth
    else (s.sending n).acceptCounter.modWindow (fun w => { w with latched := true }) :=
  if_neg (by simp [hbusy, hready])

theorem State.send_badFrame (hframe : frameOk (s.window.request.take n.toNat) = false) : s.send n = (s.sending n).badFrame := by
  simp [State.send_judges hbusy hready, hframe]

variable (hframe : frameOk (s.window.request.take n.toNat) = true)
include hframe

theorem State.send_badAuth (hauth : (s.sending n).authOk = false) : s.send n = (s.sending n).badAuth := by
  simp [State.send_judges hbusy hready, hframe, hauth]

theorem State.send_accepts (hauth : (s.sending n).authOk = true) :
    s.send n = (s.sending n).acceptCounter.modWindow (fun w => { w with latched := true }) := by
  simp [State.send_judges hbusy hready, hframe, hauth]

end

/-! ### The other registers (R415) -/

theorem State.writeCtrl_release (s : State) :
    s.writeCtrl 0x40000000 = s.modWindow (fun w => { w with length := 0, ready := false }) := by
  simp [State.writeCtrl, bitAt, pow2]; rfl

theorem State.writeCtrl_clearOverrun (s : State) :
    s.writeCtrl 0x20000000 = s.modWindow (fun w => { w with length := 0, overrun := false }) := by
  simp [State.writeCtrl, bitAt, pow2]; rfl

theorem State.writeWindow_slot (s : State) (v : BitVec 32) :
    s.writeWindow 0x08 v = s.modWindow (fun w => { w with slot := BitVec.ofNat 6 (v.toNat / 16) }) := by
  have hslot : BitVec.ofNat 6 (bitsAt v.toNat 9 4) = BitVec.ofNat 6 (v.toNat / 16) :=
    BitVec.eq_of_toNat_eq (by simp [bitsAt, pow2])
  rw [← hslot]
  rfl

theorem State.writeWindow_data (s : State) {i : Nat} (hi : i < 3) (v : BitVec 32) :
    s.writeWindow (BitVec.ofNat 8 (0x0C + 4 * i)) v = s.modWindow (fun w => w.putWord i v) := by
  obtain rfl | rfl | rfl : i = 0 ∨ i = 1 ∨ i = 2 := by omega
  all_goals rfl

theorem State.readWindow_data (s : State) {i : Nat} (hi : i < 3) :
    s.readWindow (BitVec.ofNat 8 (0x0C + 4 * i)) = s.window.word i := by
  obtain rfl | rfl | rfl : i = 0 ∨ i = 1 ∨ i = 2 := by omega
  all_goals rfl

/-- A read of a register other than MGT_DATA3 answers with its value. -/
theorem State.answerRead_value {s : State} {o : BitVec 8} (ho : o ≠ 0x18) {x : Nat} (hx : (s.readWindow o).toNat = x) :
    s.answerRead o = s.emit .mgtRs (leBytes 4 x) := by
  rw [← hx]
  exact if_neg ho

/-! ### The window's commands (R415 to R418, R420) -/

/-- An access whose effect after its credit keeps `w` changes besides only what gives the credit back and answers on MGT_RS. -/
theorem State.mgtZero_after {w : List Fld} {s u : State} (k : Keeps w (s.returnCredit .mgtRq) u) :
    Keeps ([.ins, .outs] ++ w) s u.mgtZero :=
  (((State.returnCredit_keeps s .mgtRq).mono (by simp)).then k (by simp)).then u.mgtZero_keeps (by simp)

theorem State.windowWritten_keeps (s : State) (f : Window → Window) :
    Keeps [.ins, .window, .outs] s ((s.returnCredit .mgtRq).modWindow f).mgtZero :=
  (State.mgtZero_after (State.modWindow_keeps ..)).mono (by decide)

/-- A read of a register other than MGT_DATA3 gives back the beat's credit and answers with the register's value. -/
theorem execMgtRegisterWrite_value {s : State} (h0 : s.startup ≠ .reset) (released : s.rstAsserted = false) {o : BitVec 8}
    (ho : o ≠ 0x18) {x : Nat} (hx : ((s.returnCredit .mgtRq).readWindow o).toNat = x) :
    execMgtRegisterWrite o none true s = .next ((s.returnCredit .mgtRq).emit .mgtRs (leBytes 4 x)) :=
  (execMgtRegisterWrite_read h0 released o).trans (congrArg Host.Outcome.next (State.answerRead_value ho hx))

/-- A frame that has been answered at once: the window is free, and its response waits. -/
def Window.Answered (w : Window) : Prop := w.busy = false ∧ w.ready = true ∧ w.latched = false

theorem State.badFrame_answered (s : State) (n : BitVec 11) : (s.sending n).badFrame.window.Answered ∧
    (s.sending n).badFrame.counter .badFrames = s.counter .badFrames + 1 ∧ Keeps [.counters, .window] s (s.sending n).badFrame :=
  ⟨⟨rfl, rfl, rfl⟩, State.counter_bump (s.sending n) .badFrames 1,
    ((State.modWindow_keeps s _).mono (by decide)).trans (State.badFrame_keeps _)⟩

theorem State.badAuth_answered (s : State) (n : BitVec 11) : (s.sending n).badAuth.window.Answered ∧
    (s.sending n).badAuth.counter .authFailures = s.counter .authFailures + 1 ∧
    Keeps [.counters, .window] s (s.sending n).badAuth :=
  ⟨⟨rfl, rfl, rfl⟩, State.counter_bump (s.sending n) .authFailures 1,
    ((State.modWindow_keeps s _).mono (by decide)).trans (State.badAuth_keeps _)⟩

theorem State.accepted_keeps (s : State) (n : BitVec 11) :
    Keeps [.vault, .window] s ((s.sending n).acceptCounter.modWindow (fun w => { w with latched := true })) :=
  (((State.modWindow_keeps s _).mono (by decide)).then (State.acceptCounter_keeps _)).then (State.modWindow_keeps _ _)

/-- What Send does with a window that is free. -/
theorem State.send_free {s : State} (hbusy : s.window.busy = false) (hready : s.window.ready = false) (n : BitVec 11) :
    (frameOk (s.window.request.take n.toNat) = false → (s.send n).window.Answered ∧
      (s.send n).counter .badFrames = s.counter .badFrames + 1 ∧ Keeps [.counters, .window] s (s.send n)) ∧
    (frameOk (s.window.request.take n.toNat) = true → (s.sending n).authOk = false → (s.send n).window.Answered ∧
      (s.send n).counter .authFailures = s.counter .authFailures + 1 ∧ Keeps [.counters, .window] s (s.send n)) ∧
    (frameOk (s.window.request.take n.toNat) = true → (s.sending n).authOk = true →
      (s.send n).window = { (s.sending n).window with latched := true } ∧ Keeps [.vault, .window] s (s.send n)) := by
  refine ⟨fun hframe => ?_, fun hframe hauth => ?_, fun hframe hauth => ?_⟩
  · rw [State.send_badFrame hbusy hready hframe]
    exact s.badFrame_answered n
  · rw [State.send_badAuth hbusy hready hframe hauth]
    exact s.badAuth_answered n
  · rw [State.send_accepts hbusy hready hframe hauth, State.modWindow_window, State.acceptCounter_window]
    exact ⟨rfl, s.accepted_keeps n⟩

/-- Settles O46: Send is judged by the window and the frame, and every other access has its register's one effect. -/
theorem windowCommandsAct : Obligations.WindowCommandsAct := by
  intro s h0 released
  refine ⟨fun n => ⟨_, execMgtSend_good h0 released n, fun hfull => ?_, fun hbusy hready => ?_⟩,
    ⟨_, execMgtRelease_good h0 released, ?_, ?_⟩, ⟨_, execMgtClearOverrun_good h0 released, ?_, ?_⟩,
    fun v => ⟨⟨_, execMgtRegisterWrite_write h0 released 0x08 v, ?_, ?_⟩,
      fun i hi => ⟨_, execMgtRegisterWrite_write h0 released _ v, ?_, ?_⟩⟩, ?_⟩
  · rw [State.send_refused (s := s.returnCredit .mgtRq) hfull]
    exact ⟨rfl, s.windowWritten_keeps _⟩
  · obtain ⟨hform, hauth, hgood⟩ := State.send_free (s := s.returnCredit .mgtRq) hbusy hready n
    have hm : ((s.returnCredit .mgtRq).sending n).authOk = (s.sending n).authOk := State.authOk_congr rfl rfl
    rw [hm] at hauth hgood
    refine ⟨fun hframe => ?_, fun hframe hbad => ?_, fun hframe hok => ?_⟩
    · obtain ⟨⟨h1, h2, h3⟩, hcount, hkeeps⟩ := hform hframe
      exact ⟨h1, h2, h3, hcount, (State.mgtZero_after hkeeps).mono (by decide)⟩
    · obtain ⟨⟨h1, h2, h3⟩, hcount, hkeeps⟩ := hauth hframe hbad
      exact ⟨h1, h2, h3, hcount, (State.mgtZero_after hkeeps).mono (by decide)⟩
    · obtain ⟨hwindow, hkeeps⟩ := hgood hframe hok
      exact ⟨hwindow, (State.mgtZero_after hkeeps).mono (by decide)⟩
  · rw [State.writeCtrl_release]
    rfl
  · rw [State.writeCtrl_release]
    exact s.windowWritten_keeps _
  · rw [State.writeCtrl_clearOverrun]
    rfl
  · rw [State.writeCtrl_clearOverrun]
    exact s.windowWritten_keeps _
  · rw [State.writeWindow_slot]
    rfl
  · rw [State.writeWindow_slot]
    exact s.windowWritten_keeps _
  · rw [State.writeWindow_data _ hi]
    rfl
  · rw [State.writeWindow_data _ hi]
    exact s.windowWritten_keeps _
  · have hlength : s.window.length.toNat < 2 ^ 32 := by omega
    have hslot : s.window.slot.toNat * 16 < 2 ^ 32 := by omega
    refine ⟨execMgtRegisterWrite_value h0 released (by decide) (Nat.mod_eq_of_lt hlength),
      execMgtRegisterWrite_value h0 released (by decide) rfl,
      execMgtRegisterWrite_value h0 released (by decide) ((Nat.mod_eq_of_lt hslot).trans (Nat.mul_comm ..)),
      fun i hi => execMgtRegisterWrite_value h0 released ?_ ?_⟩
    · interval_cases i <;> decide
    · rw [State.readWindow_data _ hi]
      exact Window.word_toNat ..

end Sys2Proof.Machine
end

section
/-! READ, WRITE, DESCRIBE and their release (R402 to R405, R409, R410, R419, R420, R422), and downloads (R421, R439, R440). -/
namespace Sys2Proof.Machine

/-! ### The release of an access (R404) -/

/-- Out of reset the release of a latched request acts by its operation. -/
theorem execDictionaryAccessRelease_latched {s : State} (h0 : s.startup ≠ .reset) (hlatched : s.window.latched = true) :
    execDictionaryAccessRelease s = match s.req.op with
      | 0x01 => .next s.doRead
      | 0x02 => .next s.doWrite
      | 0x03 => .next s.doDescribe
      | 0x14 => .next (s.modWindow (fun w =>
          if w.admitted || w.refused then w else { w with admitted := s.seedIdle, refused := !s.seedIdle }))
      | _ => .next s := by
  have hawake : s.dormant = false := by simpa [State.dormant] using h0
  simp only [execDictionaryAccessRelease, State.testing, hawake, hlatched] <;> rfl

theorem execDictionaryAccessRelease_idle {s : State} (h0 : s.startup ≠ .reset) (hlatched : s.window.latched = false) :
    execDictionaryAccessRelease s = .next s := by
  have hawake : s.dormant = false := by simpa [State.dormant] using h0
  simp [execDictionaryAccessRelease, State.testing, hawake, hlatched]

/-- Settles O49, by the operation of the latched request. -/
theorem accessReleaseActsOnTheLatchedAccess : Obligations.AccessReleaseActsOnTheLatchedAccess := by
  intro s h0
  refine ⟨execDictionaryAccessRelease_idle h0, fun hlatched => ?_⟩
  have hrow := execDictionaryAccessRelease_latched h0 hlatched
  refine ⟨fun hop => ?_, fun hop => ?_, fun hop => ?_, fun hop => ⟨fun htested => ?_, fun hadmitted hrefused => ?_⟩,
    fun hop => ?_⟩
  · exact ⟨s.doRead, by rw [hop] at hrow; exact hrow, State.onRequest_runs h0 hlatched hop⟩
  · exact ⟨s.doWrite, by rw [hop] at hrow; exact hrow, State.onRequest_runs h0 hlatched hop⟩
  · exact ⟨s.doDescribe, by rw [hop] at hrow; exact hrow, State.onRequest_runs h0 hlatched hop⟩
  · rw [hop] at hrow
    exact hrow.trans (by simp [State.modWindow, htested])
  · rw [hop] at hrow
    exact hrow.trans (by simp [State.modWindow, State.seedIdle, hadmitted, hrefused])
  · refine hrow.trans ?_
    split <;> simp_all

/-! ### READ, WRITE and DESCRIBE (R409, R410, R419, R420) -/

/-- What READ answers of a sub-index that its object has. -/
theorem State.doRead_sub {s : State} (h1 : s.startup ≠ .whiteout) {l : List Obj} (hl : s.object s.req.index = some l) {o : Obj}
    (ho : l[s.req.sub]? = some o) : s.doRead =
      if o.acc = .wo then s.respond .access []
      else if !(readRole s.reqRole s.req.index s.req.sub) then s.respond .role []
      else (s.readEffect s.req.index s.req.sub).respond .ok (o.value ()) := by
  simp [State.doRead, h1, hl, ho]

theorem State.doRead_noObject {s : State} (h1 : s.startup ≠ .whiteout) (hnone : s.object s.req.index = none) :
    s.doRead = s.respond .noObject [] := by
  simp [State.doRead, h1, hnone]

theorem State.doRead_noSub {s : State} (h1 : s.startup ≠ .whiteout) {l : List Obj} (hl : s.object s.req.index = some l)
    (hnone : l[s.req.sub]? = none) : s.doRead = s.respond .noSub [] := by
  simp only [State.doRead, hl, hnone]
  simp [h1]

theorem State.doRead_whiteout {s : State} (h1 : s.startup = .whiteout) (hshut : whiteoutRead s.reqRole s.req.index = false) :
    s.doRead = s.respond .whiteout [] := by
  simp [State.doRead, h1, hshut]

theorem State.doWrite_whiteout {s : State} (h1 : s.startup = .whiteout) : s.doWrite = s.respond .whiteout [] := by
  simp [State.doWrite, h1]

theorem State.doWrite_state {s : State} (h : s.startup = .selftest ∨ s.startup = .image) : s.doWrite = s.respond .state [] := by
  obtain h | h := h <;> simp [State.doWrite, State.writeState?, h]

/-- READY and RUN let every write in. -/
theorem State.doWrite_serves {s : State} (h : s.startup = .ready ∨ s.startup = .run) :
    (s.startup == .whiteout) = false ∧ ∀ i sub v, s.writeState? i sub v = true := by
  obtain h | h := h <;> simp [State.writeState?, h]

theorem State.doWrite_noObject {s : State} (h : s.startup = .ready ∨ s.startup = .run) (hnone : s.object s.req.index = none) :
    s.doWrite = s.respond .noObject [] := by
  obtain ⟨h1, hopen⟩ := State.doWrite_serves h
  simp [State.doWrite, h1, hopen, hnone]

theorem State.doDescribe_noObject {s : State} (h1 : s.startup ≠ .whiteout) (hadvancing : s.advancing = false)
    (hnone : s.object s.req.index = none) : s.doDescribe = s.respond .noObject [] := by
  simp [State.doDescribe, h1, hadvancing, hnone]

theorem State.doDescribe_entries {s : State} (h1 : s.startup ≠ .whiteout) (hadvancing : s.advancing = false) {l : List Obj}
    (hl : s.object s.req.index = some l) (hsub : s.req.sub < l.length) (hrole : s.reqRole ≠ none) :
    s.doDescribe = s.respond .ok (((l.drop s.req.sub).take 240).flatMap Obj.described) := by
  simp [State.doDescribe, h1, hadvancing, hl, hsub, hrole]

/-- Settles O47: the checks of each access come in the order of R420. -/
theorem objectAccessesAnswerInOrder : Obligations.ObjectAccessesAnswerInOrder := by
  intro s h0 hlatched
  refine ⟨fun hop => ?_, fun hop => ?_, fun hop h1 hadvancing => ?_,
    fun st p => ⟨rfl, rfl, rfl, s.respond_keeps st p⟩⟩
  · have hrow : execRead s = .next s.doRead := State.onRequest_runs h0 hlatched hop
    simp only [exec, hrow]
    refine ⟨fun h1 hshut => by rw [State.doRead_whiteout h1 hshut], fun h1 hnone => by rw [State.doRead_noObject h1 hnone],
      fun l h1 hl => ⟨fun hnone => by rw [State.doRead_noSub h1 hl hnone], fun o ho => ?_⟩⟩
    rw [State.doRead_sub h1 hl ho]
    exact ⟨fun hacc => by rw [if_pos hacc], fun hacc hrole => by simp [hacc, hrole], fun hacc hrole => by simp [hacc, hrole]⟩
  · have hrow : execWrite s = .next s.doWrite := State.onRequest_runs h0 hlatched hop
    simp only [exec, hrow]
    exact ⟨fun h1 => by rw [State.doWrite_whiteout h1], fun h => by rw [State.doWrite_state h],
      fun h hnone => by rw [State.doWrite_noObject h hnone]⟩
  · have hrow : execDescribe s = .next s.doDescribe := State.onRequest_runs h0 hlatched hop
    simp only [exec, hrow]
    exact ⟨fun hnone => by rw [State.doDescribe_noObject h1 hadvancing hnone],
      fun l hl hsub hrole => by rw [State.doDescribe_entries h1 hadvancing hl hsub hrole]⟩

/-! ### A WRITE that is let in (R403, R405, R422) -/

/-- A WRITE that is let in makes its idle test where the object asks for one, and then its object judges the value. -/
theorem State.doWrite_judged {s : State} (h : s.startup = .ready ∨ s.startup = .run) {l : List Obj} {o : Obj}
    (hl : s.object s.req.index = some l) (ho : l[s.req.sub]? = some o) (hacc : o.acc = .rw ∨ o.acc = .rwIdle)
    (hrole : s.reqRole = some .operator) (hlength : s.req.payload.length = o.size) : s.doWrite =
      if o.acc = .rwIdle && !(s.writeIdle s.req.index s.req.sub (leNat s.req.payload)) then s.respond .notIdle []
      else match s.writeObject s.req.index s.req.sub (leNat s.req.payload) with
        | none => s.respond .refused []
        | some m => m.answerWrite s.req.index := by
  obtain h | h := h <;> simp [State.doWrite, State.writeState?, h, hl, ho, hacc, hrole, hlength] <;> rfl

theorem State.answerWrite_now {m : State} {i : Nat} (h : i < 0x3000 ∨ 0x3040 ≤ i ∨ (m.part (i % 64)).waiting = .nothing) :
    m.answerWrite i = m.followParts.respond .ok [] :=
  if_neg fun hwait => by
    obtain ⟨hlow, hhigh, hwaiting⟩ := hwait
    obtain h | h | h := h
    · omega
    · omega
    · exact hwaiting h

theorem State.answerWrite_later {m : State} {i : Nat} (h : 0x3000 ≤ i ∧ i < 0x3040) (hwait : (m.part (i % 64)).waiting ≠ .nothing) :
    m.answerWrite i = m.followParts.modWindow (fun w =>
      { w with latched := false, admitted := false, refused := false, deferred := some (.ckpt (i % 64)) }) :=
  if_pos ⟨h.1, h.2, hwait⟩

theorem State.followParts_window (s : State) : s.followParts.window = s.window :=
  s.followParts_keeps.same .window (by decide)

/-- Settles O48: the idle test comes first, then the object's own rules, and the answer waits only for a checkpoint. -/
theorem writeTakesEffectAndAnswers : Obligations.WriteTakesEffectAndAnswers := by
  intro s l o h hlatched hop hl ho hacc hrole hlength
  have h0 : s.startup ≠ .reset := by obtain h | h := h <;> simp [h]
  have hrow : execWrite s = .next s.doWrite := State.onRequest_runs h0 hlatched hop
  have hjudged := State.doWrite_judged h hl ho hacc hrole hlength
  simp only [exec, hrow, hjudged]
  refine ⟨fun hidleRule hbusy => by simp [hidleRule, hbusy], fun hidle => ?_⟩
  have hpass : (o.acc = .rwIdle && !(s.writeIdle s.req.index s.req.sub (leNat s.req.payload))) = false := by
    by_cases hidleRule : o.acc = .rwIdle
    · simp [hidle hidleRule]
    · simp [hidleRule]
  simp only [hpass, Bool.false_eq_true, if_false]
  refine ⟨fun hnone => by simp [hnone], fun m hm => ?_⟩
  simp only [hm]
  refine ⟨fun hnow => congrArg Host.Outcome.next (State.answerWrite_now hnow), fun hpart hwait => ⟨_, rfl, ?_⟩⟩
  have hready : m.followParts.window.ready = m.window.ready := congrArg Window.ready m.followParts_window
  have hkeeps := (m.answerWrite_keeps s.req.index).mono (v := [.window, .startup]) (by decide)
  rw [State.answerWrite_later hpart hwait] at hkeeps ⊢
  exact ⟨rfl, rfl, hready, hkeeps⟩

/-! ### Downloads (R421, R439, R440) -/

/-- A download operation whose access is allowed runs. -/
theorem State.onDownload_runs {s : State} (h0 : s.startup ≠ .reset) (hlatched : s.window.latched = true)
    (hallowed : s.intakeStatus = none) {op : Nat} (hop : s.req.op = op) (f : State → State) :
    s.onDownload op f = .next (f s) := by
  unfold State.onDownload
  rw [State.onRequest_runs h0 hlatched hop, hallowed]

/-- A frame continues a download exactly where it ends. -/
def Download.continues (d : Download) (r : Req) : Prop :=
  d.intake = r.sub ∧ r.offset = d.data.length ∧ d.data.length + r.payload.length ≤ d.total

/-- A download with the bytes of one more frame. -/
def Download.extend (d : Download) (bs : Bytes) : Download := ⟨d.intake, d.total, d.data ++ bs⟩

/-- The image of a download that has all its bytes, and the signature block behind it. -/
def Download.image (d : Download) : Bytes := d.data.take (d.total - 128)
def Download.block (d : Download) : Bytes := d.data.drop (d.total - 128)

/-- The block once a whole download has been judged by its signature and its image's own rules. -/
def State.judgeDownload (s : State) (d : Download) : State :=
  let s1 : State := { s with download := none }
  if d.total < 128 || !(s1.signatureOk d.intake d.image d.block) then (s1.bump .imageRefusals 1).respond .refused []
  else match s1.loadImage d.intake d.image with
    | some s2 => s2.respond .ok []
    | none => s1.respond .refused []

section
variable {s : State} {d : Download}

theorem State.judgeDownload_unsigned (h : d.total < 128 ∨ s.signatureOk d.intake d.image d.block = false) :
    s.judgeDownload d = (({ s with download := none } : State).bump .imageRefusals 1).respond .refused [] :=
  if_pos (by
    have hsame : ({ s with download := none } : State).signatureOk d.intake d.image d.block =
      s.signatureOk d.intake d.image d.block := rfl
    simpa [hsame] using h)

variable (htotal : 128 ≤ d.total) (hsigned : s.signatureOk d.intake d.image d.block = true)
include htotal hsigned

theorem State.judgeDownload_signed : s.judgeDownload d =
    match ({ s with download := none } : State).loadImage d.intake d.image with
    | some s2 => s2.respond .ok []
    | none => ({ s with download := none } : State).respond .refused [] :=
  if_neg (by
    have hsame : ({ s with download := none } : State).signatureOk d.intake d.image d.block = true := hsigned
    simp [hsame, htotal])

theorem State.judgeDownload_loaded {m : State} (hm : ({ s with download := none } : State).loadImage d.intake d.image = some m) :
    s.judgeDownload d = m.respond .ok [] := by
  rw [State.judgeDownload_signed htotal hsigned, hm]

theorem State.judgeDownload_refused (hnone : ({ s with download := none } : State).loadImage d.intake d.image = none) :
    s.judgeDownload d = ({ s with download := none } : State).respond .refused [] := by
  rw [State.judgeDownload_signed htotal hsigned, hnone]

end

/-- A judged download is open no more, and its response waits. -/
theorem State.judgeDownload_ends (s : State) (d : Download) :
    (s.judgeDownload d).download = none ∧ (s.judgeDownload d).window.ready = true := by
  unfold State.judgeDownload
  dsimp only
  split
  · exact ⟨rfl, rfl⟩
  split
  · rename_i hm
    exact ⟨((State.loadImage_keeps ..).go _ hm).same .download (by decide), rfl⟩
  · exact ⟨rfl, rfl⟩

section
variable {s : State} (h0 : s.startup ≠ .reset) (hlatched : s.window.latched = true) (hallowed : s.intakeStatus = none)
include h0 hlatched hallowed

theorem execDownloadBegin_opens (hop : s.req.op = 0x04) :
    execDownloadBegin s = .next (({ s with download := some ⟨s.req.sub, s.req.offset, []⟩ }).respond .ok []) := by
  unfold execDownloadBegin
  exact State.onDownload_runs h0 hlatched hallowed hop _

theorem execDownloadData_none (hop : s.req.op = 0x05) (hnone : s.download = none) : execDownloadData s = .next s.breakDownload := by
  refine (State.onDownload_runs h0 hlatched hallowed hop _).trans ?_
  rw [hnone]

theorem execDownloadData_open (hop : s.req.op = 0x05) {d : Download} (hd : s.download = some d) :
    (d.continues s.req → execDownloadData s = .next (({ s with download := some (d.extend s.req.payload) }).respond .ok [])) ∧
    (¬d.continues s.req → execDownloadData s = .next s.breakDownload) := by
  have hrow := State.onDownload_runs h0 hlatched hallowed hop (op := 0x05)
  refine ⟨fun hcont => (hrow _).trans ?_, fun hnot => (hrow _).trans ?_⟩
  · obtain ⟨hintake, hoffset, hroom⟩ := hcont
    simp [hd, hintake, hoffset, hroom, Download.extend]
  · rw [hd]
    refine congrArg Host.Outcome.next (if_pos ?_)
    simpa [Download.continues, imp_iff_not_or] using hnot

theorem execDownloadEnd_payload (hop : s.req.op = 0x06) (hpayload : s.req.payload ≠ []) :
    execDownloadEnd s = .next (s.respond .length []) := by
  refine (State.onDownload_runs h0 hlatched hallowed hop _).trans (congrArg Host.Outcome.next (if_pos ?_))
  simpa using hpayload

variable (hop : s.req.op = 0x06) (hpayload : s.req.payload = [])
include hop hpayload

theorem execDownloadEnd_none (hnone : s.download = none) : execDownloadEnd s = .next s.breakDownload := by
  refine (State.onDownload_runs h0 hlatched hallowed hop _).trans ?_
  simp [hpayload, hnone]

theorem execDownloadEnd_broken {d : Download} (hd : s.download = some d) (h : d.intake ≠ s.req.sub ∨ d.data.length ≠ d.total) :
    execDownloadEnd s = .next s.breakDownload := by
  refine (State.onDownload_runs h0 hlatched hallowed hop _).trans ?_
  simp [hpayload, hd, h]

theorem execDownloadEnd_whole {d : Download} (hd : s.download = some d) (hintake : d.intake = s.req.sub)
    (hwhole : d.data.length = d.total) : execDownloadEnd s = .next (s.judgeDownload d) := by
  refine (State.onDownload_runs h0 hlatched hallowed hop _).trans ?_
  dsimp only
  rw [if_neg (by simp [hpayload]), hd]
  exact congrArg Host.Outcome.next (if_neg (by simp [hintake, hwhole]))

end

/-- Settles O50: each operation continues or breaks the download, and a whole one is judged. -/
theorem downloadsRunInOrder : Obligations.DownloadsRunInOrder := by
  intro s h hlatched hallowed
  have h0 : s.startup ≠ .reset := by simp [h]
  refine ⟨execDownloadBegin_opens h0 hlatched hallowed, fun hop =>
      ⟨execDownloadData_none h0 hlatched hallowed hop, fun d hd => execDownloadData_open h0 hlatched hallowed hop hd⟩,
    fun hop hpayload => execDownloadEnd_payload h0 hlatched hallowed hop hpayload,
    fun hop hpayload hnone => execDownloadEnd_none h0 hlatched hallowed hop hpayload hnone, fun hop hpayload d hd =>
      ⟨fun hbroken => execDownloadEnd_broken h0 hlatched hallowed hop hpayload hd hbroken, fun hintake hwhole => ?_⟩⟩
  obtain ⟨hclosed, hready⟩ := s.judgeDownload_ends d
  refine ⟨_, execDownloadEnd_whole h0 hlatched hallowed hop hpayload hd hintake hwhole, hclosed, hready,
    fun htotal hsigned m hm => State.judgeDownload_loaded htotal hsigned hm, fun hbad => ?_, fun htotal hsigned hnone => ?_⟩
  · rw [State.judgeDownload_unsigned hbad]
    exact ⟨s.counter_bump .imageRefusals 1,
      (((Keeps.refl _ s).set_download).then (State.bump_keeps ..)).then (State.respond_keeps ..)⟩
  · rw [State.judgeDownload_refused htotal hsigned hnone]
    exact ((Keeps.refl _ s).set_download).then (State.respond_keeps ..)

end Sys2Proof.Machine
end

section
/-! The Vault's sessions (R420, R430 to R433, R450). -/
namespace Sys2Proof.Machine

/-! ### A service in any state that serves it (R420, R433, R450) -/

/-- A service whose state, caller and length are right is carried out while no advance is under way; in Whiteout where it is served
there. -/
theorem State.service_serves {s : State} {code : Nat} {inWhiteout stateOk : Bool} {c : Caller} {len : Nat} {f : State → State}
    (h0 : s.startup ≠ .reset) (h1 : s.startup = .whiteout → inWhiteout = true) (hlatched : s.window.latched = true)
    (hop : s.req.op = code) (hstate : stateOk = true) (hadvancing : s.advancing = false) (hcaller : s.callerOk c = true)
    (hlength : s.req.payload.length = len) : s.service code inWhiteout stateOk c len f = .next (f s) := by
  unfold State.service
  rw [State.onRequest_runs h0 hlatched hop]
  have hserved : (s.startup == .whiteout && !inWhiteout) = false := by
    by_cases h : s.startup = .whiteout
    · simp [h1 h]
    · simp [h]
  simp [hserved, hstate, hadvancing, hcaller, hlength]

/-! ### OPEN_CHALLENGE (R430, R431) -/

theorem Role.ofCode_code (role : Role) : Role.ofCode role.code = some role := by cases role <;> rfl

theorem State.setDrbg_vault (s : State) (d : Drbg) : (s.setDrbg d).vault.sessions = s.vault.sessions ∧
    (s.setDrbg d).vault.nextSession = s.vault.nextSession ∧ (s.setDrbg d).vault.keys = s.vault.keys := by
  unfold State.setDrbg
  split <;> exact ⟨rfl, rfl, rfl⟩

/-- A challenge leaves the sessions, their numbering and the role keys alone. -/
theorem State.challenge_vault (s : State) : s.challenge.2.vault.sessions = s.vault.sessions ∧
    s.challenge.2.vault.nextSession = s.vault.nextSession ∧ s.challenge.2.vault.keys = s.vault.keys := by
  unfold State.challenge
  split
  · exact ⟨rfl, rfl, rfl⟩
  · unfold State.vaultDraw
    split
    · exact ⟨rfl, rfl, rfl⟩
    · exact State.setDrbg_vault ..

/-- The pending session that a challenge opens for a role. -/
def State.pendingSession (s : State) (role : Role) : Session :=
  ⟨s.vault.nextSession, role, sessionKey (s.roleKey role) s.vault.nextSession s.challenge.1, 0, false, s.challenge.1⟩

theorem State.openSession_vault (s : State) (role : Role) :
    (s.openSession role).vault.sessions = s.vault.sessions ++ [s.pendingSession role] ∧
    (s.openSession role).vault.nextSession = s.vault.nextSession + 1 := by
  obtain ⟨hsessions, hnext, hkeys⟩ := s.challenge_vault
  have hopen : (s.openSession role).vault.sessions = s.challenge.2.vault.sessions ++
      [⟨s.challenge.2.vault.nextSession, role,
        sessionKey (vget s.challenge.2.vault.keys role.idx) s.challenge.2.vault.nextSession s.challenge.1, 0, false, s.challenge.1⟩] ∧
      (s.openSession role).vault.nextSession = s.challenge.2.vault.nextSession + 1 := ⟨rfl, rfl⟩
  rw [hsessions, hnext, hkeys] at hopen
  exact hopen

/-- OPEN_CHALLENGE of a role below its limits opens a pending session. -/
theorem execOpenChallenge_opens {s : State} (h0 : s.startup ≠ .reset) (hlatched : s.window.latched = true) (hop : s.req.op = 0x10)
    (hopen : s.vaultOpen = true) (henrolled : s.vault.enrolled = true) (hadvancing : s.advancing = false)
    (hsession : s.req.session = 0) {role : Role} (hpayload : s.req.payload = [BitVec.ofNat 8 role.code, 0, 0, 0])
    (hproofs : vget s.vault.failedProofs role.idx < 16) (hroom : s.vault.sessions.length < 4) (hid : s.vault.nextSession ≠ 0) :
    execOpenChallenge s = .next (s.openSession role) := by
  refine (State.service_serves h0 (fun _ => rfl) hlatched hop (by simp [hopen, henrolled]) hadvancing
    (by simp [State.callerOk, hsession]) (by simp [hpayload])).trans ?_
  have hcode : Role.ofCode (byteAt s.req.payload 0) = some role := by
    rw [hpayload]
    cases role <;> rfl
  have hzero : zeroAt s.req.payload 1 4 = true := by
    rw [hpayload]
    rfl
  simp only [hcode, hzero]
  refine congrArg Host.Outcome.next (if_neg ?_)
  have hnext : ¬s.vault.nextSession = 0#32 := hid
  simp [hproofs, hroom, hnext]

/-! ### OPEN_PROVE (R430, R433) -/

section
variable {s : State} (h0 : s.startup ≠ .reset) (hlatched : s.window.latched = true) (hop : s.req.op = 0x11)
include h0 hlatched hop

theorem execOpenProve_noSession (hnone : s.session s.req.session = none) (hsession : s.req.session = 0)
    (hadvancing : s.advancing = false) : execOpenProve s = .next (s.respond .role []) := by
  refine (State.onRequest_runs h0 hlatched hop).trans ?_
  simp only [hnone]
  simp [hsession, hadvancing]

variable {x : Session} (hx : s.session s.req.session = some x)
include hx

theorem execOpenProve_opened (hopened : x.opened = true) (hadvancing : s.advancing = false) :
    execOpenProve s = .next (s.respond .role []) := by
  refine (State.onRequest_runs h0 hlatched hop).trans ?_
  simp only [hx]
  simp [hopened, hadvancing]

variable (hpending : x.opened = false)
include hpending

theorem execOpenProve_badMac (hmac : s.macOk s.window.frame = false) : execOpenProve s = .next (s.proofFails x) := by
  refine (State.onRequest_runs h0 hlatched hop).trans ?_
  simp only [hx]
  simp [hpending, hmac]

end

/-- The block once a proof has opened its pending session. -/
def State.proved (s : State) (x : Session) : State :=
  ((s.modVault (fun v => { v with sessions := v.sessions.map (fun (y : Session) =>
    if y.id = x.id then { y with opened := true, counter := 1 } else y) })).bump .sessionsOpened 1).respond .ok []

theorem execOpenProve_proved {s : State} (h0 : s.startup ≠ .reset) (hlatched : s.window.latched = true) (hop : s.req.op = 0x11)
    {x : Session} (hx : s.session s.req.session = some x) (hpending : x.opened = false)
    (hmac : s.macOk s.window.frame = true) (hadvancing : s.advancing = false) (hlength : s.req.payload.length = 48)
    (hproof : s.req.payload = openProof (s.roleKey x.role) x.role x.id x.challenge) : execOpenProve s = .next (s.proved x) := by
  refine (State.onRequest_runs h0 hlatched hop).trans ?_
  simp only [hx]
  rw [if_neg (by simp [hpending]), if_neg (by simp [hmac]), if_neg (by simp [hadvancing]), if_neg (by simp [hlength]),
    if_neg (by simpa using hproof)]
  rfl

/-- A proof that fails discards its session, and counts for the block and for the role. -/
theorem State.proofFails_counts (s : State) (x : Session) :
    (s.proofFails x).vault.sessions = s.vault.sessions.filter (fun y => y.id.toNat != x.id.toNat) ∧
    vget (s.proofFails x).vault.failedProofs x.role.idx = vget s.vault.failedProofs x.role.idx + 1 ∧
    (s.proofFails x).counter .authFailures = s.counter .authFailures + 1 := by
  have hidx : x.role.idx < 3 := by cases x.role <;> decide
  exact ⟨rfl, vget_vset s.vault.failedProofs _ _ hidx, State.counter_bump (s.dropSession x.id.toNat) .authFailures 1⟩

/-! ### The ends of a session (R430, R432) -/

theorem State.reqRole_of_session {s : State} {x : Session} (hx : s.session s.req.session = some x) :
    s.reqRole = some x.role := by
  rw [State.reqRole, hx]
  rfl

theorem execClose_ends {s : State} (h0 : s.startup ≠ .reset) (hlatched : s.window.latched = true) (hop : s.req.op = 0x12)
    (hopen : s.vaultOpen = true) (hadvancing : s.advancing = false) {x : Session} (hx : s.session s.req.session = some x)
    (hpayload : s.req.payload = []) : execClose s = .next ((s.respond .ok []).dropSession s.req.session) :=
  State.service_serves h0 (fun _ => rfl) hlatched hop hopen hadvancing
    (by simp [State.callerOk, State.reqRole_of_session hx]) (by simp [hpayload])

theorem execSessionIdleTimeout_some {s : State} (h0 : s.startup ≠ .reset) {n : BitVec 32} {x : Session}
    (hx : s.session n.toNat = some x) :
    execSessionIdleTimeout n s = .next (if x.opened then s.dropSession x.id.toNat else s) := by
  refine (State.awake_runs h0).trans ?_
  simp only [hx]
  split <;> rfl

theorem execPendingSessionTimeout_some {s : State} (h0 : s.startup ≠ .reset) {n : BitVec 32} {x : Session}
    (hx : s.session n.toNat = some x) :
    execPendingSessionTimeout n s = .next (if x.opened then s else s.dropSession x.id.toNat) := by
  refine (State.awake_runs h0).trans ?_
  simp only [hx]
  split <;> rfl

theorem execSessionIdleTimeout_none {s : State} (h0 : s.startup ≠ .reset) {n : BitVec 32} (hnone : s.session n.toNat = none) :
    execSessionIdleTimeout n s = .next s := by
  refine (State.awake_runs h0).trans ?_
  rw [hnone]

theorem execPendingSessionTimeout_none {s : State} (h0 : s.startup ≠ .reset) {n : BitVec 32}
    (hnone : s.session n.toNat = none) : execPendingSessionTimeout n s = .next s := by
  refine (State.awake_runs h0).trans ?_
  rw [hnone]

/-- Settles O52: a challenge opens a pending session, a proof opens or ends it, and CLOSE and the two limits end their own. -/
theorem sessionsOpenAndClose : Obligations.SessionsOpenAndClose := by
  intro s h0
  refine ⟨fun hlatched hop hopen henrolled hadvancing hsession role hpayload hproofs hroom hid => ?_,
    fun x hlatched hop hx => ⟨fun hopened hadvancing => execOpenProve_opened h0 hlatched hop hx hopened hadvancing,
      fun hpending hmac hadvancing hproof hlength => ?_, fun hpending hmac => ?_⟩,
    fun hlatched hop hnone hsession hadvancing => execOpenProve_noSession h0 hlatched hop hnone hsession hadvancing,
    fun x hlatched hop hopen hadvancing hx hpayload => ?_,
    fun n x hx => ⟨execSessionIdleTimeout_some h0 hx, execPendingSessionTimeout_some h0 hx⟩,
    fun n hnone => ⟨execSessionIdleTimeout_none h0 hnone, execPendingSessionTimeout_none h0 hnone⟩⟩
  · have hrow := execOpenChallenge_opens h0 hlatched hop hopen henrolled hadvancing hsession hpayload hproofs hroom hid
    obtain ⟨hsessions, hnext⟩ := s.openSession_vault role
    exact ⟨_, s.pendingSession role, hrow, hsessions, rfl, rfl, rfl, hnext, rfl, s.openSession_keeps role⟩
  · have hrow := execOpenProve_proved h0 hlatched hop hx hpending hmac hadvancing hlength hproof
    exact ⟨_, hrow, rfl, s.counter_bump .sessionsOpened 1, ((execOpenProve_keeps s).go _ hrow).mono (by decide)⟩
  · obtain ⟨hsessions, hproofs, hcount⟩ := s.proofFails_counts x
    have hrow := execOpenProve_badMac h0 hlatched hop hx hpending hmac
    exact ⟨_, hrow, hsessions, hproofs, hcount, ((execOpenProve_keeps s).go _ hrow).mono (by decide)⟩
  · have hrow := execClose_ends h0 hlatched hop hopen hadvancing hx hpayload
    exact ⟨_, hrow, rfl, ((execClose_keeps s).go _ hrow).mono (by decide)⟩

end Sys2Proof.Machine
end

section
/-! Enrolment and the Vault's keys (R429, R438, R442, R469). -/
namespace Sys2Proof.Machine

/-! ### ENROL (R429, R434) -/

/-- A slice that lies within a string is a part of it. -/
theorem slice_of_le {bs : Bytes} {o n : Nat} (h : o + n ≤ bs.length) : slice bs o n = (bs.drop o).take n := by
  have hlength : ((bs.drop o).take n).length = n := by simp; omega
  simp [slice, hlength]

/-- The slices of three joined strings of one length are the strings. -/
theorem slice_three {n : Nat} {a b c : Bytes} (ha : a.length = n) (hb : b.length = n) (hc : c.length = n) :
    slice (a ++ b ++ c) 0 n = a ∧ slice (a ++ b ++ c) n n = b ∧ slice (a ++ b ++ c) (n + n) n = c := by
  have hlength : (a ++ b ++ c).length = n + n + n := by simp [ha, hb, hc, Nat.add_assoc]
  refine ⟨?_, ?_, ?_⟩
  · rw [slice_of_le (by omega), List.append_assoc, List.drop_zero, List.take_left' ha]
  · rw [slice_of_le (by omega), List.append_assoc, List.drop_left' ha, List.take_left' hb]
  · rw [slice_of_le (by omega), List.drop_left' (by simp [ha, hb]), List.take_of_length_le (by omega)]

/-- SELFTEST is left for IMAGE once the tests are done and the role keys are there. -/
theorem State.leaveSelftest_done {s : State} (h : s.startup = .selftest) (hdone : s.testsDone = true)
    (henrolled : s.vault.enrolled = true) :
    s.leaveSelftest = { s with startup := .image, vault := { s.vault with state := .operational } } :=
  if_pos (by simp [h, hdone, henrolled])

theorem State.leaveSelftest_untested {s : State} (hdone : s.testsDone = false) : s.leaveSelftest = s :=
  if_neg (by simp [hdone])

/-- The block with its role keys set and ENROL answered. -/
def State.enrolledWith (s : State) (a b c : Bytes) : State :=
  (s.modVault (fun v => { v with keys := #v[a, b, c], enrolled := true, seedWrap := seedWrapKey b })).respond .ok []

theorem execEnrol_enrols {s : State} (hlatched : s.window.latched = true) (hadvancing : s.advancing = false)
    (hop : s.req.op = 0x13) (h : s.startup = .selftest) (hnot : s.vault.enrolled = false) (hkept : s.vault.state ≠ .zeroised)
    (hsession : s.req.session = 0) {a b c : Bytes} (ha : a.length = 48) (hb : b.length = 48) (hc : c.length = 48)
    (hpayload : s.req.payload = a ++ b ++ c) (ha0 : allZero a = false) (hb0 : allZero b = false) (hc0 : allZero c = false)
    (hab : a ≠ b) (hac : a ≠ c) (hbc : b ≠ c) : execEnrol s = .next (s.enrolledWith a b c).leaveSelftest := by
  refine (State.service_runs (by simp [h]) (by simp [h]) hlatched hop (by simp [h, hnot, hkept]) hadvancing
    (by simp [State.callerOk, hsession]) (by simp [hpayload, ha, hb, hc])).trans ?_
  obtain ⟨h0, h1, h2⟩ := slice_three ha hb hc
  rw [hpayload, h0, h1, h2]
  refine congrArg Host.Outcome.next (if_neg ?_)
  simp [ha0, hb0, hc0, hab, hac, hbc]

/-! ### VERIFY_KEY and AUDIT_KEY (R438, R442) -/

/-- The block with a verification key set and VERIFY_KEY answered. -/
def State.verifyKeySet (s : State) (n : Nat) (key : Bytes) : State :=
  (s.modVault (fun v => { v with verifyKeys := vset v.verifyKeys n key })).respond .ok []

theorem execVerifyKey_sets {s : State} (hlatched : s.window.latched = true) (hadvancing : s.advancing = false)
    (hop : s.req.op = 0x16) (h : s.startup = .image) (hrole : s.reqRole = some .officer) (hlength : s.req.payload.length = 101)
    (hslot : byteAt s.req.payload 0 < 4) (hzero : zeroAt s.req.payload 1 4 = true)
    (hvalid : pubValid (slice s.req.payload 4 97) = true) :
    execVerifyKey s = .next (s.verifyKeySet (byteAt s.req.payload 0) (slice s.req.payload 4 97)) := by
  refine (State.service_runs (by simp [h]) (by simp [h]) hlatched hop (by simp [h]) hadvancing
    (by simp [State.callerOk, hrole]) hlength).trans ?_
  refine congrArg Host.Outcome.next (if_neg ?_)
  simp [hzero, hvalid]
  omega

theorem execAuditKey_answers {s : State} (hlatched : s.window.latched = true) (hadvancing : s.advancing = false)
    (hop : s.req.op = 0x15) (h0 : s.startup ≠ .reset) (h : s.startup ≠ .selftest) (hrole : s.reqRole ≠ none)
    (hpayload : s.req.payload = []) : execAuditKey s = .next (s.respond .ok (s.vault.auditKey ++ s.vault.auditId)) :=
  State.service_serves h0 (fun _ => rfl) hlatched hop (by simp [h]) hadvancing
    (by simpa [State.callerOk, Option.isSome_iff_ne_none] using hrole) (by simp [hpayload])

theorem Vault.auditKey_pair {v : Vault} (h : v.auditPub ≠ []) : v.auditKey ++ v.auditId = v.auditPub ++ keyId v.auditPub := by
  simp [Vault.auditKey, Vault.auditId, h]

theorem Vault.auditKey_none {v : Vault} (h : v.auditPub = []) :
    v.auditKey ++ v.auditId = List.replicate 97 0 ++ List.replicate 16 0 := by
  simp [Vault.auditKey, Vault.auditId, h]

/-- Settles O53: ENROL by the three slices of its payload and the end of SELFTEST, the two key services by what they answer. -/
theorem enrolmentAndKeysAreSet : Obligations.EnrolmentAndKeysAreSet := by
  intro s hlatched hadvancing
  refine ⟨fun hop h hnot hkept hsession a b c ha hb hc hpayload ha0 hb0 hc0 hab hac hbc => ?_,
    fun hop h hrole hlength hslot hzero hvalid => ?_, fun hop h0 h hrole hpayload => ?_⟩
  · have hrow := execEnrol_enrols hlatched hadvancing hop h hnot hkept hsession ha hb hc hpayload ha0 hb0 hc0 hab hac hbc
    have hkeeps := (execEnrol_keeps s).go _ hrow
    refine ⟨_, hrow, ?_⟩
    cases hdone : s.testsDone with
    | true =>
      rw [State.leaveSelftest_done (s := s.enrolledWith a b c) h hdone rfl] at hkeeps ⊢
      exact ⟨rfl, rfl, rfl, fun _ => ⟨rfl, rfl⟩, fun hfalse => (Bool.noConfusion hfalse), hkeeps.mono (by decide)⟩
    | false =>
      rw [State.leaveSelftest_untested (s := s.enrolledWith a b c) hdone] at hkeeps ⊢
      exact ⟨rfl, rfl, rfl, fun htrue => (Bool.noConfusion htrue), fun _ => ⟨h, rfl⟩, hkeeps.mono (by decide)⟩
  · have hrow := execVerifyKey_sets hlatched hadvancing hop h hrole hlength hslot hzero hvalid
    exact ⟨_, hrow, vget_vset s.vault.verifyKeys _ _ hslot, fun n hn => vget_vset_ne s.vault.verifyKeys _ n _ hn.symm,
      ((execVerifyKey_keeps s).go _ hrow).mono (by decide)⟩
  · have hrow := execAuditKey_answers hlatched hadvancing hop h0 h hrole hpayload
    exact ⟨_, hrow, (execAuditKey_keeps s).go _ hrow, fun hpair => by rw [Vault.auditKey_pair hpair],
      fun hnone => by rw [Vault.auditKey_none hnone]⟩

end Sys2Proof.Machine
end

section
/-! The tests of the entropy source and the self-test service (R444 to R447). -/
namespace Sys2Proof.Machine

/-! ### The Vault in Whiteout (R391, R450) -/

theorem State.clearKeys_vault (s : State) : s.clearKeys.vault.drbg = none ∧ s.clearKeys.vault.failures = s.vault.failures :=
  ⟨rfl, rfl⟩

/-- The Vault of a block that has shut down has no CTR_DRBG, and its failed-test map stands. -/
theorem State.shutDown_vault (s : State) : s.shutDown.vault.drbg = none ∧ s.shutDown.vault.failures = s.vault.failures := by
  have hstopped : ((((s.stopFigures .whiteout).dropAllTickets .whiteout).releaseAllKept).haltAll).vault = s.vault :=
    calc ((((s.stopFigures .whiteout).dropAllTickets .whiteout).releaseAllKept).haltAll).vault
      _ = (((s.stopFigures .whiteout).dropAllTickets .whiteout).releaseAllKept).vault :=
        (State.haltAll_keeps ..).same .vault (by decide)
      _ = ((s.stopFigures .whiteout).dropAllTickets .whiteout).vault := (State.releaseAllKept_keeps ..).same .vault (by decide)
      _ = (s.stopFigures .whiteout).vault := (State.dropAllTickets_keeps ..).same .vault (by decide)
      _ = s.vault := (State.stopFigures_keeps ..).same .vault (by decide)
  rw [← hstopped]
  exact State.clearKeys_vault _

/-- Entering Whiteout for a Vault failure ends CTR_DRBG and leaves the failed-test map. -/
theorem State.enterWhiteout_four_vault {s : State} (h : s.startup ≠ .whiteout) :
    (s.enterWhiteout 4).vault.drbg = none ∧ (s.enterWhiteout 4).vault.failures = s.vault.failures := by
  have hkept : ∀ u : State, (u.respondDeferred .whiteout).vault = u.vault := fun u =>
    (State.respondDeferred_keeps u .whiteout).same .vault (by decide)
  have hdown : ((((s.stopFigures .whiteout).dropAllTickets .whiteout).releaseAllKept).haltAll).clearKeys = s.shutDown := rfl
  unfold State.enterWhiteout
  rw [if_neg (by simpa using h), hkept]
  dsimp only
  rw [hdown]
  exact s.shutDown_vault

/-- A Vault self-test failure enters Whiteout under cause 0x04 and adds its bits to the failed-test map. -/
theorem State.vaultFails_enters {s : State} (h : s.startup ≠ .whiteout) (bits : U32) :
    let u := s.vaultFails bits
    u.startup = .whiteout ∧ u.whiteoutCause = 4 ∧ u.vault.state = .failed ∧ u.vault.drbg = none ∧
      u.vault.failures = s.vault.failures ||| bits := by
  let marked : State := s.modVault (fun v => { v with failures := v.failures ||| bits })
  have hmarked : marked.startup ≠ .whiteout := h
  obtain ⟨hstartup, hcause⟩ := State.enterWhiteout_enters hmarked 4
  obtain ⟨hdrbg, hfailures⟩ := State.enterWhiteout_four_vault hmarked
  exact ⟨hstartup, hcause, State.enterWhiteout_four_failed hmarked, hdrbg, hfailures⟩

/-! ### ENTROPY_SAMPLE (R444, R445) -/

/-- The block with a sample's credit given back and the sample tested. -/
def State.tested (s : State) (x : Byte) : State :=
  (s.returnCredit .vltEnt).modVault (fun v => { v with tests := s.vault.tests.take x })

section
variable {s : State} (h0 : s.startup ≠ .reset) (released : s.rstAsserted = false) (x : Byte)
include h0 released

theorem execEntropySample_good : execEntropySample x true s =
    if s.startup == .whiteout then .next (s.tested x)
    else if (s.vault.tests.take x).repFailed || (s.vault.tests.take x).propFailed then
      .next ((s.tested x).vaultFails (if decide (s.vault.tests.samples < 1024) then 0x100 else 0))
    else if decide (s.vault.tests.samples < 1024) || s.vault.state == .zeroised then .next (s.tested x)
    else .next ((s.tested x).credit x) :=
  State.onPort_awake h0 released .vltEnt _

theorem execEntropySample_whiteout (h : s.startup = .whiteout) : execEntropySample x true s = .next (s.tested x) := by
  rw [execEntropySample_good h0 released, if_pos (by simp [h])]

variable (h1 : s.startup ≠ .whiteout)
include h1

theorem execEntropySample_fails (h : (s.vault.tests.take x).repFailed = true ∨ (s.vault.tests.take x).propFailed = true) :
    execEntropySample x true s =
      .next ((s.tested x).vaultFails (if decide (s.vault.tests.samples < 1024) then 0x100 else 0)) := by
  rw [execEntropySample_good h0 released, if_neg (by simpa using h1), if_pos (by simpa using h)]

variable (hrep : (s.vault.tests.take x).repFailed = false) (hprop : (s.vault.tests.take x).propFailed = false)
include hrep hprop

theorem execEntropySample_testedOnly (h : s.vault.tests.samples < 1024 ∨ s.vault.state = .zeroised) :
    execEntropySample x true s = .next (s.tested x) := by
  rw [execEntropySample_good h0 released, if_neg (by simpa using h1), if_neg (by simp [hrep, hprop]), if_pos (by simpa using h)]

theorem execEntropySample_credited (hlate : 1024 ≤ s.vault.tests.samples) (hkept : s.vault.state ≠ .zeroised) :
    execEntropySample x true s = .next ((s.tested x).credit x) := by
  rw [execEntropySample_good h0 released, if_neg (by simpa using h1), if_neg (by simp [hrep, hprop]),
    if_neg (by simp [hlate, hkept])]

end

/-- The repetition count fails at the sixth sample of one value, and stays failed. -/
theorem EntropyTests.take_repFailed {t : EntropyTests} {x : Byte}
    (h : t.repFailed = true ∨ (t.samples ≠ 0 ∧ t.last = x ∧ 5 ≤ t.run)) : (t.take x).repFailed = true := by
  unfold EntropyTests.take
  rcases h with hfailed | ⟨hsamples, hlast, hrun⟩
  · simp [hfailed]
  · have hsixth : 6 ≤ t.run + 1 := by omega
    simp [hsamples, hlast, hsixth]

/-! ### SELFTEST (R446, R447) -/

/-- The block with the failed-test map stored and SELFTEST answered with it. -/
def State.selftested (s : State) (map : BitVec 32) : State :=
  (s.modVault (fun v => { v with failures := map })).respond .ok (leBytes 4 map.toNat)

section
variable {s : State} (hup : s.startup = .ready ∨ s.startup = .run) (hlatched : s.window.latched = true) (hop : s.req.op = 0x18)
  (hrole : s.reqRole = some .officer) (hpayload : s.req.payload = []) (hadvancing : s.advancing = false) (m : BitVec 32)
include hup hlatched hop hrole hpayload hadvancing

theorem execSelftest_runs : execSelftest m s = .next (if !s.allIdle then s.respond .notIdle [] else
    if m &&& 0x5FF = 0 then s.selftested (m &&& 0x5FF) else (s.selftested (m &&& 0x5FF)).enterWhiteout 4) :=
  State.service_runs (by rcases hup with h | h <;> simp [h]) (by rcases hup with h | h <;> simp [h]) hlatched hop
    (by rcases hup with h | h <;> simp [h]) hadvancing (by simp [State.callerOk, hrole]) (by simp [hpayload])

theorem execSelftest_busy (h : s.tickets ≠ []) : execSelftest m s = .next (s.respond .notIdle []) := by
  rw [execSelftest_runs hup hlatched hop hrole hpayload hadvancing, if_pos (by simpa [State.allIdle] using h)]

variable (hidle : s.tickets = [])
include hidle

theorem execSelftest_passes (h : m &&& 0x5FF = 0) : execSelftest m s = .next (s.selftested (m &&& 0x5FF)) := by
  rw [execSelftest_runs hup hlatched hop hrole hpayload hadvancing, if_neg (by simp [State.allIdle, hidle]), if_pos h]

theorem execSelftest_fails (h : m &&& 0x5FF ≠ 0) :
    execSelftest m s = .next ((s.selftested (m &&& 0x5FF)).enterWhiteout 4) := by
  rw [execSelftest_runs hup hlatched hop hrole hpayload hadvancing, if_neg (by simp [State.allIdle, hidle]), if_neg h]

end

/-- Settles O56: a sample by the branches of its row, SELFTEST by what it found. -/
theorem entropyIsTestedThenCredited : Obligations.EntropyIsTestedThenCredited := by
  intro s h0
  refine ⟨fun released x => ⟨execEntropySample_whiteout h0 released x, fun h1 => ⟨fun hfails => ?_,
      execEntropySample_testedOnly h0 released x h1, execEntropySample_credited h0 released x h1⟩,
      EntropyTests.take_repFailed⟩,
    fun hup hlatched hop hrole hpayload hadvancing m =>
      ⟨execSelftest_busy hup hlatched hop hrole hpayload hadvancing m, fun hidle hmap => ?_, fun hidle hmap => ?_⟩⟩
  · have hrow := execEntropySample_fails h0 released x h1 hfails
    obtain ⟨hstartup, hcause, hstate, hdrbg, hfailures⟩ := State.vaultFails_enters (s := s.tested x) h1
      (if decide (s.vault.tests.samples < 1024) then 0x100 else 0)
    exact ⟨_, hrow, hstartup, hcause, hstate, hdrbg, hfailures.trans (by simp [State.tested])⟩
  · have hrow := execSelftest_passes hup hlatched hop hrole hpayload hadvancing m hidle hmap
    have hkeeps : Keeps [.vault, .window] s (s.selftested (m &&& 0x5FF)) :=
      ((State.modVault_keeps s _).mono (by decide)).then (State.respond_keeps _ .ok _)
    exact ⟨_, hrow, hmap, rfl, hkeeps⟩
  · have hrow := execSelftest_fails hup hlatched hop hrole hpayload hadvancing m hidle hmap
    have h1 : (s.selftested (m &&& 0x5FF)).startup ≠ .whiteout := by
      show s.startup ≠ .whiteout
      rcases hup with h | h <;> simp [h]
    exact ⟨_, hrow, (State.enterWhiteout_enters h1 4).1, (State.enterWhiteout_four_vault h1).2⟩

end Sys2Proof.Machine
end

section
/-! Zeroisation (R424, R448, R449). -/
namespace Sys2Proof.Machine

/-! ### What zeroisation leaves (R424, R449) -/

/-- No ticket, session or download is left, every partition is halted, and every value of R424 is cleared. -/
def Zeroised (u : State) : Prop :=
  u.tickets = [] ∧ u.ckpts = [] ∧ u.download = none ∧
  (∀ n : Nat, n < 64 → (u.part n).state = .halted ∧ (u.part n).seed = none ∧ (u.part n).held = none ∧
    (u.part n).key = (0, 0) ∧ (u.part n).chain = List.replicate 48 0) ∧
  u.vault.state = .zeroised ∧ u.vault.enrolled = false ∧ u.vault.keys = Vector.replicate 3 (List.replicate 48 0) ∧
  u.vault.sessions = [] ∧ u.vault.seedWrap = List.replicate 32 0 ∧ u.vault.drbg = none ∧ u.vault.pool = [] ∧
  u.vault.sleetKey = List.replicate 16 0 ∧ u.vault.auditPriv = 0 ∧ u.vault.auditPub = [] ∧
  u.vault.verifyKeys = Vector.replicate 4 []

/-- The block with its figures stopped, its tickets freed under a status, its kept rows released and its partitions halted. -/
def State.stopped (s : State) (reason : Status) : State :=
  (((s.stopFigures reason).dropAllTickets reason).releaseAllKept).haltAll

theorem State.stopped_tickets (s : State) (reason : Status) : (s.stopped reason).tickets = [] :=
  calc (s.stopped reason).tickets
    _ = (((s.stopFigures reason).dropAllTickets reason).releaseAllKept).tickets :=
      (State.haltAll_keeps _).same .tickets (by decide)
    _ = ((s.stopFigures reason).dropAllTickets reason).tickets := (State.releaseAllKept_keeps _).same .tickets (by decide)
    _ = [] := State.dropAllTickets_tickets ..

/-- Clear, beyond the values that Whiteout clears too, the chain values and the rest of the Vault. -/
def State.clearVault (s : State) : State :=
  { s.clearKeys with
    parts := s.clearKeys.parts.map (fun (p : Partition) => { p with chain := List.replicate 48 0 }),
    download := none,
    vault := { s.clearKeys.vault with
      state := .zeroised,
      enrolled := false,
      keys := Vector.replicate 3 (List.replicate 48 0),
      sessions := [],
      auditPub := [],
      verifyKeys := Vector.replicate 4 [] } }

theorem State.zeroiseBlock_eq (s : State) :
    s.zeroiseBlock = ((s.respondDeferred .refused).stopped .unrecovered).clearVault := rfl

/-- Clearing the keys and the chain values of a partition leaves its state alone. -/
theorem State.clearVault_part (s : State) {n : Nat} (h : n < 64) :
    s.clearVault.part n = { s.part n with seed := none, held := none, key := (0, 0), chain := List.replicate 48 0 } := by
  simp [State.clearVault, State.clearKeys, State.part, h]

theorem State.clearVault_zeroised {s : State} (htickets : s.tickets = []) (hckpts : s.ckpts = [])
    (hhalted : ∀ n : Nat, n < 64 → (s.part n).state = .halted) : Zeroised s.clearVault := by
  refine ⟨htickets, hckpts, rfl, fun n hn => ?_, rfl, rfl, rfl, rfl, rfl, rfl, rfl, rfl, rfl, rfl, rfl⟩
  rw [State.clearVault_part _ hn]
  exact ⟨hhalted n hn, rfl, rfl, rfl, rfl⟩

/-- Following the partitions moves the start-up state alone. -/
theorem State.followParts_zeroised {u : State} (h : Zeroised u) : Zeroised u.followParts := by
  unfold State.followParts
  split
  · exact h
  · exact h

theorem State.beginZeroise_cleared (s : State) : Zeroised s.beginZeroise := by
  rw [State.beginZeroise, State.zeroiseBlock_eq]
  exact State.followParts_zeroised
    (State.clearVault_zeroised (State.stopped_tickets ..) rfl fun n hn => State.haltAll_part _ hn)

/-! ### Its three causes (R448, R449, R472) -/

theorem execZeroiseInput_awake {s : State} (h0 : s.startup ≠ .reset) :
    execZeroiseInput s = .next { s with zeroisePin := true }.beginZeroise :=
  if_neg (by simpa [State.dormant] using h0)

theorem execZeroiseInput_reset {s : State} (h : s.startup = .reset) :
    execZeroiseInput s = .next { s with zeroisePin := true } :=
  if_pos (by simp [State.dormant, h])

theorem execTamperInput_long {s : State} (h0 : s.startup ≠ .reset) {n : Nat} (h : 2 ≤ n) :
    execTamperInput n s = .next { s with tamperPin := true }.beginZeroise := by
  have hheld : decide (n ≥ 2) = true := decide_eq_true h
  unfold execTamperInput
  rw [hheld, if_neg (by simp [State.dormant, h0]; omega)]

theorem execTamperInput_short (s : State) {n : Nat} (h : n < 2) :
    execTamperInput n s = .next { s with tamperPin := false } := by
  have hheld : decide (n ≥ 2) = false := decide_eq_false (by omega)
  unfold execTamperInput
  rw [hheld, if_pos (by simp [h])]

theorem execZeroise_runs {s : State} (h0 : s.startup ≠ .reset) (h1 : s.startup ≠ .whiteout) (hdrbg : s.vault.drbg ≠ none)
    (hadvancing : s.advancing = false) (hlatched : s.window.latched = true) (hop : s.req.op = 0x17)
    (hrole : s.reqRole = some .officer) (hpayload : s.req.payload = []) :
    execZeroise s = .next (s.respond .ok []).beginZeroise :=
  State.service_runs h0 h1 hlatched hop (by simp [State.vaultOpen, Option.isSome_iff_ne_none, hdrbg]) hadvancing
    (by simp [State.callerOk, hrole]) (by simp [hpayload])

/-- Settles O55: each cause ends in `State.beginZeroise`, which clears everything whatever it starts from. -/
theorem zeroisationClearsTheVault : Obligations.ZeroisationClearsTheVault := by
  intro s
  refine ⟨fun h0 => ⟨?_, fun n h => ?_, fun h1 hdrbg hadvancing hlatched hop hrole hpayload => ?_⟩,
    fun n h => execTamperInput_short s h, execZeroiseInput_reset⟩
  · exact ⟨_, execZeroiseInput_awake h0, State.beginZeroise_cleared _,
      (State.beginZeroise_keeps { s with zeroisePin := true }).same .zeroisePin (by decide)⟩
  · exact ⟨_, execTamperInput_long h0 h, State.beginZeroise_cleared _,
      (State.beginZeroise_keeps { s with tamperPin := true }).same .tamperPin (by decide)⟩
  · exact ⟨_, execZeroise_runs h0 h1 hdrbg hadvancing hlatched hop hrole hpayload, State.beginZeroise_cleared _⟩

end Sys2Proof.Machine
end

section
/-! What RESET holds back (R455 to R457, R468, R469). -/
namespace Sys2Proof.Machine

/-! ### The rows by what brings them -/

/-- The rows of beats received on a port other than the window's, with their port. -/
def beatPort : Instr → Option InSub
  | .doorbell _ _ => some .cmdDb | .hiddenRow _ _ => some .actIn | .readResponse chan _ _ _ => some (rdSub chan)
  | .writeAcknowledgement chan _ _ => some (waSub chan) | .entropySample _ _ => some .vltEnt
  | .reelFrameCrcFailure port _ => some (.reelRx port)
  | .hello f => some (.reelRx f.port) | .idle f => some (.reelRx f.port) | .nak f => some (.reelRx f.port)
  | .exchange f => some (.reelRx f.port) | .check f => some (.reelRx f.port) | .abort f => some (.reelRx f.port)
  | _ => none

/-- The rows of what falls due inside the block: completions, counts, deadlines, timers and the steps of start-up. -/
def dueRow : Instr → Bool
  | .commandCompletion _ => true | .checkpointSigned => true | .pavaneCountLoad _ => true | .pavaneAdvance _ => true
  | .pavaneSlip _ => true | .frameBoundaryPreemption => true | .suspendedFigureResume => true | .writeAckTimeout _ _ => true
  | .helloTimer _ => true | .idleTimer _ => true | .linkReceiveTimeout _ => true | .peerDeadline _ => true
  | .stallLimit _ => true | .checkDeadline _ => true | .seedKeyDeferredWrite _ => true | .sessionIdleTimeout _ => true
  | .pendingSessionTimeout _ => true | .mgtAdvance => true | .readyEntry => true | _ => false

/-- The row that releases the window's request. -/
def accessRow : Instr → Bool
  | .dictionaryAccessRelease => true | _ => false

/-- The row of a credit that arrives. -/
def creditRow : Instr → Bool
  | .subChannelCredit _ => true | _ => false

/-- Every row is one that RESET does not hold back, a credit, a beat, a window access, an access of the window's request or its
release, or work of the block itself. -/
theorem rows_covered (i : Instr) :
    (resetRow i || creditRow i || (beatPort i).isSome || windowRow i || (serviceRow i).isSome || accessRow i || (opRow i).isSome ||
      errorRow i || dueRow i) = true := by
  cases i <;> rfl

theorem creditRow_iff (i : Instr) : creditRow i = true ↔ ∃ sub, i = .subChannelCredit sub := by
  cases i <;> simp [creditRow]

theorem accessRow_iff (i : Instr) : accessRow i = true ↔ i = .dictionaryAccessRelease := by
  cases i <;> simp [accessRow]

theorem heldRow_cases (i : Instr) (h : resetRow i = false) :
    (∃ sub, i = .subChannelCredit sub) ∨ (∃ p, beatPort i = some p) ∨ windowRow i = true ∨ (∃ op, serviceRow i = some op) ∨
      i = .dictionaryAccessRelease ∨ (∃ o, opRow i = some o) ∨ errorRow i = true ∨ dueRow i = true := by
  have hcovered := rows_covered i
  simp only [h, Bool.false_or, Bool.or_eq_true, creditRow_iff, accessRow_iff, Option.isSome_iff_exists, or_assoc] at hcovered
  exact hcovered

/-! ### What each does in RESET -/

/-- Every row of what falls due has its meaning outside RESET alone. -/
theorem exec_dueRow {i : Instr} (h : dueRow i = true) (s : State) : ∃ f : State → Out, exec i s = s.awake f := by
  cases i with
  | commandCompletion | checkpointSigned | pavaneCountLoad | pavaneAdvance | pavaneSlip | frameBoundaryPreemption
  | suspendedFigureResume | writeAckTimeout | helloTimer | idleTimer | linkReceiveTimeout | peerDeadline | stallLimit
  | checkDeadline | seedKeyDeferredWrite | sessionIdleTimeout | pendingSessionTimeout | mgtAdvance | readyEntry =>
    simp only [exec, execCommandCompletion, execCheckpointSigned, execPavaneCountLoad, execPavaneAdvance, execPavaneSlip,
      execFrameBoundaryPreemption, execSuspendedFigureResume, execWriteAckTimeout, execHelloTimer, execIdleTimer,
      execLinkReceiveTimeout, execPeerDeadline, execStallLimit, execCheckDeadline, execSeedKeyDeferredWrite,
      execSessionIdleTimeout, execPendingSessionTimeout, execMgtAdvance, execReadyEntry, State.onReel]
    exact ⟨_, rfl⟩
  | _ => cases h

section
variable {s : State} (hs : s.startup = .reset)
include hs

theorem State.awake_reset (f : State → Out) : s.awake f = .next s := if_pos (by simp [State.dormant, hs])

theorem State.engine_reset (q : Nat) (o : Op) (f : Ticket → Running → Out) : s.engine q o f = .next s := State.awake_reset hs _

theorem State.onPort_awake_reset (p : InSub) (f : State → Out) : s.onPort p (fun u => u.awake f) = s.onPort p .next := by
  have hkept : (s.returnCredit p).startup = .reset := hs
  simp only [State.onPort, State.awake_reset hkept]

/-- In RESET a beat does no more than give its credit back. -/
theorem exec_beatRow_reset {i : Instr} {p : InSub} (h : beatPort i = some p) : exec i s = s.onPort p .next := by
  cases i with
  | doorbell | readResponse | writeAcknowledgement | entropySample | reelFrameCrcFailure =>
    cases h
    exact State.onPort_awake_reset hs _ _
  | hello | idle | nak | exchange | check | abort =>
    cases h
    exact State.onPort_awake_reset hs _ _
  | hiddenRow beats parityOk =>
    cases h
    have hdormant : s.dormant = true := by simp [State.dormant, hs]
    simp [exec, execHiddenRow, State.onPort, hdormant]
  | _ => cases h

theorem exec_windowRow_reset (htest : s.testing = false) {i : Instr} (h : windowRow i = true) :
    exec i s = s.onPort .mgtRq .next := by
  obtain ⟨ok, hok⟩ : ∃ ok, windowParity i = some ok := by cases i <;> simp [windowRow, windowParity] at h ⊢
  obtain ⟨f, hf⟩ := exec_windowRow hok
  have hdormant : (s.returnCredit .mgtRq).dormant = true := by simp [State.dormant, hs]
  have htest : (s.returnCredit .mgtRq).testing = false := htest
  simp [hf, State.onWindow, State.onPort, hdormant, htest]

end

/-! ### The accesses of the window's request, in test mode and without it (R410, R468) -/

/-- Every row of a management operation is an access of the latched request. -/
theorem exec_serviceRow {i : Instr} {op : Nat} (h : serviceRow i = some op) (s : State) :
    ∃ f : State → State, exec i s = s.onRequest op f := by
  cases i with
  | read | write | describe | downloadBegin | downloadData | downloadEnd | openChallenge | openProve | close | enrol | seedImport
  | auditKey | verifyKey | zeroise | selftest =>
    cases h
    simp only [exec, execRead, execWrite, execDescribe, execDownloadBegin, execDownloadData, execDownloadEnd, execOpenChallenge,
      execOpenProve, execClose, execEnrol, execSeedImport, execAuditKey, execVerifyKey, execZeroise, execSelftest, State.onDownload,
      State.service]
    exact ⟨_, rfl⟩
  | _ => cases h

section
variable {s : State} (hs : s.startup = .reset)
include hs

theorem State.testing_eq : s.testing = (s.released && s.testMode) := by simp [State.testing, State.dormant, hs]

theorem State.onRequest_reset (htest : s.testing = false) (op : Nat) (f : State → State) : s.onRequest op f = .next s :=
  if_pos (by simp [State.dormant, hs, htest])

theorem execDictionaryAccessRelease_reset (htest : s.testing = false) : execDictionaryAccessRelease s = .next s :=
  if_pos (by simp [State.dormant, hs, htest])

end

section
variable {s : State} (htest : s.testing = true) (hlatched : s.window.latched = true)
include htest hlatched

theorem State.onRequest_testing {op : Nat} (hop : s.req.op = op) (f : State → State) :
    s.onRequest op f = .next (s.respond .state []) := by
  simp [State.onRequest, htest, hlatched, hop]

theorem execDictionaryAccessRelease_testing : execDictionaryAccessRelease s = .next (s.respond .state []) := by
  simp [execDictionaryAccessRelease, htest, hlatched]

end

/-! ### Held back -/

/-- What a row that RESET holds back may do: nothing, give a beat's credit back, or take a credit of its sub-channel. -/
inductive HeldBack (s : State) (i : Instr) : Prop
  | idle (h : exec i s = .next s)
  | beat (p : InSub) (h : exec i s = s.onPort p .next)
  | credit (sub : OutSub) (h : i = .subChannelCredit sub)

/-- In RESET every row is held back but those of its own and, in test mode, those of the window. -/
theorem heldBack_of_reset {s : State} {i : Instr} (hs : s.startup = .reset) (hrow : resetRow i = false)
    (hquiet : s.testing = false ∨ (windowRow i = false ∧ serviceRow i = none ∧ i ≠ .dictionaryAccessRelease)) : HeldBack s i := by
  rcases heldRow_cases i hrow with ⟨sub, h⟩ | ⟨p, h⟩ | h | ⟨op, h⟩ | h | ⟨⟨o, q⟩, h⟩ | h | h
  · exact .credit sub h
  · exact .beat p (exec_beatRow_reset hs h)
  · have htest := hquiet.resolve_right fun hother => by simp [h] at hother
    exact .beat .mgtRq (exec_windowRow_reset hs htest h)
  · have htest := hquiet.resolve_right fun hother => by simp [h] at hother
    obtain ⟨f, hf⟩ := exec_serviceRow h s
    exact .idle (hf.trans (State.onRequest_reset hs htest op f))
  · have htest := hquiet.resolve_right fun hother => hother.2.2 h
    subst h
    exact .idle (execDictionaryAccessRelease_reset hs htest)
  · obtain ⟨f, hf⟩ := opRow_engine h s
    exact .idle (hf.trans (State.engine_reset hs q o f))
  · obtain ⟨f, hf⟩ := exec_errorRow h s
    exact .idle (hf.trans (State.onError_skips (.inl hs) f))
  · obtain ⟨f, hf⟩ := exec_dueRow h s
    exact .idle (hf.trans (State.awake_reset hs f))

/-- With RST_N asserted a row that is held back answers the state it found (R455, R457). -/
theorem HeldBack.asserted {s : State} {i : Instr} (h : HeldBack s i) (hrst : s.rstAsserted = true) : exec i s = .next s := by
  cases h with
  | idle h => exact h
  | beat p h => exact h.trans (if_pos hrst)
  | credit sub h =>
    subst h
    exact if_pos hrst

/-- A row that is held back changes nothing but credits that go back, and what a credit that arrives sends. -/
theorem HeldBack.credits {s : State} {i : Instr} (h : HeldBack s i) :
    ∃ u : State, exec i s = .next u ∧ Keeps [.ins, .outs] s u ∧ ((∀ sub, i ≠ .subChannelCredit sub) → Keeps [.ins] s u) := by
  cases h with
  | idle h => exact ⟨s, h, .refl _ _, fun _ => .refl _ _⟩
  | beat p h =>
    by_cases hrst : s.rstAsserted = true
    · exact ⟨s, h.trans (if_pos hrst), .refl _ _, fun _ => .refl _ _⟩
    · exact ⟨_, h.trans (if_neg hrst), (s.returnCredit_keeps p).mono (by decide), fun _ => s.returnCredit_keeps p⟩
  | credit sub h =>
    subst h
    obtain ⟨u, hu⟩ : ∃ u, exec (.subChannelCredit sub) s = .next u := by
      by_cases hrst : s.rstAsserted = true
      · exact ⟨_, if_pos hrst⟩
      · exact ⟨_, if_neg hrst⟩
    exact ⟨u, hu, ((execSubChannelCredit_keeps sub s).go u hu).mono (by decide), fun hother => absurd rfl (hother sub)⟩

/-- Settles O58: a row that is held back by what brings it, and a request in test mode by the answer of every access. -/
theorem resetHoldsEverythingBack : Obligations.ResetHoldsEverythingBack := by
  intro i s hs hrow
  dsimp only
  rw [← State.testing_eq hs]
  refine ⟨fun hrst htest => ?_, fun hquiet => ?_, fun htest hlatched hrequest => ?_⟩
  · exact (heldBack_of_reset hs hrow (.inl (Bool.eq_false_iff.2 htest))).asserted hrst
  · exact (heldBack_of_reset hs hrow (hquiet.imp_left Bool.eq_false_iff.2)).credits
  · rcases hrequest with h | rfl
    · obtain ⟨f, hf⟩ := exec_serviceRow h s
      exact hf.trans (State.onRequest_testing htest hlatched rfl f)
    · exact execDictionaryAccessRelease_testing htest hlatched

end Sys2Proof.Machine
end
